-- ==== Sys2Proof/Word.lean ====
section
/-! DEFINITION. The words of the device: a register or memory word has 32 bits and a memory cell is a byte (R7). -/

namespace Sys2Proof

/-- A register word or a memory word (R7). -/
abbrev Word := BitVec 32

/-- A byte of memory, of a packet or of a frame (R7, R8). -/
abbrev Byte := BitVec 8

end Sys2Proof
end

