-- ==== Sys2Proof/Syntax.lean ====
section
/-! DEFINITION. The commands of the block: one constructor per row of spec/opcode_table.json, in the table's order, with
the operands the rule of the row gives it. A row that is a write of one register carries the master that writes (R3) and
the field values the rule names; a row that executes a queued command carries the path whose oldest command it executes
(R99); a row that is an event of the outside world carries what the outside world presents (a frame, a packet, a report). -/

namespace Sys2Proof

/-- Who accesses the device (R3, R88): the host over HSPI; a host on the UDP command port (its IPv4 address and port, R123);
commands on the ring; the housekeeping cores; the control engine. -/
inductive Master where
  | hspi
  | udp (ip port : Nat)
  | ring
  | hk0
  | hk1
  | ce
  deriving DecidableEq, Repr

/-- A loss of an Ethernet port's link (R127): the port, and the faults its receiver sees. -/
structure LinkLoss where
  port : Nat
  localFault : Bool
  remoteFault : Bool
  deriving DecidableEq, Repr

/-- Who asks the memory controller: the port, and the source behind it (R154, R159). -/
structure MemClient where
  port : Nat
  source : Nat
  deriving DecidableEq, Repr

/-- The commands: one constructor per row of spec/opcode_table.json. -/
inductive Instr where
  /-- POWER_ON_RESET (R459): VDD_AON rises past or falls below the power-on reset threshold; the whole device is reset, clearing the trip latch, the retention SRAM and PD_00 registers. -/
  | powerOnReset (resetNHigh : Bool)
  /-- RESET_N_ASSERT (R460): RESET_N is held low for long enough to reset; every domain except PD_00 returns to reset, the retention header clears and any flash operation is cut off. -/
  | resetNAssert
  /-- RESET_N_RISE (R460): RESET_N rises, or the power-on reset releases while RESET_N is high, which starts the reset sequence. -/
  | resetNRise
  /-- STRAP_SAMPLE (R457): 5 µs after RESET_N rises, ROLE_SEL and BOOT_SEL are sampled, which fixes the role and the boot code. -/
  | strapSample (roleSel : Bool) (bootSel : Nat)
  /-- ROM_BOOT (R420): Once PD_04 is ready the ROM selects a slot from the boot record and the handover words, verifies it, and either hands over or enters recovery. -/
  | romBoot
  /-- FIRMWARE_START (R430): The handed-over image starts, raises UPD_FALLBACK or UPD_ACTIVATED as the note says, and migrates settings on a trial. -/
  | firmwareStart
  /-- SETTINGS_RETRY (R430): A settings write that the flash window or the hold-up check refused is retried every 1 s. -/
  | settingsRetry
  /-- RECORD_REWRITE (R420): An armed boot record without a matching request is rewritten as confirmed once the flash window and R429 allow. -/
  | recordRewrite
  /-- HSPI_CMD_WRITE (R89): A CMD_WRITE transaction ends at HSPI_CS_N rising, and the command packet it carried runs checks 1–6 and is queued or answered. -/
  | hspiCmdWrite (bytes : List Byte)
  /-- RPL_READ (R89): An RPL_READ transaction returns the oldest waiting reply; the reply leaves the queue only if it was read to its end. -/
  | rplRead (count : Nat)
  /-- HSPI_STATUS (R89): An HSPI_STATUS transaction returns reply_ready and queue_full. -/
  | hspiStatus
  /-- HSPI_UNKNOWN_INSTRUCTION (R89): An unknown instruction byte is ignored until HSPI_CS_N rises. -/
  | hspiUnknownInstruction (code : Byte)
  /-- RING_COMMAND (R88): A COMMAND base message delivered to a tile under R80 is checked and queued or answered. -/
  | ringCommand
  /-- NOP (R95): The NOP command does nothing and is answered OK. -/
  | nop (m : Master)
  /-- IDENT (R95): The IDENT command returns the eight identity words, TOPO_TILE and TOPO_TILE_LOC. -/
  | ident (m : Master)
  /-- RESET (R95): The RESET command is answered, and a reset is scheduled 100 µs after the reply leaves. -/
  | reset (m : Master)
  /-- RESET_CMD_EXPIRE (R95): 100 µs after the RESET reply leaves, the chip resets as by RESET_N. -/
  | resetCmdExpire
  /-- PING (R95): The PING command returns its payload words unchanged. -/
  | ping (m : Master)
  /-- READ (R98): The READ command reads one word and clears any RC fields in it. -/
  | read (m : Master)
  /-- WRITE (R98): The WRITE command writes one word, applying the access codes of R440. -/
  | write (m : Master)
  /-- MODIFY (R98): The MODIFY command performs an atomic read-modify-write under a mask and returns the old value. -/
  | modify (m : Master)
  /-- BLOCK_READ (R98): The BLOCK_READ command reads count words upward within one region. -/
  | blockRead (m : Master)
  /-- BLOCK_WRITE (R98): The BLOCK_WRITE command writes its data words upward within one region. -/
  | blockWrite (m : Master)
  /-- REPLY_RECEIVE (R101): A sender receives a tile REPLY, forwards it over the tie link, keeps it or discards it, and completes the fanned command when all expected targets have replied. -/
  | replyReceive
  /-- FANOUT_TIMEOUT (R102): CMD_CFG.fanout_tmo runs out for a relayed command, which completes with TIMEOUT entries for the targets that did not reply. -/
  | fanoutTimeout (tag : Nat)
  /-- STAGE (R104): The STAGE command stores one piece of a stage after the checks of R104. -/
  | stage (m : Master)
  /-- COMMIT_AT (R106): The COMMIT_AT command checks a complete stage and arms it for epoch F. -/
  | commitAt (m : Master)
  /-- DISCARD (R108): The DISCARD command frees a stage, armed or not. -/
  | discard (m : Master)
  /-- STAGE_QUERY (R108): The STAGE_QUERY command returns the state, entry count, stage_crc and epoch of a stage. -/
  | stageQuery (m : Master)
  /-- FLACON_BIND (R140): The FLACON_BIND command checks and writes a flacon entry, writes the WCS header and index, and sets the flacon bound. -/
  | flaconBind (m : Master)
  /-- FLACON_RELEASE (R143): The FLACON_RELEASE command frees a flacon at once, or sets it releasing if it is fenced. -/
  | flaconRelease (m : Master)
  /-- FENCE_QUERY (R142): The FENCE_QUERY command returns a flacon's state, fence and latest fence frame. -/
  | fenceQuery (m : Master)
  /-- FENCE_CLEAR (R142): The composition unit finishes every read of a flacon for its latest latched frame; the fence clears and a releasing flacon becomes free. -/
  | fenceClear (n : Nat)
  /-- ACCORD_LOAD (R171): The ACCORD_LOAD command writes data words into an accord slot. -/
  | accordLoad (m : Master)
  /-- ACCORD_QUERY (R171): The ACCORD_QUERY command returns words of an accord slot. -/
  | accordQuery (m : Master)
  /-- TABLE_LOAD (R217): The TABLE_LOAD command writes a table inline, or, in relay form on an active sender, starts TABLE_DATA emission. -/
  | tableLoad (m : Master)
  /-- TABLE_DATA_EMIT (R219): An active sender emits the next TABLE_DATA message of a relay-form TABLE_LOAD, and answers OK after the last one. -/
  | tableDataEmit
  /-- TABLE_DATA_RECEIVE (R219): A tile writes a delivered TABLE_DATA message into its table, or discards it and counts table_reject. -/
  | tableDataReceive
  /-- TABLE_QUERY (R218): The TABLE_QUERY command returns a table's size and CRC-32C. -/
  | tableQuery (m : Master)
  /-- EPOCH_RESERVE (R328): The wall timing master computes an epoch F and writes it into WT_RESV. -/
  | epochReserve (m : Master)
  /-- RESERVE_BROADCAST (R328): Within 1 ms of EPOCH_RESERVE, the master writes the reserved F to every other sender of its cascade over UDP. -/
  | reserveBroadcast
  /-- TIME_QUERY (R315): The TIME_QUERY command returns TIME_STAT, the wall time and F, all sampled together. -/
  | timeQuery (m : Master)
  /-- DIAG_READ (R269): The DIAG_READ command returns the fault records and status of one lane group. -/
  | diagRead (m : Master)
  /-- DIAG_CLEAR (R270): The DIAG_CLEAR command clears the fault records, masks, pending bits and ages of the named groups. -/
  | diagClear (m : Master)
  /-- RED_STATUS (R361): The RED_STATUS command returns the redundancy state words. -/
  | redStatus (m : Master)
  /-- RED_SWAP (R361): The RED_SWAP command arms, replaces or cancels a role swap at epoch F. -/
  | redSwap (m : Master)
  /-- RED_SNAPSHOT (R361): The RED_SNAPSHOT command starts a snapshot, or reports the one in progress. -/
  | redSnapshot (m : Master)
  /-- UPD_BEGIN (R422): The UPD_BEGIN command opens an update session and starts erasing the inactive slot. -/
  | updBegin (m : Master)
  /-- UPD_ERASE_DONE (R421): The background erase of the inactive slot completes, and the session becomes open. -/
  | updEraseDone
  /-- UPD_BLOCK (R422): The UPD_BLOCK command writes image words inline, or, in relay form, starts FIRMWARE_DATA emission. -/
  | updBlock (m : Master)
  /-- FIRMWARE_DATA_EMIT (R423): The sender emits the next FIRMWARE_DATA block at the given rate, and answers OK after the last one. -/
  | firmwareDataEmit
  /-- FIRMWARE_DATA_RECEIVE (R423): A tile takes a delivered FIRMWARE_DATA message for programming, or discards it and counts dropped. -/
  | firmwareDataReceive
  /-- FLASH_PROGRAM_DONE (R423): A pending flash program completes and frees a buffer place. -/
  | flashProgramDone
  /-- HOLDUP_WAIT_END (R429): A background erase or program that was waiting for the hold-up check proceeds once the check passes. -/
  | holdupWaitEnd
  /-- UPD_SEAL (R424): The UPD_SEAL command verifies the written image and replies with the result. -/
  | updSeal (m : Master)
  /-- UPD_SCHEDULE (R425): The UPD_SCHEDULE command writes an armed boot record and arms activation at epoch F. -/
  | updSchedule (m : Master)
  /-- UPD_ACTIVATION (R425): At the armed epoch, after any stage apply ends, the chip writes the activate request and resets. -/
  | updActivation
  /-- UPD_CONFIRM (R428): The UPD_CONFIRM command writes a confirmed boot record for the trial slot and raises the OTP security version. -/
  | updConfirm (m : Master)
  /-- SVN_RAISE (R431): A pending raise of the OTP security version is made the first time the OTP window holds. -/
  | svnRaise
  /-- CONFIRM_DEADLINE (R427): The confirmation deadline of a trial image runs out, and UPD_CONFIRM_DUE is raised. -/
  | confirmDeadline
  /-- UPD_ABORT (R422): The UPD_ABORT command ends the session and cancels an armed activation. -/
  | updAbort (m : Master)
  /-- UPD_RECOVER (R422): The UPD_RECOVER command schedules the recover handover request and a reset 100 µs after its reply. -/
  | updRecover (m : Master)
  /-- OTP_LOCK_PROGRAM (R432): A write of OTP_PROG.go with the key programs the owner lock, or reports thermal. -/
  | otpLockProgram (m : Master) (key : Nat)
  /-- PWR_STATE (R410): The PWR_STATE command sets a target state and, for a sleep target, starts an entry attempt. -/
  | pwrState (m : Master)
  /-- PWR_QUERY (R410): The PWR_QUERY command returns PWR_STAT, PWR_REFUSE, PWR_WAKE_SRC and PWR_IDLE_CFG. -/
  | pwrQuery (m : Master)
  /-- EVT_READ (R375): The EVT_READ command returns the sticky, pending, mask, class and cause words of a group, sampled in one cycle. -/
  | evtRead (m : Master)
  /-- EVT_CLEAR (R375): The EVT_CLEAR command clears sticky bits of a group, and acknowledges the reaction in the next cycle when ack is set. -/
  | evtClear (m : Master)
  /-- EVT_CONFIG (R375): The EVT_CONFIG command sets a source's mask and class, and optionally the reaction bits of that class. -/
  | evtConfig (m : Master)
  /-- REGISTER_WRITE (R441): A write to a register field that has no behaviour of its own sets the writable fields and records ignored writes. -/
  | registerWrite (m : Master) (addr : Nat) (mask : Word) (value : Word)
  /-- RC_READ (R440): A read of a word that holds RC fields returns the values and clears those fields. -/
  | rcRead (m : Master) (addr : Nat)
  /-- GLB_BOARD_COMMIT (R443): A write of GLB_BOARD with commit set takes the board value and locks it. -/
  | glbBoardCommit (m : Master) (board : Nat)
  /-- STORE_DEBUG_READ (R81): A store-window read of a line or pending buffer returns its current contents and sets PKT_DBG_STAT.unconfirmed if any byte was unconfirmed. -/
  | storeDebugRead (m : Master) (addr : Nat)
  /-- TOPO_TILE_WRITE (R32): A write of TOPO_TILE.address takes effect at once and sets or clears held. -/
  | topoTileWrite (m : Master) (address : Nat)
  /-- TOPO_ENUM_START (R26): A write of TOPO_ENUM.start triggers enumeration rounds on the named ring ports, with reassign if set. -/
  | topoEnumStart (m : Master) (ports : Nat) (reassign : Bool)
  /-- ENUM_TIE_RECEIVE (R26): A member receives an ENUM_CW start or request over the tie link, and starts or runs the round. -/
  | enumTieReceive
  /-- ENUM_CW_TILE (R27): A tile counts and forwards an ENUM_CW, and updates its a count or reversed flag on confirmation. -/
  | enumCwTile
  /-- ENUM_CCW_TILE (R27): A tile counts and forwards an ENUM_CCW, and updates its b count or reversed flag on confirmation. -/
  | enumCcwTile
  /-- ENUM_LEN_TILE (R29): On a confirmed ENUM_LEN, a tile decides its address, held, derived and consistent bits. -/
  | enumLenTile
  /-- ENUM_COUNT_SENDER (R27): A sender receives the far end's count, sets len_seen, and sends its ENUM_LEN. -/
  | enumCountSender
  /-- ENUM_LEN_SENDER (R31): A sender receives its partner's ENUM_LEN, completes the round and sets its outcome bits. -/
  | enumLenSender
  /-- ENUM_COUNT_TIMEOUT (R31): 1 ms after the start with no count returned, the sender sends ENUM_LEN of kind expected and marks the ring broken. -/
  | enumCountTimeout (port : Nat)
  /-- ENUM_DONE_TIMEOUT (R31): 2 ms after the start, with no ENUM_LEN from the partner, the round is marked done. -/
  | enumDoneTimeout (port : Nat)
  /-- PORT_ENABLE_WRITE (R16): A write of PORT_CFG_n.enable judges placement and sends a legal port to DETECT, or disables it. -/
  | portEnableWrite (m : Master) (port : Nat) (enable : Bool)
  /-- PORT_WIDTH_WRITE (R47): A write of PORT_CFG_n.width is stored, and sends a port with a width mismatch to DETECT at once. -/
  | portWidthWrite (m : Master) (port : Nat) (width : Nat)
  /-- LANE_CNT_CLEAR (R58): A write of LANE_CTRL_nn.cnt_clear clears the lane's five counters. -/
  | laneCntClear (m : Master) (lane : Nat)
  /-- LANE_RETRAIN (R45): A write of LANE_CTRL_nn.retrain sends the lane and its whole port to DETECT. -/
  | laneRetrain (m : Master) (lane : Nat)
  /-- EIDLE_REQUEST (R56): A write of eidle_req = 1 on an ACTIVE lane starts the electrical idle handshake. -/
  | eidleRequest (m : Master) (lane : Nat)
  /-- EIDLE_WITHDRAW (R56): A write of eidle_req = 0 withdraws a pending request, or, from EIDLE, starts a wake burst. -/
  | eidleWithdraw (m : Master) (lane : Nat)
  /-- SIGNAL_DETECT (R45): Signal has been present for 1 µs in DETECT, and the lane moves to CDR. -/
  | signalDetect (lane : Nat)
  /-- CDR_LOCK (R45): The CDR locks to the partner's training frames, and the lane moves to EQUALISE. -/
  | cdrLock (lane : Nat)
  /-- TRAINING_FRAME_RECEIVE (R46): A training frame's control word is received, and the coefficient requests and responses are acted on. -/
  | trainingFrameReceive (lane : Nat) (control : Nat)
  /-- EQUALISE_READY (R45): Both ends report ready, and the lane moves to BLOCK_LOCK. -/
  | equaliseReady (lane : Nat)
  /-- TRAINING_TIMEOUT (R45): A training state's timeout expires, and the lane returns to DETECT with attempts incremented. -/
  | trainingTimeout (lane : Nat)
  /-- TRAINING_RETRY (R45): After 8 failed attempts, the 10 ms retry interval expires and a new attempt starts. -/
  | trainingRetry (lane : Nat)
  /-- MARKER_BLOCK_RECEIVE (R41): A marker block is decoded, counting toward block lock or its loss, and its state and fields are acted on. -/
  | markerBlockReceive (lane : Nat) (symbols : List Nat)
  /-- DESKEW_COMPLETE (R54): The port's lanes align on markers, deskew_add is set and the lanes move to NEGOTIATE, or deskew fails. -/
  | deskewComplete (port : Nat) (skew : Nat)
  /-- DESKEW_DRIFT_FAIL (R54): An ACTIVE port's markers drift outside the deskew buffer, LANE_DESKEW_FAIL is raised and the port retrains. -/
  | deskewDriftFail (port : Nat)
  /-- NEGOTIATE_COMPLETE (R45): The marker fields agree, the lanes go ACTIVE, LANE_UP is raised and enumeration is triggered. -/
  | negotiateComplete (port : Nat)
  /-- WIDTH_RECHECK (R47): Every 10 ms, ports in a width mismatch compare widths again. -/
  | widthRecheck
  /-- NEGOTIATE_MARKER_TIMEOUT (R45): No valid marker for 50 µs in NEGOTIATE, and the lane returns to DETECT. -/
  | negotiateMarkerTimeout (lane : Nat)
  /-- LANE_SIGNAL_LOSS (R478): An ACTIVE lane loses signal or CDR lock, and the lane and its port go to DETECT with LANE_DOWN raised. -/
  | laneSignalLoss (lane : Nat)
  /-- RESYNC_START (R52): An ingress reaches ACTIVE while its egress runs locally, and the egress sends RESYNC markers or moves to loop timing at once. -/
  | resyncStart (port : Nat)
  /-- EGRESS_PHASE_MOVE (R52): At the marker boundary the tile moves its egress block phase to loop timing and raises LANE_RESYNC. -/
  | egressPhaseMove (port : Nat)
  /-- RESYNC_TIMEOUT (R52): Block lock is not regained within 8 marker periods of RESYNC, and the lane goes to DETECT. -/
  | resyncTimeout (lane : Nat)
  /-- EIDLE_TIMEOUT (R56): No answer arrives within 100 µs, and the request lapses with LANE_EIDLE_REFUSED. -/
  | eidleTimeout (lane : Nat)
  /-- WAKE_BURST_DETECT (R57): The wake detector fires after 0.5 µs of burst; the partner answers with its own burst and raises LANE_WAKE. -/
  | wakeBurstDetect (lane : Nat)
  /-- WAKE_BURST_END (R57): A 2.0 µs wake burst ends, and the end sends WAKE-state blocks with its stored taps. -/
  | wakeBurstEnd (lane : Nat)
  /-- WAKE_COMPLETE (R57): Fast retrain completes, and the lane becomes ACTIVE. -/
  | wakeComplete (lane : Nat)
  /-- WAKE_TIMEOUT (R57): The lane is not ACTIVE 25 µs after entering WAKE, and goes to DETECT. -/
  | wakeTimeout (lane : Nat)
  /-- DATA_BLOCK_DECODE (R43): A data block is decoded and corrected or flagged uncorrectable, and the counters are updated. -/
  | dataBlockDecode (lane : Nat) (symbols : List Nat)
  /-- CORR_INTERVAL_END (R59): The 1 s corrected-symbol interval ends, and the per-lane counts restart. -/
  | corrIntervalEnd
  /-- SENDER_SLOT_FILL (R71): A sender chooses the contents of each flit slot by the arbitration of note classes. -/
  | senderSlotFill (port : Nat)
  /-- TILE_SLOT_INSERT (R73): A tile inserts its own packet flits into visible idle slots at stage 11. -/
  | tileSlotInsert (port : Nat) (run : Nat)
  /-- VOID_FLIT_RECEIVE (R68): A tile receives a void flit, loses framing for the rest of the marker period and forwards the flit unchanged. -/
  | voidFlitReceive (port : Nat)
  /-- PACKET_END (R77): A packet ends at a tile and is judged CONFIRMED, FAIL_LOCAL, FAIL_BLOCK, FAIL_UPSTREAM, CUT, OVERSIZE or FRAMING. -/
  | packetEnd (port : Nat)
  /-- PKT_CNT_CLEAR (R87): A write of PKT_CTRL.cnt_clear clears all packet-layer counters. -/
  | pktCntClear (m : Master)
  /-- LINE_DEADLINE (R82): A segment's presentation deadline passes; without a delivered copy the previous frame's line is shown and LATE_LINE counts it. -/
  | lineDeadline (line : Nat)
  /-- HEART_PACKET_DUE (R189): Wall time reaches a heart packet's due time, and it becomes eligible for emission in plan order. -/
  | heartPacketDue (port : Nat)
  /-- WALL_FRAME_BOUNDARY (R318): Wall time reaches t_epoch(F); armed stages, pending records, swaps and calibration results take effect. -/
  | wallFrameBoundary
  /-- LATCH_POINT (R172): At t_latch(F) the accords, sources and latched settings are copied and checked, and the class B comparison, split and drydown decisions run. -/
  | latchPoint
  /-- CAL_SLICE_TIMER (R388): While there is no valid record, a calibration slice starts every 1 ms. -/
  | calSliceTimer
  /-- CAL_SLICE_END (R389): An item's last slice ends, and its result is judged and scheduled to apply. -/
  | calSliceEnd (item : Nat)
  /-- CAL_START (R387): A write of CAL_CTRL.start triggers the named calibration items. -/
  | calStart (m : Master) (items : Nat)
  /-- ETH_MODE_WRITE (R111): A write of ETH_CFG.mode takes every Ethernet port down and brings up the new configuration. -/
  | ethModeWrite (m : Master) (mode : Nat)
  /-- ETH_CNT_CLEAR (R127): A write of ETH_CFG.cnt_clear clears ETH_FCS_n and ETH_DISCARD_n. -/
  | ethCntClear (m : Master)
  /-- ETH_LINK_UP (R126): A port reaches alignment and FEC lock; ETH_LINK_UP is raised and a gratuitous ARP is sent. -/
  | ethLinkUp (port : Nat)
  /-- ETH_LINK_DOWN (R126): A port loses alignment or FEC lock, ETH_LINK_DOWN is raised and flows are admitted again. -/
  | ethLinkDown (link : LinkLoss)
  /-- ETH_FRAME_RECEIVE (R113): A received Ethernet frame is classified in order and discarded, passed on or given to a flow. -/
  | ethFrameReceive (port : Nat) (bytes : List Byte)
  /-- REASSEMBLY_TIMEOUT (R123): A command-port reassembly is abandoned after 100 ms and counted. -/
  | reassemblyTimeout (idx : Nat)
  /-- IGMP_REPORT_TIMER (R114): The second unsolicited IGMPv3 report, or a query's response, is sent when its time arrives. -/
  | igmpReportTimer
  /-- FLOW_PATH_TIMEOUT (R119): A path delivers nothing for 100 ms, its live bit clears and FLOW_PATH_LOST is raised. -/
  | flowPathTimeout (flow : Nat) (pathS : Bool)
  /-- FLOW_FRAME_CLOSE (R120): A video frame closes and is published, published with repaired tiles, or dropped. -/
  | flowFrameClose (flow : Nat)
  /-- FLOW_FRAME_START (R124): A flow reaches a frame start, applies pending shed or admit changes, checks its flacon match and starts filling a flacon. -/
  | flowFrameStart (flow : Nat)
  /-- FLOW_ENTRY_WRITE (R124): A flow entry is written, and every flow is admitted again in priority order. -/
  | flowEntryWrite (m : Master) (flow : Nat) (word : Nat) (value : Word)
  /-- FLOW_CNT_CLEAR (R127): A write of FLOW_CTRL_n.cnt_clear clears the flow's counters and frames_dropped. -/
  | flowCntClear (m : Master) (flow : Nat)
  /-- INGEST_SHED_TICK (R125): While the buffer fill is above hi, every 1 ms the lowest-priority admitted flow is set to shed_load. -/
  | ingestShedTick
  /-- INGEST_RESTORE_TICK (R125): After the fill has stayed below lo for 100 ms, the highest-priority shed_load flow returns to running. -/
  | ingestRestoreTick
  /-- DRAM_ENABLE (R151): DRAM_CFG.enable goes from 0 to 1; the fields are sampled and training starts, or cfg_error sets. -/
  | dramEnable (m : Master) (value : Word)
  /-- DRAM_TRAIN_DONE (R151): Training ends; ready sets, or train_fail sets and DRAM_TRAIN_FAIL is raised. -/
  | dramTrainDone (failed : Nat)
  /-- DRAM_DISABLE (R151): DRAM_CFG.enable goes to 0, and the memory is put in reset. -/
  | dramDisable (m : Master)
  /-- DRAM_MR4_POLL (R153): Every 4 ms MR4 is read from every channel and the refresh rate follows it. -/
  | dramMr4Poll (codes : List Nat)
  /-- DRAM_ZQ_CAL (R153): ZQ calibration runs every 1 s. -/
  | dramZqCal
  /-- DRAM_OSC_TRACK (R153): The WCK-to-DQ oscillator is tracked every 100 ms. -/
  | dramOscTrack (taps : List Nat)
  /-- DRAM_REQUEST (R159): A port issues a read or write request; it enters a queue, or stalls if the write queue is full. -/
  | dramRequest (client : MemClient) (write : Bool) (offset : Nat) (data : List Byte)
  /-- DRAM_COMMAND_SLOT (R157): The controller chooses what to issue in a command slot: refresh, upkeep or a queued request. -/
  | dramCommandSlot (channel : Nat)
  /-- DRAM_UNDERRUN (R156): A consumer asks a real-time port for a granule that has not returned, and the underrun is counted. -/
  | dramUnderrun (port : Nat)
  /-- DRAM_RAT_SWEEP_END (R165): A bank sweep completes; the table and floor clear and DRAM_RAT_SWEEP is raised. -/
  | dramRatSweepEnd (channel : Nat) (bank : Nat)
  /-- DRAM_RAT_WINDOW (R166): A 32 ms window starts; tables and floors clear and DRAM_RAT_CFG changes take effect. -/
  | dramRatWindow
  /-- DRAM_SR_ENTRY (R161): The queues have been empty for DRAM_SR.idle with enough tolerance, and the memory enters self-refresh. -/
  | dramSrEntry
  /-- DRAM_SR_EXIT (R162): The memory leaves self-refresh on a request, or when the tolerance countdown reaches its limit. -/
  | dramSrExit
  /-- TF_REGEN (R204): A write of TF_CFG.regen starts the refill of the selected transfer-table bank. -/
  | tfRegen (m : Master) (bank : Nat)
  /-- TF_REFILL_DONE (R204): The firmware finishes refilling the bank, and busy clears. -/
  | tfRefillDone
  /-- PIPE_CNT_CLEAR (R224): A write of PIPE_CFG.cnt_clear clears the PIPE_STAT counters. -/
  | pipeCntClear (m : Master)
  /-- TCOMP_TEMP_WRITE (R210): A write of TCOMP_TEMP restarts the staleness timer. -/
  | tcompTempWrite (m : Master) (temp : Nat)
  /-- TCOMP_STALE (R210): TCOMP_TEMP is not written for stale_ms, and PIPE_TEMP_STALE is raised. -/
  | tcompStale
  /-- LL_ENABLE (R245): A write of LL_CTRL.enable starts lamp-lane bring-up, or stops all lanes and clocks. -/
  | llEnable (m : Master) (enable : Bool)
  /-- LL_RESTART (R245): A write of LL_CTRL.restart runs the lamp-lane bring-up again. -/
  | llRestart (m : Master)
  /-- LL_CNT_CLEAR (R249): A write of LL_CTRL.cnt_clear clears LL_GRP_CNT and gray_drop. -/
  | llCntClear (m : Master)
  /-- LL_BRINGUP_STEP (R245): The next bring-up step runs: ALIGN, ASSIGN, IDENT discovery, CFG, and the start of scanning. -/
  | llBringupStep
  /-- LL_DIAG_GO (R240): A write of LL_DIAG_REQ.go queues a DIAG request for a driver. -/
  | llDiagGo (m : Master) (value : Word)
  /-- DIAG_SEND (R240): The group's single outstanding DIAG slot frees, and the next queued DIAG request is sent. -/
  | diagSend (group : Nat)
  /-- LL_RET_REPLY (R240): A driver's reply on LL_RET is received and checked, and is given to its requester. -/
  | llRetReply (group : Nat) (bytes : List Byte)
  /-- LL_RET_TIMEOUT (R240): A reply has not begun within 4.0 µs; no_reply counts it and LL_RET_FAIL is raised. -/
  | llRetTimeout (group : Nat)
  /-- LL_STATUS_POLL (R246): Every 100 µs a DIAG STATUS poll is queued for one driver per group. -/
  | llStatusPoll
  /-- ROW_ADV_ACTION (R321): A grid action point comes due, and ROW_ADV is placed in its control slot on every enabled lane. -/
  | rowAdvAction
  /-- GRAY_EMIT (R242): A row's grayscale becomes usable, and its GRAY message is emitted before the swap, or dropped if late. -/
  | grayEmit (row : Nat) (view : Nat)
  /-- GAIN_EMIT (R242): The GAIN message of frame F is emitted between the last swap of F − 1 and the first swap of F. -/
  | gainEmit
  /-- BLOTTER_ACTION (R265): BLOTTER_ARM and a BLOTTER are placed in the dead time after a row's on-window for due lamps. -/
  | blotterAction (row : Nat)
  /-- LD_ENABLE (R251): A write of LD_CTRL.enable starts or stops the lamp drive manager, with slots starting in current mode. -/
  | ldEnable (m : Master) (enable : Bool)
  /-- LD_RESUME (R266): A write of LD_CTRL.resume clears the tile_blank drydown cause. -/
  | ldResume (m : Master)
  /-- LD_CNT_CLEAR (R272): A write of LD_CTRL.cnt_clear clears LD_COUNT, LD_BLOT_COUNT and LD_STAT_CLIP. -/
  | ldCntClear (m : Master)
  /-- LD_CFG_RESEND (R254): A write of LD_IREF or LD_THRESH sends CFG IREF and THRESH broadcasts after the next frame's GAIN. -/
  | ldCfgResend (m : Master) (thresh : Bool) (value : Word)
  /-- HEADROOM_CYCLE_END (R256): A headroom cycle ends; h_min is formed and handed to the outer loop as block sample 00h. -/
  | headroomCycleEnd
  /-- FAULT_SWEEP_START (R260): A new fault sweep starts after sweep_ms, or when the previous sweep ends. -/
  | faultSweepStart
  /-- FAULT_SWEEP_END (R261): A sweep ends; flags are confirmed or cleared, ages advance and containment is applied. -/
  | faultSweepEnd
  /-- CE_SLOT_ENABLE (R277): A write of enable = 1 in a slot runs the admission checks, and admits or refuses the slot. -/
  | ceSlotEnable (m : Master) (slot : Nat)
  /-- CE_SLOT_DISABLE (R286): A slot is disabled; a running evaluation finishes and the queued entry is dropped. -/
  | ceSlotDisable (m : Master) (slot : Nat)
  /-- CE_STATE_WRITE (R286): A write to state words 16–19 of an enabled slot is held until the slot's next snapshot. -/
  | ceStateWrite (m : Master) (slot : Nat) (word : Nat) (value : Word)
  /-- CE_CNT_CLEAR (R290): A write of CE_CTRL.cnt_clear clears every overrun count. -/
  | ceCntClear (m : Master)
  /-- CE_PERIODIC_TRIGGER (R274): A periodic slot's interval expires; its sample is latched and the slot is queued. -/
  | cePeriodicTrigger (slot : Nat)
  /-- CE_STEP_WRITE (R284): A write of a nonzero step queues a step evaluation of the slot. -/
  | ceStepWrite (m : Master) (slot : Nat) (value : Nat)
  /-- CE_EVALUATION (R282): The datapath issues the next queued slot and computes and delivers its output under R282, with any handover. -/
  | ceEvaluation
  /-- CE_STEP_EVALUATION (R284): A step evaluation adds the step to out and integ, delivers the output and clears step. -/
  | ceStepEvaluation
  /-- PWM_PERIOD_START (R287): A PWM phase starts its period with the latest delivered duty. -/
  | pwmPeriodStart (phase : Nat)
  /-- PWM_STALE_TIMEOUT (R287): 64 periods pass with no duty delivered; the pins go low, enable clears and CE_PWM_STALE is raised. -/
  | pwmStaleTimeout
  /-- ADC_CONVERSION (R288): A conversion slot completes for a synced channel, HOLDUP_SNS or a round-robin channel, and triggers its slots. -/
  | adcConversion (synced : Nat) (holdup : Nat) (turn : Nat)
  /-- TIME_INCR_WRITE (R292): A write of TIME_INCR takes effect from the next cycle, clamped to ±500 ppm. -/
  | timeIncrWrite (m : Master) (value : Word)
  /-- TIME_SHADOW_READ (R293): A read of TIME_NOW_SEC_HI copies the counter into the reading master's shadow. -/
  | timeShadowRead (m : Master)
  /-- TIME_STEP (R294): A write of step_go adds the signed step to the counter in the next cycle and raises TIME_STEPPED. -/
  | timeStep (m : Master)
  /-- TIME_LOAD (R294): A write of step_load loads the counter in the next cycle and raises TIME_STEPPED. -/
  | timeLoad (m : Master)
  /-- TIME_ADJUST_GO (R294): A write of TIME_ADJ_CNT.go samples delta and count and starts an adjustment. -/
  | timeAdjustGo (m : Master) (count : Nat)
  /-- TIME_ADJUST_END (R294): The adjustment count reaches 0, and adj_busy clears. -/
  | timeAdjustEnd
  /-- TIME_SAMPLE (R305): A write of TIME_ERR is a time sample, used for auto-step, the servo block sample and lock. -/
  | timeSample (m : Master) (value : Word)
  /-- TIME_SAMPLE_TIMEOUT (R305): No sample arrives for 8 sync periods or 1 s; locked clears, holdover sets and TIME_LOCK_LOST is raised. -/
  | timeSampleTimeout
  /-- TIME_SYNC_SEND (R299): Every sync_us a sender sends TIME_SYNC on every ACTIVE ring port and the tie link. -/
  | timeSyncSend
  /-- TIME_SYNC_FORWARD (R300): A tile forwards TIME_SYNC, adding the link delay and residence and updating hops. -/
  | timeSyncForward
  /-- TIME_SYNC_RECEIVE (R303): A tile acts on a confirmed TIME_SYNC, computing the offset and choosing the direction to follow. -/
  | timeSyncReceive
  /-- TIME_SYNC_FAR_END (R306): A sender takes its partner's TIME_SYNC at the far end of a ring and records the ring delay. -/
  | timeSyncFarEnd
  /-- DELAY_REQ_SEND (R301): Every p2p_us each ACTIVE port sends a DELAY_REQ. -/
  | delayReqSend (port : Nat)
  /-- DELAY_REQ_RECEIVE (R301): The responder takes a DELAY_REQ with hops = 0 and answers with a DELAY_RESP. -/
  | delayReqReceive
  /-- DELAY_RESP_RECEIVE (R302): The requester takes a matching DELAY_RESP within 20 µs and filters the link delay sample. -/
  | delayRespReceive
  /-- EVT_OUT_ARM (R309): A write of EVT_OUT_CTRL_n with enable = 1 arms the pin and places its first edge. -/
  | evtOutArm (m : Master) (n : Nat) (value : Word)
  /-- EVT_OUT_PULSE (R308): An armed pin's edge time arrives, and a pulse starts. -/
  | evtOutPulse (n : Nat)
  /-- EVT_OUT_PULSE_END (R308): A pulse's width elapses, and the pin returns to its inactive level. -/
  | evtOutPulseEnd (n : Nat)
  /-- EVT_IN_EDGE (R311): An edge on an enabled EVT_IN is stamped and queued, or dropped as overflow. -/
  | evtInEdge (n : Nat) (rising : Bool)
  /-- EVT_IN_POP (R311): A read of EVT_IN_FRAC_n removes the head stamp entry. -/
  | evtInPop (m : Master) (n : Nat)
  /-- AON_SLEEP_CAPTURE (R312): At the always-on edge after PD_03 stops, the counter is captured and segment 0 starts. -/
  | aonSleepCapture
  /-- AON_SOURCE_SWITCH (R312): XT32 gives no edge for 4 RC periods, or the source changes, and a new segment starts. -/
  | aonSourceSwitch (toRc : Bool) (edges : Nat)
  /-- TIME_WAKE_RESTORE (R313): At the always-on edge after PD_03 restarts, the counter takes the accounted time and estimated sets. -/
  | timeWakeRestore (edges : Nat)
  /-- WT_FRAME_READ (R340): A read of WT_FRAME_HI latches WT_FRAME_LO. -/
  | wtFrameRead (m : Master)
  /-- EPOCH_ANNOUNCE_SEND (R329): At t_epoch(F) + 10 µs each sender sends EPOCH_ANNOUNCE on every ACTIVE ring port. -/
  | epochAnnounceSend
  /-- EPOCH_ANNOUNCE_RECEIVE (R330): A tile adopts a record, holds a pending record, or flags a latch lead mismatch from a confirmed EPOCH_ANNOUNCE. -/
  | epochAnnounceReceive
  /-- WT_PEND_ARM (R331): A write of WT_PEND_F_LO arms a pending record after the checks, or disarms it. -/
  | wtPendArm (m : Master) (value : Word)
  /-- WT_PEND_BROADCAST (R331): Once a second, and within 1 ms of arming, the master writes WT_PEND to every other sender of its cascade. -/
  | wtPendBroadcast
  /-- NO_MASTER_TIMEOUT (R331): No master write arrives for 3 s, and no_master sets. -/
  | noMasterTimeout
  /-- WTM_OFFSET_POLL (R22): Once a second the master collects each sender's PTP offset and lock state, and raises WTM_PAIR_OFFSET. -/
  | wtmOffsetPoll (offsets : List Int) (unlocked : Nat)
  /-- HOLDOVER_EXPIRE (R337): Holdover lasts past hold_ms, and the timing drydown cause sets. -/
  | holdoverExpire
  /-- RED_ENABLE (R342): RED_CFG.enable goes to 1; the member enters starting and begins its listen time. -/
  | redEnable (m : Master) (value : Word)
  /-- RED_LISTEN_END (R342): The listen time ends; the member claims active or stays starting. -/
  | redListenEnd
  /-- HEARTBEAT_SEND (R349): Every hb_us a member sends HEARTBEAT on the tie link and every ACTIVE ring port. -/
  | heartbeatSend
  /-- HEARTBEAT_RECEIVE (R351): A member takes its partner's HEARTBEAT, refreshes the path, and may become standby, stand down or start a snapshot. -/
  | heartbeatReceive
  /-- CLAIM_RESEND (R350): ACTIVE_CLAIM is sent again 100 µs after the previous one, up to three times. -/
  | claimResend
  /-- CLAIM_RECEIVE (R350): A member takes its partner's ACTIVE_CLAIM and stands down if the claimant is higher. -/
  | claimReceive
  /-- TILE_REDUNDANCY_RECORD (R347): A tile records a confirmed HEARTBEAT or ACTIVE_CLAIM for its port and judges whether it is split. -/
  | tileRedundancyRecord
  /-- TILE_RECORD_EXPIRE (R347): A port record is older than 5 × hb_us, it stops being seen, and the split may end. -/
  | tileRecordExpire (port : Nat)
  /-- PATH_SILENT (R351): A path to the partner has been silent for miss × hb_us; RED_DEGRADED is raised, and promotion follows if all are silent. -/
  | pathSilent (path : Nat)
  /-- JOURNAL_RECEIVE (R355): The standby takes a JOURNAL entry and executes it in jseq order, or records a gap. -/
  | journalReceive
  /-- LATCH_ENTRY_TIMEOUT (R344): At t_latch(F) + 15 µs without a latch entry, the standby latches and holds its heart packets of F. -/
  | latchEntryTimeout
  /-- RELAY_ENTRY_EMIT (R345): The standby emits a relay entry's message with its sequence, or discards it after 100 µs. -/
  | relayEntryEmit
  /-- SNAPSHOT_CAPTURE (R357): The active member pauses commands, copies the set's registers and stages, and starts copying memory. -/
  | snapshotCapture
  /-- SNAPSHOT_PERIOD (R357): The periodic snapshot interval expires, and a capture starts. -/
  | snapshotPeriod
  /-- SNAPSHOT_SEND (R358): The active member sends the next SNAPSHOT chunk over the tie link. -/
  | snapshotSend
  /-- SNAPSHOT_CHUNK_RECEIVE (R358): The standby stores a SNAPSHOT chunk and, once it is complete, compares or applies it. -/
  | snapshotChunkReceive
  /-- SWAP_TIMER (R360): swap_s has passed since the last change of active member, and an automatic swap is requested. -/
  | swapTimer
  /-- SWAP_ARM_RETRY (R360): Every second a requested swap is armed once its conditions hold. -/
  | swapArmRetry
  /-- SOURCE_RAISE (R365): An event source is raised; its sticky bit sets, and a reaction starts, merges or escalates. -/
  | sourceRaise (sources : List Nat)
  /-- EVT_ACK (R371): A write of EVT_CTRL.ack ends the running reaction. -/
  | evtAck (m : Master)
  /-- REACTION_AUTO_END (R371): The firmware takes its notification, and a reaction with auto ends. -/
  | reactionAutoEnd
  /-- REACTION_RESTART (R372): In the cycle after a reaction ends, a new reaction starts over the pending sources. -/
  | reactionRestart
  /-- EVT_STAT_CLEAR (R366): A W1C write of EVT_STAT clears sticky and pending bits, and level sources are raised again. -/
  | evtStatClear (m : Master) (group : Nat) (mask : Word)
  /-- EVT_TEST_GO (R376): A write of EVT_TEST.go raises the named source as an edge. -/
  | evtTestGo (m : Master) (source : Nat)
  /-- SENSOR_REPORT (R377): Every 1 ms (10 ms for TS_00 alone) a sensor reports; validity, thresholds, rate, windows, trip and calibration triggers are updated. -/
  | sensorReport (sensor : Nat) (report : Nat)
  /-- TRIP_COMPARATOR (R383): TS_00's analog comparator sees 125 °C for 10 µs and sets the trip latch. -/
  | tripComparator
  /-- PD_ENABLE_WRITE (R394): A write of PD_CTRL_nn.enable restarts a domain, or runs the stop phases for it alone. -/
  | pdEnableWrite (m : Master) (domain : Nat) (enable : Bool)
  /-- DOMAIN_READY (R406): A restarting domain becomes ready after its delay; its pads release, waiting demands complete and the next domain starts. -/
  | domainReady (crcOk : Bool)
  /-- DOMAIN_READY_TIMEOUT (R406): A domain is not ready within 4 times its delay; it restarts once more or is marked dead. -/
  | domainReadyTimeout
  /-- DOMAIN_DEMAND (R399): An access reaches a gated domain, which restarts it while the access waits. -/
  | domainDemand (m : Master) (domain : Nat)
  /-- DOMAIN_IDLE_GATE (R398): A domain with auto set has had no demand for idle_us in IDLE and tries to stop. -/
  | domainIdleGate (domain : Nat)
  /-- PWR_TARGET_WRITE (R402): A write of PWR_CTRL.target sets the target and starts an entry attempt or a wake. -/
  | pwrTargetWrite (m : Master) (target : Nat)
  /-- AUTO_STATE_IDLE (R402): An awake chip has been idle for base_ms with auto_state set, sets that target and starts an attempt. -/
  | autoStateIdle
  /-- ENTRY_TIMER_EXPIRE (R402): The backoff entry timer expires, and a new sleep attempt starts. -/
  | entryTimerExpire
  /-- SLEEP_ATTEMPT (R400): A sleep attempt starts phase 1, asking the stop set to quiesce. -/
  | sleepAttempt
  /-- QUIESCE_DONE (R400): Every domain of the stop set answers ready, and phase 2 starts. -/
  | quiesceDone
  /-- QUIESCE_TIMEOUT (R400): A domain is not ready within quiesce_ms, and the attempt is refused in phase 1. -/
  | quiesceTimeout
  /-- DOMAIN_STOP (R400): The next domain is asked again, saves its keep record and stops, or refuses in phase 2. -/
  | domainStop
  /-- WAKE_N_ASSERT (R405): WAKE_N is held low for 1 µs and wakes the chip. -/
  | wakeNAssert
  /-- AON_ALARM_EXPIRE (R405): PWR_ALARM.count always-on edges pass after entry and wake the chip. -/
  | aonAlarmExpire
  /-- HSPI_CS_WAKE (R405): HSPI_CS_N falls in HUSH or DORMANT and wakes the chip; the transaction is not received. -/
  | hspiCsWake
  /-- HK_WDOG_KICK (R409): A write of HK_WDOG.kick restarts the watchdog count. -/
  | hkWdogKick (m : Master)
  /-- HK_WDOG_EXPIRE (R409): No kick arrives within timeout_ms; PD_01 is restarted and SYS_HK_WDOG is raised. -/
  | hkWdogExpire
  /-- UPD_RECOVER_RESET (R422): 100 µs after the UPD_RECOVER reply's last byte leaves, the chip writes the recover handover request and resets as by RESET_N. -/
  | updRecoverReset
  /-- OTP_LOCK_DONE (R432): Programming of the owner lock bit completes within 1 ms; OTP_PROG.busy clears, result reads done and OTP_SVN.lock sets. -/
  | otpLockDone
  deriving DecidableEq, Repr

end Sys2Proof
end

