-- ==== Sys2Proof/Config.lean ====
section
/-! DEFINITION. The free values: what the spec leaves open, as opaque constants, so that nothing can be proved of a value.
Each is applied to the operands it depends on, or to the model's counter State.freeCnt for a fresh value each time. -/

namespace Sys2Proof.Config

/-- Least and greatest step of FFE tap `k` (0 pre-cursor, 1 main, 2 post-cursor): R46 gives the requests, not the ranges. -/
opaque tapMin : Nat → Int
@[inherit_doc tapMin] opaque tapMax : Nat → Int

/-- Tap `k` of transmitter preset `p` (1–3), which R46 names without its values. -/
opaque tapPreset : Nat → Nat → Int

/-- The coefficient request of training frame number `k` of this end, from 0 to 7, and whether its receiver reports ready: its
receiver's adaptation makes both (R46). -/
opaque coefRequest : Nat → Nat
@[inherit_doc coefRequest] opaque receiverReady : Nat → Bool

/-- Where PRBS13 stands at the start of training frame number `k` (R46 gives the polynomial alone). -/
opaque prbsStart : Nat → Nat

/-- What the lane skew measured in DESKEW takes off the receive stamp of a port with lanes `w`, to refer it to lane_index 0
(R296), in counter units. -/
opaque stampSkew : Nat → Nat → Int

/-- retry_after of a BUSY reply: the chip's estimate in µs (R97), here before it is held to 1–65,535. -/
opaque retryEstimate : Nat → Nat

/-- The low 15 bits of relay tag number `k`, which a sender chooses (R101). -/
opaque relayTagLow : Nat → Nat

/-- The sequence field of the chip's own packet number `k` with dup = 0, chosen by the origin (R74). -/
opaque ownSequence : Nat → Nat

/-- Whether a ring stamp of counter value `t` rounds up to the next 1/16 ns (R296 gives the resolution, not the rounding). -/
opaque stampUp : Nat → Bool

/-- Whether `n / d` rounds up where the spec gives a field's unit and not the rounding of its value. -/
opaque roundUp : Int → Nat → Bool

/-- The code of a value that falls outside its field where the spec does not say what the field then holds. -/
opaque outside : Int → Nat

/-- The wall frame index at counter value `t` under a reserved rate code, and the epoch of frame `f` (R318 gives none). -/
opaque frameWithoutRate : Nat → Nat
@[inherit_doc frameWithoutRate] opaque epochWithoutRate : Nat → Nat

/-- req_id of exchange number `k`, chosen by the requester (R301). -/
opaque requestId : Nat → Nat

/-- What lane skew adds to the residence from ingress port `p` of a port wider than one lane (R296, R298), in counter units,
as measured in DESKEW for the lanes' widths `w`. -/
opaque residenceSkew : Nat → Nat → Int

/-- TIME_AON_MEAS after always-on edge number `k`: the period measured against the counter (R314). -/
opaque aonMeasured : Nat → Nat

/-- The grayscale value sent to channel `ch` of a band that holds no lamp (R234 states none). -/
opaque unlampedGray : Nat → Nat

/-- The cycle, modulo 128, at which control slots end after bring-up number `k` (R225 gives the phase no place in time). -/
opaque superframePhase : Nat → Nat

/-- What the consumer of real-time port `p` drains in wall frame `f`, in bytes per 10 ns (R160), and the time from clock value
`t` until the next read that its schedule guarantees after its fill, in 10 ns: neither has a number in the spec. -/
opaque drainRate : Nat → Nat → Nat
@[inherit_doc drainRate] opaque scheduleGap : Nat → Nat → Nat

/-- Granules that the consumer of real-time port `p` has taken from its buffer since the last event of the controller (R155). -/
opaque granulesTaken : Nat → Nat → Nat

/-- The bank that is due a refresh, or a refresh-management command, in a command slot, if one is (R153, R157, R164): JESD209-5C
says when. -/
opaque refreshDue : Nat → Option Nat

/-- Whether the signature of an image is valid for the key fixed in the ROM, which R415 does not print. -/
opaque signatureValid : List Byte → Bool

/-- Estimated erase time of `n` sectors in ms, and the sustained program rate in KiB/s, as UPD_BEGIN answers them (R422). -/
opaque eraseEstimate : Nat → Nat
@[inherit_doc eraseEstimate] opaque programRate : Nat

/-- Remaining erase time in µs in a BUSY answer to UPD_BLOCK (R422). -/
opaque eraseLeft : Nat → Nat

/-- The settings data that an image of settings version `v` makes of older data, and its default data (R430). -/
opaque migratedSettings : Nat → List Byte → List Byte
@[inherit_doc migratedSettings] opaque defaultSettings : Nat → List Byte

/-- Whether the result of measurement number `k` of calibration item `i` lies within the item's limits (R389). -/
opaque calWithin : Nat → Nat → Bool

/-- Word `k` of a structure of which the spec states no value for its first writing: 0 the seq and 1 the image_version of a
fresh boot record (R433), 2 the seq of a slot's first settings half (R430). -/
opaque freshRecord : Nat → Nat

/-- Whether settings data declares DRAM fitted to a tile (R14); the spec gives the data no layout. -/
opaque declaresDram : List Byte → Bool

/-- Word `a` of the store's line-buffer pool as read number `k` finds it while a tile takes heart packets in, and whether any
of its bytes is then pending or discarded (R81): the spec gives the pool no layout. -/
opaque poolWord : Nat → Nat → BitVec 32
@[inherit_doc poolWord] opaque poolPending : Nat → Nat → Bool

/-- Word `a` of the store's ingest buffer as read number `k` finds it once packets have gone into the buffer: the spec does not
say how packets lie there (R125). -/
opaque ingestWord : Nat → Nat → BitVec 32

/-- Word `a` of RED_BUF as read number `k` finds it once it has been used: the spec does not say how snapshots and journal
entries lie there (R357, R358). -/
opaque snapshotWord : Nat → Nat → BitVec 32

/-- The word at offset `a` of the retention SRAM as read number `k` finds it where hardware keeps its records: the spec gives them
no layout (R407). -/
opaque retainedWord : Nat → Nat → BitVec 32

/-- What an input of a slot reads at time `t` whose kind or source is a reserved code (R278, R279). -/
opaque reservedSample : Nat → Nat

/-- The MAC address to which a datagram for an IPv4 address is sent, and the IPv4 identification of the datagram that is sent
with number `k`: the spec states neither (R123). -/
opaque nextHop : Nat → Nat
@[inherit_doc nextHop] opaque ipIdent : Nat → Nat

/-- Whether the PTP stack answers the datagram taken with number `k` with an event message, and that message: PTP is the
firmware's work after IEEE 1588-2019, which the spec does not repeat (R122). -/
opaque ptpSends : Nat → Bool
@[inherit_doc ptpSends] opaque ptpMessage : Nat → List (BitVec 8)

end Sys2Proof.Config
end

