-- ==== Sys2Proof/Machine/Sources.lean ====
section
/-! DEFINITION. The event sources of R364: one constant per source, and the table of their kinds and reset classes. -/

namespace Sys2Proof.Machine

def Src.SYS_RESET : Nat := 0
def Src.SYS_HK_WDOG : Nat := 1
def Src.CMD_BAD_MAGIC : Nat := 2
def Src.CMD_CHECK_FAIL : Nat := 3
def Src.CMD_BUSY : Nat := 4
def Src.CMD_FANOUT_TIMEOUT : Nat := 5
def Src.STAGE_APPLIED : Nat := 6
def Src.STAGE_REFUSED : Nat := 7
def Src.PWR_STATE : Nat := 8
def Src.PWR_SLEEP_REFUSED : Nat := 9
def Src.PWR_WAKE : Nat := 10
def Src.PWR_RETAIN_FAIL : Nat := 11
def Src.PWR_DOMAIN_TIMEOUT : Nat := 12
def Src.THERM_WARN : Nat := 32
def Src.THERM_THROTTLE : Nat := 33
def Src.THERM_CRITICAL : Nat := 34
def Src.THERM_TRIP : Nat := 35
def Src.THERM_RATE : Nat := 36
def Src.THERM_SENSOR : Nat := 37
def Src.CAL_DONE : Nat := 38
def Src.CAL_FAIL : Nat := 39
def Src.ADC_RANGE : Nat := 40
def Src.CE_CONFIG : Nat := 41
def Src.CE_OVERRUN : Nat := 42
def Src.CE_OUT_LIMIT : Nat := 43
def Src.CE_SAFE_STEP : Nat := 44
def Src.CE_PWM_STALE : Nat := 45
def Src.LANE_UP : Nat := 64
def Src.LANE_DOWN : Nat := 65
def Src.LANE_TRAIN_FAIL : Nat := 66
def Src.LANE_WIDTH_MISMATCH : Nat := 67
def Src.LANE_PLACEMENT : Nat := 68
def Src.LANE_DESKEW_FAIL : Nat := 69
def Src.LANE_UNCORRECTABLE : Nat := 70
def Src.LANE_CORR_HIGH : Nat := 71
def Src.LANE_UPSTREAM_LOST : Nat := 72
def Src.LANE_RESYNC : Nat := 73
def Src.LANE_EIDLE_REFUSED : Nat := 74
def Src.LANE_WAKE : Nat := 75
def Src.ENUM_MISMATCH : Nat := 76
def Src.ENUM_REVERSED : Nat := 77
def Src.RING_OVER_LENGTH : Nat := 78
def Src.RING_BROKEN : Nat := 79
def Src.PKT_FAIL_LOCAL : Nat := 96
def Src.PKT_FAIL_BLOCK : Nat := 97
def Src.PKT_CUT : Nat := 98
def Src.PKT_OVERSIZE : Nat := 99
def Src.PKT_FRAMING : Nat := 100
def Src.PKT_SEQ_JUMP : Nat := 101
def Src.PKT_LATE_LINE : Nat := 102
def Src.PKT_ONE_SIDED : Nat := 103
def Src.ADMIT_REFUSED : Nat := 104
def Src.RED_DEGRADED : Nat := 105
def Src.RED_PROMOTED : Nat := 106
def Src.RED_STOOD_DOWN : Nat := 107
def Src.RED_SPLIT_BRAIN : Nat := 108
def Src.RED_STATE_GAP : Nat := 109
def Src.RED_JOURNAL_GAP : Nat := 110
def Src.RED_DIVERGE : Nat := 111
def Src.RED_SNAP_DONE : Nat := 112
def Src.RED_HEART_HELD : Nat := 113
def Src.RED_SWAPPED : Nat := 114
def Src.ETH_LINK_UP : Nat := 128
def Src.ETH_LINK_DOWN : Nat := 129
def Src.FLOW_FORMAT : Nat := 130
def Src.FLOW_PATH_LOST : Nat := 131
def Src.FLOW_LOSS : Nat := 132
def Src.FLOW_FRAME_DROP : Nat := 133
def Src.FLOW_SHED : Nat := 134
def Src.INGEST_BUF_FULL : Nat := 135
def Src.TIME_STEPPED : Nat := 136
def Src.TIME_LOCKED : Nat := 137
def Src.TIME_LOCK_LOST : Nat := 138
def Src.TIME_DIR_DISAGREE : Nat := 139
def Src.TIME_LINK_INVALID : Nat := 140
def Src.TIME_ESTIMATED : Nat := 141
def Src.TIME_AON_SWITCH : Nat := 142
def Src.EVT_OUT_LATE : Nat := 143
def Src.EVT_IN_CAPTURE : Nat := 144
def Src.EVT_IN_OVERFLOW : Nat := 145
def Src.DRAM_TRAIN_FAIL : Nat := 160
def Src.DRAM_PANIC : Nat := 161
def Src.DRAM_UNDERRUN : Nat := 162
def Src.DRAM_RAT_SWEEP : Nat := 163
def Src.DRAM_TEMP_HIGH : Nat := 164
def Src.SURF_EARLY_RELEASE : Nat := 165
def Src.SURF_LATCH_REFUSED : Nat := 166
def Src.SURF_WCS_CORRUPT : Nat := 167
def Src.COMP_ACCORD_INVALID : Nat := 192
def Src.COMP_LAYER_ABSENT : Nat := 193
def Src.COMP_STREAM_MISMATCH : Nat := 194
def Src.COMP_OVERRUN : Nat := 195
def Src.PIPE_MAP_ERROR : Nat := 196
def Src.PIPE_GROUP_CORRUPT : Nat := 197
def Src.PIPE_TEMP_STALE : Nat := 198
def Src.WT_UNSCHEDULED : Nat := 199
def Src.WT_HOLDOVER : Nat := 200
def Src.WT_CONFIG : Nat := 201
def Src.WTM_PAIR_OFFSET : Nat := 202
def Src.WTM_CONFLICT : Nat := 203
def Src.LL_SCAN_INVALID : Nat := 224
def Src.LL_CHAIN_FAULT : Nat := 225
def Src.LL_RET_FAIL : Nat := 226
def Src.LL_DRV_RESET : Nat := 227
def Src.LL_GRAY_DROP : Nat := 228
def Src.LD_LAMP_OPEN : Nat := 229
def Src.LD_LAMP_SHORT : Nat := 230
def Src.LD_TILE_BLANK : Nat := 231
def Src.LD_UNVERIFIED : Nat := 232
def Src.LD_HEADROOM_LOW : Nat := 233
def Src.LD_VLED_LIMIT : Nat := 234
def Src.LD_DRYDOWN : Nat := 235
def Src.LD_DRYDOWN_END : Nat := 236
def Src.LD_FAULT_OVF : Nat := 237
def Src.LD_TCOMP_CLIP : Nat := 238
def Src.UPD_BEGUN : Nat := 239
def Src.UPD_BLOCK_FAIL : Nat := 240
def Src.UPD_SEALED : Nat := 241
def Src.UPD_SIG_FAIL : Nat := 242
def Src.UPD_REFUSED : Nat := 243
def Src.UPD_SCHEDULED : Nat := 244
def Src.UPD_ACTIVATED : Nat := 245
def Src.UPD_CONFIRM_DUE : Nat := 246
def Src.UPD_FALLBACK : Nat := 247
def Src.UPD_RECOVERY : Nat := 248
def Src.UPD_MIGRATED : Nat := 249

/-- R364: the sources that exist, each with its number, whether it is a level source (R365), and its reset class. -/
def evtSources0 : List (Nat × Bool × Nat) := [
  (0, false, 0), (1, false, 2), (2, false, 0), (3, false, 0), (4, false, 0), (5, false, 1), (6, false, 0), (7, false, 1), (8, false, 0), (9, false, 0), (10, false, 0), (11, false, 2), (12, false, 2), (32, true, 1), (33, true, 2), (34, true, 3), (35, true, 3), (36, false, 2), (37, false, 2), (38, false, 0), (39, false, 1), (40, false, 1), (41, false, 1), (42, false, 1), (43, false, 1), (44, false, 1), (45, false, 3), (64, false, 0), (65, false, 2), (66, false, 2), (67, false, 2), (68, false, 1)]

def evtSources1 : List (Nat × Bool × Nat) := [
  (69, false, 1), (70, false, 0), (71, false, 1), (72, false, 2), (73, false, 0), (74, false, 0), (75, false, 0), (76, false, 1), (77, false, 2), (78, false, 2), (79, false, 2), (96, false, 0), (97, false, 0), (98, false, 1), (99, false, 1), (100, false, 1), (101, false, 0), (102, false, 1), (103, false, 1), (104, false, 1), (105, false, 1), (106, false, 2), (107, false, 1), (108, false, 2), (109, false, 2), (110, false, 1), (111, false, 1), (112, false, 0), (113, false, 0), (114, false, 0), (128, false, 0), (129, false, 2)]

def evtSources2 : List (Nat × Bool × Nat) := [
  (130, false, 1), (131, false, 1), (132, false, 0), (133, false, 1), (134, false, 2), (135, false, 2), (136, false, 0), (137, false, 0), (138, false, 2), (139, false, 1), (140, false, 1), (141, false, 1), (142, false, 1), (143, false, 1), (144, false, 0), (145, false, 1), (160, false, 2), (161, false, 1), (162, false, 2), (163, false, 0), (164, false, 1), (165, false, 0), (166, false, 1), (167, false, 1), (192, false, 2), (193, false, 1), (194, false, 1), (195, false, 1), (196, false, 2), (197, false, 2), (198, false, 1), (199, false, 1)]

def evtSources3 : List (Nat × Bool × Nat) := [
  (200, false, 1), (201, false, 1), (202, false, 2), (203, false, 2), (224, false, 2), (225, false, 2), (226, false, 1), (227, false, 1), (228, false, 1), (229, false, 1), (230, false, 1), (231, false, 2), (232, false, 1), (233, false, 1), (234, false, 2), (235, false, 0), (236, false, 0), (237, false, 1), (238, false, 0), (239, false, 0), (240, false, 1), (241, false, 0), (242, false, 2), (243, false, 1), (244, false, 0), (245, false, 0), (246, false, 2), (247, false, 2), (248, false, 3), (249, false, 0)]

@[inherit_doc evtSources0]
def evtSources : List (Nat × Bool × Nat) :=
  evtSources0 ++ evtSources1 ++ evtSources2 ++ evtSources3

/-- Whether source `n` exists; the reserved sources of R364 do not (R367). -/
def srcExists (n : Nat) : Bool := evtSources.any (fun r => r.1 == n)

/-- Class of source `n` at reset (R364); 0 for a reserved source (R367). -/
def srcClassReset (n : Nat) : Nat :=
  match evtSources.find? (fun r => r.1 == n) with
  | some r => r.2.2
  | none => 0

end Sys2Proof.Machine
end

