-- ==== Sys2Proof/Machine/State.lean ====
section
/-! DEFINITION. The state of the block as plain data. The registers of spec/01 to spec/20 are ONE sparse map `regs` from byte
address to word, in canonical form: addresses strictly rising, no entry equal to the register's reset word (Regs.lean); what
the spec gives the machine beside its registers stands in the structures below, one per chapter. -/

namespace Sys2Proof.Machine

/-- Why a step can stop with a fault. No command of this block faults: every failure is an answer, an event or a flag. -/
inductive Fault where
  /-- Raised by no meaning; the type needs one name. Safe. -/
  | none_raised
  deriving DecidableEq, Repr

/-- Why a step can refuse a command. -/
inductive Refusal where
  /-- The command has no meaning yet; raised by exec's own arm. Safe. -/
  | notModelled (mnemonic : String)
  deriving DecidableEq, Repr

/-- The role that ROLE_SEL fixes (R1, R13). -/
inductive Role where
  | tile
  | sender
  deriving DecidableEq, Repr

/-- A sparse map: the entries whose value is not the default of their key, keys strictly rising. -/
abbrev SMap (α : Type) := List (Nat × α)

/-- One flit as a receiver has it: 32 bytes (R61), whether its block was uncorrectable (R43), and the receive stamp of its
slot in counter units (R296). -/
structure Flit where
  bytes : List Byte
  bad : Bool
  stamp : Nat := 0
  deriving DecidableEq, Repr

/-- How far a lane's own electrical idle request has got (R56): asked for and not yet in a marker, sent in a marker, answered
with EIDLE_ACK so that one more EIDLE_REQ marker goes out. -/
inductive EidleReq where
  | none
  | asked
  | sent
  | acked
  deriving DecidableEq, Repr

/-- What a lane answers to its partner's electrical idle request (R56): EIDLE_ACK not yet sent, sent, or sent and followed by
another EIDLE_REQ so that the lane leaves after its next marker. -/
inductive EidleAnswer where
  | none
  | ack
  | ackSent
  | leaving
  | nak
  deriving DecidableEq, Repr

/-- One Coushlink lane, beside its registers (R41 to R59). -/
structure Lane where
  /-- Good marker blocks in a row (R44). -/
  goodRun : Nat := 0
  /-- Bad marker blocks in a row (R44). -/
  badRun : Nat := 0
  /-- A good marker has been received since the lane began to train (R45). -/
  markerSeen : Bool := false
  /-- The partner has sent a marker of an ACTIVE lane, with any state but NEGOTIATE and WAKE, since the lane became ACTIVE
  (R45). -/
  partnerActive : Bool := false
  /-- State field of the last good marker (R41). -/
  stateSeen : Nat := 0
  /-- Width field of the last good marker or training frame (R41, R46). -/
  widthSeen : Nat := 0
  /-- Marker periods left in which a lock loss does not end ACTIVE (R52). -/
  resyncWindow : Nat := 0
  /-- Receiver ready of the partner's last training frame (R46). -/
  partnerReady : Bool := false
  /-- Transmitter FFE taps, in steps (R46). DESIGN CHOICE (log 36): the spec gives no values at reset, so they start at 0, and
  they stay as they are when a lane trains anew. -/
  tapPre : Int := 0
  tapMain : Int := 0
  tapPost : Int := 0
  /-- Response this end sends to the partner's last coefficient request (R46). -/
  response : Nat := 0
  /-- The partner's response to this end's last request (R46). -/
  responseSeen : Nat := 0
  /-- After 8 failed attempts the lane waits out the 10 ms interval (R45). -/
  hold : Bool := false
  /-- The lane's own electrical idle request (R56). -/
  eidle : EidleReq := .none
  /-- Its answer to the partner's request (R56). -/
  answer : EidleAnswer := .none
  /-- The lane entered EIDLE by handshake and its wake detector listens (R57, R405). -/
  byHandshake : Bool := false
  /-- A wake burst of this end is running (R57). -/
  burst : Bool := false
  /-- Corrected symbols in the present 1 s interval (R59). -/
  corrSum : Nat := 0
  /-- LANE_CORR_HIGH was raised in the present interval (R59). -/
  corrRaised : Bool := false
  /-- Descrambler state of the receiver, 31 bits (R39). -/
  scrambler : Nat := 0x7FFFFFFF
  /-- Flits decoded on the lane and not yet taken by the packet layer (R42, R43). -/
  rx : List Flit := []
  /-- Control word of the last training frame this end has sent (R46). -/
  control : Nat := 0
  /-- Blocks sent while LANE_CTRL.loopback is near-end serial and not yet received again, oldest first; whether each is a
  marker block (R60). -/
  looped : List (Bool × List Nat) := []
  deriving DecidableEq, Repr

/-- The base message of which a tile holds the first pieces from one port (R80). -/
structure PartialMsg where
  hdr : List Byte
  length : Nat
  body : List Byte
  flits : List Nat
  deriving DecidableEq, Repr

/-- A packet of this end: its header bytes 0–27, its payload bytes and, for a top-note packet of length 1, its second flit. -/
structure TxPkt where
  hdr : List Byte
  payload : List Byte
  /-- The accepted command whose reply this packet ends; 0 for none (R97). -/
  owner : Nat := 0
  /-- Wall time before which a heart packet is not due (R71, R189), and after which it is late (R84). -/
  due : Nat := 0
  latest : Nat := 0
  /-- Wall time at which the packet became ready. -/
  ready : Nat := 0
  deriving DecidableEq, Repr

/-- A heart or base packet that is being sent, or that waits suspended: its header bytes 0–27, the payload flits not yet
sent, those sent in the present piece, how many were sent in earlier pieces, and the unused bytes of its last flit
(R71, R73). -/
structure TxProgress where
  hdr : List Byte
  flits : List (List Byte)
  now : List (List Byte) := []
  sent : Nat := 0
  pad : Nat := 0
  owner : Nat := 0
  latest : Nat := 0
  /-- The packet has been suspended: its next piece is a continuation (R71). -/
  cont : Bool := false
  /-- The header of its next piece is charged to the top note that split it (R72). -/
  owes : Bool := false
  deriving DecidableEq, Repr

/-- The egress of one port: the packets that wait, the one in progress and the suspended ones (R71, R73), and the slot
position within the marker period with the record of the last 1,000 slots for the top limit (R72). -/
structure Egress where
  slot : Nat := 0
  top : List TxPkt := []
  heart : List TxPkt := []
  base : List TxPkt := []
  /-- Flits of the top-note packet in progress that are still to send. -/
  topNow : List (List Byte) := []
  /-- The heart packet in progress or suspended, and the base packet (R71, R73). -/
  heartNow : Option TxProgress := none
  baseNow : Option TxProgress := none
  /-- The heart packet, or the base packet, is in progress and not suspended. -/
  inHeart : Bool := false
  inBase : Bool := false
  /-- Slot numbers charged to top note within the last 1,000 slots, and the count of slots. -/
  charges : List Nat := []
  slotCount : Nat := 0
  /-- The waiting top-note packet has been counted in top_over. -/
  topHeld : Bool := false
  /-- Flits of the present marker period, in slot order; a piece stands here from its end on (R42). -/
  period : List (List Byte) := []
  deriving DecidableEq, Repr

/-- One Coushlink port, beside its registers. -/
structure Port where
  /-- Width code in effect (R47). -/
  widthEff : Nat := 0
  /-- The enable is in effect with a legal placement (R16, R17). -/
  running : Bool := false
  /-- RESYNC markers still to send on this egress (R52). -/
  resyncLeft : Nat := 0
  /-- The egress moves its block phase at the next marker boundary (R52). -/
  phasePending : Bool := false
  /-- The egress forwards the RESYNC state (R52). -/
  fwdResync : Bool := false
  /-- The ingress has lost block lock in a resync: the egress moves its block phase once it locks again (R52). -/
  moveAfterLock : Bool := false
  /-- Count of the markers sent on the port, modulo 2¹⁶ (R41). -/
  markers : Nat := 0
  /-- The egress marks UPSTREAM_LOST (R51). -/
  upstreamGone : Bool := false
  /-- Framing is lost until the next marker period (R68). -/
  framingLost : Bool := false
  /-- Which lane of the port carries the next flit (R42). -/
  turn : Nat := 0
  /-- Partial base messages by origin: a tile holds at most one, under key 0 (R80); a sender one for each origin whose
  pieces reach the port. -/
  parts : List (Nat × PartialMsg) := []
  /-- Heart packets with dup = 1 were confirmed on the port in this wall frame (R83). -/
  heartConfirmed : Bool := false
  /-- Heart packets with dup = 1 were delivered from the port in this wall frame (R83). -/
  heartDelivered : Bool := false
  /-- Link delay samples held, newest first, in counter units, and rejections in a row (R302). -/
  delays : List Int := []
  rejects : Nat := 0
  /-- The link delay exchange in progress: req_id and, once the request has left, its transmit stamp (R301). -/
  delayReq : Option (Nat × Option Nat) := none
  /-- What the port sends (R71 to R73). -/
  tx : Egress := {}
  deriving DecidableEq, Repr

/-- One part of a sillage window: the highest index accepted and the marked indices (R75). -/
structure WindowPart where
  high : Option Nat := none
  marks : List Nat := []
  deriving DecidableEq, Repr

/-- The sillage window of one class (R75). -/
structure Window where
  frame : Option Nat := none
  cur : WindowPart := {}
  prev : WindowPart := {}
  deriving DecidableEq, Repr

/-- A confirmed packet or a delivered base message that waits for its consumer: the port it came from, its header bytes
0–31, what follows the header (the second flit of a top-note packet, the payload of a message), the time unit's stamp of
its header flit (R296), and whether a tile has forwarded it with its own changes (R27, R300). -/
structure Delivered where
  port : Nat
  hdr : List Byte
  body : List Byte
  stamp : Nat
  forwarded : Bool := false
  deriving DecidableEq, Repr

/-- What leaves the device, in the model's own record of it (newest first). -/
inductive Emit where
  /-- Flits of a forwarded or own packet on a Coushlink port, as stage 11 hands them to the port's slots. -/
  | flits (port : Nat) (bytes : List Byte)
  /-- A block on a lane, scrambled and encoded: 136 symbols (R38 to R42, R49). -/
  | block (lane : Nat) (symbols : List Nat)
  /-- A training frame on a lane: 1,024 PAM4 levels (R46). -/
  | training (lane : Nat) (levels : List Int)
  /-- Bytes answered on HSPI. -/
  | hspi (bytes : List Byte)
  /-- A whole Ethernet frame on an Ethernet port: ARP, ICMP, IGMP, PTP, and command replies (R112, R114, R123). -/
  | eth (port : Nat) (bytes : List Byte)
  /-- A message that takes its turn in the message slots of a lamp lane (R229, R242). -/
  | lamp (lane : Nat) (words : List Word)
  /-- The eight words of superframe `n` on a lamp lane: the control slot and the seven message slots (R225, R226, R229). -/
  | superframe (lane n : Nat) (words : List Word)
  /-- `count` superframes from `n` on, on every lane in service, with ALIGN and FILL words alone. -/
  | idleFrames (n count : Nat)
  /-- A timed control word in the same control slot of every enabled lane (R226, R243), and for each lane group the edge of the
  200 MHz lane clock, counted in 5 ns from time 0, at which its drivers act (R232). -/
  | action (word : Word) (edges : List Nat)
  /-- An event output pin and its new level. -/
  | pin (n : Nat) (level : Bool)
  /-- A wake burst on a lane (R57). -/
  | burst (lane : Nat)
  /-- A command packet to every other sender of the cascade, at its UDP command port (R328, R331). -/
  | peers (bytes : List Byte)
  /-- The host's view of a completed master access that is no command: a register read by a core. -/
  | value (addr : Nat) (word : Word)
  /-- A granule that the memory controller returns to a port (R155). -/
  | granule (port addr : Nat) (bytes : List Byte)
  /-- A row activated and precharged by a neighbour refresh; and a bank refreshed (R157, R164). -/
  | rowRefresh (channel bank row : Nat)
  | bankRefresh (channel bank : Nat)
  deriving DecidableEq, Repr

/-- A notification that waits for the housekeeping firmware (R368, R370): source, class, and whether it marks an escalation. -/
structure HkNote where
  source : Nat
  cls : Nat
  escalation : Bool
  deriving DecidableEq, Repr

/-- The event collector, beside its registers (R365 to R374). -/
structure EvtState where
  /-- Reaction bits added by the classes that the running reaction has left behind by escalation (R370). -/
  prior : Nat := 0
  /-- Notifications not yet taken by the firmware, oldest first. -/
  notes : List HkNote := []
  /-- What the firmware has recorded: source, class, wall time in ns (R368), newest first. -/
  hkLog : List (Nat × Nat × Nat) := []
  /-- A reaction ended and the cycle after it has not come yet (R372). -/
  ended : Bool := false
  deriving DecidableEq, Repr

/-- Enumeration at a tile (R27 to R29). -/
structure EnumTile where
  accepted : Option Nat := none
  a : Option Nat := none
  b : Option Nat := none
  reversed : Bool := false
  reassign : Bool := false
  /-- n_value and kind (1 expected) of the ENUM_LEN that travelled clockwise, and of the other. -/
  lenCw : Option (Nat × Bool) := none
  lenCcw : Option (Nat × Bool) := none
  /-- ENUM_MISMATCH has been raised for the accepted round (R29). -/
  mismatchRaised : Bool := false
  deriving DecidableEq, Repr

/-- Enumeration at a sender, per ring port (R26 to R31). -/
structure EnumRing where
  reassign : Bool := false
  lenSent : Option Nat := none
  lenSeen : Bool := false
  reversedSeen : Bool := false
  partnerLen : Option Nat := none
  deriving DecidableEq, Repr

/-- Enumeration state of both roles; `nextRound` is the member's round number counter (R26). DESIGN CHOICE (log 154): it counts
from 0 after reset, so that the first round of a member is number 1, and all its ports share it. -/
structure EnumState where
  tile : EnumTile := {}
  rings : List EnumRing := List.replicate 7 {}
  nextRound : Nat := 0
  deriving DecidableEq, Repr

/-- How far an accepted command has got. -/
inductive CmdPhase where
  /-- It waits for its turn (R99). -/
  | waiting
  /-- It has been relayed and waits for its targets (R101, R102). -/
  | relayed
  /-- It is a relay form whose messages the sender is emitting (R219, R423). -/
  | emitting
  /-- It has completed; its reply has not been sent whole (R97). -/
  | answered
  deriving DecidableEq, Repr

/-- An accepted command: one queue entry with its reservation (R97). `raw` is the header as received, `frame` the wall frame
in which it was accepted (R106), `copies` the reply packets still to leave, `ethPort` the Ethernet port of a UDP command,
`targets` the expected targets of a tile-bound command at its acceptance (R101 to R103). -/
structure QCmd where
  id : Nat
  master : Master
  raw : List Byte
  payload : List Word
  reserve : Nat
  phase : CmdPhase
  frame : Nat
  copies : Nat := 0
  ethPort : Nat := 0
  targets : List (Nat × Nat) := []
  deriving DecidableEq, Repr

/-- One entry of a fanned reply: ring port, tile address, status, retry_after and reply words (R102). -/
structure FanEntry where
  port : Nat
  address : Nat
  status : Nat
  retryAfter : Nat
  words : List Word
  deriving DecidableEq, Repr

/-- A relayed command that waits for its targets (R101 to R103): its number at this sender, its relay tag, the command, the
largest reply of one target, the expected targets as (ring port, address), the entries of those that have replied, the
entries of other tiles in arrival order, and whether any of those was dropped. -/
structure Relay where
  num : Nat
  tag : Nat
  cmd : Nat
  single : Bool
  bound : Nat
  expected : List (Nat × Nat)
  got : List FanEntry := []
  extra : List FanEntry := []
  dropped : Bool := false
  /-- Replies kept or dropped so far, as (ring port, address): the first of each counts (R101). -/
  seen : List (Nat × Nat) := []
  deriving DecidableEq, Repr

/-- One staged write: address, mask and value (R104). -/
structure StageEntry where
  addr : Nat
  mask : Word
  value : Word
  deriving DecidableEq, Repr

/-- A stage: its pieces by index, and the epoch it is armed for (R104 to R107). -/
structure Stage where
  id : Nat
  total : Nat
  pieces : List (Nat × List StageEntry)
  armed : Option Nat
  /-- The stage comes from the journal or a snapshot: a standby applies only its entries inside the set (R355). -/
  journal : Bool := false
  /-- Its apply has begun and has entries that wait for their domain (R107, R393). -/
  applying : Bool := false
  deriving DecidableEq, Repr

/-- A relay-form TABLE_LOAD or UPD_BLOCK whose messages are being emitted: the command, its first word (table word or
session), the next offset, the region (0 store, 1 DRAM) and next offset of the source, the bytes left, the ring ports and the
destination (R219, R423). -/
structure Emission where
  cmd : Nat
  word0 : Word
  offset : Nat
  region : Nat
  src : Nat
  left : Nat
  ports : List Nat
  dst : Nat
  deriving DecidableEq, Repr

/-- The command engine, beside its registers (R88 to R109). -/
structure CmdState where
  queue : List QCmd := []
  /-- Replies that wait on HSPI, oldest first, each with its command (0: it took no queue entry). -/
  hspiReplies : List (Nat × List Byte) := []
  /-- The number of the next accepted command, the model's own name for it. -/
  nextId : Nat := 1
  /-- Relayed commands that wait for their targets, and the number of the next (R101 to R103). -/
  relays : List Relay := []
  nextRelay : Nat := 0
  /-- The stages that hold entries (R104 to R107). -/
  stages : List Stage := []
  /-- The relay-form TABLE_LOAD in emission (R219). -/
  tableEmit : Option Emission := none
  /-- A reset is due 100 µs after a RESET reply (R95). -/
  resetDue : Bool := false
  deriving DecidableEq, Repr

/-- A heart payload flit that the sillage window has delivered (R75, R190): the frame field of its packet, the wall line,
layer and view of its header, its byte offset in the target stream, its bytes, and the port it came from. -/
structure HeartSeg where
  typ : Nat
  dst : Nat
  frame : Nat
  line : Nat
  layer : Nat
  view : Nat
  offset : Nat
  bytes : List Byte
  port : Nat
  deriving DecidableEq, Repr

/-- Chain packet state of the chip: sillage windows of the top, heart and base classes (R75), confirmed packets and
messages waiting for their consumers. -/
structure PktState where
  windows : List Window := List.replicate 3 {}
  inbox : List Delivered := []
  /-- Delivered heart flits that await their line (R82, R190). -/
  segs : List HeartSeg := []
  /-- Sequence chosen for the chip's own dup = 0 packets (R74). -/
  ownSeq : Nat := 0
  /-- Heart data has gone into the line-buffer pool, and some of it has been discarded since (R79, R81). -/
  poolUsed : Bool := false
  poolStale : Bool := false
  deriving DecidableEq, Repr

/-- What a tile holds of the last confirmed TIME_SYNC of one direction (R304): the model's time of its arrival in 0.5 ns, its
offset code in 1/16 ns, and the origin's fields. -/
structure SyncDir where
  at_ : Nat
  off : Int
  member : Bool
  active : Bool
  epoch : Nat
  deriving DecidableEq, Repr

/-- An EVT_OUT pin as armed (R308 to R310): mode and timing sampled at the arm, in counter units; the number of the next
edge of a series; the start of its last pulse; the ends of pulses in progress. -/
structure OutPin where
  armed : Bool := false
  mode : Nat := 0
  start : Nat := 0
  period : Nat := 0
  width : Nat := 0
  k : Nat := 0
  last : Nat := 0
  stops : List Nat := []
  deriving DecidableEq, Repr

/-- An EVT_IN pin: its queue of stamps, oldest first, each with its edge (R311), the stamp of its last stamped edge, and the
model's time in 0.5 ns at which its level last changed for good. -/
structure InPin where
  queue : List (Nat × Bool) := []
  last : Option Nat := none
  held : Option Nat := none
  deriving DecidableEq, Repr

/-- The always-on account of a sleep (R312): the counter captured at E0 and the segments, each with its source (RC) and its
edges, oldest first. -/
structure SleepAcct where
  captured : Nat
  segs : List (Bool × Nat)
  deriving DecidableEq, Repr

/-- The time unit, beside its registers (R291 to R317). `counter` is wall time in units of 2⁻³² ns: 48 bits of seconds, 32
bits of nanoseconds and 32 bits of fraction taken together (R291). -/
structure TimeState where
  counter : Nat := 0
  /-- Time that has passed since reset in units of 0.5 ns, which no step or load moves: the model's own, against which the
  engine's spacings are judged (R275). -/
  mono : Nat := 0
  /-- The delta sampled at the last go, in 2⁻²⁸ ns, and the cycles of that run still to come (R294). -/
  adjDelta : Int := 0
  adjCount : Nat := 0
  /-- The five shadows of R293: HSPI, UDP and ring, HK_0, HK_1, control engine. -/
  shadows : List Nat := List.replicate 5 0
  /-- Good samples and bad samples in a row (R305). -/
  good : Nat := 0
  bad : Nat := 0
  /-- The two directions of a tile (R304). -/
  dirs : List (Option SyncDir) := [none, none]
  /-- When TIME_DIR_DISAGREE was last raised, in the model's 0.5 ns (R304). -/
  disagreeAt : Option Nat := none
  /-- time_ok of the last followed TIME_SYNC (R305). -/
  timeOk : Bool := false
  /-- The event output pins, and the event input pins (R308 to R311). -/
  outs : List OutPin := List.replicate 8 {}
  ins : List InPin := List.replicate 8 {}
  /-- The account of the present sleep of PD_03 (R312). -/
  sleep : Option SleepAcct := none
  /-- The increment with which the counter runs on from the stop of PD_03 to the edge E0 (R312), in 2⁻²⁸ ns. -/
  tailIncr : Option Nat := none
  deriving DecidableEq, Repr

/-- A change without epoch in progress at a tile (R335): the frame at whose boundary the new settings come into force, and
whether the rate changes. -/
structure ClassBChange where
  start : Nat
  rate : Bool
  deriving DecidableEq, Repr

/-- A change of the frame rate (R333): the rate code before, the time in ns at which frames begin to be counted by the new
rate, the frame that starts there or next in the old count and in the new one, and whether that time has come. The model
numbers frames by the new count from the moment at which the change is known. -/
structure RateChange where
  rate : Nat
  start : Nat
  old : Nat
  new : Nat
  done : Bool := false
  deriving DecidableEq, Repr

/-- Wall timing, beside its registers (R318 to R338). -/
structure WtState where
  /-- The class B words in force (R333, R335), by register address, in the canonical form of the register map: `force`
  governs the frames from `since` on, `forceOld` those before. -/
  force : SMap Word := []
  forceOld : SMap Word := []
  since : Nat := 0
  /-- The rate code that counts frames, and the last change of it (R333, R335). -/
  rate : Nat := 9
  rateWas : Option RateChange := none
  /-- The frame of the last frame boundary taken, and of the last latch point taken, in the model's numbers. -/
  boundary : Nat := 0
  latched : Nat := 0
  /-- TIME_STAT.locked has been 1 since reset (R327). -/
  everLocked : Bool := false
  /-- Holdover has lasted past hold_ms (R337). -/
  holdPast : Bool := false
  /-- A step that R336 does not follow waits for the next latch point. -/
  stepDue : Bool := false
  /-- The timing cause of R335 or R336 stands until the latch point of this frame. -/
  darkUntil : Option Nat := none
  /-- The class B change without epoch in progress (R335). -/
  change : Option ClassBChange := none
  /-- The class B words that differed when a change without epoch was refused (R324, R244). -/
  refused : Option (List (Nat × Word)) := none
  /-- When reason 4h last raised WT_CONFIG (R330). -/
  configAt : Option Nat := none
  /-- The cut (R333): no ROW_ADV from the grid of this frame until each view's first swap; the frame whose content starts. -/
  cut : Option Nat := none
  deriving DecidableEq, Repr

/-- An entry of the ready queue (R274): slot, its latched sample if it has one, and whether a step waits. -/
structure CeEntry where
  slot : Nat
  sample : Option Int
  step : Bool
  deriving DecidableEq, Repr

/-- The schedule of the ADC (R288), its times in 0.5 ns: the channel whose turn is next, the start of the next round-robin
conversion, the time from which HOLDUP_SNS is due, and the synced channels that have yet to convert in the present period of
PS_PWM_0, with the start of the first. -/
structure AdcState where
  turn : Nat := 0
  at_ : Nat := 0
  holdupAt : Nat := 0
  syncAt : Nat := 0
  syncLeft : List Nat := []
  deriving DecidableEq, Repr

/-- The control engine, beside its registers (R273 to R288). -/
structure CeState where
  queue : List CeEntry := []
  /-- Time of the last accepted trigger, by slot, in 0.5 ns (R275). -/
  lastTrig : SMap (Option Nat) := []
  /-- Time at which each slot was enabled, from which its intervals count (R274). -/
  since : SMap Nat := []
  /-- Evaluations in a row at a limit, by slot (R282). -/
  atLimit : SMap Nat := []
  /-- Writes to state words held until the slot's next snapshot, oldest first: the word, the mask and the value (R286). -/
  held : List (Nat × Word × Word) := []
  /-- The latest duty delivered to the PWM stage (R287), and the on-time each phase runs, in engine cycles. -/
  duty : Option Int := none
  phaseOn : List Nat := [0, 0, 0, 0]
  /-- The last value of each block sample, by code (R279). -/
  samples : SMap Int := []
  /-- Slots whose register sink has been refused since they were enabled (R280). -/
  refused : List Nat := []
  /-- The schedule of the ADC (R288). -/
  adc : AdcState := {}
  deriving DecidableEq, Repr

/-- A flow packet that waits in the ingest buffer (R116, R119, R125): its extended sequence number, RTP timestamp, receive
stamp, marker bit, whether path P has delivered it, its sample row data as (row, pixel offset, bytes), its size, and the time
of its arrival on the model's monotonic clock. -/
structure FlowPkt where
  seq : Nat
  rtp : Nat
  stamp : Nat
  marker : Bool
  gotP : Bool
  rows : List (Nat × Nat × List Byte)
  size : Nat
  at_ : Nat := 0
  deriving DecidableEq, Repr

/-- The frame a flow is filling (R120, R121). -/
structure OpenFrame where
  rtp : Nat
  stamp : Nat
  flacon : Nat
  deriving DecidableEq, Repr

/-- One flow, beside its registers (R115 to R125). -/
structure Flow where
  buf : List FlowPkt := []
  frame : Option OpenFrame := none
  /-- The highest extended sequence number received (R119). -/
  high : Option Nat := none
  /-- Extended sequence numbers of an ancillary flow received within the merge window, and those of them that path P has not
  delivered yet (R119). -/
  seen : List Nat := []
  sOnly : List Nat := []
  /-- RTP timestamp of the frame that was abandoned last: its packets are discarded (R140, R143). -/
  abandoned : Option Nat := none
  /-- Last sequence number of the frame closed before (R120). -/
  prevLast : Option Nat := none
  /-- A frame of the flow has been published. -/
  hasPrev : Bool := false
  /-- Flacon whose turn it is, counted from `first` (R121). -/
  turn : Nat := 0
  /-- State to take at the next frame start (R124, R125). -/
  pend : Option Nat := none
  /-- RTP timestamps of the frames for which FLOW_FORMAT has been raised, the latest first (R116, R126). -/
  formatRaised : List Nat := []
  /-- Write position in the ANC record (R118). -/
  ancPos : Nat := 0
  deriving DecidableEq, Repr

/-- A command-port reassembly (R123). -/
structure Reasm where
  src : Nat
  ident : Nat
  port : Nat
  hdr : List Byte
  frags : List (Nat × List Byte)
  total : Option Nat
  deriving DecidableEq, Repr

/-- An IGMP report that is due (R114): port, record type, group, source (0: any), and the time by which it is due on the
model's monotonic clock. -/
structure IgmpDue where
  port : Nat
  kind : Nat
  group : Nat
  source : Nat
  due : Nat := 0
  deriving DecidableEq, Repr

/-- Ethernet ingest, beside its registers (R111 to R127). -/
structure EthState where
  /-- Start of the ingest area in force, in 256-byte units (R125). -/
  area : Nat := 0x13C00
  /-- The flows (R115), and the reassemblies of fragmented datagrams in progress (R123). -/
  flows : List Flow := List.replicate 16 {}
  reasm : List Reasm := []
  /-- Datagrams refused while 4 reassemblies were open, as source and identification, the latest first (R123). -/
  refused : List (Nat × Nat) := []
  /-- Packets have gone into the ingest buffer (R125). -/
  bufUsed : Bool := false
  /-- IGMP reports that are due (R114). -/
  igmp : List IgmpDue := []
  /-- The ms in which INGEST_BUF_FULL was last raised (R125). -/
  fullAt : Option Nat := none
  /-- Echo replies of the present second, by port, as (second, count), and queries of older IGMP versions seen (R114). -/
  echoes : List (Nat × Nat) := List.replicate 8 (0, 0)
  oldQueries : List Nat := List.replicate 8 0
  /-- Datagrams handed to the PTP stack with their receive stamps, oldest first (R113). -/
  ptp : List (Nat × Nat × List Byte) := []
  /-- Transmit stamps of the PTP event messages sent, as (port, stamp), oldest first (R122). -/
  ptpSent : List (Nat × Nat) := []
  deriving DecidableEq, Repr

/-- The flacon table beside its registers: the full F of each flacon's latest latch, and the time on the model's monotonic
clock by which its fence clears (R142). -/
structure FlaconState where
  fences : SMap Nat := []
  fenceEnds : SMap Nat := []
  /-- Flacons of which a latch has been refused in the present latch point (R138). -/
  refused : List Nat := []
  deriving DecidableEq, Repr

/-- A flacon's entry as a reader uses it: where the surface lies and what it holds (R136). -/
structure FlaconEntry where
  region : Nat
  base : Nat
  stride : Nat
  layout : Nat
  fmt : Nat
  colorimetry : Nat
  tcs : Nat
  width : Nat
  height : Nat
  size : Nat
  deriving DecidableEq, Repr

/-- A tile's lamp map (R213): width, height, M, n, slot order, D, C, H. -/
structure MapSet where
  w : Nat
  h : Nat
  m : Nat
  n : Nat
  order : Nat
  d : Nat
  c : Nat
  halves : Nat
  deriving DecidableEq, Repr

/-- What a layer takes its pixels from in one frame (R177). -/
inductive LayerSrc where
  | absent
  | flacon (entry : FlaconEntry)
  | ring
  | solid
  deriving DecidableEq, Repr

/-- An enabled layer as latched for a frame: its number, its sixteen words and its source (R172, R176). -/
structure LayerLatch where
  k : Nat
  words : List Word
  src : LayerSrc
  deriving DecidableEq, Repr

/-- One view's accord as latched for a frame: its slot, the header's words 0–3, its layers in ascending number (R172). -/
structure ViewLatch where
  slot : Nat
  header : List Word
  layers : List LayerLatch
  deriving DecidableEq, Repr

/-- All that a frame is composed and shown with, as copied at its latch point (R172, R216, R251). -/
structure FrameLatch where
  frame : Nat
  views : List ViewLatch
  /-- COMP_COEF words, which form the weights of filter 3h (R179). -/
  coef : List Word
  /-- PIPE_BANK. -/
  bank : Nat
  /-- PIPE_CFG.dither_en (R212). -/
  dither : Bool
  /-- Pixel gain and dimming scale of each lamp slot (R209, R211, R252). -/
  gains : List Nat
  dims : List Nat
  /-- Driver gains of the frame's GAIN message, and whether it goes out for both parities (R253, R268). -/
  out : List Nat
  both : Bool
  map : Option MapSet
  /-- Offsets of the masked lamps in the lamp state table, and those of them that give no fill (R266). -/
  masked : List Nat
  noFill : List Nat
  /-- Whether GRAY and timed actions are emitted for the frame (R268). -/
  lit : Bool
  /-- Tile rows, with their view, that have been sent, dropped or fallen back; lines whose deadline has passed. -/
  done : List (Nat × Nat) := []
  passed : List Nat := []
  /-- The frame's GAIN has been sent (R253). -/
  gainSent : Bool := false
  /-- Once-per-frame events raised: COMP_STREAM_MISMATCH, COMP_OVERRUN, PIPE_GROUP_CORRUPT, LL_GRAY_DROP. -/
  mismatch : Bool := false
  overrun : Bool := false
  corrupt : Bool := false
  /-- WCS tiles found corrupt in this frame: the region and base of their surface, and the tile (R135). -/
  badTiles : List (Nat × Nat × Nat) := []
  grayDrop : Bool := false
  deriving DecidableEq, Repr

/-- A packet of a ring port's plan (R188, R189): its stream (view, layer, destination), first wall line, stream offset, bytes,
heart index, due time and latest send time in ns; whether it has been counted late. -/
structure PlanPkt where
  frame : Nat
  view : Nat
  layer : Nat
  dst : Nat
  line : Nat
  offset : Nat
  len : Nat
  index : Nat
  due : Nat
  latest : Nat
  late : Bool := false
  deriving DecidableEq, Repr

/-- Composition, beside its registers (R170 to R193). -/
structure CompState where
  /-- The latched frames still in work, newest first. -/
  frames : List FrameLatch := []
  /-- The copy that each view used in the previous frame, and the slots that have passed the checks at a latch point (R174). -/
  last : List (Option ViewLatch) := [none, none, none, none]
  everPassed : List Nat := []
  /-- The plans of the seven ring ports (R188). -/
  plans : List (List PlanPkt) := List.replicate 7 []
  /-- For each flow, the flacon latched for the last frame and whether a published frame waits to be latched (R177). -/
  flowSeen : List (Option Nat) := List.replicate 16 none
  flowNew : List Bool := List.replicate 16 false
  deriving DecidableEq, Repr

/-- The parameters with which the firmware filled a transfer-table bank (R204). -/
structure TfFill where
  gamma : Nat
  white : Nat
  peak : Nat
  deriving DecidableEq, Repr

/-- The pixel pipeline, beside its registers and tables (R194 to R224). -/
structure PipeState where
  /-- The last valid map (R214). -/
  map : Option MapSet := none
  /-- How the firmware filled each bank, if it has, and the words that differ from that (R204, R218). -/
  fills : List (Option TfFill) := [none, none]
  tables : SMap Word := []
  /-- The refill in progress: the bank and the parameters (R204). -/
  refill : Option (Nat × TfFill) := none
  /-- PIPE_TEMP_STALE has been raised since TCOMP_TEMP was written (R210). -/
  staleRaised : Bool := false
  /-- Frames for which each cluster has not been needed (R221). -/
  idle : List Nat := List.replicate 16 0
  deriving DecidableEq, Repr

/-- Who asked for a DIAG (R240, R245, R246, R256, R260). -/
inductive DiagWho where
  | host
  | ident
  | status
  | headroom
  | sweep
  deriving DecidableEq, Repr

/-- A DIAG request: lane, position, item, clear and requester (R240). -/
structure DiagReq where
  lane : Nat
  pos : Nat
  item : Nat
  clear : Bool
  who : DiagWho
  deriving DecidableEq, Repr

/-- What a fault sweep has read from one driver: its OPEN, SHORT and JUDGED words (R260). -/
structure DriverRead where
  lane : Nat
  pos : Nat
  open_ : Option (List Word) := none
  short : Option (List Word) := none
  judged : Option (List Word) := none
  /-- Requests that have failed and been repeated, and whether the repeat has failed too. -/
  retried : Bool := false
  failed : Bool := false
  deriving DecidableEq, Repr

/-- Lamp lanes and lamp drive, beside their registers (R225 to R272). -/
structure LampState where
  /-- Bring-up step that runs next (R245); 0 outside bring-up. -/
  step : Nat := 0
  /-- Bring-ups started so far, which fix the superframe phase. -/
  starts : Nat := 0
  /-- Bring-up has ended and the lanes run, with or without a valid scan configuration (R244, R245). -/
  ready : Bool := false
  /-- Groups in service, taken at bring-up (R249). -/
  groups : List Bool := List.replicate 16 false
  /-- Per lane: the message words that wait for their slots, each with whether it is a header (R229). -/
  wire : List (List (Word × Bool)) := List.replicate 128 []
  /-- The first superframe that has not been sent, by its number from time 0 (R225). -/
  sent : Nat := 0
  /-- A scan configuration has passed the checks of R244. -/
  everScan : Bool := false
  /-- Per group: the DIAG outstanding, and those that wait. -/
  asked : List (Option DiagReq) := List.replicate 16 none
  queue : List (List DiagReq) := List.replicate 16 []
  /-- Per lane: IDENT answered so far from position 0 (R245). -/
  idents : List Nat := List.replicate 128 0
  /-- Per group: the driver, counted over its lanes and positions, that the next STATUS poll asks (R246). -/
  turn : List Nat := List.replicate 16 0
  /-- CFG indices that go out after the next GAIN (R254), and lanes that are configured again (R246). -/
  cfgDue : List Nat := []
  /-- The next row time of the scan grid: frame, slot g, row s (R321). -/
  grid : Option (Nat × Nat × Nat) := none
  /-- The row time of the last ROW_ADV emitted, while no pulse has used the dead time after its on-window (R238, R265). -/
  lastAdv : Option (Nat × Nat × Nat) := none
  /-- Headroom cycle: drivers still to answer, and the counted replies as (headroom, lane, position) (R256). -/
  hrOpen : Bool := false
  hrLeft : Nat := 0
  hrSeen : List (Nat × Nat × Nat) := []
  /-- Fault sweep in progress and the time it started; drivers whose OPEN read goes first (R256, R260). -/
  sweep : Option (List DriverRead) := none
  sweepAt : Option Nat := none
  front : List (Nat × Nat) := []
  /-- Consecutive sweeps in which each lamp, by its offset in the table, was flagged, and the lamps confirmed in that run
  (R261). -/
  flags : SMap Nat := []
  confirmed : List Nat := []
  /-- Lamps that containment masks with no fill (R266). -/
  noFill : List Nat := []
  /-- Lamps due for a pulse that have had one since the last sweep (R265). -/
  pulsed : List Nat := []
  /-- Driver gains of the last frame before drydown's own (R251, R258). -/
  gains : List Nat := [255, 255, 255, 255]
  /-- The frame at which the present drydown or relighting started (R268). -/
  dryFrom : Nat := 0
  /-- LD_TCOMP_CLIP, LD_VLED_LIMIT bookkeeping: a drydown has started and not ended. -/
  fading : Bool := false
  deriving DecidableEq, Repr

/-- A request in a queue of the memory controller (R157, R159): its port, whether it writes, the identifier of its source, its
64-byte granule, the model's time of its arrival in 0.5 ns. -/
structure DramReq where
  port : Nat
  write : Bool
  source : Nat
  granule : Nat
  data : List Byte
  at_ : Nat
  deriving DecidableEq, Repr

/-- The row-activation table of one bank: entries as (row, count), and the floor (R164). -/
structure RatTable where
  entries : List (Nat × Nat) := []
  floor : Nat := 0
  deriving DecidableEq, Repr

/-- What a channel issues before any request: the neighbour refresh of a row, or an upkeep action (R153, R157, R164). -/
inductive DramDue where
  | neighbour (bank row : Nat)
  | upkeep
  deriving DecidableEq, Repr

/-- One channel of the memory controller (R157). -/
structure DramChannel where
  reads : List DramReq := []
  writes : List DramReq := []
  drain : Bool := false
  due : List DramDue := []
  /-- Open row of each bank that has one, and the row-activation tables, by bank (with the rank above the bank bits). -/
  rows : List (Nat × Nat) := []
  tables : List (Nat × RatTable) := []
  /-- Banks being swept (R165). -/
  sweeping : List Nat := []
  /-- Commands issued in a row while a port was at level 3 (R157). -/
  atThree : Nat := 0
  /-- WCK-to-DQ compensation in force, and a result that waits for a refresh gap (R153). -/
  osc : Nat := 0
  oscDue : Option Nat := none
  /-- Bytes moved in the present ms, that ms, and the load of the ms before (R169). -/
  moved : Nat := 0
  ms : Nat := 0
  load : Nat := 0
  deriving DecidableEq, Repr

/-- The memory controller, beside its registers (R148 to R169). -/
structure DramState where
  /-- DRAM_CFG as sampled when training started. -/
  cfg : Nat := 0
  /-- DRAM_RAT_CFG in force since the last window start (R166). -/
  rat : Nat := 0x80011000
  /-- The channels (R148). -/
  chans : List DramChannel := [{}, {}, {}, {}]
  /-- Requests that wait for room in a queue, or for the controller to serve (R157, R393). -/
  stalled : List DramReq := []
  /-- Granules held in the read buffers of ports 1–3, by port (R155). -/
  held : List Nat := List.replicate 12 0
  /-- Frames in which DRAM_PANIC, and each port's DRAM_UNDERRUN, were last raised (R155, R156). -/
  panicAt : Option Nat := none
  underrunAt : List (Option Nat) := List.replicate 12 none
  /-- The memory holds its contents in self-refresh while the controller is off, with its training results (R163, R407). -/
  asleep : Bool := false
  /-- When a queue last held a request or a port moved a granule, on the monotonic clock (R161). -/
  busyAt : Nat := 0
  /-- The lowest tolerance at the last entry into self-refresh, in 10 ns, if there was a limit, and when that was (R162). -/
  entryTol : Option Nat := none
  entryAt : Nat := 0
  deriving DecidableEq, Repr

/-- What an access does: it reads, it writes, or it modifies, which reads and writes in one (R98). -/
inductive AccessKind where
  | read
  | write
  | modify
  deriving DecidableEq, Repr

/-- An access of a master, or an entry of the stage that is being applied, which waits for its domain or for its turn (R4,
R107, R393): the word's address, the mask and the value. -/
structure WaitingAccess where
  kind : AccessKind
  master : Master
  stage : Option Nat := none
  addr : Nat
  mask : Word := 0
  value : Word := 0
  deriving DecidableEq, Repr

/-- Why domains restart (R394, R399, R403, R405, R409, R420). -/
inductive RestartWhy where
  | none
  | refused
  | wake
  | reset
  deriving DecidableEq, Repr

/-- The power manager, beside its registers (R393 to R412). -/
structure PwrState where
  /-- An attempt is due (R400, R402); the entry timer runs. -/
  due : Bool := false
  timer : Bool := false
  /-- Phase 2: domains of the stop set still to stop, in table order, and those stopped so far, the latest first. -/
  todo : List Nat := []
  stopped : List Nat := []
  /-- Domains that restart, the first of them now; whether that is its second restart (R406); and what ends with the last. -/
  restarts : List Nat := []
  again : Bool := false
  why : RestartWhy := .none
  /-- When the first of them started, in the model's 0.5 ns (R406). -/
  startedAt : Nat := 0
  /-- Domains that a write of enable = 0 has asked to stop and that have not answered yet (R394). -/
  closing : List Nat := []
  /-- Domains that the present sleep state has stopped, the latest first, and those that automatic gating has stopped. -/
  asleep : List Nat := []
  gated : List Nat := []
  /-- Idle length in force of a gated domain where it is not the base length, in µs (R398). -/
  lengths : SMap Nat := []
  /-- Keep records: domain, and its kept words by address (R407). -/
  keep : List (Nat × List (Nat × Word)) := []
  /-- The firmware's copies of register arrays in the store (R407): domain and words by address; and of the transfer tables. -/
  copies : List (Nat × List (Nat × Word)) := []
  tableCopy : Option (List (Option TfFill) × SMap Word) := none
  /-- The retention SRAM, by offset; a byte that nothing has written reads 00h (R407; log 3). -/
  retention : SMap Byte := []
  /-- Hardware has written keep records, the time account or training results into it, whose bytes have no layout (R407). -/
  recorded : Bool := false
  /-- Words of that part that a master has written since, by offset. -/
  written : List Nat := []
  /-- Register writes that wait for a domain, oldest first. -/
  waits : List WaitingAccess := []
  /-- The model's time of the last watchdog kick, in 0.5 ns (R409). -/
  kicked : Nat := 0
  deriving DecidableEq, Repr

/-- A temperature sensor (R377 to R382): its reports with the sensor's own time in ms, newest first, good reports in a row
since it became bad, whether it is bad, and whether it is rising. -/
structure Sensor where
  now : Nat := 0
  hist : List (Nat × Nat) := []
  good : Nat := 0
  bad : Bool := false
  rising : Bool := false
  deriving DecidableEq, Repr

/-- A calibration item (R386 to R389): slices still to take, the last slice's report, and a judged result that waits for the
boundary, with whether it is within limits; the free value that names the measurement in force. -/
structure CalItem where
  left : Nat := 0
  report : Nat := 0
  ended : Bool := false
  result : Option (Bool × Nat) := none
  applied : Option Nat := none
  deriving DecidableEq, Repr

/-- Temperature and calibration, beside its registers (R377 to R392). -/
structure ThermState where
  sensors : List Sensor := List.replicate 12 {}
  items : List CalItem := List.replicate 4 {}
  /-- The model's time, in 0.5 ns, at which ADC_RANGE was last raised for each channel (R390). -/
  rangeAt : List (Option Nat) := List.replicate 8 none
  /-- When the last blanking slice started, in the model's 0.5 ns (R388). -/
  sliceAt : Nat := 0
  deriving DecidableEq, Repr

/-- What runs on HK_0 (R420, R384, R433). -/
inductive RunMode where
  | rom
  | tripped
  | recovery
  | firmware
  deriving DecidableEq, Repr

/-- An update session (R421, R422): its id, length, version words, the slot it writes, and the sectors still to erase. -/
structure UpdSession where
  id : Nat
  length : Nat
  version : Nat
  svn : Nat
  slot : Nat
  erase : Nat
  deriving DecidableEq, Repr

/-- Boot, firmware and security, beside its registers (R413 to R435), and the flash and OTP cells they act on. -/
structure BootState where
  mode : RunMode := .rom
  /-- The external flash, by offset; an erased byte reads FFh. Its size in bytes. -/
  flash : SMap Byte := []
  flashBytes : Nat := 0x4000000
  /-- OTP security version entries written so far, oldest first (R431), and the owner lock bit (R432). -/
  otpSvn : List Nat := []
  otpLock : Bool := false
  /-- The handed-over image has not started (R430); its header words 0–5. -/
  startDue : Bool := false
  header : List Nat := []
  /-- The slot that runs (R420); BOOT_INFO.slot, which shows it, returns to its reset value when PD_02 restarts (R407). -/
  running : Nat := 0
  /-- The update session (R421). -/
  session : Option UpdSession := none
  /-- FIRMWARE_DATA blocks that wait to be programmed: slot offset and bytes (R423). -/
  places : List (Nat × List Byte) := []
  /-- The armed epoch and activation (R425); after UPD_RECOVER, its reset (R422). -/
  armed : Option Nat := none
  recoverDue : Bool := false
  /-- The trial slot and the model's time of its hand-over in 0.5 ns; whether its deadline has passed (R427). -/
  trial : Option (Nat × Nat) := none
  deadline : Nat := 0
  deadlinePast : Bool := false
  /-- The boot record is to be rewritten as confirmed (R420, R422). -/
  rewriteDue : Bool := false
  /-- Settings that are still to be written: migrate code and data (R430). -/
  settingsDue : Option (Nat × List Byte) := none
  /-- svn to which the OTP version is to be raised (R428). -/
  svnDue : Option Nat := none
  /-- The slot that failed verification first, when the ROM is in recovery (R433). -/
  failed : Nat := 0
  /-- Relay-form UPD_BLOCK in emission (R423). -/
  emission : Option Emission := none
  deriving DecidableEq, Repr

/-- A relay entry: ring port, sequence, type, destination and message (R345, R354). -/
structure RelayEntry where
  port : Nat
  seq : Nat
  typ : Nat
  dst : Nat
  msg : List Byte
  /-- When a relay entry arrived, in the model's 0.5 ns (R345). -/
  at_ : Nat := 0
  deriving DecidableEq, Repr

/-- A chunk of a snapshot: kind, target and, once copied, its data; a memory chunk is copied when it is sent (R357, R358). -/
structure SnapChunk where
  kind : Nat
  target : Nat
  length : Nat
  data : Option (List Byte)
  deriving DecidableEq, Repr

/-- A snapshot being sent: its epoch, j_start, frame, refill flag, chunks, the index that goes next, and the ccheck values of
the chunks sent (R357, R358). -/
structure SnapOut where
  epoch : Nat
  jstart : Nat
  frame : Nat
  refill : Bool
  chunks : List SnapChunk
  next : Nat := 0
  checks : List Nat := []
  deriving DecidableEq, Repr

/-- A snapshot being received: what its header says and its chunks by index, with their ccheck values (R358). -/
structure SnapIn where
  epoch : Nat
  jstart : Nat := 0
  count : Option Nat := none
  refill : Bool := false
  total : Nat := 0
  chunks : List (Nat × SnapChunk × Nat) := []
  trailer : Option Nat := none
  deriving DecidableEq, Repr

/-- Sender redundancy, beside its registers (R341 to R363). -/
structure RedState where
  /-- The listen time runs, and the state last heard from the partner in it (R342). -/
  listening : Bool := false
  heard : Option Nat := none
  /-- Bytes 16–19 of the partner's last heartbeat (R361). -/
  partnerWord : Nat := 0
  /-- The snap_req bit of this member's heartbeats (R349). -/
  snapReq : Bool := false
  /-- ACTIVE_CLAIM packets still to send, and their cause (R350). -/
  claims : Nat := 0
  cause : Nat := 0
  /-- Paths that have been silent for miss × hb_us: ring ports 0–6 and the tie path (R351). -/
  silent : List Bool := List.replicate 8 true
  /-- Per ring port: frame and index of the next base-note sequence of the active member (R74). -/
  baseSeq : List (Nat × Nat) := List.replicate 7 (0, 0)
  /-- Per ring port: the frame until which base messages are held after a promotion, and those that are held (R352). -/
  holdUntil : List (Option Nat) := List.replicate 7 none
  heldMsgs : List RelayEntry := []
  /-- Highest base index, message length included, that the journal holds for each ring port, with its frame (R352). -/
  journalHigh : List (Nat × Nat) := List.replicate 7 (0, 0)
  /-- Relay entries the standby has still to emit (R345). -/
  relays : List RelayEntry := []
  /-- Latch entries by frame: flow, repaired flag, RTP timestamp (R344). -/
  entries : List (Nat × List (Nat × Bool × Nat)) := []
  /-- Flow layers that the entry in force names: flow and RTP timestamp (R344). -/
  named : List (Nat × Nat) := []
  /-- A frame whose accord latch waits for its entry, and frames whose heart packets are held (R344). -/
  deferred : Option Nat := none
  held : List Nat := []
  /-- Command entries executed or held, as received, from j_start of the snapshot in hand (R358, R359). -/
  heldJournal : List (List Byte) := []
  /-- A gap in the journal has been recorded since the last entry that arrived in order (R356). -/
  gapKnown : Bool := false
  /-- A journal gap has been recorded since the last snapshot was applied (R352, R359). -/
  gapSince : Bool := false
  /-- The last entry number that a gap has left out (R343, R356). -/
  missed : Option Nat := none
  /-- The partner has asked for a snapshot (R357); the one being sent, and the one being received (R358). -/
  snapWanted : Bool := false
  snapOut : Option SnapOut := none
  snapIn : Option SnapIn := none
  /-- sync sets from the next latch point (R359). -/
  syncDue : Bool := false
  /-- A snapshot has been applied or confirmed since reset (R359). -/
  everApplied : Bool := false
  /-- An automatic swap has been requested and is not armed yet (R360). -/
  swapWanted : Bool := false
  /-- A pending swap entry of the standby (R360). -/
  swapAt : Option Nat := none
  /-- Flacons whose last published frame holds copied tiles (R344). -/
  repaired : List Nat := []
  /-- RED_BUF has been used since reset (R357, R358). -/
  bufUsed : Bool := false
  /-- hb_us that a tile has taken from each port's last heartbeat (R347). -/
  tileHb : List Nat := [1000, 1000]
  deriving DecidableEq, Repr

/-- The chip outside its blocks: role, straps and pins. -/
structure Board where
  role : Role := .tile
  /-- BOOT_SEL as sampled (R418, R457). -/
  bootSel : Nat := 0
  /-- Level of the RESET_N pad. -/
  resetHigh : Bool := true
  /-- The straps have not been sampled since RESET_N rose (R457). -/
  strapsDue : Bool := false
  /-- The trip latch drives THERM_TRIP_N low, with PS_PWM and the lamp lane pins (R383). -/
  tripPadLow : Bool := false
  /-- The settings record declares DRAM fitted to a tile (R14). -/
  dramDeclared : Bool := false
  deriving DecidableEq, Repr

/-- The whole state: the queue of waiting commands, the register map, the memories, and one structure per chapter. -/
structure State where
  /-- Commands that wait, first in, first out (the host's queue of this model). -/
  pending : List Instr := []
  board : Board := {}
  regs : SMap Word := []
  /-- The shared store, 24 MiB at 1000_0000h (R436). -/
  store : SMap Byte := []
  /-- The external memory behind the DRAM controller, by offset (R149). -/
  dram : SMap Byte := []
  eth : EthState := {}
  flac : FlaconState := {}
  evt : EvtState := {}
  lanes : List Lane := List.replicate 16 {}
  ports : List Port := List.replicate 8 {}
  time : TimeState := {}
  wt : WtState := {}
  ce : CeState := {}
  enumr : EnumState := {}
  cmd : CmdState := {}
  pkt : PktState := {}
  comp : CompState := {}
  pipe : PipeState := {}
  lamp : LampState := {}
  dramc : DramState := {}
  pwr : PwrState := {}
  therm : ThermState := {}
  boot : BootState := {}
  red : RedState := {}
  /-- The free values used so far: the model's own counter, no state of the spec (DESIGN CHOICE, log 5). -/
  freeCnt : Nat := 0
  /-- What has left the device, newest first: the model's own record (DESIGN CHOICE, log 6). -/
  emitted : List Emit := []
  deriving DecidableEq, Repr

/-- The machine right after a power-on reset with RESET_N high and the role strap's pull-down in force: every register at its
reset word (the map lists nothing), memories with nothing written, every queue empty. -/
def State.reset : State := {}

end Sys2Proof.Machine
end

