-- ==== Sys2Proof/Machine/Regs.lean ====
section
/-! DEFINITION. The register map: every register's address, fields, access codes and reset values, as the register
tables of spec/01 to spec/20 give them (R25, R32, R60, R87, R109, R127, R147, R169, R193, R218, R224, R249, R272, R290,
R317, R340, R363, R376, R392, R411, R434, R442, R443). Each field of spec's tables is one constant `Fld`, named as the
spec names it; each table is one row of `regTable`. -/

namespace Sys2Proof.Machine

/-- A bit field of a register, or of a family of `count` registers `stride` bytes apart: bits `hi` to `lo` of the word at
`base`. -/
structure Fld where
  base : Nat
  stride : Nat
  count : Nat
  hi : Nat
  lo : Nat
  deriving DecidableEq, Repr

/-- The access codes of R11 and R440. `rwSender`: RW in sender role, RO on a tile (R340). -/
inductive Access where
  | rw | ro | wo | w1c | w1s | rc | rwl | rwSender
  deriving DecidableEq, Repr

/-- One field of a register table: its place, its access code and its reset value. -/
structure FieldDesc where
  fld : Fld
  acc : Access
  reset : Nat
  deriving DecidableEq, Repr

/-- One register table of the spec: `count` registers from `base`, `stride` bytes apart; the instances from `tileLo` up to
(not including) `tileHi` exist in tile role, those from `senderLo` up to `senderHi` in sender role (the others read 0 and
ignore writes); `domain` is the power domain that gates them (R436). -/
structure RegDesc where
  base : Nat
  stride : Nat
  count : Nat
  tileLo : Nat
  tileHi : Nat
  senderLo : Nat
  senderHi : Nat
  domain : Nat
  fields : List FieldDesc
  deriving Repr

/-- Hardware priority of DRAM port `n` at reset (R154). -/
def dramPriorityReset (n : Nat) : Nat :=
  [4, 6, 6, 6, 3, 3, 2, 2, 2, 5, 1, 2].getD n 0

/-! ### Fields of spec/04_command_packets.md (R109) -/

def F.CMD_CFG_fanout_tmo : Fld := ⟨0x200, 0, 1, 31, 16⟩
def F.CMD_CFG_hspi_irq_en : Fld := ⟨0x200, 0, 1, 0, 0⟩
def F.CMD_STAT_queue_used : Fld := ⟨0x204, 0, 1, 23, 16⟩
def F.CMD_STAT_buffer_free : Fld := ⟨0x204, 0, 1, 15, 0⟩
def F.CMD_COUNT_bad_magic : Fld := ⟨0x208, 0, 1, 31, 24⟩
def F.CMD_COUNT_check_fail : Fld := ⟨0x208, 0, 1, 23, 16⟩
def F.CMD_COUNT_length : Fld := ⟨0x208, 0, 1, 15, 8⟩
def F.CMD_COUNT_busy : Fld := ⟨0x208, 0, 1, 7, 0⟩
def F.STAGE_STAT_stages : Fld := ⟨0x20C, 0, 1, 18, 16⟩
def F.STAGE_STAT_entries_free : Fld := ⟨0x20C, 0, 1, 15, 0⟩
def F.CMD_FANOUT_STAT_extra_dropped : Fld := ⟨0x210, 0, 1, 15, 0⟩

/-! ### Fields of spec/20_register_map.md (R442, R443) -/

def F.ID_VENDOR_vendor : Fld := ⟨0, 0, 1, 31, 0⟩
def F.ID_PART_family : Fld := ⟨4, 0, 1, 31, 16⟩
def F.ID_PART_part : Fld := ⟨4, 0, 1, 15, 0⟩
def F.ID_REV_letter : Fld := ⟨8, 0, 1, 31, 24⟩
def F.ID_REV_number : Fld := ⟨8, 0, 1, 23, 16⟩
def F.ID_REV_rom : Fld := ⟨8, 0, 1, 15, 0⟩
def F.ID_STRAP_role : Fld := ⟨0xC, 0, 1, 31, 31⟩
def F.ID_STRAP_boot_sel : Fld := ⟨0xC, 0, 1, 30, 29⟩
def F.ID_STRAP_grade : Fld := ⟨0xC, 0, 1, 28, 28⟩
def F.ID_SERIAL_HI_serial : Fld := ⟨0x10, 0, 1, 31, 0⟩
def F.ID_SERIAL_LO_serial : Fld := ⟨0x14, 0, 1, 31, 0⟩
def F.ID_FEATURE_store_mib : Fld := ⟨0x18, 0, 1, 31, 24⟩
def F.ID_FEATURE_clusters : Fld := ⟨0x18, 0, 1, 23, 16⟩
def F.ID_FEATURE_lamp_lanes : Fld := ⟨0x18, 0, 1, 15, 8⟩
def F.ID_FEATURE_sds_lanes : Fld := ⟨0x18, 0, 1, 7, 0⟩
def F.ID_CHECK_check : Fld := ⟨0x1C, 0, 1, 31, 0⟩
def F.GLB_BOARD_locked : Fld := ⟨0x100, 0, 1, 31, 31⟩
def F.GLB_BOARD_commit : Fld := ⟨0x100, 0, 1, 30, 30⟩
def F.GLB_BOARD_board : Fld := ⟨0x100, 0, 1, 23, 0⟩
def F.GLB_IGN_ADDR_address : Fld := ⟨0x104, 0, 1, 31, 0⟩
def F.GLB_IGN_COUNT_count : Fld := ⟨0x108, 0, 1, 15, 0⟩

/-! ### Fields of spec/16_events_and_faults.md (R376) -/

def F.EVT_CTRL_ack : Fld := ⟨0x10000, 0, 1, 0, 0⟩
def F.EVT_REACT_class3 : Fld := ⟨0x10004, 0, 1, 15, 12⟩
def F.EVT_REACT_class2 : Fld := ⟨0x10004, 0, 1, 11, 8⟩
def F.EVT_REACT_class1 : Fld := ⟨0x10004, 0, 1, 7, 4⟩
def F.EVT_CAUSE_running : Fld := ⟨0x10008, 0, 1, 31, 31⟩
def F.EVT_CAUSE_escalated : Fld := ⟨0x10008, 0, 1, 30, 30⟩
def F.EVT_CAUSE_class : Fld := ⟨0x10008, 0, 1, 29, 28⟩
def F.EVT_CAUSE_first_class : Fld := ⟨0x10008, 0, 1, 27, 26⟩
def F.EVT_CAUSE_escalated_by : Fld := ⟨0x10008, 0, 1, 23, 16⟩
def F.EVT_CAUSE_merged : Fld := ⟨0x10008, 0, 1, 15, 8⟩
def F.EVT_CAUSE_first : Fld := ⟨0x10008, 0, 1, 7, 0⟩
def F.EVT_CAUSE_SEC_value : Fld := ⟨0x1000C, 0, 1, 31, 0⟩
def F.EVT_CAUSE_NS_value : Fld := ⟨0x10010, 0, 1, 31, 0⟩
def F.EVT_TEST_go : Fld := ⟨0x10014, 0, 1, 31, 31⟩
def F.EVT_TEST_source : Fld := ⟨0x10014, 0, 1, 7, 0⟩
def F.EVT_STAT_sticky : Fld := ⟨0x10100, 4, 8, 31, 0⟩
def F.EVT_PEND_pending : Fld := ⟨0x10120, 4, 8, 31, 0⟩
def F.EVT_MASK_mask : Fld := ⟨0x10140, 4, 8, 31, 0⟩
def F.EVT_CLASS_class : Fld := ⟨0x10180, 4, 16, 31, 0⟩

/-! ### Fields of spec/18_power_states.md (R411) -/

def F.PWR_CTRL_ring_grant : Fld := ⟨0x20000, 0, 1, 23, 16⟩
def F.PWR_CTRL_awake : Fld := ⟨0x20000, 0, 1, 12, 12⟩
def F.PWR_CTRL_auto_state : Fld := ⟨0x20000, 0, 1, 11, 8⟩
def F.PWR_CTRL_target : Fld := ⟨0x20000, 0, 1, 3, 0⟩
def F.PWR_STAT_state : Fld := ⟨0x20004, 0, 1, 31, 28⟩
def F.PWR_STAT_phase : Fld := ⟨0x20004, 0, 1, 27, 26⟩
def F.PWR_STAT_retain_fail : Fld := ⟨0x20004, 0, 1, 25, 0⟩
def F.PWR_IDLE_CFG_backoff : Fld := ⟨0x20008, 0, 1, 31, 16⟩
def F.PWR_IDLE_CFG_base_ms : Fld := ⟨0x20008, 0, 1, 15, 0⟩
def F.PWR_CFG_quiesce_ms : Fld := ⟨0x2000C, 0, 1, 15, 0⟩
def F.PWR_KEEP_dram_sr : Fld := ⟨0x20010, 0, 1, 2, 2⟩
def F.PWR_KEEP_hush_store : Fld := ⟨0x20010, 0, 1, 1, 0⟩
def F.PWR_WAKE_EN_lanes : Fld := ⟨0x20014, 0, 1, 22, 7⟩
def F.PWR_WAKE_EN_sources : Fld := ⟨0x20014, 0, 1, 6, 0⟩
def F.PWR_WAKE_SRC_sources : Fld := ⟨0x20018, 0, 1, 6, 0⟩
def F.PWR_REFUSE_domain : Fld := ⟨0x2001C, 0, 1, 31, 24⟩
def F.PWR_REFUSE_phase : Fld := ⟨0x2001C, 0, 1, 23, 20⟩
def F.PWR_REFUSE_state : Fld := ⟨0x2001C, 0, 1, 19, 16⟩
def F.PWR_REFUSE_count : Fld := ⟨0x2001C, 0, 1, 15, 0⟩
def F.PWR_ALARM_count : Fld := ⟨0x20020, 0, 1, 31, 0⟩
def F.PWR_RESET_CAUSE_cause : Fld := ⟨0x20024, 0, 1, 1, 0⟩
def F.HK_WDOG_kick : Fld := ⟨0x20028, 0, 1, 31, 31⟩
def F.HK_WDOG_timeout_ms : Fld := ⟨0x20028, 0, 1, 15, 0⟩
def F.PWR_RET_WIN_half : Fld := ⟨0x2002C, 0, 1, 0, 0⟩
def F.PD_CTRL_enable : Fld := ⟨0x20100, 4, 33, 31, 31⟩
def F.PD_CTRL_auto : Fld := ⟨0x20100, 4, 33, 30, 30⟩
def F.PD_CTRL_state : Fld := ⟨0x20100, 4, 33, 29, 28⟩
def F.PD_CTRL_dead : Fld := ⟨0x20100, 4, 33, 27, 27⟩
def F.PD_CTRL_idle_us : Fld := ⟨0x20100, 4, 33, 15, 0⟩

/-! ### Fields of spec/17_thermal_and_calibration.md (R392) -/

def F.THERM_CFG_warn : Fld := ⟨0x30000, 0, 1, 31, 24⟩
def F.THERM_CFG_throttle : Fld := ⟨0x30000, 0, 1, 23, 16⟩
def F.THERM_CFG_critical : Fld := ⟨0x30000, 0, 1, 15, 8⟩
def F.THERM_CFG_hyst : Fld := ⟨0x30000, 0, 1, 7, 4⟩
def F.THERM_RATE_CFG_rate : Fld := ⟨0x30004, 0, 1, 15, 8⟩
def F.THERM_RATE_CFG_window : Fld := ⟨0x30004, 0, 1, 7, 0⟩
def F.THERM_STAT_tripped : Fld := ⟨0x30008, 0, 1, 31, 31⟩
def F.THERM_STAT_critical : Fld := ⟨0x30008, 0, 1, 30, 30⟩
def F.THERM_STAT_throttle : Fld := ⟨0x30008, 0, 1, 29, 29⟩
def F.THERM_STAT_warn : Fld := ⟨0x30008, 0, 1, 28, 28⟩
def F.THERM_STAT_rate : Fld := ⟨0x30008, 0, 1, 27, 27⟩
def F.THERM_STAT_flash_ok : Fld := ⟨0x30008, 0, 1, 26, 26⟩
def F.THERM_STAT_otp_ok : Fld := ⟨0x30008, 0, 1, 25, 25⟩
def F.THERM_STAT_sensor_bad : Fld := ⟨0x30008, 0, 1, 23, 12⟩
def F.THERM_JUNC_max : Fld := ⟨0x3000C, 0, 1, 31, 16⟩
def F.THERM_JUNC_min : Fld := ⟨0x3000C, 0, 1, 15, 0⟩
def F.THERM_BRIGHT_cap : Fld := ⟨0x30010, 0, 1, 15, 0⟩
def F.THERM_TEMP_valid : Fld := ⟨0x30040, 4, 12, 16, 16⟩
def F.THERM_TEMP_temp : Fld := ⟨0x30040, 4, 12, 15, 0⟩
def F.THERM_TRIP_LOG_tripped : Fld := ⟨0x30070, 0, 1, 31, 31⟩
def F.THERM_TRIP_LOG_sensor : Fld := ⟨0x30070, 0, 1, 19, 16⟩
def F.THERM_TRIP_LOG_temp : Fld := ⟨0x30070, 0, 1, 15, 0⟩
def F.CAL_CTRL_hold : Fld := ⟨0x30100, 0, 1, 19, 16⟩
def F.CAL_CTRL_start : Fld := ⟨0x30100, 0, 1, 3, 0⟩
def F.CAL_CFG_delta : Fld := ⟨0x30104, 0, 1, 15, 8⟩
def F.CAL_CFG_slice_us : Fld := ⟨0x30104, 0, 1, 7, 0⟩
def F.CAL_STAT_busy : Fld := ⟨0x30108, 0, 1, 27, 24⟩
def F.CAL_STAT_fail : Fld := ⟨0x30108, 0, 1, 19, 16⟩
def F.CAL_STAT_runs : Fld := ⟨0x30108, 0, 1, 15, 0⟩
def F.CAL_TLAST_frame : Fld := ⟨0x30110, 4, 4, 31, 16⟩
def F.CAL_TLAST_temp : Fld := ⟨0x30110, 4, 4, 15, 0⟩

/-! ### Fields of spec/13_time_unit.md (R317) -/

def F.TIME_CTRL_step_load : Fld := ⟨0x40000, 0, 1, 1, 1⟩
def F.TIME_CTRL_step_go : Fld := ⟨0x40000, 0, 1, 0, 0⟩
def F.TIME_STAT_locked : Fld := ⟨0x40004, 0, 1, 31, 31⟩
def F.TIME_STAT_estimated : Fld := ⟨0x40004, 0, 1, 30, 30⟩
def F.TIME_STAT_holdover : Fld := ⟨0x40004, 0, 1, 29, 29⟩
def F.TIME_STAT_adj_busy : Fld := ⟨0x40004, 0, 1, 28, 28⟩
def F.TIME_STAT_path_est : Fld := ⟨0x40004, 0, 1, 27, 27⟩
def F.TIME_STAT_follow_b : Fld := ⟨0x40004, 0, 1, 26, 26⟩
def F.TIME_INCR_incr : Fld := ⟨0x40010, 0, 1, 31, 0⟩
def F.TIME_NOW_SEC_HI_value : Fld := ⟨0x40020, 0, 1, 31, 0⟩
def F.TIME_NOW_SEC_LO_value : Fld := ⟨0x40024, 0, 1, 31, 0⟩
def F.TIME_NOW_NS_value : Fld := ⟨0x40028, 0, 1, 31, 0⟩
def F.TIME_NOW_FRAC_value : Fld := ⟨0x4002C, 0, 1, 31, 0⟩
def F.TIME_STEP_SEC_HI_value : Fld := ⟨0x40030, 0, 1, 31, 0⟩
def F.TIME_STEP_SEC_LO_value : Fld := ⟨0x40034, 0, 1, 31, 0⟩
def F.TIME_STEP_NS_value : Fld := ⟨0x40038, 0, 1, 31, 0⟩
def F.TIME_ADJ_delta : Fld := ⟨0x40040, 0, 1, 31, 0⟩
def F.TIME_ADJ_CNT_go : Fld := ⟨0x40044, 0, 1, 31, 31⟩
def F.TIME_ADJ_CNT_count : Fld := ⟨0x40044, 0, 1, 30, 0⟩
def F.TIME_ERR_offset : Fld := ⟨0x40048, 0, 1, 31, 0⟩
def F.TIME_RING_CFG_sync_us : Fld := ⟨0x40050, 0, 1, 31, 16⟩
def F.TIME_RING_CFG_p2p_us : Fld := ⟨0x40050, 0, 1, 15, 0⟩
def F.TIME_SERVO_CFG_auto_step : Fld := ⟨0x40054, 0, 1, 31, 31⟩
def F.TIME_SERVO_CFG_follow : Fld := ⟨0x40054, 0, 1, 30, 29⟩
def F.TIME_SERVO_CFG_lock_ns : Fld := ⟨0x40054, 0, 1, 23, 16⟩
def F.TIME_SERVO_CFG_agree_ns : Fld := ⟨0x40054, 0, 1, 15, 8⟩
def F.TIME_SERVO_CFG_link_def : Fld := ⟨0x40054, 0, 1, 7, 0⟩
def F.TIME_RES_cw : Fld := ⟨0x40058, 0, 1, 31, 16⟩
def F.TIME_RES_ccw : Fld := ⟨0x40058, 0, 1, 15, 0⟩
def F.TIME_AON_PER_XT_period : Fld := ⟨0x40060, 0, 1, 31, 0⟩
def F.TIME_AON_PER_RC_period : Fld := ⟨0x40064, 0, 1, 31, 0⟩
def F.TIME_AON_MEAS_period : Fld := ⟨0x4006C, 0, 1, 31, 0⟩
def F.TIME_AON_TOL_rc : Fld := ⟨0x40068, 0, 1, 31, 16⟩
def F.TIME_AON_TOL_xt : Fld := ⟨0x40068, 0, 1, 15, 0⟩
def F.TIME_SLEEP_unbounded : Fld := ⟨0x40070, 0, 1, 31, 31⟩
def F.TIME_SLEEP_src_now : Fld := ⟨0x40070, 0, 1, 30, 30⟩
def F.TIME_SLEEP_segments : Fld := ⟨0x40070, 0, 1, 29, 28⟩
def F.TIME_SLEEP_uncert : Fld := ⟨0x40070, 0, 1, 27, 0⟩
def F.TIME_LINK_valid : Fld := ⟨0x40100, 0x10, 8, 31, 31⟩
def F.TIME_LINK_delay : Fld := ⟨0x40100, 0x10, 8, 23, 0⟩
def F.TIME_OFS_offset : Fld := ⟨0x40104, 0x10, 8, 31, 0⟩
def F.TIME_RING_TOT_hops : Fld := ⟨0x40108, 0x10, 7, 31, 24⟩
def F.TIME_RING_TOT_total : Fld := ⟨0x40108, 0x10, 7, 23, 0⟩
def F.TIME_RING_HOP_hop_max : Fld := ⟨0x4010C, 0x10, 7, 31, 16⟩
def F.TIME_RING_HOP_flight : Fld := ⟨0x4010C, 0x10, 7, 15, 0⟩
def F.EVT_OUT_CTRL_enable : Fld := ⟨0x40200, 0x20, 8, 31, 31⟩
def F.EVT_OUT_CTRL_mode : Fld := ⟨0x40200, 0x20, 8, 30, 29⟩
def F.EVT_OUT_CTRL_invert : Fld := ⟨0x40200, 0x20, 8, 28, 28⟩
def F.EVT_OUT_CTRL_late : Fld := ⟨0x40200, 0x20, 8, 27, 27⟩
def F.EVT_OUT_CTRL_active : Fld := ⟨0x40200, 0x20, 8, 26, 26⟩
def F.EVT_OUT_CTRL_sec_hi : Fld := ⟨0x40200, 0x20, 8, 15, 0⟩
def F.EVT_OUT_SEC_value : Fld := ⟨0x40204, 0x20, 8, 31, 0⟩
def F.EVT_OUT_NS_value : Fld := ⟨0x40208, 0x20, 8, 31, 0⟩
def F.EVT_OUT_PER_NS_value : Fld := ⟨0x4020C, 0x20, 8, 31, 0⟩
def F.EVT_OUT_PER_FRAC_value : Fld := ⟨0x40210, 0x20, 8, 31, 0⟩
def F.EVT_OUT_WIDTH_value : Fld := ⟨0x40214, 0x20, 8, 31, 0⟩
def F.EVT_OUT_COUNT_skipped : Fld := ⟨0x40218, 0x20, 8, 31, 16⟩
def F.EVT_OUT_COUNT_pulses : Fld := ⟨0x40218, 0x20, 8, 15, 0⟩
def F.EVT_IN_CFG_enable : Fld := ⟨0x40300, 0x10, 8, 31, 31⟩
def F.EVT_IN_CFG_edge : Fld := ⟨0x40300, 0x10, 8, 30, 29⟩
def F.EVT_IN_CFG_fill : Fld := ⟨0x40300, 0x10, 8, 20, 16⟩
def F.EVT_IN_CFG_overflow : Fld := ⟨0x40300, 0x10, 8, 15, 0⟩
def F.EVT_IN_SEC_value : Fld := ⟨0x40304, 0x10, 8, 31, 0⟩
def F.EVT_IN_NS_value : Fld := ⟨0x40308, 0x10, 8, 31, 0⟩
def F.EVT_IN_FRAC_valid : Fld := ⟨0x4030C, 0x10, 8, 31, 31⟩
def F.EVT_IN_FRAC_rising : Fld := ⟨0x4030C, 0x10, 8, 30, 30⟩
def F.EVT_IN_FRAC_quarter : Fld := ⟨0x4030C, 0x10, 8, 1, 0⟩

/-! ### Fields of spec/14_wall_timing.md (R340) -/

def F.WT_REC_0_lines : Fld := ⟨0x40400, 0, 1, 31, 16⟩
def F.WT_REC_0_views : Fld := ⟨0x40400, 0, 1, 9, 8⟩
def F.WT_REC_0_rate : Fld := ⟨0x40400, 0, 1, 7, 0⟩
def F.WT_REC_1_offset : Fld := ⟨0x40404, 0, 1, 31, 0⟩
def F.WT_CFG_min_lead : Fld := ⟨0x40408, 0, 1, 31, 24⟩
def F.WT_CFG_pair_ns : Fld := ⟨0x40408, 0, 1, 23, 16⟩
def F.WT_CFG_slip_ns : Fld := ⟨0x40408, 0, 1, 15, 0⟩
def F.WT_TILE_CFG_block_align : Fld := ⟨0x4040C, 0, 1, 31, 31⟩
def F.WT_TILE_CFG_guard_ns : Fld := ⟨0x4040C, 0, 1, 30, 16⟩
def F.WT_TILE_CFG_hold_ms : Fld := ⟨0x4040C, 0, 1, 15, 0⟩
def F.WT_STAT_rec_valid : Fld := ⟨0x40410, 0, 1, 31, 31⟩
def F.WT_STAT_pending : Fld := ⟨0x40410, 0, 1, 30, 30⟩
def F.WT_STAT_holdover : Fld := ⟨0x40410, 0, 1, 29, 29⟩
def F.WT_STAT_no_master : Fld := ⟨0x40410, 0, 1, 28, 28⟩
def F.WT_STAT_timing_dark : Fld := ⟨0x40410, 0, 1, 27, 27⟩
def F.WT_STAT_reason : Fld := ⟨0x40410, 0, 1, 26, 24⟩
def F.WT_FRAME_HI_frame : Fld := ⟨0x40414, 0, 1, 31, 0⟩
def F.WT_FRAME_LO_frame : Fld := ⟨0x40418, 0, 1, 31, 0⟩
def F.WT_PEND_0_value : Fld := ⟨0x4041C, 0, 1, 31, 0⟩
def F.WT_PEND_1_value : Fld := ⟨0x40420, 0, 1, 31, 0⟩
def F.WT_PEND_F_HI_value : Fld := ⟨0x40424, 0, 1, 31, 0⟩
def F.WT_PEND_F_LO_value : Fld := ⟨0x40428, 0, 1, 31, 0⟩
def F.WT_RESV_HI_frame : Fld := ⟨0x4042C, 0, 1, 31, 0⟩
def F.WT_RESV_LO_frame : Fld := ⟨0x40430, 0, 1, 31, 0⟩
def F.WT_PHASE_lag_3 : Fld := ⟨0x40434, 0, 1, 31, 31⟩
def F.WT_PHASE_lag_2 : Fld := ⟨0x40434, 0, 1, 23, 23⟩
def F.WT_PHASE_lag_1 : Fld := ⟨0x40434, 0, 1, 15, 15⟩
def F.WT_PHASE_lag_0 : Fld := ⟨0x40434, 0, 1, 7, 7⟩
def F.WT_PHASE_p_3 : Fld := ⟨0x40434, 0, 1, 30, 24⟩
def F.WT_PHASE_p_2 : Fld := ⟨0x40434, 0, 1, 22, 16⟩
def F.WT_PHASE_p_1 : Fld := ⟨0x40434, 0, 1, 14, 8⟩
def F.WT_PHASE_p_0 : Fld := ⟨0x40434, 0, 1, 6, 0⟩
def F.WT_SLIPS_slips : Fld := ⟨0x40438, 0, 1, 15, 0⟩
def F.WT_EVT_view : Fld := ⟨0x40440, 4, 8, 31, 30⟩
def F.WT_EVT_div : Fld := ⟨0x40440, 4, 8, 29, 26⟩
def F.WT_EVT_phase : Fld := ⟨0x40440, 4, 8, 25, 22⟩
def F.WT_EVT_lead : Fld := ⟨0x40440, 4, 8, 21, 0⟩

/-! ### Fields of spec/12_control_engine.md (R290) -/

def F.CE_CTRL_cnt_clear : Fld := ⟨0x50000, 0, 1, 1, 1⟩
def F.CE_CTRL_enable : Fld := ⟨0x50000, 0, 1, 0, 0⟩
def F.CE_LOAD_rt_slots : Fld := ⟨0x50004, 0, 1, 21, 16⟩
def F.CE_LOAD_load : Fld := ⟨0x50004, 0, 1, 10, 0⟩
def F.CE_PWM_CFG_enable : Fld := ⟨0x50008, 0, 1, 31, 31⟩
def F.CE_PWM_CFG_phases : Fld := ⟨0x50008, 0, 1, 29, 28⟩
def F.CE_PWM_CFG_dmax : Fld := ⟨0x50008, 0, 1, 27, 16⟩
def F.CE_PWM_CFG_period : Fld := ⟨0x50008, 0, 1, 11, 0⟩
def F.CE_ADC_CFG_sync : Fld := ⟨0x5000C, 0, 1, 23, 16⟩
def F.CE_ADC_CFG_chan_en : Fld := ⟨0x5000C, 0, 1, 7, 0⟩
def F.CE_ADC_DATA_count : Fld := ⟨0x50010, 4, 8, 31, 16⟩
def F.CE_ADC_DATA_code : Fld := ⟨0x50010, 4, 8, 11, 0⟩
def F.CE_DONE_LO_done : Fld := ⟨0x50040, 0, 1, 31, 0⟩
def F.CE_DONE_HI_done : Fld := ⟨0x50044, 0, 1, 31, 0⟩
def F.CE_SLOT_STAT_admitted : Fld := ⟨0x50100, 4, 64, 31, 31⟩
def F.CE_SLOT_STAT_queued : Fld := ⟨0x50100, 4, 64, 30, 30⟩
def F.CE_SLOT_STAT_out_limit : Fld := ⟨0x50100, 4, 64, 29, 29⟩
def F.CE_SLOT_STAT_sat : Fld := ⟨0x50100, 4, 64, 28, 28⟩
def F.CE_SLOT_STAT_reason : Fld := ⟨0x50100, 4, 64, 27, 24⟩
def F.CE_SLOT_STAT_overruns : Fld := ⟨0x50100, 4, 64, 15, 0⟩
def F.CE_DESC_word : Fld := ⟨0x52000, 4, 2048, 31, 0⟩

/-! ### Fields of spec/01_roles_and_wall_topology.md (R25, R32) -/

def F.CASCADE_ID_wtm : Fld := ⟨0x2CF000, 0, 1, 8, 8⟩
def F.CASCADE_ID_member : Fld := ⟨0x2CF000, 0, 1, 4, 4⟩
def F.CASCADE_ID_pair : Fld := ⟨0x2CF000, 0, 1, 3, 0⟩
def F.TOPO_TILE_consistent : Fld := ⟨0x8F000, 0, 1, 31, 31⟩
def F.TOPO_TILE_held : Fld := ⟨0x8F000, 0, 1, 30, 30⟩
def F.TOPO_TILE_derived : Fld := ⟨0x8F000, 0, 1, 29, 29⟩
def F.TOPO_TILE_reversed : Fld := ⟨0x8F000, 0, 1, 28, 28⟩
def F.TOPO_TILE_ring_len : Fld := ⟨0x8F000, 0, 1, 23, 16⟩
def F.TOPO_TILE_pos_b : Fld := ⟨0x8F000, 0, 1, 15, 8⟩
def F.TOPO_TILE_address : Fld := ⟨0x8F000, 0, 1, 7, 0⟩
def F.TOPO_TILE_LOC_round : Fld := ⟨0x8F004, 0, 1, 15, 8⟩
def F.TOPO_TILE_LOC_pair : Fld := ⟨0x8F004, 0, 1, 7, 4⟩
def F.TOPO_TILE_LOC_ring_port : Fld := ⟨0x8F004, 0, 1, 2, 0⟩
def F.TOPO_ENUM_reassign : Fld := ⟨0x8F008, 0, 1, 8, 8⟩
def F.TOPO_ENUM_start : Fld := ⟨0x8F008, 0, 1, 6, 0⟩
def F.TOPO_RING_len_expected : Fld := ⟨0x8F010, 4, 7, 31, 24⟩
def F.TOPO_RING_len_seen : Fld := ⟨0x8F010, 4, 7, 23, 16⟩
def F.TOPO_RING_round : Fld := ⟨0x8F010, 4, 7, 15, 8⟩
def F.TOPO_RING_over_length : Fld := ⟨0x8F010, 4, 7, 4, 4⟩
def F.TOPO_RING_broken : Fld := ⟨0x8F010, 4, 7, 3, 3⟩
def F.TOPO_RING_mismatch : Fld := ⟨0x8F010, 4, 7, 2, 2⟩
def F.TOPO_RING_running : Fld := ⟨0x8F010, 4, 7, 1, 1⟩
def F.TOPO_RING_done : Fld := ⟨0x8F010, 4, 7, 0, 0⟩

/-! ### Fields of spec/02_coushlink_lanes.md (R60) -/

def F.PORT_CFG_active : Fld := ⟨0x80000, 4, 8, 31, 31⟩
def F.PORT_CFG_timing_local : Fld := ⟨0x80000, 4, 8, 30, 30⟩
def F.PORT_CFG_upstream_lost : Fld := ⟨0x80000, 4, 8, 29, 29⟩
def F.PORT_CFG_width_mismatch : Fld := ⟨0x80000, 4, 8, 28, 28⟩
def F.PORT_CFG_deskew_fail : Fld := ⟨0x80000, 4, 8, 27, 27⟩
def F.PORT_CFG_placement_err : Fld := ⟨0x80000, 4, 8, 26, 26⟩
def F.PORT_CFG_deskew_add : Fld := ⟨0x80000, 4, 8, 18, 16⟩
def F.PORT_CFG_width : Fld := ⟨0x80000, 4, 8, 9, 8⟩
def F.PORT_CFG_enable : Fld := ⟨0x80000, 4, 8, 0, 0⟩
def F.LANE_CTRL_cnt_clear : Fld := ⟨0x80100, 4, 16, 7, 7⟩
def F.LANE_CTRL_retrain : Fld := ⟨0x80100, 4, 16, 6, 6⟩
def F.LANE_CTRL_eidle_req : Fld := ⟨0x80100, 4, 16, 5, 5⟩
def F.LANE_CTRL_tx_invert : Fld := ⟨0x80100, 4, 16, 4, 4⟩
def F.LANE_CTRL_loopback : Fld := ⟨0x80100, 4, 16, 3, 2⟩
def F.LANE_STAT_state : Fld := ⟨0x80200, 4, 16, 31, 28⟩
def F.LANE_STAT_cdr_lock : Fld := ⟨0x80200, 4, 16, 27, 27⟩
def F.LANE_STAT_block_lock : Fld := ⟨0x80200, 4, 16, 26, 26⟩
def F.LANE_STAT_rx_inverted : Fld := ⟨0x80200, 4, 16, 25, 25⟩
def F.LANE_STAT_eidle_refused : Fld := ⟨0x80200, 4, 16, 24, 24⟩
def F.LANE_STAT_lane_index : Fld := ⟨0x80200, 4, 16, 23, 22⟩
def F.LANE_STAT_attempts : Fld := ⟨0x80200, 4, 16, 15, 8⟩
def F.LANE_ERR_THR_csym_limit : Fld := ⟨0x80300, 0, 1, 31, 0⟩
def F.LANE_CSYM_count : Fld := ⟨0x81000, 0x20, 16, 31, 0⟩
def F.LANE_CBLK_count : Fld := ⟨0x81004, 0x20, 16, 31, 0⟩
def F.LANE_UBLK_count : Fld := ⟨0x81008, 0x20, 16, 31, 0⟩
def F.LANE_LLOSS_count : Fld := ⟨0x8100C, 0x20, 16, 31, 0⟩
def F.LANE_RETRAIN_count : Fld := ⟨0x81010, 0x20, 16, 31, 0⟩

/-! ### Fields of spec/03_chain_packets_and_confirmation.md (R87) -/

def F.PKT_CTRL_cnt_clear : Fld := ⟨0x82000, 0, 1, 1, 1⟩
def F.PKT_CTRL_dup_discard : Fld := ⟨0x82000, 0, 1, 0, 0⟩
def F.PKT_OK_count : Fld := ⟨0x82100, 0x40, 8, 31, 0⟩
def F.PKT_FAIL_LOCAL_count : Fld := ⟨0x82104, 0x40, 8, 31, 0⟩
def F.PKT_FAIL_BLOCK_count : Fld := ⟨0x82108, 0x40, 8, 31, 0⟩
def F.PKT_FAIL_UPSTREAM_count : Fld := ⟨0x8210C, 0x40, 8, 31, 0⟩
def F.PKT_CUT_count : Fld := ⟨0x82110, 0x40, 8, 31, 0⟩
def F.PKT_OVERSIZE_count : Fld := ⟨0x82114, 0x40, 8, 31, 0⟩
def F.PKT_FRAMING_count : Fld := ⟨0x82118, 0x40, 8, 31, 0⟩
def F.PKT_DUP_count : Fld := ⟨0x8211C, 0x40, 8, 31, 0⟩
def F.PKT_STALE_count : Fld := ⟨0x82120, 0x40, 8, 31, 0⟩
def F.PKT_LATE_count : Fld := ⟨0x82124, 0x40, 8, 31, 0⟩
def F.PKT_MSG_DROP_count : Fld := ⟨0x82128, 0x40, 8, 31, 0⟩
def F.LATE_LINE_count : Fld := ⟨0x82300, 0, 1, 31, 0⟩
def F.PKT_DBG_STAT_unconfirmed : Fld := ⟨0x82304, 0, 1, 0, 0⟩
def F.ADMIT_USE_flits : Fld := ⟨0x82400, 4, 7, 25, 0⟩
def F.RING_LEAD_lead : Fld := ⟨0x82440, 4, 7, 19, 0⟩
def F.NOTE_STAT_top_over : Fld := ⟨0x82480, 4, 8, 31, 24⟩
def F.NOTE_STAT_heart_late : Fld := ⟨0x82480, 4, 8, 23, 16⟩
def F.NOTE_STAT_base_wait_max : Fld := ⟨0x82480, 4, 8, 15, 0⟩
def F.ADMIT_REFUSED_count : Fld := ⟨0x824C0, 0, 1, 31, 0⟩

/-! ### Fields of spec/05_ingest.md (R127) -/

def F.ETH_CFG_cnt_clear : Fld := ⟨0xC0000, 0, 1, 6, 6⟩
def F.ETH_CFG_lt_en : Fld := ⟨0xC0000, 0, 1, 5, 5⟩
def F.ETH_CFG_fec_off : Fld := ⟨0xC0000, 0, 1, 4, 4⟩
def F.ETH_CFG_mode : Fld := ⟨0xC0000, 0, 1, 3, 0⟩
def F.ETH_MAC_HI_mac_hi : Fld := ⟨0xC0004, 0, 1, 15, 0⟩
def F.ETH_MAC_LO_mac_lo : Fld := ⟨0xC0008, 0, 1, 31, 0⟩
def F.CMDP_CFG_udp_port : Fld := ⟨0xC0010, 0, 1, 31, 16⟩
def F.CMDP_CFG_port_mask : Fld := ⟨0xC0010, 0, 1, 15, 8⟩
def F.CMDP_CFG_enable : Fld := ⟨0xC0010, 0, 1, 0, 0⟩
def F.INGEST_CAP_rate : Fld := ⟨0xC0014, 0, 1, 31, 0⟩
def F.INGEST_OVL_fill : Fld := ⟨0xC0018, 0, 1, 31, 24⟩
def F.INGEST_OVL_hi : Fld := ⟨0xC0018, 0, 1, 23, 16⟩
def F.INGEST_OVL_lo : Fld := ⟨0xC0018, 0, 1, 15, 8⟩
def F.INGEST_BUF_offset : Fld := ⟨0xC001C, 0, 1, 16, 0⟩
def F.ETH_IP_address : Fld := ⟨0xC0100, 4, 8, 31, 0⟩
def F.ETH_PORT_STAT_link_up : Fld := ⟨0xC0200, 4, 8, 31, 31⟩
def F.ETH_PORT_STAT_local_fault : Fld := ⟨0xC0200, 4, 8, 30, 30⟩
def F.ETH_PORT_STAT_remote_fault : Fld := ⟨0xC0200, 4, 8, 29, 29⟩
def F.ETH_PORT_STAT_lt_done : Fld := ⟨0xC0200, 4, 8, 28, 28⟩
def F.ETH_FCS_count : Fld := ⟨0xC0300, 8, 8, 31, 0⟩
def F.ETH_DISCARD_count : Fld := ⟨0xC0304, 8, 8, 31, 0⟩
def F.FLOW_CTRL_enable : Fld := ⟨0xC1000, 0x40, 16, 31, 31⟩
def F.FLOW_CTRL_kind : Fld := ⟨0xC1000, 0x40, 16, 30, 30⟩
def F.FLOW_CTRL_paths : Fld := ⟨0xC1000, 0x40, 16, 29, 28⟩
def F.FLOW_CTRL_priority : Fld := ⟨0xC1000, 0x40, 16, 27, 24⟩
def F.FLOW_CTRL_port_p : Fld := ⟨0xC1000, 0x40, 16, 23, 21⟩
def F.FLOW_CTRL_port_s : Fld := ⟨0xC1000, 0x40, 16, 20, 18⟩
def F.FLOW_CTRL_cnt_clear : Fld := ⟨0xC1000, 0x40, 16, 16, 16⟩
def F.FLOW_CTRL_payload_type : Fld := ⟨0xC1000, 0x40, 16, 14, 8⟩
def F.FLOW_CTRL_loss_tol : Fld := ⟨0xC1000, 0x40, 16, 7, 0⟩
def F.FLOW_SRC_P_address : Fld := ⟨0xC1004, 0x40, 16, 31, 0⟩
def F.FLOW_GRP_P_address : Fld := ⟨0xC1008, 0x40, 16, 31, 0⟩
def F.FLOW_SRC_S_address : Fld := ⟨0xC100C, 0x40, 16, 31, 0⟩
def F.FLOW_GRP_S_address : Fld := ⟨0xC1010, 0x40, 16, 31, 0⟩
def F.FLOW_UDP_dport_p : Fld := ⟨0xC1014, 0x40, 16, 31, 16⟩
def F.FLOW_UDP_dport_s : Fld := ⟨0xC1014, 0x40, 16, 15, 0⟩
def F.FLOW_FMT_sampling : Fld := ⟨0xC1018, 0x40, 16, 31, 28⟩
def F.FLOW_FMT_depth : Fld := ⟨0xC1018, 0x40, 16, 27, 24⟩
def F.FLOW_FMT_colorimetry : Fld := ⟨0xC1018, 0x40, 16, 23, 20⟩
def F.FLOW_FMT_tcs : Fld := ⟨0xC1018, 0x40, 16, 19, 16⟩
def F.FLOW_FMT_packing : Fld := ⟨0xC1018, 0x40, 16, 15, 14⟩
def F.FLOW_FMT_wcs : Fld := ⟨0xC1018, 0x40, 16, 11, 8⟩
def F.FLOW_FMT_rate : Fld := ⟨0xC1018, 0x40, 16, 7, 0⟩
def F.FLOW_DIM_width : Fld := ⟨0xC101C, 0x40, 16, 31, 16⟩
def F.FLOW_DIM_height : Fld := ⟨0xC101C, 0x40, 16, 15, 0⟩
def F.FLOW_FLACON_skew : Fld := ⟨0xC1020, 0x40, 16, 31, 24⟩
def F.FLOW_FLACON_first : Fld := ⟨0xC1020, 0x40, 16, 15, 8⟩
def F.FLOW_FLACON_count : Fld := ⟨0xC1020, 0x40, 16, 2, 0⟩
def F.FLOW_STAT_state : Fld := ⟨0xC1024, 0x40, 16, 31, 29⟩
def F.FLOW_STAT_live_p : Fld := ⟨0xC1024, 0x40, 16, 28, 28⟩
def F.FLOW_STAT_live_s : Fld := ⟨0xC1024, 0x40, 16, 27, 27⟩
def F.FLOW_STAT_last_flacon : Fld := ⟨0xC1024, 0x40, 16, 23, 16⟩
def F.FLOW_STAT_frames_dropped : Fld := ⟨0xC1024, 0x40, 16, 15, 0⟩
def F.FLOW_LOST_count : Fld := ⟨0xC1028, 0x40, 16, 31, 0⟩
def F.FLOW_REPAIR_count : Fld := ⟨0xC102C, 0x40, 16, 31, 0⟩
def F.FLOW_SHED_count : Fld := ⟨0xC1030, 0x40, 16, 31, 0⟩
def F.FLOW_BAD_count : Fld := ⟨0xC1034, 0x40, 16, 31, 0⟩

/-! ### Fields of spec/07_dram_controller.md (R169) -/

def F.DRAM_CFG_enable : Fld := ⟨0x100000, 0, 1, 15, 15⟩
def F.DRAM_CFG_rate : Fld := ⟨0x100000, 0, 1, 14, 12⟩
def F.DRAM_CFG_channels : Fld := ⟨0x100000, 0, 1, 11, 10⟩
def F.DRAM_CFG_ranks : Fld := ⟨0x100000, 0, 1, 9, 9⟩
def F.DRAM_CFG_density : Fld := ⟨0x100000, 0, 1, 7, 6⟩
def F.DRAM_STAT_ready : Fld := ⟨0x100004, 0, 1, 31, 31⟩
def F.DRAM_STAT_training : Fld := ⟨0x100004, 0, 1, 30, 30⟩
def F.DRAM_STAT_cfg_error : Fld := ⟨0x100004, 0, 1, 29, 29⟩
def F.DRAM_STAT_self_refresh : Fld := ⟨0x100004, 0, 1, 28, 28⟩
def F.DRAM_STAT_train_fail : Fld := ⟨0x100004, 0, 1, 27, 24⟩
def F.DRAM_STAT_refresh_mult : Fld := ⟨0x100004, 0, 1, 19, 16⟩
def F.DRAM_STAT_size : Fld := ⟨0x100004, 0, 1, 7, 0⟩
def F.DRAM_WIN_ctrl_page : Fld := ⟨0x100008, 0, 1, 11, 9⟩
def F.DRAM_WIN_hk1_page : Fld := ⟨0x100008, 0, 1, 8, 6⟩
def F.DRAM_WIN_hk0_page : Fld := ⟨0x100008, 0, 1, 5, 3⟩
def F.DRAM_WIN_cmd_page : Fld := ⟨0x100008, 0, 1, 2, 0⟩
def F.DRAM_SCHED_age_max : Fld := ⟨0x10000C, 0, 1, 31, 22⟩
def F.DRAM_SCHED_floor : Fld := ⟨0x10000C, 0, 1, 21, 17⟩
def F.DRAM_SCHED_wq_hi : Fld := ⟨0x10000C, 0, 1, 16, 11⟩
def F.DRAM_SCHED_wq_lo : Fld := ⟨0x10000C, 0, 1, 10, 5⟩
def F.DRAM_SR_enable : Fld := ⟨0x100010, 0, 1, 31, 31⟩
def F.DRAM_SR_idle : Fld := ⟨0x100010, 0, 1, 15, 8⟩
def F.DRAM_SR_exit : Fld := ⟨0x100010, 0, 1, 7, 0⟩
def F.DRAM_LTA_port : Fld := ⟨0x100014, 0, 1, 31, 28⟩
def F.DRAM_LTA_tolerance : Fld := ⟨0x100014, 0, 1, 15, 0⟩
def F.DRAM_SR_COUNT_count : Fld := ⟨0x100018, 0, 1, 31, 0⟩
def F.DRAM_RAT_CFG_enable : Fld := ⟨0x100020, 0, 1, 31, 31⟩
def F.DRAM_RAT_CFG_radius : Fld := ⟨0x100020, 0, 1, 17, 16⟩
def F.DRAM_RAT_CFG_threshold : Fld := ⟨0x100020, 0, 1, 15, 0⟩
def F.DRAM_RAT_TRIG_count : Fld := ⟨0x100024, 0, 1, 31, 0⟩
def F.DRAM_RAT_SWEEP_count : Fld := ⟨0x100028, 0, 1, 31, 0⟩
def F.DRAM_PORT_QOS_priority : Fld := ⟨0x100100, 4, 12, 30, 28⟩
def F.DRAM_PORT_QOS_lvl1 : Fld := ⟨0x100100, 4, 12, 17, 12⟩
def F.DRAM_PORT_QOS_lvl2 : Fld := ⟨0x100100, 4, 12, 11, 6⟩
def F.DRAM_PORT_QOS_lvl3 : Fld := ⟨0x100100, 4, 12, 5, 0⟩
def F.DRAM_PORT_STAT_panic : Fld := ⟨0x100140, 4, 12, 31, 30⟩
def F.DRAM_PORT_STAT_panic_max : Fld := ⟨0x100140, 4, 12, 29, 28⟩
def F.DRAM_PORT_STAT_underruns : Fld := ⟨0x100140, 4, 12, 15, 0⟩
def F.DRAM_BW_load : Fld := ⟨0x100200, 4, 4, 15, 0⟩

/-! ### Fields of spec/06_surfaces_and_flacons.md (R147) -/

def F.FLACON_BASE_region : Fld := ⟨0x140000, 0x20, 256, 31, 31⟩
def F.FLACON_BASE_offset : Fld := ⟨0x140000, 0x20, 256, 30, 0⟩
def F.FLACON_FMT_stride : Fld := ⟨0x140004, 0x20, 256, 31, 16⟩
def F.FLACON_FMT_layout : Fld := ⟨0x140004, 0x20, 256, 15, 12⟩
def F.FLACON_FMT_pixfmt : Fld := ⟨0x140004, 0x20, 256, 11, 8⟩
def F.FLACON_FMT_colorimetry : Fld := ⟨0x140004, 0x20, 256, 7, 6⟩
def F.FLACON_FMT_tcs : Fld := ⟨0x140004, 0x20, 256, 5, 4⟩
def F.FLACON_DIM_width : Fld := ⟨0x140008, 0x20, 256, 31, 16⟩
def F.FLACON_DIM_height : Fld := ⟨0x140008, 0x20, 256, 15, 0⟩
def F.FLACON_SIZE_size : Fld := ⟨0x14000C, 0x20, 256, 31, 0⟩
def F.FLACON_STAT_state : Fld := ⟨0x140010, 0x20, 256, 31, 28⟩
def F.FLACON_STAT_fenced : Fld := ⟨0x140010, 0x20, 256, 27, 27⟩
def F.FLACON_STAT_early_release : Fld := ⟨0x140010, 0x20, 256, 26, 26⟩
def F.FLACON_STAT_fence_frame : Fld := ⟨0x140010, 0x20, 256, 15, 0⟩
def F.FLACON_RTP_rtp_ts : Fld := ⟨0x140014, 0x20, 256, 31, 0⟩
def F.FLACON_RXS_seconds : Fld := ⟨0x140018, 0x20, 256, 31, 0⟩
def F.FLACON_RXN_nanoseconds : Fld := ⟨0x14001C, 0x20, 256, 31, 0⟩

/-! ### Fields of spec/08_composition_and_accords.md (R193) -/

def F.COMP_TIMING_latch_lead : Fld := ⟨0x180000, 0, 1, 31, 16⟩
def F.COMP_TIMING_ahead : Fld := ⟨0x180000, 0, 1, 15, 0⟩
def F.COMP_VIEWSEL_view3 : Fld := ⟨0x180004, 0, 1, 14, 12⟩
def F.COMP_VIEWSEL_view2 : Fld := ⟨0x180004, 0, 1, 10, 8⟩
def F.COMP_VIEWSEL_view1 : Fld := ⟨0x180004, 0, 1, 6, 4⟩
def F.COMP_VIEWSEL_view0 : Fld := ⟨0x180004, 0, 1, 2, 0⟩
def F.COMP_LB_size : Fld := ⟨0x180008, 0, 1, 31, 23⟩
def F.COMP_LB_base : Fld := ⟨0x180008, 0, 1, 16, 0⟩
def F.COMP_WIN_x0 : Fld := ⟨0x18000C, 0, 1, 31, 16⟩
def F.COMP_WIN_y0 : Fld := ⟨0x18000C, 0, 1, 15, 0⟩
def F.COMP_STAT_overruns : Fld := ⟨0x180010, 0, 1, 31, 16⟩
def F.COMP_STAT_frame : Fld := ⟨0x180010, 0, 1, 15, 0⟩
def F.COMP_STRAY_count : Fld := ⟨0x180014, 0, 1, 31, 0⟩
def F.ACCORD_STAT_passed : Fld := ⟨0x180040, 4, 8, 31, 31⟩
def F.ACCORD_STAT_live : Fld := ⟨0x180040, 4, 8, 30, 30⟩
def F.ACCORD_STAT_reason : Fld := ⟨0x180040, 4, 8, 19, 16⟩
def F.ACCORD_STAT_layers : Fld := ⟨0x180040, 4, 8, 3, 0⟩
def F.COMP_FLOW_STAT_repeats : Fld := ⟨0x180080, 4, 16, 31, 16⟩
def F.COMP_FLOW_STAT_drops : Fld := ⟨0x180080, 4, 16, 15, 0⟩
def F.COMP_COEF_word : Fld := ⟨0x180800, 4, 256, 31, 0⟩
def F.ACCORD_WORD_word : Fld := ⟨0x181000, 4, 2048, 31, 0⟩
def F.TMAP_HI_x0 : Fld := ⟨0x188000, 8, 1792, 31, 16⟩
def F.TMAP_HI_y0 : Fld := ⟨0x188000, 8, 1792, 15, 0⟩
def F.TMAP_LO_w : Fld := ⟨0x188004, 8, 1792, 31, 16⟩
def F.TMAP_LO_h : Fld := ⟨0x188004, 8, 1792, 15, 0⟩

/-! ### Fields of spec/09_tile_pixel_pipeline.md (R218, R224) -/

def F.PIPE_CFG_cnt_clear : Fld := ⟨0x200000, 0, 1, 1, 1⟩
def F.PIPE_CFG_dither_en : Fld := ⟨0x200000, 0, 1, 0, 0⟩
def F.PIPE_BANK_corr : Fld := ⟨0x200004, 0, 1, 3, 3⟩
def F.PIPE_BANK_tgain : Fld := ⟨0x200004, 0, 1, 2, 2⟩
def F.PIPE_BANK_gamut : Fld := ⟨0x200004, 0, 1, 1, 1⟩
def F.PIPE_BANK_tf : Fld := ⟨0x200004, 0, 1, 0, 0⟩
def F.CORR_BASE_region : Fld := ⟨0x200008, 4, 2, 31, 31⟩
def F.CORR_BASE_offset : Fld := ⟨0x200008, 4, 2, 30, 0⟩
def F.TF_CFG_regen : Fld := ⟨0x200010, 0, 1, 31, 31⟩
def F.TF_CFG_bank : Fld := ⟨0x200010, 0, 1, 30, 30⟩
def F.TF_CFG_busy : Fld := ⟨0x200010, 0, 1, 29, 29⟩
def F.TF_CFG_gamma : Fld := ⟨0x200010, 0, 1, 28, 20⟩
def F.TF_CFG_hlg_gamma : Fld := ⟨0x200010, 0, 1, 19, 12⟩
def F.TF_LEVEL_pq_peak : Fld := ⟨0x200014, 0, 1, 31, 16⟩
def F.TF_LEVEL_sdr_white : Fld := ⟨0x200014, 0, 1, 15, 0⟩
def F.TCOMP_CFG_target : Fld := ⟨0x200018, 0, 1, 16, 16⟩
def F.TCOMP_CFG_stale_ms : Fld := ⟨0x200018, 0, 1, 15, 0⟩
def F.TCOMP_TEMP_temp : Fld := ⟨0x20001C, 0, 1, 15, 0⟩
def F.TCOMP_GAIN_gain : Fld := ⟨0x200020, 4, 4, 15, 0⟩
def F.PIPE_DIM_k : Fld := ⟨0x200030, 4, 4, 15, 0⟩
def F.PACK_CFG_halves : Fld := ⟨0x200040, 0, 1, 28, 28⟩
def F.PACK_CFG_lamps : Fld := ⟨0x200040, 0, 1, 27, 26⟩
def F.PACK_CFG_slot_order : Fld := ⟨0x200040, 0, 1, 25, 18⟩
def F.PACK_CFG_drivers : Fld := ⟨0x200040, 0, 1, 17, 14⟩
def F.PACK_CFG_channels : Fld := ⟨0x200040, 0, 1, 13, 8⟩
def F.PIPE_STAT_map_ok : Fld := ⟨0x200050, 0, 1, 31, 31⟩
def F.PIPE_STAT_map_reason : Fld := ⟨0x200050, 0, 1, 30, 28⟩
def F.PIPE_STAT_table_reject : Fld := ⟨0x200050, 0, 1, 23, 16⟩
def F.PIPE_STAT_group_corrupt : Fld := ⟨0x200050, 0, 1, 15, 0⟩
def F.PIPE_PE_STAT_in_use : Fld := ⟨0x200054, 0, 1, 15, 0⟩
def F.GAMUT_0_word : Fld := ⟨0x201000, 4, 36, 31, 0⟩
def F.TGAIN_0_word : Fld := ⟨0x202000, 4, 64, 31, 0⟩
def F.GAMUT_1_word : Fld := ⟨0x201100, 4, 36, 31, 0⟩
def F.TGAIN_1_word : Fld := ⟨0x202100, 4, 64, 31, 0⟩

/-! ### Fields of spec/10_lamp_lanes.md (R249) -/

def F.LL_CTRL_cnt_clear : Fld := ⟨0x240000, 0, 1, 2, 2⟩
def F.LL_CTRL_restart : Fld := ⟨0x240000, 0, 1, 1, 1⟩
def F.LL_CTRL_enable : Fld := ⟨0x240000, 0, 1, 0, 0⟩
def F.LL_GEOM_width : Fld := ⟨0x240004, 0, 1, 31, 21⟩
def F.LL_GEOM_height : Fld := ⟨0x240004, 0, 1, 20, 11⟩
def F.LL_GEOM_mux : Fld := ⟨0x240004, 0, 1, 5, 0⟩
def F.LL_SCAN_gclk_div : Fld := ⟨0x240008, 0, 1, 31, 28⟩
def F.LL_SCAN_s_log2 : Fld := ⟨0x240008, 0, 1, 27, 25⟩
def F.LL_WIN_window : Fld := ⟨0x24000C, 0, 1, 31, 16⟩
def F.LL_WIN_blank : Fld := ⟨0x24000C, 0, 1, 15, 0⟩
def F.LL_STAT_running : Fld := ⟨0x240010, 0, 1, 31, 31⟩
def F.LL_STAT_bringup : Fld := ⟨0x240010, 0, 1, 30, 30⟩
def F.LL_STAT_reason : Fld := ⟨0x240010, 0, 1, 29, 27⟩
def F.LL_STAT_gray_drop : Fld := ⟨0x240010, 0, 1, 15, 0⟩
def F.LL_DIAG_REQ_go : Fld := ⟨0x240014, 0, 1, 31, 31⟩
def F.LL_DIAG_REQ_lane : Fld := ⟨0x240014, 0, 1, 18, 12⟩
def F.LL_DIAG_REQ_position : Fld := ⟨0x240014, 0, 1, 11, 8⟩
def F.LL_DIAG_REQ_item : Fld := ⟨0x240014, 0, 1, 7, 4⟩
def F.LL_DIAG_REQ_clear : Fld := ⟨0x240014, 0, 1, 0, 0⟩
def F.LL_DIAG_RSP_result : Fld := ⟨0x240018, 0, 1, 31, 30⟩
def F.LL_DIAG_RSP_words : Fld := ⟨0x240018, 0, 1, 7, 0⟩
def F.LL_GRP_CFG_enable : Fld := ⟨0x240100, 4, 16, 31, 31⟩
def F.LL_GRP_CFG_trim : Fld := ⟨0x240100, 4, 16, 3, 0⟩
def F.LL_GRP_CNT_no_reply : Fld := ⟨0x240140, 4, 16, 31, 16⟩
def F.LL_GRP_CNT_crc_fail : Fld := ⟨0x240140, 4, 16, 15, 0⟩
def F.LL_CHAIN_found : Fld := ⟨0x240200, 4, 128, 4, 0⟩
def F.LL_DIAG_BUF_word : Fld := ⟨0x241000, 4, 128, 31, 0⟩

/-! ### Fields of spec/11_lamp_drive.md (R272) -/

def F.LD_CTRL_cnt_clear : Fld := ⟨0x280000, 0, 1, 5, 5⟩
def F.LD_CTRL_resume : Fld := ⟨0x280000, 0, 1, 4, 4⟩
def F.LD_CTRL_drydown : Fld := ⟨0x280000, 0, 1, 3, 3⟩
def F.LD_CTRL_blot_en : Fld := ⟨0x280000, 0, 1, 2, 2⟩
def F.LD_CTRL_hybrid_en : Fld := ⟨0x280000, 0, 1, 1, 1⟩
def F.LD_CTRL_enable : Fld := ⟨0x280000, 0, 1, 0, 0⟩
def F.LD_STAT_dry_state : Fld := ⟨0x280004, 0, 1, 31, 30⟩
def F.LD_STAT_dry_causes : Fld := ⟨0x280004, 0, 1, 29, 25⟩
def F.LD_STAT_vled_mode : Fld := ⟨0x280004, 0, 1, 24, 24⟩
def F.LD_STAT_split : Fld := ⟨0x280004, 0, 1, 23, 20⟩
def F.LD_BRIGHT_level : Fld := ⟨0x280008, 0, 1, 15, 0⟩
def F.LD_SPLIT_x : Fld := ⟨0x28000C, 0, 1, 31, 16⟩
def F.LD_SPLIT_hyst : Fld := ⟨0x28000C, 0, 1, 15, 8⟩
def F.LD_IREF_red : Fld := ⟨0x280010, 0, 1, 31, 24⟩
def F.LD_IREF_green : Fld := ⟨0x280010, 0, 1, 23, 16⟩
def F.LD_IREF_blue : Fld := ⟨0x280010, 0, 1, 15, 8⟩
def F.LD_IREF_aux : Fld := ⟨0x280010, 0, 1, 7, 0⟩
def F.LD_THRESH_v_open : Fld := ⟨0x280014, 0, 1, 31, 20⟩
def F.LD_THRESH_v_short : Fld := ⟨0x280014, 0, 1, 19, 8⟩
def F.LD_GAIN_OUT_gains : Fld := ⟨0x280018, 0, 1, 31, 0⟩
def F.LD_STAT_CLIP_count : Fld := ⟨0x28001C, 0, 1, 31, 0⟩
def F.LD_HR_CFG_target : Fld := ⟨0x280020, 0, 1, 31, 20⟩
def F.LD_HR_CFG_floor : Fld := ⟨0x280020, 0, 1, 19, 8⟩
def F.LD_HR_STAT_h_min : Fld := ⟨0x280024, 0, 1, 31, 20⟩
def F.LD_HR_STAT_valid : Fld := ⟨0x280024, 0, 1, 19, 19⟩
def F.LD_HR_STAT_lane : Fld := ⟨0x280024, 0, 1, 18, 12⟩
def F.LD_HR_STAT_position : Fld := ⟨0x280024, 0, 1, 11, 8⟩
def F.LD_VLED_LIM_max : Fld := ⟨0x280028, 0, 1, 31, 24⟩
def F.LD_VLED_LIM_start : Fld := ⟨0x280028, 0, 1, 23, 16⟩
def F.LD_VLED_LIM_min : Fld := ⟨0x280028, 0, 1, 15, 8⟩
def F.LD_VLED_LIM_step : Fld := ⟨0x280028, 0, 1, 7, 0⟩
def F.LD_VLED_SET_set : Fld := ⟨0x28002C, 0, 1, 15, 0⟩
def F.LD_BLOT_CFG_age : Fld := ⟨0x280030, 0, 1, 15, 0⟩
def F.LD_DIAG_CFG_confirm : Fld := ⟨0x280034, 0, 1, 19, 16⟩
def F.LD_DIAG_CFG_sweep_ms : Fld := ⟨0x280034, 0, 1, 15, 0⟩
def F.LD_CONTAIN_fill : Fld := ⟨0x280038, 0, 1, 15, 8⟩
def F.LD_CONTAIN_scope : Fld := ⟨0x280038, 0, 1, 1, 0⟩
def F.LD_LAMP_BASE_offset : Fld := ⟨0x28003C, 0, 1, 16, 0⟩
def F.LD_COUNT_opens : Fld := ⟨0x280040, 0, 1, 31, 16⟩
def F.LD_COUNT_shorts : Fld := ⟨0x280040, 0, 1, 15, 0⟩
def F.LD_BLOT_COUNT_count : Fld := ⟨0x280044, 0, 1, 31, 0⟩
def F.LD_FAULT_STAT_overflow : Fld := ⟨0x280048, 0, 1, 31, 31⟩
def F.LD_FAULT_STAT_records : Fld := ⟨0x280048, 0, 1, 12, 0⟩
def F.LD_GRP_STAT_unverified : Fld := ⟨0x280100, 4, 16, 31, 31⟩
def F.LD_GRP_STAT_faults : Fld := ⟨0x280100, 4, 16, 15, 0⟩
def F.LD_FAULT_REC_word : Fld := ⟨0x281000, 4, 4096, 31, 0⟩

/-! ### Fields of spec/15_redundancy.md (R363) -/

def F.RED_CFG_enable : Fld := ⟨0x2C0000, 0, 1, 31, 31⟩
def F.RED_CFG_miss : Fld := ⟨0x2C0000, 0, 1, 27, 24⟩
def F.RED_CFG_hb_us : Fld := ⟨0x2C0000, 0, 1, 15, 0⟩
def F.RED_PERIOD_snap_s : Fld := ⟨0x2C0004, 0, 1, 31, 16⟩
def F.RED_PERIOD_swap_s : Fld := ⟨0x2C0004, 0, 1, 15, 0⟩
def F.RED_STAT_state : Fld := ⟨0x2C0008, 0, 1, 31, 30⟩
def F.RED_STAT_sync : Fld := ⟨0x2C0008, 0, 1, 29, 29⟩
def F.RED_STAT_tie_ok : Fld := ⟨0x2C0008, 0, 1, 28, 28⟩
def F.RED_STAT_ring_ok : Fld := ⟨0x2C0008, 0, 1, 27, 27⟩
def F.RED_STAT_partner_active : Fld := ⟨0x2C0008, 0, 1, 26, 26⟩
def F.RED_STAT_snap_busy : Fld := ⟨0x2C0008, 0, 1, 25, 25⟩
def F.RED_STAT_swap_pending : Fld := ⟨0x2C0008, 0, 1, 24, 24⟩
def F.RED_STAT_ring_seen : Fld := ⟨0x2C0008, 0, 1, 22, 16⟩
def F.RED_EPOCH_epoch : Fld := ⟨0x2C000C, 0, 1, 31, 0⟩
def F.RED_PARTNER_EPOCH_epoch : Fld := ⟨0x2C0010, 0, 1, 31, 0⟩
def F.RED_SNAP_value : Fld := ⟨0x2C0014, 0, 1, 31, 0⟩
def F.RED_JSEQ_value : Fld := ⟨0x2C0018, 0, 1, 31, 0⟩
def F.RED_GAP_SNAP_value : Fld := ⟨0x2C001C, 0, 1, 31, 0⟩
def F.RED_GAP_JSEQ_value : Fld := ⟨0x2C0020, 0, 1, 31, 0⟩
def F.RED_SWAP_F_HI_frame : Fld := ⟨0x2C0024, 0, 1, 31, 0⟩
def F.RED_SWAP_F_LO_frame : Fld := ⟨0x2C0028, 0, 1, 31, 0⟩
def F.RED_BUF_region : Fld := ⟨0x2C0030, 0, 1, 31, 31⟩
def F.RED_BUF_offset : Fld := ⟨0x2C0030, 0, 1, 30, 0⟩
def F.RED_BUF_SIZE_size : Fld := ⟨0x2C0034, 0, 1, 15, 0⟩
def F.RED_SNAP_BYTES_bytes : Fld := ⟨0x2C0038, 0, 1, 31, 0⟩
def F.RED_CNT_0_journal_gaps : Fld := ⟨0x2C0040, 0, 1, 31, 16⟩
def F.RED_CNT_0_diverge : Fld := ⟨0x2C0040, 0, 1, 15, 0⟩
def F.RED_CNT_1_heart_held : Fld := ⟨0x2C0044, 0, 1, 31, 16⟩
def F.RED_CNT_1_relay_late : Fld := ⟨0x2C0044, 0, 1, 15, 0⟩
def F.RED_REGION_BASE_region : Fld := ⟨0x2C0080, 8, 8, 31, 31⟩
def F.RED_REGION_BASE_offset : Fld := ⟨0x2C0080, 8, 8, 30, 0⟩
def F.RED_REGION_LEN_length : Fld := ⟨0x2C0084, 8, 8, 31, 0⟩
def F.RED_TILE_A_seen : Fld := ⟨0x2C0100, 0, 1, 31, 31⟩
def F.RED_TILE_A_active : Fld := ⟨0x2C0100, 0, 1, 30, 30⟩
def F.RED_TILE_A_member : Fld := ⟨0x2C0100, 0, 1, 29, 29⟩
def F.RED_TILE_A_one_sided : Fld := ⟨0x2C0100, 0, 1, 28, 28⟩
def F.RED_TILE_B_seen : Fld := ⟨0x2C0104, 0, 1, 31, 31⟩
def F.RED_TILE_B_active : Fld := ⟨0x2C0104, 0, 1, 30, 30⟩
def F.RED_TILE_B_member : Fld := ⟨0x2C0104, 0, 1, 29, 29⟩
def F.RED_TILE_B_one_sided : Fld := ⟨0x2C0104, 0, 1, 28, 28⟩
def F.RED_TILE_EP_A_epoch : Fld := ⟨0x2C0108, 0, 1, 31, 0⟩
def F.RED_TILE_EP_B_epoch : Fld := ⟨0x2C010C, 0, 1, 31, 0⟩
def F.RED_TILE_STAT_split : Fld := ⟨0x2C0110, 0, 1, 31, 31⟩
def F.RED_TILE_STAT_higher_b : Fld := ⟨0x2C0110, 0, 1, 30, 30⟩
def F.RED_TILE_STAT_split_drop : Fld := ⟨0x2C0110, 0, 1, 15, 0⟩

/-! ### Fields of spec/19_boot_and_update.md (R434) -/

def F.BOOT_INFO_boot_sel : Fld := ⟨0x300000, 0, 1, 31, 30⟩
def F.BOOT_INFO_slot : Fld := ⟨0x300000, 0, 1, 29, 29⟩
def F.BOOT_INFO_recovery : Fld := ⟨0x300000, 0, 1, 28, 28⟩
def F.BOOT_INFO_note : Fld := ⟨0x300000, 0, 1, 27, 24⟩
def F.UPD_STAT_state : Fld := ⟨0x300004, 0, 1, 31, 28⟩
def F.UPD_STAT_svn_pending : Fld := ⟨0x300004, 0, 1, 27, 27⟩
def F.UPD_STAT_holdup_wait : Fld := ⟨0x300004, 0, 1, 26, 26⟩
def F.UPD_STAT_migrate : Fld := ⟨0x300004, 0, 1, 25, 24⟩
def F.UPD_STAT_dropped : Fld := ⟨0x300004, 0, 1, 23, 16⟩
def F.UPD_STAT_confirm_left : Fld := ⟨0x300004, 0, 1, 15, 0⟩
def F.UPD_CFG_confirm_s : Fld := ⟨0x300008, 0, 1, 15, 0⟩
def F.UPD_IMAGE_image_version : Fld := ⟨0x30000C, 0, 1, 31, 0⟩
def F.UPD_VERSION_svn : Fld := ⟨0x300010, 0, 1, 31, 16⟩
def F.UPD_VERSION_settings_version : Fld := ⟨0x300010, 0, 1, 15, 0⟩
def F.UPD_SCHED_F_HI_frame : Fld := ⟨0x300014, 0, 1, 31, 0⟩
def F.UPD_SCHED_F_LO_frame : Fld := ⟨0x300018, 0, 1, 31, 0⟩
def F.HOLDUP_CFG_0_cap_uf : Fld := ⟨0x300020, 0, 1, 31, 16⟩
def F.HOLDUP_CFG_0_vmin_mv : Fld := ⟨0x300020, 0, 1, 15, 0⟩
def F.HOLDUP_CFG_1_load_mw : Fld := ⟨0x300024, 0, 1, 31, 16⟩
def F.HOLDUP_CFG_1_erase_ms : Fld := ⟨0x300024, 0, 1, 15, 8⟩
def F.HOLDUP_CFG_1_prog_ms : Fld := ⟨0x300024, 0, 1, 7, 0⟩
def F.HOLDUP_CFG_2_ratio : Fld := ⟨0x300028, 0, 1, 15, 0⟩
def F.HOLDUP_STAT_ok : Fld := ⟨0x30002C, 0, 1, 31, 31⟩
def F.HOLDUP_STAT_code : Fld := ⟨0x30002C, 0, 1, 27, 16⟩
def F.HOLDUP_STAT_energy : Fld := ⟨0x30002C, 0, 1, 15, 0⟩
def F.OTP_SVN_lock : Fld := ⟨0x300040, 0, 1, 31, 31⟩
def F.OTP_SVN_used : Fld := ⟨0x300040, 0, 1, 21, 16⟩
def F.OTP_SVN_svn : Fld := ⟨0x300040, 0, 1, 15, 0⟩
def F.OTP_PROG_go : Fld := ⟨0x300044, 0, 1, 31, 31⟩
def F.OTP_PROG_busy : Fld := ⟨0x300044, 0, 1, 30, 30⟩
def F.OTP_PROG_result : Fld := ⟨0x300044, 0, 1, 29, 28⟩
def F.OTP_PROG_key : Fld := ⟨0x300044, 0, 1, 15, 0⟩

/-- Register tables of the Glb block. -/
def regsGlb : List RegDesc := [
  ⟨0x200, 4, 1, 0, 1, 0, 1, 1,
    [⟨F.CMD_CFG_fanout_tmo, .rw, 0xA⟩,
     ⟨F.CMD_CFG_hspi_irq_en, .rw, 1⟩]⟩,
  ⟨0x204, 4, 1, 0, 1, 0, 1, 1,
    [⟨F.CMD_STAT_queue_used, .ro, 0⟩,
     ⟨F.CMD_STAT_buffer_free, .ro, 0⟩]⟩,
  ⟨0x208, 4, 1, 0, 1, 0, 1, 1,
    [⟨F.CMD_COUNT_bad_magic, .rc, 0⟩,
     ⟨F.CMD_COUNT_check_fail, .rc, 0⟩,
     ⟨F.CMD_COUNT_length, .rc, 0⟩,
     ⟨F.CMD_COUNT_busy, .rc, 0⟩]⟩,
  ⟨0x20C, 4, 1, 0, 1, 0, 1, 1,
    [⟨F.STAGE_STAT_stages, .ro, 0⟩,
     ⟨F.STAGE_STAT_entries_free, .ro, 0⟩]⟩,
  ⟨0x210, 4, 1, 0, 0, 0, 1, 1,
    [⟨F.CMD_FANOUT_STAT_extra_dropped, .rc, 0⟩]⟩,
  ⟨0, 4, 1, 0, 1, 0, 1, 0,
    [⟨F.ID_VENDOR_vendor, .ro, 0x554D4152⟩]⟩,
  ⟨4, 4, 1, 0, 1, 0, 1, 0,
    [⟨F.ID_PART_family, .ro, 0x4C4A⟩,
     ⟨F.ID_PART_part, .ro, 0x7256⟩]⟩,
  ⟨8, 4, 1, 0, 1, 0, 1, 0,
    [⟨F.ID_REV_letter, .ro, 0x42⟩,
     ⟨F.ID_REV_number, .ro, 0⟩,
     ⟨F.ID_REV_rom, .ro, 0x100⟩]⟩,
  ⟨0xC, 4, 1, 0, 1, 0, 1, 0,
    [⟨F.ID_STRAP_role, .ro, 0⟩,
     ⟨F.ID_STRAP_boot_sel, .ro, 0⟩,
     ⟨F.ID_STRAP_grade, .ro, 0⟩]⟩,
  ⟨0x10, 4, 1, 0, 1, 0, 1, 0,
    [⟨F.ID_SERIAL_HI_serial, .ro, 0⟩]⟩,
  ⟨0x14, 4, 1, 0, 1, 0, 1, 0,
    [⟨F.ID_SERIAL_LO_serial, .ro, 0⟩]⟩,
  ⟨0x18, 4, 1, 0, 1, 0, 1, 0,
    [⟨F.ID_FEATURE_store_mib, .ro, 0x18⟩,
     ⟨F.ID_FEATURE_clusters, .ro, 0x10⟩,
     ⟨F.ID_FEATURE_lamp_lanes, .ro, 0x80⟩,
     ⟨F.ID_FEATURE_sds_lanes, .ro, 0x10⟩]⟩,
  ⟨0x1C, 4, 1, 0, 1, 0, 1, 0,
    [⟨F.ID_CHECK_check, .ro, 0⟩]⟩,
  ⟨0x100, 4, 1, 0, 1, 0, 1, 0,
    [⟨F.GLB_BOARD_locked, .ro, 0⟩,
     ⟨F.GLB_BOARD_commit, .wo, 0⟩,
     ⟨F.GLB_BOARD_board, .rwl, 0⟩]⟩,
  ⟨0x104, 4, 1, 0, 1, 0, 1, 0,
    [⟨F.GLB_IGN_ADDR_address, .ro, 0⟩]⟩,
  ⟨0x108, 4, 1, 0, 1, 0, 1, 0,
    [⟨F.GLB_IGN_COUNT_count, .rc, 0⟩]⟩]

/-- Register tables of the Evt block. -/
def regsEvt : List RegDesc := [
  ⟨0x10000, 4, 1, 0, 1, 0, 1, 0,
    [⟨F.EVT_CTRL_ack, .wo, 0⟩]⟩,
  ⟨0x10004, 4, 1, 0, 1, 0, 1, 0,
    [⟨F.EVT_REACT_class3, .rw, 7⟩,
     ⟨F.EVT_REACT_class2, .rw, 3⟩,
     ⟨F.EVT_REACT_class1, .rw, 0xA⟩]⟩,
  ⟨0x10008, 4, 1, 0, 1, 0, 1, 0,
    [⟨F.EVT_CAUSE_running, .ro, 0⟩,
     ⟨F.EVT_CAUSE_escalated, .ro, 0⟩,
     ⟨F.EVT_CAUSE_class, .ro, 0⟩,
     ⟨F.EVT_CAUSE_first_class, .ro, 0⟩,
     ⟨F.EVT_CAUSE_escalated_by, .ro, 0⟩,
     ⟨F.EVT_CAUSE_merged, .ro, 0⟩,
     ⟨F.EVT_CAUSE_first, .ro, 0⟩]⟩,
  ⟨0x1000C, 4, 1, 0, 1, 0, 1, 0,
    [⟨F.EVT_CAUSE_SEC_value, .ro, 0⟩]⟩,
  ⟨0x10010, 4, 1, 0, 1, 0, 1, 0,
    [⟨F.EVT_CAUSE_NS_value, .ro, 0⟩]⟩,
  ⟨0x10014, 4, 1, 0, 1, 0, 1, 0,
    [⟨F.EVT_TEST_go, .wo, 0⟩,
     ⟨F.EVT_TEST_source, .rw, 0⟩]⟩,
  ⟨0x10100, 4, 8, 0, 8, 0, 8, 0,
    [⟨F.EVT_STAT_sticky, .w1c, 0⟩]⟩,
  ⟨0x10120, 4, 8, 0, 8, 0, 8, 0,
    [⟨F.EVT_PEND_pending, .ro, 0⟩]⟩,
  ⟨0x10140, 4, 8, 0, 8, 0, 8, 0,
    [⟨F.EVT_MASK_mask, .rw, 0⟩]⟩,
  ⟨0x10180, 4, 16, 0, 16, 0, 16, 0,
    [⟨F.EVT_CLASS_class, .rw, 0⟩]⟩]

/-- Register tables of the Pwr block. -/
def regsPwr : List RegDesc := [
  ⟨0x20000, 4, 1, 0, 1, 0, 1, 0,
    [⟨F.PWR_CTRL_ring_grant, .rw, 0⟩,
     ⟨F.PWR_CTRL_awake, .rw, 0⟩,
     ⟨F.PWR_CTRL_auto_state, .rw, 0⟩,
     ⟨F.PWR_CTRL_target, .rw, 0⟩]⟩,
  ⟨0x20004, 4, 1, 0, 1, 0, 1, 0,
    [⟨F.PWR_STAT_state, .ro, 0⟩,
     ⟨F.PWR_STAT_phase, .ro, 0⟩,
     ⟨F.PWR_STAT_retain_fail, .w1c, 0⟩]⟩,
  ⟨0x20008, 4, 1, 0, 1, 0, 1, 0,
    [⟨F.PWR_IDLE_CFG_backoff, .ro, 0x64⟩,
     ⟨F.PWR_IDLE_CFG_base_ms, .rw, 0x64⟩]⟩,
  ⟨0x2000C, 4, 1, 0, 1, 0, 1, 0,
    [⟨F.PWR_CFG_quiesce_ms, .rw, 0x64⟩]⟩,
  ⟨0x20010, 4, 1, 0, 1, 0, 1, 0,
    [⟨F.PWR_KEEP_dram_sr, .rw, 1⟩,
     ⟨F.PWR_KEEP_hush_store, .rw, 3⟩]⟩,
  ⟨0x20014, 4, 1, 0, 1, 0, 1, 0,
    [⟨F.PWR_WAKE_EN_lanes, .rw, 0xFFFF⟩,
     ⟨F.PWR_WAKE_EN_sources, .rw, 0x7F⟩]⟩,
  ⟨0x20018, 4, 1, 0, 1, 0, 1, 0,
    [⟨F.PWR_WAKE_SRC_sources, .w1c, 0⟩]⟩,
  ⟨0x2001C, 4, 1, 0, 1, 0, 1, 0,
    [⟨F.PWR_REFUSE_domain, .ro, 0⟩,
     ⟨F.PWR_REFUSE_phase, .ro, 0⟩,
     ⟨F.PWR_REFUSE_state, .ro, 0⟩,
     ⟨F.PWR_REFUSE_count, .rc, 0⟩]⟩,
  ⟨0x20020, 4, 1, 0, 1, 0, 1, 0,
    [⟨F.PWR_ALARM_count, .rw, 0⟩]⟩,
  ⟨0x20024, 4, 1, 0, 1, 0, 1, 0,
    [⟨F.PWR_RESET_CAUSE_cause, .ro, 0⟩]⟩,
  ⟨0x20028, 4, 1, 0, 1, 0, 1, 0,
    [⟨F.HK_WDOG_kick, .wo, 0⟩,
     ⟨F.HK_WDOG_timeout_ms, .rw, 0⟩]⟩,
  ⟨0x2002C, 4, 1, 0, 1, 0, 1, 0,
    [⟨F.PWR_RET_WIN_half, .rw, 0⟩]⟩,
  ⟨0x20104, 4, 32, 0, 32, 0, 32, 0,
    [⟨F.PD_CTRL_enable, .rw, 0⟩,
     ⟨F.PD_CTRL_auto, .rw, 0⟩,
     ⟨F.PD_CTRL_state, .ro, 0⟩,
     ⟨F.PD_CTRL_dead, .ro, 0⟩,
     ⟨F.PD_CTRL_idle_us, .rw, 0x3E8⟩]⟩]

/-- Register tables of the Therm block. -/
def regsTherm : List RegDesc := [
  ⟨0x30000, 4, 1, 0, 1, 0, 1, 4,
    [⟨F.THERM_CFG_warn, .rw, 0x5F⟩,
     ⟨F.THERM_CFG_throttle, .rw, 0x69⟩,
     ⟨F.THERM_CFG_critical, .rw, 0x73⟩,
     ⟨F.THERM_CFG_hyst, .rw, 3⟩]⟩,
  ⟨0x30004, 4, 1, 0, 1, 0, 1, 4,
    [⟨F.THERM_RATE_CFG_rate, .rw, 0x14⟩,
     ⟨F.THERM_RATE_CFG_window, .rw, 0xA⟩]⟩,
  ⟨0x30008, 4, 1, 0, 1, 0, 1, 4,
    [⟨F.THERM_STAT_tripped, .ro, 0⟩,
     ⟨F.THERM_STAT_critical, .ro, 0⟩,
     ⟨F.THERM_STAT_throttle, .ro, 0⟩,
     ⟨F.THERM_STAT_warn, .ro, 0⟩,
     ⟨F.THERM_STAT_rate, .ro, 0⟩,
     ⟨F.THERM_STAT_flash_ok, .ro, 0⟩,
     ⟨F.THERM_STAT_otp_ok, .ro, 0⟩,
     ⟨F.THERM_STAT_sensor_bad, .ro, 0⟩]⟩,
  ⟨0x3000C, 4, 1, 0, 1, 0, 1, 4,
    [⟨F.THERM_JUNC_max, .ro, 0⟩,
     ⟨F.THERM_JUNC_min, .ro, 0⟩]⟩,
  ⟨0x30010, 4, 1, 0, 1, 0, 0, 4,
    [⟨F.THERM_BRIGHT_cap, .rw, 0x6000⟩]⟩,
  ⟨0x30040, 4, 12, 0, 12, 0, 12, 0,
    [⟨F.THERM_TEMP_valid, .ro, 0⟩,
     ⟨F.THERM_TEMP_temp, .ro, 0⟩]⟩,
  ⟨0x30070, 4, 1, 0, 1, 0, 1, 0,
    [⟨F.THERM_TRIP_LOG_tripped, .ro, 0⟩,
     ⟨F.THERM_TRIP_LOG_sensor, .ro, 0⟩,
     ⟨F.THERM_TRIP_LOG_temp, .ro, 0⟩]⟩,
  ⟨0x30100, 4, 1, 0, 1, 0, 1, 4,
    [⟨F.CAL_CTRL_hold, .rw, 0⟩,
     ⟨F.CAL_CTRL_start, .wo, 0⟩]⟩,
  ⟨0x30104, 4, 1, 0, 1, 0, 1, 4,
    [⟨F.CAL_CFG_delta, .rw, 0xC⟩,
     ⟨F.CAL_CFG_slice_us, .rw, 0x14⟩]⟩,
  ⟨0x30108, 4, 1, 0, 1, 0, 1, 4,
    [⟨F.CAL_STAT_busy, .ro, 0⟩,
     ⟨F.CAL_STAT_fail, .w1c, 0⟩,
     ⟨F.CAL_STAT_runs, .rc, 0⟩]⟩,
  ⟨0x30110, 4, 4, 0, 4, 0, 4, 4,
    [⟨F.CAL_TLAST_frame, .ro, 0⟩,
     ⟨F.CAL_TLAST_temp, .ro, 0⟩]⟩]

/-- Register tables of the Time block, part 1. -/
def regsTime1 : List RegDesc := [
  ⟨0x40000, 4, 1, 0, 1, 0, 1, 3,
    [⟨F.TIME_CTRL_step_load, .wo, 0⟩,
     ⟨F.TIME_CTRL_step_go, .wo, 0⟩]⟩,
  ⟨0x40004, 4, 1, 0, 1, 0, 1, 3,
    [⟨F.TIME_STAT_locked, .ro, 0⟩,
     ⟨F.TIME_STAT_estimated, .ro, 0⟩,
     ⟨F.TIME_STAT_holdover, .ro, 0⟩,
     ⟨F.TIME_STAT_adj_busy, .ro, 0⟩,
     ⟨F.TIME_STAT_path_est, .ro, 0⟩,
     ⟨F.TIME_STAT_follow_b, .ro, 0⟩]⟩,
  ⟨0x40010, 4, 1, 0, 1, 0, 1, 3,
    [⟨F.TIME_INCR_incr, .rw, 0x20000000⟩]⟩,
  ⟨0x40020, 4, 1, 0, 1, 0, 1, 3,
    [⟨F.TIME_NOW_SEC_HI_value, .ro, 0⟩]⟩,
  ⟨0x40024, 4, 1, 0, 1, 0, 1, 3,
    [⟨F.TIME_NOW_SEC_LO_value, .ro, 0⟩]⟩,
  ⟨0x40028, 4, 1, 0, 1, 0, 1, 3,
    [⟨F.TIME_NOW_NS_value, .ro, 0⟩]⟩,
  ⟨0x4002C, 4, 1, 0, 1, 0, 1, 3,
    [⟨F.TIME_NOW_FRAC_value, .ro, 0⟩]⟩,
  ⟨0x40030, 4, 1, 0, 1, 0, 1, 3,
    [⟨F.TIME_STEP_SEC_HI_value, .rw, 0⟩]⟩,
  ⟨0x40034, 4, 1, 0, 1, 0, 1, 3,
    [⟨F.TIME_STEP_SEC_LO_value, .rw, 0⟩]⟩,
  ⟨0x40038, 4, 1, 0, 1, 0, 1, 3,
    [⟨F.TIME_STEP_NS_value, .rw, 0⟩]⟩,
  ⟨0x40040, 4, 1, 0, 1, 0, 1, 3,
    [⟨F.TIME_ADJ_delta, .rw, 0⟩]⟩,
  ⟨0x40044, 4, 1, 0, 1, 0, 1, 3,
    [⟨F.TIME_ADJ_CNT_go, .wo, 0⟩,
     ⟨F.TIME_ADJ_CNT_count, .rw, 0⟩]⟩,
  ⟨0x40048, 4, 1, 0, 1, 0, 1, 3,
    [⟨F.TIME_ERR_offset, .rw, 0⟩]⟩,
  ⟨0x40050, 4, 1, 0, 1, 0, 1, 3,
    [⟨F.TIME_RING_CFG_sync_us, .rw, 0x7D⟩,
     ⟨F.TIME_RING_CFG_p2p_us, .rw, 0xFA⟩]⟩,
  ⟨0x40054, 4, 1, 0, 1, 0, 1, 3,
    [⟨F.TIME_SERVO_CFG_auto_step, .rw, 1⟩,
     ⟨F.TIME_SERVO_CFG_follow, .rw, 0⟩,
     ⟨F.TIME_SERVO_CFG_lock_ns, .rw, 0x14⟩,
     ⟨F.TIME_SERVO_CFG_agree_ns, .rw, 0x28⟩,
     ⟨F.TIME_SERVO_CFG_link_def, .rw, 5⟩]⟩,
  ⟨0x40058, 4, 1, 0, 1, 0, 0, 3,
    [⟨F.TIME_RES_cw, .ro, 0⟩,
     ⟨F.TIME_RES_ccw, .ro, 0⟩]⟩,
  ⟨0x40060, 4, 1, 0, 1, 0, 1, 0,
    [⟨F.TIME_AON_PER_XT_period, .rw, 0x77359400⟩]⟩,
  ⟨0x40064, 4, 1, 0, 1, 0, 1, 0,
    [⟨F.TIME_AON_PER_RC_period, .rw, 0x7A120000⟩]⟩,
  ⟨0x4006C, 4, 1, 0, 1, 0, 1, 3,
    [⟨F.TIME_AON_MEAS_period, .ro, 0⟩]⟩,
  ⟨0x40068, 4, 1, 0, 1, 0, 1, 0,
    [⟨F.TIME_AON_TOL_rc, .rw, 0x1388⟩,
     ⟨F.TIME_AON_TOL_xt, .rw, 0xC8⟩]⟩]

/-- Register tables of the Time block, part 2. -/
def regsTime2 : List RegDesc := [
  ⟨0x40070, 4, 1, 0, 1, 0, 1, 0,
    [⟨F.TIME_SLEEP_unbounded, .ro, 0⟩,
     ⟨F.TIME_SLEEP_src_now, .ro, 0⟩,
     ⟨F.TIME_SLEEP_segments, .ro, 0⟩,
     ⟨F.TIME_SLEEP_uncert, .ro, 0⟩]⟩,
  ⟨0x40100, 0x10, 8, 0, 2, 0, 8, 3,
    [⟨F.TIME_LINK_valid, .ro, 0⟩,
     ⟨F.TIME_LINK_delay, .ro, 0⟩]⟩,
  ⟨0x40104, 0x10, 8, 0, 2, 0, 8, 3,
    [⟨F.TIME_OFS_offset, .ro, 0⟩]⟩,
  ⟨0x40108, 0x10, 7, 0, 0, 0, 7, 3,
    [⟨F.TIME_RING_TOT_hops, .ro, 0⟩,
     ⟨F.TIME_RING_TOT_total, .ro, 0⟩]⟩,
  ⟨0x4010C, 0x10, 7, 0, 0, 0, 7, 3,
    [⟨F.TIME_RING_HOP_hop_max, .ro, 0⟩,
     ⟨F.TIME_RING_HOP_flight, .ro, 0⟩]⟩,
  ⟨0x40200, 0x20, 8, 0, 8, 0, 8, 3,
    [⟨F.EVT_OUT_CTRL_enable, .rw, 0⟩,
     ⟨F.EVT_OUT_CTRL_mode, .rw, 0⟩,
     ⟨F.EVT_OUT_CTRL_invert, .rw, 0⟩,
     ⟨F.EVT_OUT_CTRL_late, .w1c, 0⟩,
     ⟨F.EVT_OUT_CTRL_active, .ro, 0⟩,
     ⟨F.EVT_OUT_CTRL_sec_hi, .rw, 0⟩]⟩,
  ⟨0x40204, 0x20, 8, 0, 8, 0, 8, 3,
    [⟨F.EVT_OUT_SEC_value, .rw, 0⟩]⟩,
  ⟨0x40208, 0x20, 8, 0, 8, 0, 8, 3,
    [⟨F.EVT_OUT_NS_value, .rw, 0⟩]⟩,
  ⟨0x4020C, 0x20, 8, 0, 8, 0, 8, 3,
    [⟨F.EVT_OUT_PER_NS_value, .rw, 0⟩]⟩,
  ⟨0x40210, 0x20, 8, 0, 8, 0, 8, 3,
    [⟨F.EVT_OUT_PER_FRAC_value, .rw, 0⟩]⟩,
  ⟨0x40214, 0x20, 8, 0, 8, 0, 8, 3,
    [⟨F.EVT_OUT_WIDTH_value, .rw, 0⟩]⟩,
  ⟨0x40218, 0x20, 8, 0, 8, 0, 8, 3,
    [⟨F.EVT_OUT_COUNT_skipped, .rc, 0⟩,
     ⟨F.EVT_OUT_COUNT_pulses, .ro, 0⟩]⟩,
  ⟨0x40300, 0x10, 8, 0, 8, 0, 8, 3,
    [⟨F.EVT_IN_CFG_enable, .rw, 0⟩,
     ⟨F.EVT_IN_CFG_edge, .rw, 1⟩,
     ⟨F.EVT_IN_CFG_fill, .ro, 0⟩,
     ⟨F.EVT_IN_CFG_overflow, .rc, 0⟩]⟩,
  ⟨0x40304, 0x10, 8, 0, 8, 0, 8, 3,
    [⟨F.EVT_IN_SEC_value, .ro, 0⟩]⟩,
  ⟨0x40308, 0x10, 8, 0, 8, 0, 8, 3,
    [⟨F.EVT_IN_NS_value, .ro, 0⟩]⟩,
  ⟨0x4030C, 0x10, 8, 0, 8, 0, 8, 3,
    [⟨F.EVT_IN_FRAC_valid, .rc, 0⟩,
     ⟨F.EVT_IN_FRAC_rising, .rc, 0⟩,
     ⟨F.EVT_IN_FRAC_quarter, .rc, 0⟩]⟩,
  ⟨0x40400, 4, 1, 0, 1, 0, 1, 3,
    [⟨F.WT_REC_0_lines, .rwSender, 0x870⟩,
     ⟨F.WT_REC_0_views, .rwSender, 0⟩,
     ⟨F.WT_REC_0_rate, .rwSender, 9⟩]⟩,
  ⟨0x40404, 4, 1, 0, 1, 0, 1, 3,
    [⟨F.WT_REC_1_offset, .rwSender, 0⟩]⟩,
  ⟨0x40408, 4, 1, 0, 1, 0, 1, 3,
    [⟨F.WT_CFG_min_lead, .rw, 8⟩,
     ⟨F.WT_CFG_pair_ns, .rw, 0xF⟩,
     ⟨F.WT_CFG_slip_ns, .rw, 0x3E8⟩]⟩,
  ⟨0x4040C, 4, 1, 0, 1, 0, 0, 3,
    [⟨F.WT_TILE_CFG_block_align, .rw, 0⟩,
     ⟨F.WT_TILE_CFG_guard_ns, .rw, 0x7D0⟩,
     ⟨F.WT_TILE_CFG_hold_ms, .rw, 0x1F4⟩]⟩]

/-- Register tables of the Time block, part 3. -/
def regsTime3 : List RegDesc := [
  ⟨0x40410, 4, 1, 0, 1, 0, 1, 3,
    [⟨F.WT_STAT_rec_valid, .ro, 0⟩,
     ⟨F.WT_STAT_pending, .ro, 0⟩,
     ⟨F.WT_STAT_holdover, .ro, 0⟩,
     ⟨F.WT_STAT_no_master, .ro, 0⟩,
     ⟨F.WT_STAT_timing_dark, .ro, 0⟩,
     ⟨F.WT_STAT_reason, .ro, 0⟩]⟩,
  ⟨0x40414, 4, 1, 0, 1, 0, 1, 3,
    [⟨F.WT_FRAME_HI_frame, .ro, 0⟩]⟩,
  ⟨0x40418, 4, 1, 0, 1, 0, 1, 3,
    [⟨F.WT_FRAME_LO_frame, .ro, 0⟩]⟩,
  ⟨0x4041C, 4, 1, 0, 1, 0, 1, 3,
    [⟨F.WT_PEND_0_value, .rwSender, 0⟩]⟩,
  ⟨0x40420, 4, 1, 0, 1, 0, 1, 3,
    [⟨F.WT_PEND_1_value, .rwSender, 0⟩]⟩,
  ⟨0x40424, 4, 1, 0, 1, 0, 1, 3,
    [⟨F.WT_PEND_F_HI_value, .rwSender, 0⟩]⟩,
  ⟨0x40428, 4, 1, 0, 1, 0, 1, 3,
    [⟨F.WT_PEND_F_LO_value, .rwSender, 0⟩]⟩,
  ⟨0x4042C, 4, 1, 0, 0, 0, 1, 3,
    [⟨F.WT_RESV_HI_frame, .rw, 0⟩]⟩,
  ⟨0x40430, 4, 1, 0, 0, 0, 1, 3,
    [⟨F.WT_RESV_LO_frame, .rw, 0⟩]⟩,
  ⟨0x40434, 4, 1, 0, 1, 0, 0, 3,
    [⟨F.WT_PHASE_lag_3, .ro, 0⟩,
     ⟨F.WT_PHASE_lag_2, .ro, 0⟩,
     ⟨F.WT_PHASE_lag_1, .ro, 0⟩,
     ⟨F.WT_PHASE_lag_0, .ro, 0⟩,
     ⟨F.WT_PHASE_p_3, .ro, 0⟩,
     ⟨F.WT_PHASE_p_2, .ro, 0⟩,
     ⟨F.WT_PHASE_p_1, .ro, 0⟩,
     ⟨F.WT_PHASE_p_0, .ro, 0⟩]⟩,
  ⟨0x40438, 4, 1, 0, 1, 0, 1, 3,
    [⟨F.WT_SLIPS_slips, .rc, 0⟩]⟩,
  ⟨0x40440, 4, 8, 0, 8, 0, 8, 3,
    [⟨F.WT_EVT_view, .rw, 0⟩,
     ⟨F.WT_EVT_div, .rw, 0⟩,
     ⟨F.WT_EVT_phase, .rw, 0⟩,
     ⟨F.WT_EVT_lead, .rw, 0⟩]⟩]

/-- Register tables of the Time block. -/
def regsTime : List RegDesc := regsTime1 ++ regsTime2 ++ regsTime3

/-- Register tables of the Ce block. -/
def regsCe : List RegDesc := [
  ⟨0x50000, 4, 1, 0, 1, 0, 1, 4,
    [⟨F.CE_CTRL_cnt_clear, .wo, 0⟩,
     ⟨F.CE_CTRL_enable, .rw, 0⟩]⟩,
  ⟨0x50004, 4, 1, 0, 1, 0, 1, 4,
    [⟨F.CE_LOAD_rt_slots, .ro, 0⟩,
     ⟨F.CE_LOAD_load, .ro, 0⟩]⟩,
  ⟨0x50008, 4, 1, 0, 1, 0, 1, 4,
    [⟨F.CE_PWM_CFG_enable, .rw, 0⟩,
     ⟨F.CE_PWM_CFG_phases, .rw, 0⟩,
     ⟨F.CE_PWM_CFG_dmax, .rw, 0xE66⟩,
     ⟨F.CE_PWM_CFG_period, .rw, 0x190⟩]⟩,
  ⟨0x5000C, 4, 1, 0, 1, 0, 1, 4,
    [⟨F.CE_ADC_CFG_sync, .rw, 0⟩,
     ⟨F.CE_ADC_CFG_chan_en, .rw, 0⟩]⟩,
  ⟨0x50010, 4, 8, 0, 8, 0, 8, 4,
    [⟨F.CE_ADC_DATA_count, .ro, 0⟩,
     ⟨F.CE_ADC_DATA_code, .ro, 0⟩]⟩,
  ⟨0x50040, 4, 1, 0, 1, 0, 1, 4,
    [⟨F.CE_DONE_LO_done, .w1c, 0⟩]⟩,
  ⟨0x50044, 4, 1, 0, 1, 0, 1, 4,
    [⟨F.CE_DONE_HI_done, .w1c, 0⟩]⟩,
  ⟨0x50100, 4, 64, 0, 64, 0, 64, 4,
    [⟨F.CE_SLOT_STAT_admitted, .ro, 0⟩,
     ⟨F.CE_SLOT_STAT_queued, .ro, 0⟩,
     ⟨F.CE_SLOT_STAT_out_limit, .ro, 0⟩,
     ⟨F.CE_SLOT_STAT_sat, .rc, 0⟩,
     ⟨F.CE_SLOT_STAT_reason, .ro, 0⟩,
     ⟨F.CE_SLOT_STAT_overruns, .rc, 0⟩]⟩,
  ⟨0x52000, 4, 2048, 0, 2048, 0, 2048, 4,
    [⟨F.CE_DESC_word, .rw, 0⟩]⟩]

/-- Register tables of the Coush block, part 1. -/
def regsCoush1 : List RegDesc := [
  ⟨0x8F000, 4, 1, 0, 1, 0, 0, 11,
    [⟨F.TOPO_TILE_consistent, .ro, 0⟩,
     ⟨F.TOPO_TILE_held, .ro, 0⟩,
     ⟨F.TOPO_TILE_derived, .ro, 0⟩,
     ⟨F.TOPO_TILE_reversed, .ro, 0⟩,
     ⟨F.TOPO_TILE_ring_len, .ro, 0⟩,
     ⟨F.TOPO_TILE_pos_b, .ro, 0⟩,
     ⟨F.TOPO_TILE_address, .rw, 0⟩]⟩,
  ⟨0x8F004, 4, 1, 0, 1, 0, 0, 11,
    [⟨F.TOPO_TILE_LOC_round, .ro, 0⟩,
     ⟨F.TOPO_TILE_LOC_pair, .ro, 0⟩,
     ⟨F.TOPO_TILE_LOC_ring_port, .ro, 0⟩]⟩,
  ⟨0x8F008, 4, 1, 0, 0, 0, 1, 11,
    [⟨F.TOPO_ENUM_reassign, .wo, 0⟩,
     ⟨F.TOPO_ENUM_start, .wo, 0⟩]⟩,
  ⟨0x8F010, 4, 7, 0, 0, 0, 7, 11,
    [⟨F.TOPO_RING_len_expected, .rw, 0⟩,
     ⟨F.TOPO_RING_len_seen, .ro, 0⟩,
     ⟨F.TOPO_RING_round, .ro, 0⟩,
     ⟨F.TOPO_RING_over_length, .ro, 0⟩,
     ⟨F.TOPO_RING_broken, .ro, 0⟩,
     ⟨F.TOPO_RING_mismatch, .ro, 0⟩,
     ⟨F.TOPO_RING_running, .ro, 0⟩,
     ⟨F.TOPO_RING_done, .ro, 0⟩]⟩,
  ⟨0x80000, 4, 8, 0, 2, 0, 8, 11,
    [⟨F.PORT_CFG_active, .ro, 0⟩,
     ⟨F.PORT_CFG_timing_local, .ro, 0⟩,
     ⟨F.PORT_CFG_upstream_lost, .ro, 0⟩,
     ⟨F.PORT_CFG_width_mismatch, .ro, 0⟩,
     ⟨F.PORT_CFG_deskew_fail, .ro, 0⟩,
     ⟨F.PORT_CFG_placement_err, .ro, 0⟩,
     ⟨F.PORT_CFG_deskew_add, .ro, 0⟩,
     ⟨F.PORT_CFG_width, .rw, 0⟩,
     ⟨F.PORT_CFG_enable, .rw, 0⟩]⟩,
  ⟨0x80100, 4, 16, 0, 8, 8, 16, 11,
    [⟨F.LANE_CTRL_cnt_clear, .wo, 0⟩,
     ⟨F.LANE_CTRL_retrain, .wo, 0⟩,
     ⟨F.LANE_CTRL_eidle_req, .rw, 0⟩,
     ⟨F.LANE_CTRL_tx_invert, .rw, 0⟩,
     ⟨F.LANE_CTRL_loopback, .rw, 0⟩]⟩,
  ⟨0x80200, 4, 16, 0, 8, 8, 16, 11,
    [⟨F.LANE_STAT_state, .ro, 0⟩,
     ⟨F.LANE_STAT_cdr_lock, .ro, 0⟩,
     ⟨F.LANE_STAT_block_lock, .ro, 0⟩,
     ⟨F.LANE_STAT_rx_inverted, .ro, 0⟩,
     ⟨F.LANE_STAT_eidle_refused, .w1c, 0⟩,
     ⟨F.LANE_STAT_lane_index, .ro, 0⟩,
     ⟨F.LANE_STAT_attempts, .ro, 0⟩]⟩,
  ⟨0x80300, 4, 1, 0, 1, 0, 1, 11,
    [⟨F.LANE_ERR_THR_csym_limit, .rw, 0x100000⟩]⟩,
  ⟨0x81000, 0x20, 16, 0, 8, 8, 16, 11,
    [⟨F.LANE_CSYM_count, .ro, 0⟩]⟩,
  ⟨0x81004, 0x20, 16, 0, 8, 8, 16, 11,
    [⟨F.LANE_CBLK_count, .ro, 0⟩]⟩,
  ⟨0x81008, 0x20, 16, 0, 8, 8, 16, 11,
    [⟨F.LANE_UBLK_count, .ro, 0⟩]⟩,
  ⟨0x8100C, 0x20, 16, 0, 8, 8, 16, 11,
    [⟨F.LANE_LLOSS_count, .ro, 0⟩]⟩,
  ⟨0x81010, 0x20, 16, 0, 8, 8, 16, 11,
    [⟨F.LANE_RETRAIN_count, .ro, 0⟩]⟩,
  ⟨0x82000, 4, 1, 0, 1, 0, 1, 11,
    [⟨F.PKT_CTRL_cnt_clear, .wo, 0⟩,
     ⟨F.PKT_CTRL_dup_discard, .rw, 1⟩]⟩,
  ⟨0x82100, 0x40, 8, 0, 2, 0, 8, 11,
    [⟨F.PKT_OK_count, .ro, 0⟩]⟩,
  ⟨0x82104, 0x40, 8, 0, 2, 0, 8, 11,
    [⟨F.PKT_FAIL_LOCAL_count, .ro, 0⟩]⟩,
  ⟨0x82108, 0x40, 8, 0, 2, 0, 8, 11,
    [⟨F.PKT_FAIL_BLOCK_count, .ro, 0⟩]⟩,
  ⟨0x8210C, 0x40, 8, 0, 2, 0, 8, 11,
    [⟨F.PKT_FAIL_UPSTREAM_count, .ro, 0⟩]⟩,
  ⟨0x82110, 0x40, 8, 0, 2, 0, 8, 11,
    [⟨F.PKT_CUT_count, .ro, 0⟩]⟩,
  ⟨0x82114, 0x40, 8, 0, 2, 0, 8, 11,
    [⟨F.PKT_OVERSIZE_count, .ro, 0⟩]⟩]

/-- Register tables of the Coush block, part 2. -/
def regsCoush2 : List RegDesc := [
  ⟨0x82118, 0x40, 8, 0, 2, 0, 8, 11,
    [⟨F.PKT_FRAMING_count, .ro, 0⟩]⟩,
  ⟨0x8211C, 0x40, 8, 0, 2, 0, 8, 11,
    [⟨F.PKT_DUP_count, .ro, 0⟩]⟩,
  ⟨0x82120, 0x40, 8, 0, 2, 0, 8, 11,
    [⟨F.PKT_STALE_count, .ro, 0⟩]⟩,
  ⟨0x82124, 0x40, 8, 0, 2, 0, 8, 11,
    [⟨F.PKT_LATE_count, .ro, 0⟩]⟩,
  ⟨0x82128, 0x40, 8, 0, 2, 0, 8, 11,
    [⟨F.PKT_MSG_DROP_count, .ro, 0⟩]⟩,
  ⟨0x82300, 4, 1, 0, 1, 0, 0, 11,
    [⟨F.LATE_LINE_count, .ro, 0⟩]⟩,
  ⟨0x82304, 4, 1, 0, 1, 0, 0, 11,
    [⟨F.PKT_DBG_STAT_unconfirmed, .w1c, 0⟩]⟩,
  ⟨0x82400, 4, 7, 0, 0, 0, 7, 11,
    [⟨F.ADMIT_USE_flits, .ro, 0⟩]⟩,
  ⟨0x82440, 4, 7, 0, 0, 0, 7, 11,
    [⟨F.RING_LEAD_lead, .rw, 0⟩]⟩,
  ⟨0x82480, 4, 8, 0, 0, 0, 8, 11,
    [⟨F.NOTE_STAT_top_over, .rc, 0⟩,
     ⟨F.NOTE_STAT_heart_late, .rc, 0⟩,
     ⟨F.NOTE_STAT_base_wait_max, .rc, 0⟩]⟩,
  ⟨0x824C0, 4, 1, 0, 0, 0, 1, 11,
    [⟨F.ADMIT_REFUSED_count, .ro, 0⟩]⟩]

/-- Register tables of the Coush block. -/
def regsCoush : List RegDesc := regsCoush1 ++ regsCoush2

/-- Register tables of the Eth block, part 1. -/
def regsEth1 : List RegDesc := [
  ⟨0xC0000, 4, 1, 0, 1, 0, 1, 10,
    [⟨F.ETH_CFG_cnt_clear, .wo, 0⟩,
     ⟨F.ETH_CFG_lt_en, .rw, 1⟩,
     ⟨F.ETH_CFG_fec_off, .rw, 0⟩,
     ⟨F.ETH_CFG_mode, .rw, 0⟩]⟩,
  ⟨0xC0004, 4, 1, 0, 1, 0, 1, 10,
    [⟨F.ETH_MAC_HI_mac_hi, .rw, 0⟩]⟩,
  ⟨0xC0008, 4, 1, 0, 1, 0, 1, 10,
    [⟨F.ETH_MAC_LO_mac_lo, .rw, 0⟩]⟩,
  ⟨0xC0010, 4, 1, 0, 1, 0, 1, 10,
    [⟨F.CMDP_CFG_udp_port, .rw, 0x4C4A⟩,
     ⟨F.CMDP_CFG_port_mask, .rw, 0xFF⟩,
     ⟨F.CMDP_CFG_enable, .rw, 1⟩]⟩,
  ⟨0xC0014, 4, 1, 0, 1, 0, 1, 10,
    [⟨F.INGEST_CAP_rate, .rw, 0x61A80⟩]⟩,
  ⟨0xC0018, 4, 1, 0, 1, 0, 1, 10,
    [⟨F.INGEST_OVL_fill, .ro, 0⟩,
     ⟨F.INGEST_OVL_hi, .rw, 0x4B⟩,
     ⟨F.INGEST_OVL_lo, .rw, 0x19⟩]⟩,
  ⟨0xC001C, 4, 1, 0, 1, 0, 1, 10,
    [⟨F.INGEST_BUF_offset, .rw, 0x13C00⟩]⟩,
  ⟨0xC0100, 4, 8, 0, 8, 0, 8, 10,
    [⟨F.ETH_IP_address, .rw, 0⟩]⟩,
  ⟨0xC0200, 4, 8, 0, 8, 0, 8, 10,
    [⟨F.ETH_PORT_STAT_link_up, .ro, 0⟩,
     ⟨F.ETH_PORT_STAT_local_fault, .ro, 0⟩,
     ⟨F.ETH_PORT_STAT_remote_fault, .ro, 0⟩,
     ⟨F.ETH_PORT_STAT_lt_done, .ro, 0⟩]⟩,
  ⟨0xC0300, 8, 8, 0, 8, 0, 8, 10,
    [⟨F.ETH_FCS_count, .ro, 0⟩]⟩,
  ⟨0xC0304, 8, 8, 0, 8, 0, 8, 10,
    [⟨F.ETH_DISCARD_count, .ro, 0⟩]⟩,
  ⟨0xC1000, 0x40, 16, 0, 16, 0, 16, 10,
    [⟨F.FLOW_CTRL_enable, .rw, 0⟩,
     ⟨F.FLOW_CTRL_kind, .rw, 0⟩,
     ⟨F.FLOW_CTRL_paths, .rw, 0⟩,
     ⟨F.FLOW_CTRL_priority, .rw, 0⟩,
     ⟨F.FLOW_CTRL_port_p, .rw, 0⟩,
     ⟨F.FLOW_CTRL_port_s, .rw, 0⟩,
     ⟨F.FLOW_CTRL_cnt_clear, .wo, 0⟩,
     ⟨F.FLOW_CTRL_payload_type, .rw, 0⟩,
     ⟨F.FLOW_CTRL_loss_tol, .rw, 0x10⟩]⟩,
  ⟨0xC1004, 0x40, 16, 0, 16, 0, 16, 10,
    [⟨F.FLOW_SRC_P_address, .rw, 0⟩]⟩,
  ⟨0xC1008, 0x40, 16, 0, 16, 0, 16, 10,
    [⟨F.FLOW_GRP_P_address, .rw, 0⟩]⟩,
  ⟨0xC100C, 0x40, 16, 0, 16, 0, 16, 10,
    [⟨F.FLOW_SRC_S_address, .rw, 0⟩]⟩,
  ⟨0xC1010, 0x40, 16, 0, 16, 0, 16, 10,
    [⟨F.FLOW_GRP_S_address, .rw, 0⟩]⟩,
  ⟨0xC1014, 0x40, 16, 0, 16, 0, 16, 10,
    [⟨F.FLOW_UDP_dport_p, .rw, 0⟩,
     ⟨F.FLOW_UDP_dport_s, .rw, 0⟩]⟩,
  ⟨0xC1018, 0x40, 16, 0, 16, 0, 16, 10,
    [⟨F.FLOW_FMT_sampling, .rw, 0⟩,
     ⟨F.FLOW_FMT_depth, .rw, 0xA⟩,
     ⟨F.FLOW_FMT_colorimetry, .rw, 0⟩,
     ⟨F.FLOW_FMT_tcs, .rw, 0⟩,
     ⟨F.FLOW_FMT_packing, .rw, 0⟩,
     ⟨F.FLOW_FMT_wcs, .rw, 2⟩,
     ⟨F.FLOW_FMT_rate, .rw, 9⟩]⟩,
  ⟨0xC101C, 0x40, 16, 0, 16, 0, 16, 10,
    [⟨F.FLOW_DIM_width, .rw, 0⟩,
     ⟨F.FLOW_DIM_height, .rw, 0⟩]⟩,
  ⟨0xC1020, 0x40, 16, 0, 16, 0, 16, 10,
    [⟨F.FLOW_FLACON_skew, .rw, 0x64⟩,
     ⟨F.FLOW_FLACON_first, .rw, 0⟩,
     ⟨F.FLOW_FLACON_count, .rw, 3⟩]⟩]

/-- Register tables of the Eth block, part 2. -/
def regsEth2 : List RegDesc := [
  ⟨0xC1024, 0x40, 16, 0, 16, 0, 16, 10,
    [⟨F.FLOW_STAT_state, .ro, 0⟩,
     ⟨F.FLOW_STAT_live_p, .ro, 0⟩,
     ⟨F.FLOW_STAT_live_s, .ro, 0⟩,
     ⟨F.FLOW_STAT_last_flacon, .ro, 0⟩,
     ⟨F.FLOW_STAT_frames_dropped, .rc, 0⟩]⟩,
  ⟨0xC1028, 0x40, 16, 0, 16, 0, 16, 10,
    [⟨F.FLOW_LOST_count, .ro, 0⟩]⟩,
  ⟨0xC102C, 0x40, 16, 0, 16, 0, 16, 10,
    [⟨F.FLOW_REPAIR_count, .ro, 0⟩]⟩,
  ⟨0xC1030, 0x40, 16, 0, 16, 0, 16, 10,
    [⟨F.FLOW_SHED_count, .ro, 0⟩]⟩,
  ⟨0xC1034, 0x40, 16, 0, 16, 0, 16, 10,
    [⟨F.FLOW_BAD_count, .ro, 0⟩]⟩]

/-- Register tables of the Eth block. -/
def regsEth : List RegDesc := regsEth1 ++ regsEth2

/-- Register tables of the Dram block. -/
def regsDram : List RegDesc := [
  ⟨0x100000, 4, 1, 0, 1, 0, 1, 12,
    [⟨F.DRAM_CFG_enable, .rw, 0⟩,
     ⟨F.DRAM_CFG_rate, .rw, 0⟩,
     ⟨F.DRAM_CFG_channels, .rw, 0⟩,
     ⟨F.DRAM_CFG_ranks, .rw, 0⟩,
     ⟨F.DRAM_CFG_density, .rw, 0⟩]⟩,
  ⟨0x100004, 4, 1, 0, 1, 0, 1, 12,
    [⟨F.DRAM_STAT_ready, .ro, 0⟩,
     ⟨F.DRAM_STAT_training, .ro, 0⟩,
     ⟨F.DRAM_STAT_cfg_error, .ro, 0⟩,
     ⟨F.DRAM_STAT_self_refresh, .ro, 0⟩,
     ⟨F.DRAM_STAT_train_fail, .ro, 0⟩,
     ⟨F.DRAM_STAT_refresh_mult, .ro, 0⟩,
     ⟨F.DRAM_STAT_size, .ro, 0⟩]⟩,
  ⟨0x100008, 4, 1, 0, 1, 0, 1, 12,
    [⟨F.DRAM_WIN_ctrl_page, .rw, 0⟩,
     ⟨F.DRAM_WIN_hk1_page, .rw, 0⟩,
     ⟨F.DRAM_WIN_hk0_page, .rw, 0⟩,
     ⟨F.DRAM_WIN_cmd_page, .rw, 0⟩]⟩,
  ⟨0x10000C, 4, 1, 0, 1, 0, 1, 12,
    [⟨F.DRAM_SCHED_age_max, .rw, 0xC8⟩,
     ⟨F.DRAM_SCHED_floor, .rw, 0x10⟩,
     ⟨F.DRAM_SCHED_wq_hi, .rw, 0x30⟩,
     ⟨F.DRAM_SCHED_wq_lo, .rw, 0x10⟩]⟩,
  ⟨0x100010, 4, 1, 0, 1, 0, 1, 12,
    [⟨F.DRAM_SR_enable, .rw, 1⟩,
     ⟨F.DRAM_SR_idle, .rw, 0x14⟩,
     ⟨F.DRAM_SR_exit, .rw, 0x64⟩]⟩,
  ⟨0x100014, 4, 1, 0, 1, 0, 1, 12,
    [⟨F.DRAM_LTA_port, .ro, 0⟩,
     ⟨F.DRAM_LTA_tolerance, .ro, 0xFFFF⟩]⟩,
  ⟨0x100018, 4, 1, 0, 1, 0, 1, 12,
    [⟨F.DRAM_SR_COUNT_count, .ro, 0⟩]⟩,
  ⟨0x100020, 4, 1, 0, 1, 0, 1, 12,
    [⟨F.DRAM_RAT_CFG_enable, .rw, 1⟩,
     ⟨F.DRAM_RAT_CFG_radius, .rw, 1⟩,
     ⟨F.DRAM_RAT_CFG_threshold, .rw, 0x1000⟩]⟩,
  ⟨0x100024, 4, 1, 0, 1, 0, 1, 12,
    [⟨F.DRAM_RAT_TRIG_count, .ro, 0⟩]⟩,
  ⟨0x100028, 4, 1, 0, 1, 0, 1, 12,
    [⟨F.DRAM_RAT_SWEEP_count, .ro, 0⟩]⟩,
  ⟨0x100100, 4, 12, 0, 12, 0, 12, 12,
    [⟨F.DRAM_PORT_QOS_priority, .rw, 0⟩,
     ⟨F.DRAM_PORT_QOS_lvl1, .rw, 0x20⟩,
     ⟨F.DRAM_PORT_QOS_lvl2, .rw, 0x10⟩,
     ⟨F.DRAM_PORT_QOS_lvl3, .rw, 6⟩]⟩,
  ⟨0x100140, 4, 12, 0, 12, 0, 12, 12,
    [⟨F.DRAM_PORT_STAT_panic, .ro, 0⟩,
     ⟨F.DRAM_PORT_STAT_panic_max, .rc, 0⟩,
     ⟨F.DRAM_PORT_STAT_underruns, .rc, 0⟩]⟩,
  ⟨0x100200, 4, 4, 0, 4, 0, 4, 12,
    [⟨F.DRAM_BW_load, .ro, 0⟩]⟩]

/-- Register tables of the Flacon block. -/
def regsFlacon : List RegDesc := [
  ⟨0x140000, 0x20, 256, 0, 64, 0, 256, 16,
    [⟨F.FLACON_BASE_region, .rw, 0⟩,
     ⟨F.FLACON_BASE_offset, .rw, 0⟩]⟩,
  ⟨0x140004, 0x20, 256, 0, 64, 0, 256, 16,
    [⟨F.FLACON_FMT_stride, .rw, 0⟩,
     ⟨F.FLACON_FMT_layout, .rw, 0⟩,
     ⟨F.FLACON_FMT_pixfmt, .rw, 0⟩,
     ⟨F.FLACON_FMT_colorimetry, .rw, 0⟩,
     ⟨F.FLACON_FMT_tcs, .rw, 0⟩]⟩,
  ⟨0x140008, 0x20, 256, 0, 64, 0, 256, 16,
    [⟨F.FLACON_DIM_width, .rw, 0⟩,
     ⟨F.FLACON_DIM_height, .rw, 0⟩]⟩,
  ⟨0x14000C, 0x20, 256, 0, 64, 0, 256, 16,
    [⟨F.FLACON_SIZE_size, .rw, 0⟩]⟩,
  ⟨0x140010, 0x20, 256, 0, 64, 0, 256, 16,
    [⟨F.FLACON_STAT_state, .ro, 0⟩,
     ⟨F.FLACON_STAT_fenced, .ro, 0⟩,
     ⟨F.FLACON_STAT_early_release, .w1c, 0⟩,
     ⟨F.FLACON_STAT_fence_frame, .ro, 0⟩]⟩,
  ⟨0x140014, 0x20, 256, 0, 64, 0, 256, 16,
    [⟨F.FLACON_RTP_rtp_ts, .ro, 0⟩]⟩,
  ⟨0x140018, 0x20, 256, 0, 64, 0, 256, 16,
    [⟨F.FLACON_RXS_seconds, .ro, 0⟩]⟩,
  ⟨0x14001C, 0x20, 256, 0, 64, 0, 256, 16,
    [⟨F.FLACON_RXN_nanoseconds, .ro, 0⟩]⟩]

/-- Register tables of the Comp block. -/
def regsComp : List RegDesc := [
  ⟨0x180000, 4, 1, 0, 1, 0, 1, 16,
    [⟨F.COMP_TIMING_latch_lead, .rw, 0xC8⟩,
     ⟨F.COMP_TIMING_ahead, .rw, 0x14⟩]⟩,
  ⟨0x180004, 4, 1, 0, 1, 0, 1, 16,
    [⟨F.COMP_VIEWSEL_view3, .rw, 0⟩,
     ⟨F.COMP_VIEWSEL_view2, .rw, 0⟩,
     ⟨F.COMP_VIEWSEL_view1, .rw, 0⟩,
     ⟨F.COMP_VIEWSEL_view0, .rw, 0⟩]⟩,
  ⟨0x180008, 4, 1, 0, 1, 0, 1, 16,
    [⟨F.COMP_LB_size, .rw, 0⟩,
     ⟨F.COMP_LB_base, .rw, 0⟩]⟩,
  ⟨0x18000C, 4, 1, 0, 1, 0, 0, 16,
    [⟨F.COMP_WIN_x0, .rw, 0⟩,
     ⟨F.COMP_WIN_y0, .rw, 0⟩]⟩,
  ⟨0x180010, 4, 1, 0, 1, 0, 1, 16,
    [⟨F.COMP_STAT_overruns, .rc, 0⟩,
     ⟨F.COMP_STAT_frame, .ro, 0⟩]⟩,
  ⟨0x180014, 4, 1, 0, 1, 0, 0, 16,
    [⟨F.COMP_STRAY_count, .ro, 0⟩]⟩,
  ⟨0x180040, 4, 8, 0, 8, 0, 8, 16,
    [⟨F.ACCORD_STAT_passed, .ro, 0⟩,
     ⟨F.ACCORD_STAT_live, .ro, 0⟩,
     ⟨F.ACCORD_STAT_reason, .ro, 0⟩,
     ⟨F.ACCORD_STAT_layers, .ro, 0⟩]⟩,
  ⟨0x180080, 4, 16, 0, 0, 0, 16, 16,
    [⟨F.COMP_FLOW_STAT_repeats, .rc, 0⟩,
     ⟨F.COMP_FLOW_STAT_drops, .rc, 0⟩]⟩,
  ⟨0x180800, 4, 256, 0, 256, 0, 256, 16,
    [⟨F.COMP_COEF_word, .rw, 0⟩]⟩,
  ⟨0x181000, 4, 2048, 0, 2048, 0, 2048, 16,
    [⟨F.ACCORD_WORD_word, .rw, 0⟩]⟩,
  ⟨0x188000, 8, 1792, 0, 0, 0, 1792, 16,
    [⟨F.TMAP_HI_x0, .rw, 0⟩,
     ⟨F.TMAP_HI_y0, .rw, 0⟩]⟩,
  ⟨0x188004, 8, 1792, 0, 0, 0, 1792, 16,
    [⟨F.TMAP_LO_w, .rw, 0⟩,
     ⟨F.TMAP_LO_h, .rw, 0⟩]⟩]

/-- Register tables of the Pipe block, part 1. -/
def regsPipe1 : List RegDesc := [
  ⟨0x200000, 4, 1, 0, 1, 0, 0, 16,
    [⟨F.PIPE_CFG_cnt_clear, .wo, 0⟩,
     ⟨F.PIPE_CFG_dither_en, .rw, 1⟩]⟩,
  ⟨0x200004, 4, 1, 0, 1, 0, 1, 16,
    [⟨F.PIPE_BANK_corr, .rw, 0⟩,
     ⟨F.PIPE_BANK_tgain, .rw, 0⟩,
     ⟨F.PIPE_BANK_gamut, .rw, 0⟩,
     ⟨F.PIPE_BANK_tf, .rw, 0⟩]⟩,
  ⟨0x200008, 4, 2, 0, 2, 0, 0, 16,
    [⟨F.CORR_BASE_region, .rw, 0⟩,
     ⟨F.CORR_BASE_offset, .rw, 0⟩]⟩,
  ⟨0x200010, 4, 1, 0, 1, 0, 1, 16,
    [⟨F.TF_CFG_regen, .wo, 0⟩,
     ⟨F.TF_CFG_bank, .rw, 0⟩,
     ⟨F.TF_CFG_busy, .ro, 0⟩,
     ⟨F.TF_CFG_gamma, .rw, 0xF0⟩,
     ⟨F.TF_CFG_hlg_gamma, .rw, 0x78⟩]⟩,
  ⟨0x200014, 4, 1, 0, 1, 0, 1, 16,
    [⟨F.TF_LEVEL_pq_peak, .rw, 0x3E8⟩,
     ⟨F.TF_LEVEL_sdr_white, .rw, 0x3333⟩]⟩,
  ⟨0x200018, 4, 1, 0, 1, 0, 0, 16,
    [⟨F.TCOMP_CFG_target, .rw, 0⟩,
     ⟨F.TCOMP_CFG_stale_ms, .rw, 0x3E8⟩]⟩,
  ⟨0x20001C, 4, 1, 0, 1, 0, 0, 16,
    [⟨F.TCOMP_TEMP_temp, .rw, 0xC80⟩]⟩,
  ⟨0x200020, 4, 4, 0, 4, 0, 0, 16,
    [⟨F.TCOMP_GAIN_gain, .ro, 0x4000⟩]⟩,
  ⟨0x200030, 4, 4, 0, 4, 0, 0, 16,
    [⟨F.PIPE_DIM_k, .rw, 0x8000⟩]⟩,
  ⟨0x200040, 4, 1, 0, 1, 0, 0, 16,
    [⟨F.PACK_CFG_halves, .rw, 1⟩,
     ⟨F.PACK_CFG_lamps, .rw, 2⟩,
     ⟨F.PACK_CFG_slot_order, .rw, 0x1B⟩,
     ⟨F.PACK_CFG_drivers, .rw, 0xF⟩,
     ⟨F.PACK_CFG_channels, .rw, 0x30⟩]⟩,
  ⟨0x200050, 4, 1, 0, 1, 0, 0, 16,
    [⟨F.PIPE_STAT_map_ok, .ro, 0⟩,
     ⟨F.PIPE_STAT_map_reason, .ro, 0⟩,
     ⟨F.PIPE_STAT_table_reject, .rc, 0⟩,
     ⟨F.PIPE_STAT_group_corrupt, .rc, 0⟩]⟩,
  ⟨0x200054, 4, 1, 0, 1, 0, 0, 16,
    [⟨F.PIPE_PE_STAT_in_use, .ro, 0⟩]⟩,
  ⟨0x201000, 4, 36, 0, 36, 0, 36, 16,
    [⟨F.GAMUT_0_word, .rw, 0⟩]⟩,
  ⟨0x202000, 4, 64, 0, 64, 0, 0, 16,
    [⟨F.TGAIN_0_word, .rw, 0⟩]⟩]

/-- Register tables of the Pipe block, part 2. -/
def regsPipe2 : List RegDesc := [
  ⟨0x201100, 4, 36, 0, 36, 0, 36, 16,
    [⟨F.GAMUT_1_word, .rw, 0⟩]⟩,
  ⟨0x202100, 4, 64, 0, 64, 0, 0, 16,
    [⟨F.TGAIN_1_word, .rw, 0⟩]⟩]

/-- Register tables of the Pipe block. -/
def regsPipe : List RegDesc := regsPipe1 ++ regsPipe2

/-- Register tables of the Lamp block. -/
def regsLamp : List RegDesc := [
  ⟨0x240000, 4, 1, 0, 1, 0, 0, 5,
    [⟨F.LL_CTRL_cnt_clear, .wo, 0⟩,
     ⟨F.LL_CTRL_restart, .wo, 0⟩,
     ⟨F.LL_CTRL_enable, .rw, 0⟩]⟩,
  ⟨0x240004, 4, 1, 0, 1, 0, 0, 5,
    [⟨F.LL_GEOM_width, .rw, 0⟩,
     ⟨F.LL_GEOM_height, .rw, 0⟩,
     ⟨F.LL_GEOM_mux, .rw, 0⟩]⟩,
  ⟨0x240008, 4, 1, 0, 1, 0, 0, 5,
    [⟨F.LL_SCAN_gclk_div, .rw, 0⟩,
     ⟨F.LL_SCAN_s_log2, .rw, 0⟩]⟩,
  ⟨0x24000C, 4, 1, 0, 1, 0, 0, 5,
    [⟨F.LL_WIN_window, .rw, 0⟩,
     ⟨F.LL_WIN_blank, .rw, 0⟩]⟩,
  ⟨0x240010, 4, 1, 0, 1, 0, 0, 5,
    [⟨F.LL_STAT_running, .ro, 0⟩,
     ⟨F.LL_STAT_bringup, .ro, 0⟩,
     ⟨F.LL_STAT_reason, .ro, 0⟩,
     ⟨F.LL_STAT_gray_drop, .rc, 0⟩]⟩,
  ⟨0x240014, 4, 1, 0, 1, 0, 0, 5,
    [⟨F.LL_DIAG_REQ_go, .w1s, 0⟩,
     ⟨F.LL_DIAG_REQ_lane, .rw, 0⟩,
     ⟨F.LL_DIAG_REQ_position, .rw, 0⟩,
     ⟨F.LL_DIAG_REQ_item, .rw, 0⟩,
     ⟨F.LL_DIAG_REQ_clear, .rw, 0⟩]⟩,
  ⟨0x240018, 4, 1, 0, 1, 0, 0, 5,
    [⟨F.LL_DIAG_RSP_result, .ro, 0⟩,
     ⟨F.LL_DIAG_RSP_words, .ro, 0⟩]⟩,
  ⟨0x240100, 4, 16, 0, 16, 0, 0, 5,
    [⟨F.LL_GRP_CFG_enable, .rw, 0⟩,
     ⟨F.LL_GRP_CFG_trim, .rw, 0⟩]⟩,
  ⟨0x240140, 4, 16, 0, 16, 0, 0, 5,
    [⟨F.LL_GRP_CNT_no_reply, .ro, 0⟩,
     ⟨F.LL_GRP_CNT_crc_fail, .ro, 0⟩]⟩,
  ⟨0x240200, 4, 128, 0, 128, 0, 0, 5,
    [⟨F.LL_CHAIN_found, .ro, 0⟩]⟩,
  ⟨0x241000, 4, 128, 0, 128, 0, 0, 5,
    [⟨F.LL_DIAG_BUF_word, .ro, 0⟩]⟩]

/-- Register tables of the Drive block, part 1. -/
def regsDrive1 : List RegDesc := [
  ⟨0x280000, 4, 1, 0, 1, 0, 0, 5,
    [⟨F.LD_CTRL_cnt_clear, .wo, 0⟩,
     ⟨F.LD_CTRL_resume, .wo, 0⟩,
     ⟨F.LD_CTRL_drydown, .rw, 0⟩,
     ⟨F.LD_CTRL_blot_en, .rw, 1⟩,
     ⟨F.LD_CTRL_hybrid_en, .rw, 1⟩,
     ⟨F.LD_CTRL_enable, .rw, 0⟩]⟩,
  ⟨0x280004, 4, 1, 0, 1, 0, 0, 5,
    [⟨F.LD_STAT_dry_state, .ro, 2⟩,
     ⟨F.LD_STAT_dry_causes, .ro, 0⟩,
     ⟨F.LD_STAT_vled_mode, .ro, 0⟩,
     ⟨F.LD_STAT_split, .ro, 0⟩]⟩,
  ⟨0x280008, 4, 1, 0, 1, 0, 0, 5,
    [⟨F.LD_BRIGHT_level, .rw, 0x8000⟩]⟩,
  ⟨0x28000C, 4, 1, 0, 1, 0, 0, 5,
    [⟨F.LD_SPLIT_x, .rw, 0x4000⟩,
     ⟨F.LD_SPLIT_hyst, .rw, 0x20⟩]⟩,
  ⟨0x280010, 4, 1, 0, 1, 0, 0, 5,
    [⟨F.LD_IREF_red, .rw, 0x50⟩,
     ⟨F.LD_IREF_green, .rw, 0x50⟩,
     ⟨F.LD_IREF_blue, .rw, 0x50⟩,
     ⟨F.LD_IREF_aux, .rw, 0x50⟩]⟩,
  ⟨0x280014, 4, 1, 0, 1, 0, 0, 5,
    [⟨F.LD_THRESH_v_open, .rw, 0x50⟩,
     ⟨F.LD_THRESH_v_short, .rw, 0x3E8⟩]⟩,
  ⟨0x280018, 4, 1, 0, 1, 0, 0, 5,
    [⟨F.LD_GAIN_OUT_gains, .ro, 0xFFFFFFFF⟩]⟩,
  ⟨0x28001C, 4, 1, 0, 1, 0, 0, 5,
    [⟨F.LD_STAT_CLIP_count, .ro, 0⟩]⟩,
  ⟨0x280020, 4, 1, 0, 1, 0, 0, 5,
    [⟨F.LD_HR_CFG_target, .rw, 0x12C⟩,
     ⟨F.LD_HR_CFG_floor, .rw, 0x96⟩]⟩,
  ⟨0x280024, 4, 1, 0, 1, 0, 0, 5,
    [⟨F.LD_HR_STAT_h_min, .ro, 0⟩,
     ⟨F.LD_HR_STAT_valid, .ro, 0⟩,
     ⟨F.LD_HR_STAT_lane, .ro, 0⟩,
     ⟨F.LD_HR_STAT_position, .ro, 0⟩]⟩,
  ⟨0x280028, 4, 1, 0, 1, 0, 0, 5,
    [⟨F.LD_VLED_LIM_max, .rw, 0xF0⟩,
     ⟨F.LD_VLED_LIM_start, .rw, 0xC8⟩,
     ⟨F.LD_VLED_LIM_min, .rw, 0x78⟩,
     ⟨F.LD_VLED_LIM_step, .rw, 4⟩]⟩,
  ⟨0x28002C, 4, 1, 0, 1, 0, 0, 5,
    [⟨F.LD_VLED_SET_set, .ro, 0x1388⟩]⟩,
  ⟨0x280030, 4, 1, 0, 1, 0, 0, 5,
    [⟨F.LD_BLOT_CFG_age, .rw, 0xF0⟩]⟩,
  ⟨0x280034, 4, 1, 0, 1, 0, 0, 5,
    [⟨F.LD_DIAG_CFG_confirm, .rw, 2⟩,
     ⟨F.LD_DIAG_CFG_sweep_ms, .rw, 0x64⟩]⟩,
  ⟨0x280038, 4, 1, 0, 1, 0, 0, 5,
    [⟨F.LD_CONTAIN_fill, .rw, 0x40⟩,
     ⟨F.LD_CONTAIN_scope, .rw, 0⟩]⟩,
  ⟨0x28003C, 4, 1, 0, 1, 0, 0, 5,
    [⟨F.LD_LAMP_BASE_offset, .rw, 0⟩]⟩,
  ⟨0x280040, 4, 1, 0, 1, 0, 0, 5,
    [⟨F.LD_COUNT_opens, .ro, 0⟩,
     ⟨F.LD_COUNT_shorts, .ro, 0⟩]⟩,
  ⟨0x280044, 4, 1, 0, 1, 0, 0, 5,
    [⟨F.LD_BLOT_COUNT_count, .ro, 0⟩]⟩,
  ⟨0x280048, 4, 1, 0, 1, 0, 0, 5,
    [⟨F.LD_FAULT_STAT_overflow, .ro, 0⟩,
     ⟨F.LD_FAULT_STAT_records, .ro, 0⟩]⟩,
  ⟨0x280100, 4, 16, 0, 16, 0, 0, 5,
    [⟨F.LD_GRP_STAT_unverified, .ro, 0⟩,
     ⟨F.LD_GRP_STAT_faults, .ro, 0⟩]⟩]

/-- Register tables of the Drive block, part 2. -/
def regsDrive2 : List RegDesc := [
  ⟨0x281000, 4, 4096, 0, 4096, 0, 0, 5,
    [⟨F.LD_FAULT_REC_word, .ro, 0⟩]⟩]

/-- Register tables of the Drive block. -/
def regsDrive : List RegDesc := regsDrive1 ++ regsDrive2

/-- Register tables of the Red block, part 1. -/
def regsRed1 : List RegDesc := [
  ⟨0x2CF000, 4, 1, 0, 0, 0, 1, 1,
    [⟨F.CASCADE_ID_wtm, .rw, 0⟩,
     ⟨F.CASCADE_ID_member, .rw, 0⟩,
     ⟨F.CASCADE_ID_pair, .rw, 0⟩]⟩,
  ⟨0x2C0000, 4, 1, 0, 0, 0, 1, 1,
    [⟨F.RED_CFG_enable, .rw, 0⟩,
     ⟨F.RED_CFG_miss, .rw, 5⟩,
     ⟨F.RED_CFG_hb_us, .rw, 0x3E8⟩]⟩,
  ⟨0x2C0004, 4, 1, 0, 0, 0, 1, 1,
    [⟨F.RED_PERIOD_snap_s, .rw, 0x258⟩,
     ⟨F.RED_PERIOD_swap_s, .rw, 0xE10⟩]⟩,
  ⟨0x2C0008, 4, 1, 0, 0, 0, 1, 1,
    [⟨F.RED_STAT_state, .ro, 0⟩,
     ⟨F.RED_STAT_sync, .ro, 0⟩,
     ⟨F.RED_STAT_tie_ok, .ro, 0⟩,
     ⟨F.RED_STAT_ring_ok, .ro, 0⟩,
     ⟨F.RED_STAT_partner_active, .ro, 0⟩,
     ⟨F.RED_STAT_snap_busy, .ro, 0⟩,
     ⟨F.RED_STAT_swap_pending, .ro, 0⟩,
     ⟨F.RED_STAT_ring_seen, .ro, 0⟩]⟩,
  ⟨0x2C000C, 4, 1, 0, 0, 0, 1, 1,
    [⟨F.RED_EPOCH_epoch, .ro, 0⟩]⟩,
  ⟨0x2C0010, 4, 1, 0, 0, 0, 1, 1,
    [⟨F.RED_PARTNER_EPOCH_epoch, .ro, 0⟩]⟩,
  ⟨0x2C0014, 4, 1, 0, 0, 0, 1, 1,
    [⟨F.RED_SNAP_value, .ro, 0⟩]⟩,
  ⟨0x2C0018, 4, 1, 0, 0, 0, 1, 1,
    [⟨F.RED_JSEQ_value, .ro, 0⟩]⟩,
  ⟨0x2C001C, 4, 1, 0, 0, 0, 1, 1,
    [⟨F.RED_GAP_SNAP_value, .ro, 0⟩]⟩,
  ⟨0x2C0020, 4, 1, 0, 0, 0, 1, 1,
    [⟨F.RED_GAP_JSEQ_value, .ro, 0⟩]⟩,
  ⟨0x2C0024, 4, 1, 0, 0, 0, 1, 1,
    [⟨F.RED_SWAP_F_HI_frame, .ro, 0⟩]⟩,
  ⟨0x2C0028, 4, 1, 0, 0, 0, 1, 1,
    [⟨F.RED_SWAP_F_LO_frame, .ro, 0⟩]⟩,
  ⟨0x2C0030, 4, 1, 0, 0, 0, 1, 1,
    [⟨F.RED_BUF_region, .rw, 0⟩,
     ⟨F.RED_BUF_offset, .rw, 0⟩]⟩,
  ⟨0x2C0034, 4, 1, 0, 0, 0, 1, 1,
    [⟨F.RED_BUF_SIZE_size, .rw, 0⟩]⟩,
  ⟨0x2C0038, 4, 1, 0, 0, 0, 1, 1,
    [⟨F.RED_SNAP_BYTES_bytes, .ro, 0⟩]⟩,
  ⟨0x2C0040, 4, 1, 0, 0, 0, 1, 1,
    [⟨F.RED_CNT_0_journal_gaps, .rc, 0⟩,
     ⟨F.RED_CNT_0_diverge, .rc, 0⟩]⟩,
  ⟨0x2C0044, 4, 1, 0, 0, 0, 1, 1,
    [⟨F.RED_CNT_1_heart_held, .rc, 0⟩,
     ⟨F.RED_CNT_1_relay_late, .rc, 0⟩]⟩,
  ⟨0x2C0080, 8, 8, 0, 0, 0, 8, 1,
    [⟨F.RED_REGION_BASE_region, .rw, 0⟩,
     ⟨F.RED_REGION_BASE_offset, .rw, 0⟩]⟩,
  ⟨0x2C0084, 8, 8, 0, 0, 0, 8, 1,
    [⟨F.RED_REGION_LEN_length, .rw, 0⟩]⟩,
  ⟨0x2C0100, 4, 1, 0, 1, 0, 0, 1,
    [⟨F.RED_TILE_A_seen, .ro, 0⟩,
     ⟨F.RED_TILE_A_active, .ro, 0⟩,
     ⟨F.RED_TILE_A_member, .ro, 0⟩,
     ⟨F.RED_TILE_A_one_sided, .ro, 0⟩]⟩]

/-- Register tables of the Red block, part 2. -/
def regsRed2 : List RegDesc := [
  ⟨0x2C0104, 4, 1, 0, 1, 0, 0, 1,
    [⟨F.RED_TILE_B_seen, .ro, 0⟩,
     ⟨F.RED_TILE_B_active, .ro, 0⟩,
     ⟨F.RED_TILE_B_member, .ro, 0⟩,
     ⟨F.RED_TILE_B_one_sided, .ro, 0⟩]⟩,
  ⟨0x2C0108, 4, 1, 0, 1, 0, 0, 1,
    [⟨F.RED_TILE_EP_A_epoch, .ro, 0⟩]⟩,
  ⟨0x2C010C, 4, 1, 0, 1, 0, 0, 1,
    [⟨F.RED_TILE_EP_B_epoch, .ro, 0⟩]⟩,
  ⟨0x2C0110, 4, 1, 0, 1, 0, 0, 1,
    [⟨F.RED_TILE_STAT_split, .ro, 0⟩,
     ⟨F.RED_TILE_STAT_higher_b, .ro, 0⟩,
     ⟨F.RED_TILE_STAT_split_drop, .rc, 0⟩]⟩]

/-- Register tables of the Red block. -/
def regsRed : List RegDesc := regsRed1 ++ regsRed2

/-- Register tables of the Boot block. -/
def regsBoot : List RegDesc := [
  ⟨0x300000, 4, 1, 0, 1, 0, 1, 2,
    [⟨F.BOOT_INFO_boot_sel, .ro, 0⟩,
     ⟨F.BOOT_INFO_slot, .ro, 0⟩,
     ⟨F.BOOT_INFO_recovery, .ro, 0⟩,
     ⟨F.BOOT_INFO_note, .ro, 0⟩]⟩,
  ⟨0x300004, 4, 1, 0, 1, 0, 1, 2,
    [⟨F.UPD_STAT_state, .ro, 0⟩,
     ⟨F.UPD_STAT_svn_pending, .ro, 0⟩,
     ⟨F.UPD_STAT_holdup_wait, .ro, 0⟩,
     ⟨F.UPD_STAT_migrate, .ro, 0⟩,
     ⟨F.UPD_STAT_dropped, .rc, 0⟩,
     ⟨F.UPD_STAT_confirm_left, .ro, 0⟩]⟩,
  ⟨0x300008, 4, 1, 0, 1, 0, 1, 2,
    [⟨F.UPD_CFG_confirm_s, .rw, 0x78⟩]⟩,
  ⟨0x30000C, 4, 1, 0, 1, 0, 1, 2,
    [⟨F.UPD_IMAGE_image_version, .ro, 0⟩]⟩,
  ⟨0x300010, 4, 1, 0, 1, 0, 1, 2,
    [⟨F.UPD_VERSION_svn, .ro, 0⟩,
     ⟨F.UPD_VERSION_settings_version, .ro, 0⟩]⟩,
  ⟨0x300014, 4, 1, 0, 1, 0, 1, 2,
    [⟨F.UPD_SCHED_F_HI_frame, .ro, 0⟩]⟩,
  ⟨0x300018, 4, 1, 0, 1, 0, 1, 2,
    [⟨F.UPD_SCHED_F_LO_frame, .ro, 0⟩]⟩,
  ⟨0x300020, 4, 1, 0, 1, 0, 1, 2,
    [⟨F.HOLDUP_CFG_0_cap_uf, .rw, 0⟩,
     ⟨F.HOLDUP_CFG_0_vmin_mv, .rw, 0⟩]⟩,
  ⟨0x300024, 4, 1, 0, 1, 0, 1, 2,
    [⟨F.HOLDUP_CFG_1_load_mw, .rw, 0⟩,
     ⟨F.HOLDUP_CFG_1_erase_ms, .rw, 0⟩,
     ⟨F.HOLDUP_CFG_1_prog_ms, .rw, 0⟩]⟩,
  ⟨0x300028, 4, 1, 0, 1, 0, 1, 2,
    [⟨F.HOLDUP_CFG_2_ratio, .rw, 0⟩]⟩,
  ⟨0x30002C, 4, 1, 0, 1, 0, 1, 2,
    [⟨F.HOLDUP_STAT_ok, .ro, 0⟩,
     ⟨F.HOLDUP_STAT_code, .ro, 0⟩,
     ⟨F.HOLDUP_STAT_energy, .ro, 0⟩]⟩,
  ⟨0x300040, 4, 1, 0, 1, 0, 1, 2,
    [⟨F.OTP_SVN_lock, .ro, 0⟩,
     ⟨F.OTP_SVN_used, .ro, 0⟩,
     ⟨F.OTP_SVN_svn, .ro, 0⟩]⟩,
  ⟨0x300044, 4, 1, 0, 1, 0, 1, 2,
    [⟨F.OTP_PROG_go, .wo, 0⟩,
     ⟨F.OTP_PROG_busy, .ro, 0⟩,
     ⟨F.OTP_PROG_result, .ro, 0⟩,
     ⟨F.OTP_PROG_key, .wo, 0⟩]⟩]

/-- The register tables of the block that holds byte address `a` (R436). -/
def regTable (a : Nat) : List RegDesc :=
  match a / 0x10000 with
  | 0 => regsGlb | 1 => regsEvt | 2 => regsPwr | 3 => regsTherm | 4 => regsTime | 5 => regsCe
  | 8 | 9 | 10 | 11 => regsCoush
  | 12 | 13 | 14 | 15 => regsEth
  | 16 | 17 | 18 | 19 => regsDram
  | 20 | 21 | 22 | 23 => regsFlacon
  | 24 | 25 | 26 | 27 | 28 | 29 | 30 | 31 => regsComp
  | 32 | 33 | 34 | 35 => regsPipe
  | 36 | 37 | 38 | 39 => regsLamp
  | 40 | 41 | 42 | 43 => regsDrive
  | 44 | 45 | 46 | 47 => regsRed
  | 48 | 49 | 50 | 51 => regsBoot
  | _ => []
/-- The instances that exist in each role, as a pair of bounds (R32, R60, R87, R147, R193, R224, R249, R272, R363). -/
def RegDesc.bounds (d : RegDesc) (role : Role) : Nat × Nat :=
  match role with
  | .tile => (d.tileLo, d.tileHi)
  | .sender => (d.senderLo, d.senderHi)

/-- Whether the register table `d` has an instance at byte address `a`. -/
def RegDesc.covers (d : RegDesc) (a : Nat) : Bool :=
  decide (d.base ≤ a) && decide ((a - d.base) / d.stride < d.count) && (a - d.base) % d.stride == 0

/-- The register table and instance at byte address `a`, if the spec assigns one there. -/
def findReg (a : Nat) : Option (RegDesc × Nat) :=
  match (regTable a).find? (fun d => d.covers a) with
  | some d => some (d, (a - d.base) / d.stride)
  | none => none

/-- Bits 2i + 1 to 2i of class word `k` (group k / 2, half k mod 2) at reset: the class of source 16k + i (R364). -/
def classWordReset (k : Nat) : Nat :=
  (List.range 16).foldl (fun acc i => acc + srcClassReset (16 * k + i) * 4 ^ i) 0

/-- PD_CTRL_nn at reset: enable 1 and state on for PD_01–PD_04, PD_14 and PD_15, idle_us 03E8h (R411). -/
def pdCtrlReset (n : Nat) : Nat :=
  if [1, 2, 3, 4, 14, 15].contains n then 0x900003E8 else 0x000003E8

/-- The reset value of the fields of a register table, put together into one word. -/
def fieldsReset (fs : List FieldDesc) : Nat :=
  fs.foldl (fun acc f => acc + f.reset * 2 ^ f.fld.lo) 0

/-- The word at byte address `a` after reset: the reset values of the spec's tables, with the resets that are a rule of
their own (EVT_CLASS R364, PD_CTRL R411, DRAM_PORT_QOS R154, COMP_COEF R193, gamut and gain tables R218). -/
def resetWord (a : Nat) : Word :=
  match findReg a with
  | none => 0
  | some (d, i) =>
    if d.base == F.EVT_CLASS_class.base then BitVec.ofNat 32 (classWordReset i)
    else if d.base == 0x20104 then BitVec.ofNat 32 (pdCtrlReset (i + 1))
    else if d.base == F.DRAM_PORT_QOS_priority.base then
      BitVec.ofNat 32 (dramPriorityReset i * 2 ^ 28 + (if 1 ≤ i ∧ i ≤ 3 then 0x20406 else 0))
    else if d.base == F.COMP_COEF_word.base then (if i % 4 == 1 then 0x40000000 else 0)
    else if d.base == F.GAMUT_0_word.base || d.base == F.GAMUT_1_word.base then
      (if (i % 9) / 3 == i % 3 then 0x4000 else 0)
    else if d.base == F.TGAIN_0_word.base || d.base == F.TGAIN_1_word.base then 0x4000
    else BitVec.ofNat 32 (fieldsReset d.fields)

/-- The power domain that gates byte address `a` of a register span (R436). -/
def regDomain (a : Nat) : Nat :=
  match findReg a with
  | some (d, i) => if d.base == F.THERM_TEMP_temp.base && i != 0 then 4 else d.domain
  | none =>
    match a / 0x10000 with
    | 3 => 4 | 4 => 3 | 5 => 4
    | 8 | 9 | 10 | 11 => 11
    | 12 | 13 | 14 | 15 => 10
    | 16 | 17 | 18 | 19 => 12
    | 20 | 21 | 22 | 23 | 24 | 25 | 26 | 27 | 28 | 29 | 30 | 31 | 32 | 33 | 34 | 35 => 16
    | 36 | 37 | 38 | 39 | 40 | 41 | 42 | 43 => 5
    | 44 | 45 | 46 | 47 => 1
    | 48 | 49 | 50 | 51 => 2
    | _ => 0

end Sys2Proof.Machine
end

