-- ==== Sys2Proof/Machine/Ops.lean ====
section
/-! DEFINITION. The named operations over registers, memories, lists, bytes and check values that every meaning uses. -/

namespace Sys2Proof.Machine

/-! ### Sparse maps in canonical form -/

/-- The value of key `k`: the entry's, or the key's default. -/
def smGet {α : Type} (d : Nat → α) (m : SMap α) (k : Nat) : α :=
  match m with
  | [] => d k
  | (k', v) :: t => if k' = k then v else smGet d t k

/-- Set key `k`: keys stay strictly rising, and a value equal to the key's default has no entry. -/
def smPut {α : Type} [DecidableEq α] (d : Nat → α) (m : SMap α) (k : Nat) (v : α) : SMap α :=
  match m with
  | [] => if v = d k then [] else [(k, v)]
  | (k', v') :: t =>
    if k < k' then (if v = d k then (k', v') :: t else (k, v) :: (k', v') :: t)
    else if k = k' then (if v = d k then t else (k, v) :: t)
    else (k', v') :: smPut d t k v

/-- The canonical form of a sparse map: keys strictly rising, no entry equal to its key's default. -/
abbrev Memory.wf {α : Type} [DecidableEq α] (d : Nat → α) (m : SMap α) : Prop :=
  m.Pairwise (fun x y => x.1 < y.1) ∧ ∀ e ∈ m, e.2 ≠ d e.1

/-! ### Lists -/

/-- Replace element `i` of a list by `f` of it. -/
def updAt {α : Type} (f : α → α) : List α → Nat → List α
  | [], _ => []
  | x :: t, 0 => f x :: t
  | x :: t, i + 1 => x :: updAt f t i

/-- Saturating addition: the sum, stopping at `cap`. -/
def satAdd (cap a b : Nat) : Nat := min cap (a + b)

/-- `if b then 1 else 0`. -/
def b2n (b : Bool) : Nat := if b then 1 else 0

/-! ### Bits -/

/-- Bits `hi` to `lo` of `n` (R6). -/
def bitsOf (n hi lo : Nat) : Nat := n / 2 ^ lo % 2 ^ (hi + 1 - lo)

/-- Bit `i` of `n` (R6). -/
def bitOf (n i : Nat) : Bool := n / 2 ^ i % 2 == 1

/-- `n` with bits `hi` to `lo` replaced by the low bits of `v`. -/
def withBits (n hi lo v : Nat) : Nat :=
  n / 2 ^ (hi + 1) * 2 ^ (hi + 1) + v % 2 ^ (hi + 1 - lo) * 2 ^ lo + n % 2 ^ lo

/-- The two's-complement number in the low `w` bits of `n` (R9). -/
def sgn (w n : Nat) : Int :=
  if n % 2 ^ w < 2 ^ (w - 1) then (n % 2 ^ w : Nat) else (n % 2 ^ w : Nat) - (2 ^ w : Nat)

/-- The low `w` bits of an integer in two's complement (R9). -/
def unsgn (w : Nat) (z : Int) : Nat := (z % (2 ^ w : Nat)).toNat

/-- Clamp an integer to a range. -/
def clampZ (lo hi z : Int) : Int := max lo (min hi z)

/-- Clamp a number to a range. -/
def clampN (lo hi n : Nat) : Nat := max lo (min hi n)

/-- Quotient rounded up. -/
def cdiv (a b : Nat) : Nat := (a + b - 1) / b

/-! ### Bytes: fields of the device's own formats, most significant byte first (R8) -/

/-- Byte `i` of a list, 0 past its end. -/
def byteAt (bs : List Byte) (i : Nat) : Nat := (bs.getD i 0).toNat

/-- The number in the bytes of `bs`, most significant first. -/
def beNat (bs : List Byte) : Nat := bs.foldl (fun acc b => acc * 256 + b.toNat) 0

/-- The number in bytes `i` to `i + n − 1`, most significant first; absent bytes count as 0. -/
def beAt (bs : List Byte) (i n : Nat) : Nat :=
  (List.range n).foldl (fun acc k => acc * 256 + byteAt bs (i + k)) 0

/-- `n` bytes of `v`, most significant first. -/
def beBytes (n v : Nat) : List Byte :=
  (List.range n).map (fun k => BitVec.ofNat 8 (v / 256 ^ (n - 1 - k)))

/-- `n` bytes of `v`, least significant first (R7). -/
def leBytes (n v : Nat) : List Byte :=
  (List.range n).map (fun k => BitVec.ofNat 8 (v / 256 ^ k))

/-- The number in the bytes of `bs`, least significant first (R7). -/
def leNat (bs : List Byte) : Nat := bs.foldr (fun b acc => acc * 256 + b.toNat) 0

/-- Words as bytes, most significant first (R8). -/
def wordsBytes (ws : List Word) : List Byte := ws.flatMap (fun w => beBytes 4 w.toNat)

/-- Group a list into pieces of `n`, with `fuel` pieces at most. -/
def chunksFuel {α : Type} : Nat → Nat → List α → List (List α)
  | 0, _, _ => []
  | _ + 1, _, [] => []
  | f + 1, n, l => l.take n :: chunksFuel f n (l.drop n)

/-- Group a list into pieces of `n` elements, the last one possibly shorter. -/
def chunks {α : Type} (n : Nat) (l : List α) : List (List α) := chunksFuel l.length n l

/-- Bytes as words, most significant byte first (R8). -/
def bytesWords (bs : List Byte) : List Word :=
  (chunks 4 bs).map (fun c => BitVec.ofNat 32 (beNat c * 256 ^ (4 - c.length)))

/-- Pad a list with zeros to `n` bytes. -/
def padTo (n : Nat) (bs : List Byte) : List Byte := bs ++ List.replicate (n - bs.length) 0

/-! ### CRC-32C (R63) -/

/-- One bit of the reflected CRC-32C. -/
def crcBit (c : Nat) : Nat := if c % 2 == 1 then Nat.xor (c / 2) 0x82F63B78 else c / 2

/-- One byte of the reflected CRC-32C. -/
def crcByte (c : Nat) (b : Byte) : Nat :=
  crcBit (crcBit (crcBit (crcBit (crcBit (crcBit (crcBit (crcBit (Nat.xor c b.toNat))))))))

/-- CRC-32C: polynomial 1EDC_6F41h reflected, initial value and final XOR FFFF_FFFFh (R63). -/
def crc32c (bs : List Byte) : Nat := Nat.xor (bs.foldl crcByte 0xFFFFFFFF) 0xFFFFFFFF

/-! ### Registers -/

/-- The word held at a register address: what was written last, or the reset word. -/
def regWord (s : State) (a : Nat) : Word := smGet resetWord s.regs a

/-- Set the word held at a register address. -/
def setRegWord (a : Nat) (w : Word) (s : State) : State :=
  { s with regs := smPut resetWord s.regs a w }

/-- Address of instance `i` of a field's register. -/
def Fld.addr (f : Fld) (i : Nat) : Nat := f.base + f.stride * i

/-- The value of a field of instance `i`. -/
def fldAt (s : State) (f : Fld) (i : Nat) : Nat := bitsOf (regWord s (f.addr i)).toNat f.hi f.lo

/-- The value of a field of a single register. -/
def fld (s : State) (f : Fld) : Nat := fldAt s f 0

/-- Whether a one-bit field of instance `i` is 1. -/
def flagAt (s : State) (f : Fld) (i : Nat) : Bool := fldAt s f i == 1

/-- Whether a one-bit field of a single register is 1. -/
def flag (s : State) (f : Fld) : Bool := flagAt s f 0

/-- Set the word of instance `i` of a field's register; an instance that the device does not have is not written. -/
def setInst (f : Fld) (i : Nat) (w : Word) (s : State) : State :=
  { s with regs := if i < f.count then smPut resetWord s.regs (f.addr i) w else s.regs }

/-- Set a field of instance `i`. -/
def setFldAt (f : Fld) (i v : Nat) (s : State) : State :=
  setInst f i (BitVec.ofNat 32 (withBits (regWord s (f.addr i)).toNat f.hi f.lo v)) s

/-- Set a field of a single register. -/
def setFld (f : Fld) (v : Nat) (s : State) : State := setFldAt f 0 v s

/-- Set a one-bit field of instance `i`. -/
def setFlagAt (f : Fld) (i : Nat) (b : Bool) (s : State) : State := setFldAt f i (b2n b) s

/-- Set a one-bit field of a single register. -/
def setFlag (f : Fld) (b : Bool) (s : State) : State := setFldAt f 0 (b2n b) s

/-- Add to a counter field of instance `i`, stopping at its maximum. -/
def addFldAt (f : Fld) (i n : Nat) (s : State) : State :=
  setFldAt f i (satAdd (2 ^ (f.hi + 1 - f.lo) - 1) (fldAt s f i) n) s

/-- Count one in a counter field of instance `i`, stopping at its maximum. -/
def incFldAt (f : Fld) (i : Nat) (s : State) : State := addFldAt f i 1 s

/-- Count one in a counter field of a single register, stopping at its maximum. -/
def incFld (f : Fld) (s : State) : State := incFldAt f 0 s

/-- Count one in a counter field that wraps. -/
def wrapFldAt (f : Fld) (i : Nat) (s : State) : State := setFldAt f i (fldAt s f i + 1) s

/-- A 64-bit value held in two registers, high word first. -/
def pairAt (s : State) (hi lo : Fld) : Nat := fld s hi * 2 ^ 32 + fld s lo

/-- Set a 64-bit value held in two registers, high word first. -/
def setPair (hi lo : Fld) (v : Nat) (s : State) : State :=
  setFld lo (v % 2 ^ 32) (setFld hi (v / 2 ^ 32) s)

/-- Change the event collector's own state. -/
def setEvt (f : EvtState → EvtState) (s : State) : State := { s with evt := f s.evt }

/-- Whether the chip is a sender. -/
def isSender (s : State) : Bool := s.board.role == .sender

/-- Whether the chip is a tile. -/
def isTile (s : State) : Bool := s.board.role == .tile

/-- Whether power domain `d` is powered and serving; PD_00 always is (R393). -/
def domainOn (s : State) (d : Nat) : Bool :=
  d == 0 || fldAt s F.PD_CTRL_state d == 1

/-- Do `f` only while power domain `d` serves: a unit that is not powered does nothing. -/
def whenOn (d : Nat) (f : State → State) (s : State) : State := if domainOn s d then f s else s

/-- Do `f` only under `c`. -/
def when (c : Bool) (f : State → State) (s : State) : State := if c then f s else s

/-- Do an indexed action for each element of a list, in order. -/
def forEach {α : Type} (l : List α) (f : α → State → State) (s : State) : State :=
  l.foldl (fun st x => f x st) s

/-! ### Memories -/

/-- A store byte that nothing has written reads 00h (DESIGN CHOICE, log 3). -/
def zeroByte (_ : Nat) : Byte := 0

/-- Byte `o` of the store, counted from the start of the store window. -/
def storeByte (s : State) (o : Nat) : Byte := smGet zeroByte s.store o

/-- Write byte `o` of the store. -/
def setStoreByte (o : Nat) (b : Byte) (s : State) : State :=
  { s with store := smPut zeroByte s.store o b }

/-- Write consecutive bytes of the store. -/
def setStoreBytes (o : Nat) (bs : List Byte) (s : State) : State :=
  (bs.foldl (fun (p : Nat × State) b => (p.1 + 1, setStoreByte p.1 b p.2)) (o, s)).2

/-- Consecutive bytes of the store. -/
def storeBytes (s : State) (o n : Nat) : List Byte :=
  (List.range n).map (fun k => storeByte s (o + k))

/-- Byte `o` of the external memory, counted from its first offset; one that nothing has written reads 00h (DESIGN CHOICE,
log 3). -/
def dramByte (s : State) (o : Nat) : Byte := smGet zeroByte s.dram o

/-- Write byte `o` of the external memory. -/
def setDramByte (o : Nat) (b : Byte) (s : State) : State := { s with dram := smPut zeroByte s.dram o b }

/-- Bytes of external memory that are fitted and served: DRAM_STAT.size in 256 MiB units, 0 when not ready (R152, R169). -/
def dramSize (s : State) : Nat := if flag s F.DRAM_STAT_ready then fld s F.DRAM_STAT_size * 2 ^ 28 else 0

/-- Bytes of the shared store: 24 MiB (R436). -/
def storeSize : Nat := 0x1800000

/-- Size of region `r`: 0 the store, 1 the external memory. -/
def regionSize (s : State) (r : Nat) : Nat := if r == 0 then storeSize else dramSize s

/-- Byte `o` of region `r`; 0 where it is absent. -/
def memByte (s : State) (r o : Nat) : Byte :=
  if o < regionSize s r then (if r == 0 then storeByte s o else dramByte s o) else 0

/-- Write byte `o` of region `r`; nothing where it is absent. -/
def setMemByte (r o : Nat) (b : Byte) (s : State) : State :=
  if o < regionSize s r then (if r == 0 then setStoreByte o b s else setDramByte o b s) else s

/-- Consecutive bytes of a region. -/
def memBytes (s : State) (r o n : Nat) : List Byte := (List.range n).map (fun k => memByte s r (o + k))

/-- Write consecutive bytes of a region. -/
def setMemBytes (r : Nat) : Nat → List Byte → State → State
  | _, [], s => s
  | o, b :: t, s => setMemBytes r (o + 1) t (setMemByte r o b s)

/-- Frame rate of a rate code as a fraction, frames per `den` seconds: the fifteen codes of FLOW_FMT_n.rate. -/
def frameRate (code : Nat) : Option (Nat × Nat) :=
  [(24000, 1001), (24, 1), (25, 1), (30000, 1001), (30, 1), (48000, 1001), (48, 1), (50, 1), (60000, 1001), (60, 1),
   (100, 1), (120000, 1001), (120, 1), (240000, 1001), (240, 1)][code]?

/-! ### Parts of the state -/

/-- Change lane `i`. -/
def setLane (i : Nat) (f : Lane → Lane) (s : State) : State := { s with lanes := updAt f s.lanes i }

/-- Lane `i`. -/
def laneAt (s : State) (i : Nat) : Lane := s.lanes.getD i {}

/-- Change port `i`. -/
def setPort (i : Nat) (f : Port → Port) (s : State) : State := { s with ports := updAt f s.ports i }

/-- Port `i`. -/
def portAt (s : State) (i : Nat) : Port := s.ports.getD i {}

/-- Record something that leaves the device. -/
def emit (e : Emit) (s : State) : State := { s with emitted := e :: s.emitted }

/-- Take a fresh index for a free value (log 5). -/
def freshIdx (s : State) : Nat × State := (s.freeCnt, { s with freeCnt := s.freeCnt + 1 })

end Sys2Proof.Machine
end

