-- ==== Sys2Proof/Machine/Answer.lean ====
section
/-! DEFINITION. What a command answers: the status codes of R96, and an answer before it is put into a reply packet. -/

namespace Sys2Proof.Machine

/-! ### Status codes (R96) -/

def Code.ok : Nat := 0x00
def Code.busy : Nat := 0x01
def Code.length : Nat := 0x02
def Code.opcode : Nat := 0x03
def Code.address : Nat := 0x04
def Code.part : Nat := 0x05
def Code.state : Nat := 0x06
def Code.holdup : Nat := 0x07
def Code.thermal : Nat := 0x08
def Code.version : Nat := 0x09
def Code.locked : Nat := 0x0A
def Code.signature : Nat := 0x0B
def Code.check : Nat := 0x0C
def Code.timeout : Nat := 0x0D
def Code.stageIncomplete : Nat := 0x0E
def Code.capacity : Nat := 0x0F
def Code.unconfirmed : Nat := 0x10

/-- A command's answer: status, reply payload, and the retry delay of a BUSY answer (R90, R96). -/
structure Answer where
  status : Nat
  words : List Word := []
  retry : Nat := 0
  deriving DecidableEq, Repr

/-- An answer that carries a status alone. -/
def answer (c : Nat) (s : State) : Answer × State := ({ status := c }, s)

/-- OK with a reply payload. -/
def answerWords (ws : List Word) (s : State) : Answer × State := ({ status := Code.ok, words := ws }, s)

end Sys2Proof.Machine
end

