-- ==== Sys2Proof/Machine/BlockCode.lean ====
section
/-! DEFINITION. The lane block: the Reed–Solomon code RS(136,128) over GF(2¹⁰), the scrambler, and the marker's fields
(spec/02_coushlink_lanes.md, R38 to R43). -/

namespace Sys2Proof.Machine

/-- Multiplication by α in GF(2¹⁰) with field polynomial x¹⁰ + x³ + 1 (R38). -/
def gfStep (a : Nat) : Nat := if a < 512 then 2 * a else Nat.xor (2 * a) 1033

/-- Multiplication in GF(2¹⁰): `fuel` bits of `b` (R38). -/
def gfMulFuel : Nat → Nat → Nat → Nat
  | 0, _, _ => 0
  | f + 1, a, b => Nat.xor (if b % 2 == 1 then a else 0) (gfMulFuel f (gfStep a) (b / 2))

/-- Multiplication in GF(2¹⁰) (R38). -/
def gfMul (a b : Nat) : Nat := gfMulFuel 10 a b

/-- `a` to the power `n` in GF(2¹⁰). -/
def gfPow (a : Nat) : Nat → Nat
  | 0 => 1
  | n + 1 => gfMul a (gfPow a n)

/-- Square-and-multiply chain: `a` to the power 2¹⁰ − 2, the inverse of a nonzero `a`. -/
def gfInvFuel : Nat → Nat → Nat → Nat
  | 0, _, acc => acc
  | f + 1, a, acc => gfInvFuel f (gfMul a a) (gfMul acc (gfMul a a))

/-- Inverse in GF(2¹⁰); 0 for 0. -/
def gfInv (a : Nat) : Nat := gfInvFuel 9 a 1

/-- Value of a received word at `x`: symbols first-sent first, Horner's rule. -/
def gfEval (x : Nat) (syms : List Nat) : Nat := syms.foldl (fun acc c => Nat.xor (gfMul acc x) c) 0

/-- α to the power `j`. -/
def gfAlpha (j : Nat) : Nat := (List.range j).foldl (fun a _ => gfStep a) 1

/-- The eight syndromes: the received word at α⁰ to α⁷, the roots of the generator polynomial (R38). -/
def syndromes (syms : List Nat) : List Nat := (List.range 8).map (fun j => gfEval (gfAlpha j) syms)

/-- Discrepancy of Berlekamp–Massey: the sum of C_i · S_{n−i}. -/
def bmDiscrepancy (c s : List Nat) (n : Nat) : Nat :=
  (List.range (n + 1)).foldl (fun acc i => Nat.xor acc (gfMul (c.getD i 0) (s.getD (n - i) 0))) 0

/-- `c − k · x^m · b` over GF(2¹⁰), for 9 coefficients. -/
def polySubShift (c b : List Nat) (k m : Nat) : List Nat :=
  (List.range 9).map (fun i => Nat.xor (c.getD i 0) (if i < m then 0 else gfMul k (b.getD (i - m) 0)))

/-- Berlekamp–Massey state: the connection polynomial C, the former one B, L, m and the former discrepancy. -/
structure BmState where
  c : List Nat
  b : List Nat
  l : Nat
  m : Nat
  d : Nat
  deriving DecidableEq, Repr

/-- One step of Berlekamp–Massey at syndrome `n`. -/
def bmStep (s : List Nat) (st : BmState) (n : Nat) : BmState :=
  let d := bmDiscrepancy st.c s n
  if d == 0 then { st with m := st.m + 1 }
  else
    let k := gfMul d (gfInv st.d)
    let c' := polySubShift st.c st.b k st.m
    if 2 * st.l ≤ n then { c := c', b := st.c, l := n + 1 - st.l, m := 1, d := d }
    else { st with c := c', m := st.m + 1 }

/-- The error locator of a syndrome list, and the number of errors it stands for. -/
def errorLocator (s : List Nat) : List Nat × Nat :=
  let r := (List.range 8).foldl (bmStep s) { c := [1], b := [1], l := 0, m := 1, d := 1 }
  (r.c, r.l)

/-- Value of a polynomial, lowest coefficient first. -/
def polyEval (x : Nat) (p : List Nat) : Nat := p.foldr (fun c acc => Nat.xor c (gfMul acc x)) 0

/-- Solve for the error values by elimination: one linear equation per syndrome, `xs` the error locations α^position.
`fuel` rows are eliminated. Rows are the coefficients with the right side last. -/
def solveFuel : Nat → List (List Nat) → List Nat
  | 0, _ => []
  | f + 1, rows =>
    match rows.find? (fun r => r.headD 0 != 0) with
    | none => []
    | some p =>
      let inv := gfInv (p.headD 0)
      let p' := p.map (gfMul inv)
      let rest := (rows.filter (fun r => r != p)).map
        (fun r => (List.zipWith (fun x y => Nat.xor x (gfMul (r.headD 0) y)) r p').drop 1)
      let tail := solveFuel f rest
      let rhs := p'.getLastD 0
      let mid := (p'.drop 1).dropLast
      let v := (List.zipWith gfMul mid tail).foldl Nat.xor rhs
      v :: tail

/-- What the block decoder delivers (R43): the symbols, how many were corrected, and whether the block is uncorrectable. -/
structure Decoded where
  syms : List Nat
  corrected : Nat
  bad : Bool
  deriving DecidableEq, Repr

/-- Decode one block of 136 symbols: no error, up to 4 symbols corrected, or uncorrectable and delivered as received
(R38, R43). -/
def rsDecode (syms : List Nat) : Decoded :=
  let s := syndromes syms
  if s.all (· == 0) then { syms := syms, corrected := 0, bad := false }
  else
    let (loc, l) := errorLocator s
    let pos := (List.range 136).filter (fun i => polyEval (gfInv (gfAlpha (135 - i))) loc == 0)
    if l > 4 || pos.length != l then { syms := syms, corrected := 0, bad := true }
    else
      let xs := pos.map (fun i => gfAlpha (135 - i))
      let rows := (List.range l).map (fun j => xs.map (fun x => gfPow x j) ++ [s.getD j 0])
      let vals := solveFuel l rows
      let fix := (List.zip pos vals).foldl (fun acc pv => updAt (fun c => Nat.xor c pv.2) acc pv.1) syms
      if vals.length == l && (syndromes fix).all (· == 0) then { syms := fix, corrected := l, bad := false }
      else { syms := syms, corrected := 0, bad := true }

/-- The bits of 10-bit symbols, most significant first (R38). -/
def symBits (syms : List Nat) : List Bool :=
  syms.flatMap (fun c => (List.range 10).map (fun i => bitOf c (9 - i)))

/-- Bits to bytes, most significant first (R8). -/
def bitsBytes (bs : List Bool) : List Byte :=
  (chunks 8 bs).map (fun c => BitVec.ofNat 8 (c.foldl (fun a b => 2 * a + b2n b) 0))

/-- Bytes to bits, most significant first (R8). -/
def bytesBits (bs : List Byte) : List Bool := bs.flatMap (fun b => (List.range 8).map (fun i => bitOf b.toNat (7 - i)))

/-- Bits to 10-bit symbols, most significant first (R38). -/
def bitsSyms (bs : List Bool) : List Nat := (chunks 10 bs).map (fun c => c.foldl (fun a b => 2 * a + b2n b) 0)

/-- The generator polynomial, the product of (x − α^j) for j = 0 to 7, highest coefficient first (R38). -/
def genPoly : List Nat :=
  (List.range 8).foldl (fun p j => List.zipWith Nat.xor (p ++ [0]) (0 :: p.map (gfMul (gfAlpha j)))) [1]

/-- The eight parity symbols of a payload: the remainder of its division by the generator polynomial (R38). -/
def rsParity (payload : List Nat) : List Nat :=
  payload.foldl (fun r c =>
    let f := Nat.xor c (r.headD 0)
    List.zipWith Nat.xor (r.drop 1 ++ [0]) ((genPoly.drop 1).map (gfMul f))) (List.replicate 8 0)

/-- A block as it is sent: payload, then parity (R38). -/
def rsEncode (payload : List Nat) : List Nat := payload ++ rsParity payload

/-- The additive scrambler x³¹ + x²⁸ + 1: its next bit from its 31-bit state, and the next state (R39). DESIGN CHOICE (log 155):
the spec gives the polynomial and the load alone; the bit that scrambles is the one fed back. -/
def scramBit (st : Nat) : Bool × Nat :=
  let b := bitOf st 30 != bitOf st 27
  (b, st * 2 % 2 ^ 31 + b2n b)

/-- Scramble or descramble bits from a scrambler state: the two are the same (R39). -/
def descramble : Nat → List Bool → List Bool × Nat
  | st, [] => ([], st)
  | st, b :: t =>
    let (k, st') := scramBit st
    let (r, e) := descramble st' t
    ((b != k) :: r, e)

/-- Received symbols with the polarity inverted: the first bit of every Gray-coded pair flips (R37, R49). -/
def invertSyms (syms : List Nat) : List Nat := syms.map (fun c => Nat.xor c 0x2AA)

/-- The marker pattern (R41). -/
def markerPattern : Nat := 0x96F0A53C0F69

/-- The payload bytes of a marker block (R41). -/
def markerBytes (syms : List Nat) : List Byte := bitsBytes (symBits (syms.take 128))

/-- The 160 payload bytes of a marker block (R41): bytes 6 and 7 hold the lane's fields, then the marker count. -/
def markerPayload (laneIndex width state : Nat) (sender : Bool) (port : Nat) (loopTimed : Bool) (sequence : Nat) : List Byte :=
  padTo 160 (beBytes 6 markerPattern ++
    [BitVec.ofNat 8 (laneIndex % 4 * 64 + width % 4 * 16 + state % 16),
     BitVec.ofNat 8 (b2n sender * 128 + port % 8 * 16 + b2n loopTimed * 8)] ++ beBytes 2 sequence)

/-- A marker block as it is sent; the scrambler does not cover it (R39, R41). -/
def markerSyms (payload : List Byte) : List Nat := rsEncode (bitsSyms (bytesBits payload))

/-- A data block as it is sent: its five flits scrambled from state `sc`, and the scrambler's next state (R39, R42). -/
def dataSyms (sc : Nat) (flits : List (List Byte)) : List Nat × Nat :=
  let (bits, sc) := descramble sc (bytesBits flits.flatten)
  (rsEncode (bitsSyms bits), sc)

/-! ### Training frames (R46) -/

/-- A pair of line bits as a PAM4 level (R37). -/
def grayLevel (a b : Bool) : Int :=
  match a, b with
  | false, false => -3 | false, true => -1 | true, true => 1 | true, false => 3

/-- Bits as PAM4 levels, two a level (R37). -/
def grayLevels : List Bool → List Int
  | a :: b :: t => grayLevel a b :: grayLevels t
  | _ => []

/-- `n` bits of PRBS13, x¹³ + x¹² + x² + x + 1, from a 13-bit state whose bit 0 is the latest bit (R46). -/
def prbs13 : Nat → Nat → List Bool
  | 0, _ => []
  | n + 1, st =>
    let b := (bitOf st 12 != bitOf st 11) != (bitOf st 1 != bitOf st 0)
    b :: prbs13 n (st * 2 % 2 ^ 13 + b2n b)

/-- A training frame: the frame mark, the control word, and 944 levels of PRBS13 (R46). -/
def trainingLevels (control seed : Nat) : List Int :=
  List.replicate 8 3 ++ List.replicate 8 (-3) ++
    (List.range 32).flatMap (fun i => if bitOf control (31 - i) then [3, -3] else [-3, 3]) ++
    grayLevels (prbs13 1888 (seed % 8191 + 1))

/-- The control word of a training frame (R46). -/
def trainingControl (request response : Nat) (ready : Bool) (laneIndex width : Nat) : Nat :=
  request % 16 * 2 ^ 28 + response % 16 * 2 ^ 24 + b2n ready * 2 ^ 23 + laneIndex % 4 * 2 ^ 21 + width % 4 * 2 ^ 19

/-- Whether a decoded block is a good marker: it decodes and its pattern matches (R44). -/
def goodMarker (d : Decoded) : Bool := !d.bad && beAt (markerBytes d.syms) 0 6 == markerPattern

end Sys2Proof.Machine
end

