-- ==== Sys2Proof/Machine/Events.lean ====
section
/-! DEFINITION. The event collector and its reactions (spec/16_events_and_faults.md, R364 to R376). -/

namespace Sys2Proof.Machine

/-! ### Wall time as the collector records it -/

/-- Seconds of the counter (R291). -/
def secOf (t : Nat) : Nat := t / (10 ^ 9 * 2 ^ 32)

/-- Nanoseconds of the counter (R291). -/
def nsOf (t : Nat) : Nat := t / 2 ^ 32 % 10 ^ 9

/-- Fraction of the counter, in 2⁻³² ns (R291). -/
def fracOf (t : Nat) : Nat := t % 2 ^ 32

/-! ### Sticky, pending, mask and class bits -/

/-- Sticky bit of source `n` (R365). -/
def stickyBit (s : State) (n : Nat) : Bool := bitOf (fldAt s F.EVT_STAT_sticky (n / 32)) (n % 32)

/-- Pending bit of source `n` (R370). -/
def pendBit (s : State) (n : Nat) : Bool := bitOf (fldAt s F.EVT_PEND_pending (n / 32)) (n % 32)

/-- Mask bit of source `n` (R369). -/
def maskBit (s : State) (n : Nat) : Bool := bitOf (fldAt s F.EVT_MASK_mask (n / 32)) (n % 32)

/-- Class of source `n` (R368). -/
def srcClass (s : State) (n : Nat) : Nat :=
  fldAt s F.EVT_CLASS_class (n / 16) / 4 ^ (n % 16) % 4

/-- Set one bit of a group word. -/
def setGroupBit (f : Fld) (n : Nat) (b : Bool) (s : State) : State :=
  setFldAt f (n / 32) (withBits (fldAt s f (n / 32)) (n % 32) (n % 32) (b2n b)) s

/-- Whether source `n` is eligible: class 1 to 3 and not masked (R369). -/
def eligible (s : State) (n : Nat) : Bool := srcClass s n != 0 && !maskBit s n

/-- The reaction bits of class `c` in EVT_REACT (R368). -/
def reactBits (s : State) (c : Nat) : Nat :=
  match c with
  | 1 => fld s F.EVT_REACT_class1
  | 2 => fld s F.EVT_REACT_class2
  | 3 => fld s F.EVT_REACT_class3
  | _ => 0

/-- Whether a reaction runs (R369). -/
def reacting (s : State) : Bool := flag s F.EVT_CAUSE_running

/-- The reaction bits that act: those of the present class, and those that escalation left in force (R370, R373). -/
def actingBits (s : State) : Nat :=
  if reacting s then Nat.lor s.evt.prior (reactBits s (fld s F.EVT_CAUSE_class)) else 0

/-- IRQ_N is driven low (R89, R374). -/
def irqLow (s : State) : Bool :=
  bitOf (actingBits s) 0 || (!s.cmd.hspiReplies.isEmpty && flag s F.CMD_CFG_hspi_irq_en)

/-- The drydown causes of R268 that follow other state of a tile: bit 4 the dry bit of the running reaction (R368), bit 2 the
timing cause (R327), bit 1 no address (R33), bit 0 the host's LD_CTRL.drydown. Bit 3, tile_blank, is kept. -/
def syncDry (s : State) : State :=
  if isTile s && domainOn s 5 then
    let c := fld s F.LD_STAT_dry_causes
    let v := b2n (bitOf (actingBits s) 2) * 16 + b2n (bitOf c 3) * 8 + b2n (flag s F.WT_STAT_timing_dark) * 4 +
      b2n (fld s F.TOPO_TILE_address == 0) * 2 + b2n (flag s F.LD_CTRL_drydown)
    setFld F.LD_STAT_dry_causes v s
  else s

/-! ### Starting, merging, escalating and ending a reaction -/

/-- End the running reaction: its actions stop, and the cycle after it is still to come (R371). -/
def endReaction (s : State) : State :=
  if reacting s then
    syncDry (setEvt (fun e => { e with prior := 0, ended := true }) (setFlag F.EVT_CAUSE_running false s))
  else s

/-- A reaction whose present class has auto ends at once when hk is clear, or when the firmware has taken its
notification (R371). -/
def autoEnd (s : State) : State :=
  let bits := reactBits s (fld s F.EVT_CAUSE_class)
  if reacting s && bitOf bits 3 && (!bitOf bits 1 || s.evt.notes.isEmpty) then endReaction s else s

/-- Notify the firmware when hk acts (R368, R370). -/
def notifyHk (src cls : Nat) (esc : Bool) (s : State) : State :=
  if bitOf (actingBits s) 1 then
    setEvt (fun e => { e with notes := e.notes ++ [{ source := src, cls := cls, escalation := esc }] }) s
  else s

/-- Merge a source into the running reaction: its pending bit sets and merged counts it (R370). -/
def mergeSource (n : Nat) (s : State) : State :=
  incFld F.EVT_CAUSE_merged (setGroupBit F.EVT_PEND_pending n true s)

/-- Start a reaction with the given first cause: EVT_CAUSE and the wall time of the first cause are loaded afresh (R369). -/
def startReaction (first cls merged : Nat) (s : State) : State :=
  let s := setFld F.EVT_CAUSE_SEC_value (secOf s.time.counter % 2 ^ 32) s
  let s := setFld F.EVT_CAUSE_NS_value (nsOf s.time.counter) s
  let s := setInst F.EVT_CAUSE_first 0
    (BitVec.ofNat 32 (2 ^ 31 + cls * 2 ^ 28 + cls * 2 ^ 26 + min 255 merged * 2 ^ 8 + first)) s
  let s := setEvt (fun e => { e with prior := 0, ended := false }) s
  notifyHk first cls false s

/-- Escalate the running reaction to the class of source `n` (R370). -/
def escalateReaction (n cls : Nat) (s : State) : State :=
  let s := setEvt (fun e => { e with prior := actingBits s }) s
  let s := setFld F.EVT_CAUSE_class cls s
  let s := setFlag F.EVT_CAUSE_escalated true s
  let s := setFld F.EVT_CAUSE_escalated_by n s
  notifyHk n cls true s

/-- Handle one eligible source while a reaction runs (R370). -/
def joinReaction (n : Nat) (s : State) : State :=
  if srcClass s n ≤ fld s F.EVT_CAUSE_class then mergeSource n s
  else escalateReaction n (srcClass s n) s

/-- The highest class among sources. -/
def topClass (s : State) (l : List Nat) : Nat := l.foldl (fun m n => max m (srcClass s n)) 0

/-- The lowest-numbered source of class `c`. -/
def lowestOf (s : State) (c : Nat) (l : List Nat) : Nat :=
  ((l.filter (fun n => srcClass s n == c)).min?).getD 0

/-- Raise sources in one collector cycle: every existing one's sticky bit sets; the eligible ones start a reaction, or are
handled one by one in ascending number by the running one (R365 to R370, R479). -/
def raiseMany (l : List Nat) (s : State) : State :=
  let srcs := (List.range 256).filter (fun n => l.contains n && srcExists n)
  let s := forEach srcs (fun n st => setGroupBit F.EVT_STAT_sticky n true st) s
  let el := srcs.filter (eligible s)
  if el.isEmpty then s
  else if reacting s then autoEnd (syncDry (forEach el joinReaction s))
  else
    let c := topClass s el
    let first := lowestOf s c el
    let rest := el.filter (fun n => n != first)
    let s := startReaction first c rest.length s
    autoEnd (syncDry (forEach rest (fun n st => setGroupBit F.EVT_PEND_pending n true st) s))

/-- Raise one source (R365): its sticky bit sets, and it starts, joins or escalates a reaction if it is eligible. -/
def raise (n : Nat) (s : State) : State :=
  let s := setGroupBit F.EVT_STAT_sticky n true s
  if !eligible s n then s
  else if reacting s then autoEnd (syncDry (joinReaction n s))
  else autoEnd (syncDry (startReaction n (srcClass s n) 0 s))

/-- The condition of a level source (R365): the threshold states of THERM_STAT, and the latched trip. -/
def levelHolds (s : State) (n : Nat) : Bool :=
  if n == Src.THERM_WARN then flag s F.THERM_STAT_warn
  else if n == Src.THERM_THROTTLE then flag s F.THERM_STAT_throttle
  else if n == Src.THERM_CRITICAL then flag s F.THERM_STAT_critical
  else if n == Src.THERM_TRIP then flag s F.THERM_TRIP_LOG_tripped
  else false

/-- Clear sticky bits of group `g`: each clears its pending bit too (R372), and a level source whose condition still holds is
raised again at once (R365). -/
def clearSticky (g : Nat) (mask : Nat) (s : State) : State :=
  let keep (w : Nat) : Nat := w - Nat.land w mask
  let s := setFldAt F.EVT_STAT_sticky g (keep (fldAt s F.EVT_STAT_sticky g)) s
  let s := setFldAt F.EVT_PEND_pending g (keep (fldAt s F.EVT_PEND_pending g)) s
  if g == 1 then
    raiseMany ([32, 33, 34, 35].filter (fun n => bitOf mask (n % 32) && levelHolds s n)) s
  else s

/-- Sources whose pending bit is set and that are eligible (R372). -/
def pendingEligible (s : State) : List Nat :=
  (List.range 256).filter (fun n => pendBit s n && eligible s n)

/-- The cycle after a reaction ends: a new reaction starts over the pending sources, if one of them is eligible (R372). -/
def restartReaction (s : State) : State :=
  let el := pendingEligible s
  if reacting s || el.isEmpty then setEvt (fun e => { e with ended := false }) s
  else
    let c := topClass s el
    let first := lowestOf s c el
    let others := ((List.range 256).filter (fun n => pendBit s n && n != first)).length
    let s := startReaction first c others s
    let s := forEach (List.range 8) (fun g st => setFldAt F.EVT_PEND_pending g 0 st) s
    autoEnd (syncDry s)

/-- An acknowledgement: ends the running reaction, without effect when none runs (R371). -/
def ackReaction (s : State) : State := endReaction s

/-- The firmware takes its notifications, and a reaction with auto ends (R368, R371). -/
def takeNotes (s : State) : State :=
  let t := s.time.counter / 2 ^ 32
  let s := setEvt (fun e => { e with
    hkLog := (e.notes.map (fun n => (n.source, n.cls, t))).reverse ++ e.hkLog
    notes := [] }) s
  autoEnd s

/-- After a change of EVT_REACT: the bits of the running class apply at once (R373). -/
def reactChanged (hadHk : Bool) (s : State) : State :=
  let c := fld s F.EVT_CAUSE_class
  let s := if reacting s && !hadHk then notifyHk (fld s F.EVT_CAUSE_first) c false s else s
  autoEnd (syncDry s)

/-- Sources of group `g` that exist, as a bit mask: the others' sticky, mask and class fields read 0 (R367). -/
def groupMask (g : Nat) : Nat :=
  (List.range 32).foldl (fun acc i => acc + (if srcExists (32 * g + i) then 2 ^ i else 0)) 0

/-- Class bits of class word `k` that belong to existing sources (R367). -/
def classMask (k : Nat) : Nat :=
  (List.range 16).foldl (fun acc i => acc + (if srcExists (16 * k + i) then 3 * 4 ^ i else 0)) 0

/-! ### Rows of the opcode table -/

/-- Whether the role excludes the block of a source (R14, R367): the ingest at a tile, the lamp lanes and drive at a sender.
EVT_TEST, which is no hardware, raises such a source all the same (DEDUCED, log 194). -/
def srcExcluded (s : State) (n : Nat) : Bool :=
  (isTile s && decide (Src.ETH_LINK_UP ≤ n) && decide (n ≤ Src.INGEST_BUF_FULL)) ||
    (isSender s && decide (Src.LL_SCAN_INVALID ≤ n) && decide (n ≤ Src.LD_TCOMP_CLIP))

/-- SOURCE_RAISE (R365, R367, R369, R370): sources reach the collector in one collector cycle; those that hardware never raises
in this role do not. -/
def execSourceRaise (sources : List Nat) (s : State) : Host.Outcome State Fault Refusal :=
  .next (raiseMany (sources.filter (fun n => !srcExcluded s n)) s)

/-- REACTION_AUTO_END (R371). -/
def execReactionAutoEnd (s : State) : Host.Outcome State Fault Refusal :=
  .next (takeNotes s)

/-- REACTION_RESTART (R372): the cycle after a reaction has ended. -/
def execReactionRestart (s : State) : Host.Outcome State Fault Refusal :=
  .next (if s.evt.ended then restartReaction s else s)

end Sys2Proof.Machine
end

