-- ==== Sys2Proof/Machine/WallTime.lean ====
section
/-! DEFINITION. Wall time: how the counter runs, and how it becomes frames, lines and slots of the scan grid
(spec/13_time_unit.md R291, R292, R294; spec/14_wall_timing.md R318 to R324). -/

namespace Sys2Proof.Machine

/-- A quotient in a field's unit, rounded down or up as the device does, which the spec leaves open. -/
def roundOpen (n : Int) (d : Nat) : Int :=
  n / (d : Int) + (if n % (d : Int) == 0 then 0 else (b2n (Config.roundUp n d) : Nat))

/-- A value as a field of `w` bits; outside the field's range the spec gives no value. -/
def fitUnsigned (w : Nat) (z : Int) : Nat :=
  if 0 ≤ z && z < (2 ^ w : Nat) then z.toNat else Config.outside z % 2 ^ w

/-- A signed value as a field of `w` bits; outside the field's range the spec gives no value. -/
def fitSigned (w : Nat) (z : Int) : Nat :=
  if -((2 ^ (w - 1) : Nat) : Int) ≤ z && z < (2 ^ (w - 1) : Nat) then unsgn w z else Config.outside z % 2 ^ w

/-! ### The counter -/

/-- One counter unit is 2⁻³² ns; the counter holds 48 bits of seconds (R291). -/
def counterMod : Nat := 2 ^ 48 * (10 ^ 9 * 2 ^ 32)

/-- Least increment that acts (R292). -/
def incrMin : Nat := 0x1FFBE76D
/-- Greatest increment that acts (R292). -/
def incrMax : Nat := 0x20041893

/-- TIME_INCR as it acts, in 2⁻²⁸ ns (R292); after PD_03 has stopped the counter runs on with the last one (R312). -/
def incrActing (s : State) : Nat := s.time.tailIncr.getD (clampN incrMin incrMax (fld s F.TIME_INCR_incr))

/-- Counter units of one cycle without an adjustment. -/
def plainStep (s : State) : Nat := incrActing s * 16

/-- Counter units of one cycle with the running adjustment (R292, R294). -/
def adjustedStep (s : State) : Nat :=
  (clampZ incrMin incrMax ((incrActing s : Int) + s.time.adjDelta)).toNat * 16

/-- Cycles of the running adjustment that remain (R294). -/
def adjustLeft (s : State) : Nat := if flag s F.TIME_STAT_adj_busy then s.time.adjCount else 0

/-- `n` cycles of the time unit pass: each adds the increment, and the sampled delta while an adjustment runs; when its count
reaches 0, adj_busy clears (R291, R292, R294). TIME_ADJ_CNT.count counts down with the run (DESIGN CHOICE, log 164). From E0 of a
sleep to its E1 the counter holds (R312). -/
def runCycles (n : Nat) (s : State) : State :=
  let s := { s with time := { s.time with mono := s.time.mono + 4 * n } }
  if s.time.sleep.isSome then s
  else
    let left := adjustLeft s
    let a := min n left
    let c := (s.time.counter + a * adjustedStep s + (n - a) * plainStep s) % counterMod
    let s := if flag s F.TIME_STAT_adj_busy then
        setFlag F.TIME_STAT_adj_busy (decide (left - a > 0))
          (setFld F.TIME_ADJ_CNT_count (fld s F.TIME_ADJ_CNT_count - a) s)
      else s
    { s with time := { s.time with counter := c, adjCount := left - a } }

/-- Cycles until the counter has reached `t`. -/
def cyclesTo (t : Nat) (s : State) : Nat :=
  if t ≤ s.time.counter then 0
  else
    let gap := t - s.time.counter
    let left := adjustLeft s
    let n := cdiv gap (adjustedStep s)
    if n ≤ left then n else left + cdiv (gap - left * adjustedStep s) (plainStep s)

/-- Time passes until the first cycle at which the counter has reached `t`; none when it has. -/
def runTo (t : Nat) (s : State) : State := runCycles (cyclesTo t s) s

/-- `h` half nanoseconds pass. -/
def elapse (h : Nat) (s : State) : State :=
  let s' := runCycles ((s.time.mono + h) / 4 - s.time.mono / 4) s
  { s' with time := { s'.time with mono := s.time.mono + h } }

/-- One 500 MHz cycle passes. -/
def idleCycle (s : State) : State := runCycles 1 s

/-! ### Frames (R318) -/

/-- A class B word as it governs frame `f` (R333, R335). -/
def wordFor (s : State) (f a : Nat) : Word :=
  smGet resetWord (if s.wt.since ≤ f then s.wt.force else s.wt.forceOld) a

/-- The class B words that govern the frames to come. -/
def forceWord (s : State) (a : Nat) : Word := smGet resetWord s.wt.force a

/-- A class B field as it governs frame `f`. -/
def fldFor (s : State) (f : Nat) (x : Fld) : Nat := bitsOf (wordFor s f x.base).toNat x.hi x.lo

/-- A class B field of the frames to come. -/
def forceFld (s : State) (x : Fld) : Nat := bitsOf (forceWord s x.base).toNat x.hi x.lo

/-- F at counter value `t` (R318). -/
def frameAt (num den t : Nat) : Nat := t * num / (den * 10 ^ 9 * 2 ^ 32)

/-- t_epoch(F) in ns for a rate (R318). -/
def epochNs (num den f : Nat) : Nat := cdiv (f * den * 10 ^ 9) num

/-- The last change of rate, while its time has not come. -/
def rateAhead (s : State) : Option RateChange :=
  match s.wt.rateWas with
  | some c => if !c.done && decide (s.time.counter < c.start * 2 ^ 32) then some c else none
  | none => none

/-- The rate that counts frames (R318, R333). -/
def rateNow (s : State) : Option (Nat × Nat) :=
  frameRate (match rateAhead s with
    | some c => c.rate
    | none => s.wt.rate)

/-- The rate of frame `f`, a number of the model. -/
def rateOf (s : State) (f : Nat) : Option (Nat × Nat) :=
  match s.wt.rateWas with
  | some c => frameRate (if f < c.new then c.rate else s.wt.rate)
  | none => frameRate s.wt.rate

/-- The frame at counter value `t`. -/
def frameOf (s : State) (t : Nat) : Nat :=
  match rateNow s with
  | some (n, d) => frameAt n d t
  | none => Config.frameWithoutRate t

/-- The present wall frame index F (R318). -/
def fNow (s : State) : Nat := frameOf s s.time.counter

/-- The present frame in the model's numbers. A change of rate restarts F (R333), so the model numbers all frames by the count
of the new rate once the change is known: the frames before it get the numbers that lead up to its first frame. -/
def fCur (s : State) : Nat :=
  match rateAhead s with
  | some c => fNow s + c.new - c.old
  | none => fNow s

/-- F of the frame with number `f` of the model. -/
def frameTag (s : State) (f : Nat) : Nat :=
  match s.wt.rateWas with
  | some c => if f < c.new then f + c.old - c.new else f
  | none => f

/-- The number in the model of the frame near the present one that has index F. -/
def frameLabel (s : State) (f : Nat) : Nat :=
  (((List.range 8).map (fun i => fCur s + 4 - i)).find? (fun x => frameTag s x == f)).getD f

/-- t_epoch in ns of the frame with number `f` (R318). -/
def tEpoch (s : State) (f : Nat) : Nat :=
  match rateOf s f with
  | some (n, d) => epochNs n d (frameTag s f)
  | none => Config.epochWithoutRate f

/-- The latch lead in force, in µs, held to 10–2,000 (R172). -/
def latchLead (s : State) : Nat := clampN 10 2000 (forceFld s F.COMP_TIMING_latch_lead)

/-- t_latch(F) in ns (R172). -/
def tLatch (s : State) (f : Nat) : Nat := tEpoch s f - latchLead s * 1000

/-- Whether two record words are valid (R319). -/
def recordValid (w0 w1 : Nat) : Bool :=
  match frameRate (bitsOf w0 7 0) with
  | some (n, d) => decide (bitsOf w0 31 16 ≥ 1) && decide (w1 * n < d * 10 ^ 9)
  | none => false

/-- Length of a span of `k / m` frames of frame `f` in ns, rounded down: floor(k × T_frame / m). -/
def frameSpan (s : State) (f k m : Nat) : Nat :=
  match rateOf s f with
  | some (n, d) => k * d * 10 ^ 9 / (n * max 1 m)
  | none => Config.epochWithoutRate k / max 1 m

/-- Wall lines in frame `f`. -/
def lineTotal (s : State) (f : Nat) : Nat := fldFor s f F.WT_REC_0_lines
/-- Views in frame `f`. -/
def viewCount (s : State) (f : Nat) : Nat := fldFor s f F.WT_REC_0_views + 1
/-- Phase offset of frame `f`, in ns. -/
def phaseOffset (s : State) (f : Nat) : Nat := fldFor s f F.WT_REC_1_offset

/-- λ(L) of frame `f` in ns (R320). -/
def lineSpan (s : State) (f l : Nat) : Nat := frameSpan s f l (lineTotal s f)

/-- t_line(F, L) in ns (R320). -/
def tLine (s : State) (f l : Nat) : Nat := tEpoch s f + phaseOffset s f + lineSpan s f l

/-! ### The scan grid (R321 to R324) -/

/-- t_grid(F) in ns (R321). -/
def tGrid (s : State) (f : Nat) : Nat := tEpoch s f + phaseOffset s f
/-- S, the sub-frames of a frame. -/
def scanS (s : State) (f : Nat) : Nat := 2 ^ fldFor s f F.LL_SCAN_s_log2
/-- M, the rows of the scan. -/
def scanM (s : State) (f : Nat) : Nat := fldFor s f F.LL_GEOM_mux + 1

/-- a(F, g, s) in ns (R321). -/
def actionPoint (s : State) (f g row : Nat) : Nat :=
  tGrid s f + frameSpan s f (g * scanM s f + row) (viewCount s f * scanS s f * scanM s f)

/-- T_pk in ns from M, D and C (R324). -/
def packTime (m d c : Nat) : Nat := cdiv (m * (cdiv (d * c) 2 + 2) * 640) 7

/-- The settings that place a tile's swaps (R324). -/
structure SwapSet where
  rate : Nat × Nat
  lines : Nat
  views : Nat
  s : Nat
  m : Nat
  d : Nat
  c : Nat
  bottom : Nat
  guard : Nat
  align : Bool
  deriving DecidableEq, Repr

/-- ρ_v (R324). -/
def swapReady (x : SwapSet) (v : Nat) : Nat :=
  x.bottom * x.rate.2 * 10 ^ 9 / (x.rate.1 * max 1 x.lines) + (v + 1) * packTime x.m x.d x.c + x.guard

/-- g_v (R324). -/
def swapSlot (x : SwapSet) (v : Nat) : Nat :=
  let vs := x.views * x.s
  let lo := v * x.s
  let g0 := cdiv (swapReady x v * vs * x.rate.1) (x.rate.2 * 10 ^ 9)
  let r := g0 % vs
  let g := if r < lo then g0 - r + lo else if r < lo + x.s then g0 else g0 - r + vs + lo
  if x.align then (if g % vs == lo then g else g - g % vs + vs + lo) else g

/-- p_v and lag_v (R324). -/
def swapPlace (x : SwapSet) (v : Nat) : Nat × Nat :=
  let vs := x.views * x.s
  let g := swapSlot x v
  (g % vs - v * x.s, g / vs)

/-- The swap settings that given class B words spell, read through `w`; none under a reserved rate (R324). -/
def swapSetOf (s : State) (w : Nat → Word) : Option SwapSet :=
  let f (x : Fld) : Nat := bitsOf (w x.base).toNat x.hi x.lo
  match frameRate (f F.WT_REC_0_rate) with
  | none => none
  | some r => some {
      rate := r
      lines := f F.WT_REC_0_lines
      views := f F.WT_REC_0_views + 1
      s := 2 ^ f F.LL_SCAN_s_log2
      m := f F.LL_GEOM_mux + 1
      d := f F.PACK_CFG_drivers + 1
      c := f F.PACK_CFG_channels
      bottom := f F.COMP_WIN_y0 + f F.LL_GEOM_height - 1
      guard := fld s F.WT_TILE_CFG_guard_ns
      align := flag s F.WT_TILE_CFG_block_align }

/-- The swap settings of frame `f`. -/
def swapFor (s : State) (f : Nat) : Option SwapSet := swapSetOf s (wordFor s f)

/-- WT_PHASE of a tile shows p_v and lag_v of each view (R324); 0 while the record in force is not valid. -/
def showPhase (s : State) : State :=
  match swapSetOf s (forceWord s), recordValid (forceWord s F.WT_REC_0_rate.base).toNat (forceWord s F.WT_REC_1_offset.base).toNat with
  | none, _ => s
  | some _, false => setInst F.WT_PHASE_p_0 0 0 s
  | some x, true =>
    let word := (List.range 4).foldl (fun acc v =>
      if v < x.views then let (p, l) := swapPlace x v; acc + (min 1 l * 128 + p % 128) * 2 ^ (8 * v) else acc) 0
    setInst F.WT_PHASE_p_0 0 (BitVec.ofNat 32 word) s

/-! ### The timing drydown cause (R327) -/

/-- WT_STAT.timing_dark and the timing cause of R268 follow the conditions of R327. -/
def syncTiming (s : State) : State :=
  if isTile s then
    let on := !flag s F.WT_STAT_rec_valid || !s.wt.everLocked || flag s F.TIME_STAT_estimated || s.wt.holdPast ||
      s.wt.darkUntil.isSome
    syncDry (setFlag F.WT_STAT_timing_dark on s)
  else s

end Sys2Proof.Machine
end

