-- ==== Sys2Proof/Machine/Packets.lean ====
section
/-! DEFINITION. Chain packets: flits, checks, outcomes, sillage windows, base messages and the confirmation rule
(spec/03_chain_packets_and_confirmation.md, R61 to R83). -/

namespace Sys2Proof.Machine

/-! ### Ports and their lanes (R16, R17, R42, R49) -/

/-- Lanes in a port by its width code: 1, 2 or 4; 0 for the reserved code. -/
def widthLanes (code : Nat) : Nat :=
  match code with
  | 0 => 1 | 1 => 2 | 2 => 4 | _ => 0

/-- The lanes of port `p` at a width code, or none where the placement is not one of R16 and R17. -/
def placement (role : Role) (p code : Nat) : Option (List Nat) :=
  match role with
  | .tile =>
    if p > 1 || widthLanes code == 0 then none
    else some ((List.range (widthLanes code)).map (fun i => 4 * p + i))
  | .sender =>
    if p == 7 then (if code == 0 then some [15] else none)
    else if p > 6 then none
    else match code with
      | 0 => some [8 + p]
      | 1 => if p == 0 || p == 2 || p == 4 then some [8 + p, 9 + p] else none
      | 2 => if p == 0 then some [8, 9, 10, 11] else none
      | _ => none

/-- The lanes a running port uses, at the width in effect (R47). -/
def portLanes (s : State) (p : Nat) : List Nat :=
  (placement s.board.role p (portAt s p).widthEff).getD []

/-- The port that lane `l` belongs to, if a running port covers it. -/
def lanePort (s : State) (l : Nat) : Option Nat :=
  (List.range 8).find? (fun p => (portAt s p).running && (portLanes s p).contains l)

/-- Training state code of lane `l` (R45). -/
def laneState (s : State) (l : Nat) : Nat := fldAt s F.LANE_STAT_state l

/-- All lanes of a running port are ACTIVE (R45). -/
def portActive (s : State) (p : Nat) : Bool :=
  (portAt s p).running && (portLanes s p).all (fun l => laneState s l == 7)

/-- A port's lanes in the order of the partner's lane_index (R49). -/
def flitOrder (s : State) (p : Nat) : List Nat :=
  let ls := portLanes s p
  (List.range 4).flatMap (fun i => ls.filter (fun l => fldAt s F.LANE_STAT_lane_index l == i))

/-- Flits of a port's lanes in the order of j: flit j travels on lane j mod W (R42). -/
def mergeLanes : Nat → Nat → List (List Flit) → List Flit
  | 0, _, _ => []
  | f + 1, turn, ls =>
    match ls.getD turn [] with
    | [] => []
    | x :: t => x :: mergeLanes f ((turn + 1) % max 1 ls.length) (updAt (fun _ => t) ls turn)

/-- The flits a port holds that its packet layer has not taken. -/
def portStream (s : State) (p : Nat) : List Flit :=
  let ls := (flitOrder s p).map (fun l => (laneAt s l).rx)
  mergeLanes ((ls.map List.length).foldl (· + ·) 0) (portAt s p).turn ls

/-- Take one flit off a port. -/
def popFlit (p : Nat) (s : State) : State :=
  let o := flitOrder s p
  let l := o.getD (portAt s p).turn 0
  setPort p (fun q => { q with turn := (q.turn + 1) % max 1 o.length })
    (setLane l (fun x => { x with rx := x.rx.drop 1 }) s)

/-- Take `n` flits off a port. -/
def popFlits (p n : Nat) (s : State) : State := forEach (List.range n) (fun _ st => popFlit p st) s

/-- Forget every flit a port holds. -/
def clearFlits (p : Nat) (s : State) : State :=
  setPort p (fun q => { q with turn := 0 })
    (forEach (portLanes s p) (fun l st => setLane l (fun x => { x with rx := [] }) st) s)

/-! ### Flits and checks (R61 to R66) -/

/-- The idle flit (R66). -/
def idleFlit : List Byte := 0xFF :: List.replicate 31 0

/-- The void flit that names tile `a` (R66). -/
def voidFlit (a : Nat) : List Byte := 0xFE :: BitVec.ofNat 8 a :: List.replicate 30 0

/-- Class of a header: 0 top, 1 heart, 2 base, 3 idle or void (R62). -/
def hClass (h : List Byte) : Nat := byteAt h 0 / 64
/-- Type code (R67). -/
def hType (h : List Byte) : Nat := byteAt h 0 % 64
/-- dup (R62). -/
def hDup (h : List Byte) : Bool := bitOf (byteAt h 1) 7
/-- cont (R62). -/
def hCont (h : List Byte) : Bool := bitOf (byteAt h 1) 6
/-- Number of payload flits (R62, R70). -/
def hLength (h : List Byte) : Nat := beAt h 2 2
/-- Frame field of the sequence (R74). -/
def hFrame (h : List Byte) : Nat := beAt h 4 4 / 2 ^ 20
/-- Index field of the sequence (R74). -/
def hIndex (h : List Byte) : Nat := beAt h 4 4 % 2 ^ 20
/-- Destination (R62). -/
def hDst (h : List Byte) : Nat := byteAt h 8
/-- Source (R62). -/
def hSrc (h : List Byte) : Nat := byteAt h 9
/-- Pair index (R62). -/
def hPair (h : List Byte) : Nat := byteAt h 10 / 16
/-- Ring port (R62). -/
def hRingPort (h : List Byte) : Nat := byteAt h 10 % 8
/-- Byte `12 + i` of the type-specific field (R64). -/
def hSpec (h : List Byte) (i : Nat) : Nat := byteAt h (12 + i)

/-- Whether a header's hcheck holds (R62, R63). -/
def hcheckOk (h : List Byte) : Bool := beAt h 28 4 == crc32c (h.take 28)

/-- Flits of the packet that a header starts (R61, R64): a top-note packet has no separate end flit. -/
def packetFlits (h : List Byte) : Nat :=
  if hClass h == 0 then 1 + hLength h else 2 + hLength h

/-- Largest length of a class: 64 for heart, 256 for base, 1 for top note (R70). -/
def lengthLimit (cls : Nat) : Nat :=
  match cls with
  | 0 => 1 | 1 => 64 | _ => 256

/-- How a packet ends (R77). -/
inductive PktOutcome where
  | confirmed
  | failLocal
  | failBlock
  | failUpstream
  | oversize
  | framing
  deriving DecidableEq, Repr

/-- The bytes that a packet's end check covers, and the check (R64, R65). -/
def coveredAndCheck (fl : List (List Byte)) : List Byte × Nat :=
  let h := fl.headD []
  if hClass h == 0 then
    (if hLength h == 0 then (h.take 28, beAt h 28 4)
     else let all := fl.flatten; (all.take (all.length - 4), beAt all (all.length - 4) 4))
  else (fl.dropLast.flatten, beAt (fl.getLastD []) 0 4)

/-- Judge a whole packet in the order of R77's rows, after the framing conditions of R68; a reserved end kind is a framing
condition that the rows before it outrank (R65, R77). -/
def judge (fl : List Flit) : PktOutcome :=
  let bs := fl.map Flit.bytes
  let h := bs.headD []
  let last := bs.getLastD []
  if (fl.head?.map Flit.bad).getD true || !hcheckOk h then .framing
  else
    let (cov, chk) := coveredAndCheck bs
    let crc := crc32c cov
    let badBlock := fl.any Flit.bad
    let tooLong := decide (hLength h > lengthLimit (hClass h))
    if hClass h != 0 && byteAt last 4 > 1 && !badBlock && !tooLong && chk == crc then .framing
    else if chk == crc && !badBlock && !tooLong then .confirmed
    else if chk != crc && chk != Nat.xor crc 0xFFFFFFFF then .failLocal
    else if badBlock then .failBlock
    else if chk == Nat.xor crc 0xFFFFFFFF then .failUpstream
    else .oversize

/-- This tile's ring address. -/
def tileAddress (s : State) : Nat := fld s F.TOPO_TILE_address

/-- The other port of a tile. -/
def otherPort (p : Nat) : Nat := if p == 0 then 1 else 0

/-- The end flit with hops counted on, stopping at FFh (R65). -/
def hopEnd (e : List Byte) : List Byte :=
  updAt (fun b => BitVec.ofNat 8 (satAdd 255 b.toNat 1)) e 6

/-- Replace `n` bytes of a list at `i` by those of `v`. -/
def putBytes (l : List Byte) (i : Nat) (v : List Byte) : List Byte :=
  l.take i ++ v ++ l.drop (i + v.length)

/-- A failed packet's last flit as the tile at `addr` stomps it: the inverted check over what it sends, and stomp_by where
there is an end flit (R77, R78). -/
def stompLast (addr : Nat) (fl : List (List Byte)) : List Byte :=
  let h := fl.headD []
  let last := fl.getLastD []
  if hClass h == 0 then
    let all := fl.flatten
    putBytes last 28 (beBytes 4 (Nat.xor (crc32c (all.take (all.length - 4))) 0xFFFFFFFF))
  else
    putBytes (putBytes (hopEnd last) 0 (beBytes 4 (Nat.xor (crc32c fl.dropLast.flatten) 0xFFFFFFFF))) 7
      [BitVec.ofNat 8 addr]

/-- DELAY_REQ and DELAY_RESP (R67). -/
def isDelayPkt (h : List Byte) : Bool := hClass h == 0 && (hType h == 2 || hType h == 3)

/-- A delay packet on its way: hops counted on in byte 14, stopping at FFh, hcheck recomputed (R300, R301, R78). -/
def hopDelay (h : List Byte) : List Byte :=
  let b := putBytes (h.take 28) 14 [BitVec.ofNat 8 (satAdd 255 (hSpec h 2) 1)]
  b ++ beBytes 4 (crc32c b)

/-- The flits a tile sends on for a packet of outcome `o` (R69, R77, R78). -/
def forwardFlits (addr : Nat) (o : PktOutcome) (fl : List (List Byte)) : List Byte :=
  match o with
  | .confirmed =>
    if isDelayPkt (fl.headD []) && hLength (fl.headD []) == 0 then hopDelay (fl.headD [])
    else if hClass (fl.headD []) == 0 then fl.flatten
    else fl.dropLast.flatten ++ hopEnd (fl.getLastD [])
  | .failUpstream | .oversize =>
    if hClass (fl.headD []) == 0 then fl.flatten
    else fl.dropLast.flatten ++ hopEnd (fl.getLastD [])
  | .failLocal | .failBlock => fl.dropLast.flatten ++ stompLast addr fl
  | .framing => voidFlit addr

/-- An ENUM_CW or ENUM_CCW (R480), or a TIME_SYNC (R299): the packets that a tile changes on their way. -/
def isEnumCount (h : List Byte) : Bool := hClass h == 0 && hLength h == 0 && (hType h == 0x08 || hType h == 0x09)
@[inherit_doc isEnumCount] def isTimeSync (h : List Byte) : Bool := hClass h == 0 && hLength h == 1 && hType h == 0x01

/-- A tile carries the egress of a direction on from its ingress while that port is ACTIVE and loop-timed; else its slots
carry idle flits and the tile's own traffic (R51, R52). -/
def carriesOn (s : State) (e : Nat) : Bool := portActive s e && !flagAt s F.PORT_CFG_timing_local e

/-- Put flits into the next slots of a port's egress (R42). -/
def putFlits (p : Nat) (bytes : List Byte) (s : State) : State :=
  setPort p (fun q => { q with tx := { q.tx with period := q.tx.period ++ chunks 32 bytes } }) (emit (.flits p bytes) s)

/-- A tile sends on, on its other port, what it received on port `p` (R69). -/
def forwardTo (s : State) (p : Nat) (bytes : List Byte) : State :=
  if isTile s && carriesOn s (otherPort p) then putFlits (otherPort p) bytes s else s

/-! ### Packets that a tile changes on their way (R27, R78, R300) -/

/-- One ns in counter units. -/
def nsUnit : Nat := 2 ^ 32

/-- A header flit: its 28 bytes and the check over them (R62). -/
def headerFlit (h : List Byte) : List Byte := h ++ beBytes 4 (crc32c h)

/-- An enumeration packet as a tile sends it on: count and reversed updated, hcheck recomputed (R27, R78, R480). -/
def enumForward (h : List Byte) (count : Nat) (rev : Bool) : List Byte :=
  let b14 := hSpec h 2
  let h := putBytes h 13 [BitVec.ofNat 8 count]
  let h := if rev then putBytes h 14 [BitVec.ofNat 8 (withBits b14 6 6 1)] else h
  headerFlit (h.take 28)

/-- Whether an ENUM_CW came in at port A, or an ENUM_CCW at port B (R27). -/
def enumRight (p : Nat) (h : List Byte) : Bool := p == (if hType h == 0x09 then 1 else 0)

/-- The count that a tile sends on (R27). -/
def enumCount (h : List Byte) : Nat := min (hSpec h 1 + 1) 255

/-- link(i) in counter units, and whether it is an estimate (R300). -/
def linkDelay (s : State) (p : Nat) : Nat × Bool :=
  if flagAt s F.TIME_LINK_valid p then (fldAt s F.TIME_LINK_delay p * 2 ^ 24, false)
  else (fld s F.TIME_SERVO_CFG_link_def * nsUnit, true)

/-- Residence from ingress port `p` in counter units: 88 + deskew_add link-word cycles of 256/225 ns (R36, R298); a port wider
than one lane adds its lane-skew terms. -/
def residence (s : State) (p : Nat) : Int :=
  let base := roundOpen (((88 + fldAt s F.PORT_CFG_deskew_add p) * 256 * nsUnit : Nat) : Int) 225
  let w := (portLanes s p).length
  if w ≤ 1 then base else base + Config.residenceSkew p w

/-- TIME_RES of an ingress port, in 1/256 ns. -/
def residenceCode (s : State) (p : Nat) : Nat := fitUnsigned 16 (roundOpen (residence s p) (2 ^ 24))

/-- The TIME_SYNC that arrived on port `p` as a tile sends it on (R300): header and second flit with their checks, the end
check stomped where the input failed (R78). -/
def syncForward (s : State) (p : Nat) (hdr body : List Byte) (stomp : Bool) : List Byte :=
  let (link, est) := linkDelay s p
  let res := residence s p
  let fl := hSpec hdr 13
  let h := putBytes (hdr.take 28) 24
    [BitVec.ofNat 8 (satAdd 255 (hSpec hdr 12) 1), BitVec.ofNat 8 (if est then withBits fl 4 4 1 else fl)]
  let corr := sgn 64 (beAt body 0 8) + roundOpen ((link : Int) + res) (2 ^ 16)
  let total : Nat := beAt body 8 4 + link / 2 ^ 24
  let hop := max (beAt body 12 2) (residenceCode s p)
  let b := beBytes 8 (unsgn 64 corr) ++ beBytes 4 (fitUnsigned 32 (Int.ofNat total)) ++ beBytes 2 hop ++ (body.drop 14).take 14
  let h := headerFlit h
  let c := crc32c (h ++ b)
  h ++ b ++ beBytes 4 (if stomp then Nat.xor c 0xFFFFFFFF else c)

/-- The flits that a tile sends on for a packet of outcome `o` that came in on port `p`, with its changes (R27, R69, R77, R78,
R300). -/
def sendOn (s : State) (p : Nat) (o : PktOutcome) (fl : List (List Byte)) : List Byte :=
  let h := fl.headD []
  if isEnumCount h then enumForward h (enumCount h) (s.enumr.tile.reversed || !enumRight p h)
  else if isTimeSync h && o != .framing then syncForward s p h (fl.getD 1 []) (o != .confirmed)
  else forwardFlits (tileAddress s) o fl

/-! ### Losing framing, and dropping a partial message (R68, R80) -/

/-- The key of the partial message that a base piece belongs to: a tile holds one partial message per port (R80); at a
sender the pieces of many tiles' messages meet on one port, so the origin and the type tell them apart. -/
def partKey (s : State) (h : List Byte) : Nat :=
  if isSender s then (hRingPort h * 256 + hSrc h) * 64 + hType h else 0

/-- The partial message of key `k` on a port. -/
def partialAt (s : State) (p k : Nat) : Option PartialMsg :=
  ((portAt s p).parts.find? (fun x => x.1 == k)).map Prod.snd

/-- Hold no partial message of key `k` on a port. -/
def clearPartial (p k : Nat) (s : State) : State :=
  setPort p (fun q => { q with parts := q.parts.filter (fun x => x.1 != k) }) s

/-- Hold partial message `m` under key `k` on a port. -/
def holdPartial (p k : Nat) (m : PartialMsg) (s : State) : State :=
  setPort p (fun q => { q with parts := (k, m) :: q.parts.filter (fun x => x.1 != k) }) s

/-- Drop the partial base message of key `k` on a port, counting it if there is one; further pieces of it continue nothing
and are discarded (R80). -/
def dropPartial (p k : Nat) (s : State) : State :=
  match partialAt s p k with
  | none => s
  | some _ => incFldAt F.PKT_MSG_DROP_count p (clearPartial p k s)

/-- Drop every partial base message of a port (R68, R80). -/
def dropAllPartials (p : Nat) (s : State) : State :=
  forEach ((portAt s p).parts.map Prod.fst) (fun k st => dropPartial p k st) s

/-- Framing is lost on a port: counted, raised, the partial message dropped, and the rest of the marker period sent on
unchanged with nothing consumed (R68). `void` is the flit that stands at the place of the loss. -/
def loseFraming (p : Nat) (void : List Byte) (s : State) : State :=
  let rest := ((portStream s p).drop 1).flatMap Flit.bytes
  let s := forwardTo s p (void ++ rest)
  let s := dropAllPartials p (clearFlits p s)
  let s := setPort p (fun q => { q with framingLost := true }) s
  raise Src.PKT_FRAMING (incFldAt F.PKT_FRAMING_count p s)

/-! ### Sillage windows (R75) -/

/-- Which part of a window a packet of frame `f` falls into: 0 current, 1 previous; none when it is stale. Also the window
moved on to `f`, and whether it restarted. -/
def windowFor (w : Window) (f : Nat) : Option (Nat × Window × Bool) :=
  match w.frame with
  | none => some (0, { w with frame := some f }, false)
  | some wf =>
    let d := (f + 4096 - wf % 4096) % 4096
    if d == 0 then some (0, w, false)
    else if d == 4095 then some (1, w, false)
    else if d == 1 then some (0, { frame := some f, cur := {}, prev := w.cur }, false)
    else if d < 2048 then some (0, { frame := some f, cur := {}, prev := {} }, true)
    else none

/-- Present one index to a window part: fresh, late, and the part after it (R75). -/
def presentIndex (w : WindowPart) (i : Nat) : Bool × Bool × WindowPart :=
  match w.high with
  | none => (true, false, { high := some i, marks := [i] })
  | some h =>
    let up := (i + 2 ^ 20 - h) % 2 ^ 20
    let down := (h + 2 ^ 20 - i) % 2 ^ 20
    if 1 ≤ up && up < 2 ^ 19 then
      (true, false, { high := some i, marks := i :: w.marks.filter (fun m => (i + 2 ^ 20 - m) % 2 ^ 20 < 65536) })
    else if down ≥ 65536 then (false, true, w)
    else if w.marks.contains i then (false, false, w)
    else (true, false, { w with marks := i :: w.marks })

/-- Part `k` of a window. -/
def windowPart (w : Window) (k : Nat) : WindowPart := if k == 0 then w.cur else w.prev

/-- Replace part `k` of a window. -/
def setWindowPart (w : Window) (k : Nat) (x : WindowPart) : Window :=
  if k == 0 then { w with cur := x } else { w with prev := x }

/-- The window of a class. -/
def windowAt (s : State) (cls : Nat) : Window := s.pkt.windows.getD cls {}

/-- Set the window of a class. -/
def setWindow (cls : Nat) (w : Window) (s : State) : State :=
  { s with pkt := { s.pkt with windows := updAt (fun _ => w) s.pkt.windows cls } }

/-- Present `n` consecutive indices from `i` to a window part: which are fresh, and how many late (R75). -/
def presentRun (w : WindowPart) (i n : Nat) : List Bool × Nat × WindowPart :=
  (List.range n).foldl (fun (acc : List Bool × Nat × WindowPart) k =>
    let r := presentIndex acc.2.2 ((i + k) % 2 ^ 20)
    (acc.1 ++ [r.1], acc.2.1 + b2n r.2.1, r.2.2)) ([], 0, w)

/-- Whether a packet goes through a sillage window: a tile's, for dup = 1, while PKT_CTRL.dup_discard is 1 (R75, R87). -/
def windowed (s : State) (h : List Byte) : Bool := isTile s && hDup h && flag s F.PKT_CTRL_dup_discard

/-- Run a confirmed packet with dup = 1 through the window of its class: which of its `n` flits are delivered (R75). With
PKT_CTRL.dup_discard 0, and for dup = 0, every copy is delivered; a sender keeps no window. -/
def sillage (p : Nat) (h : List Byte) (n : Nat) (s : State) : List Bool × State :=
  if !windowed s h then (List.replicate n true, s)
  else
    let cls := hClass h
    match windowFor (windowAt s cls) (hFrame h) with
    | none => (List.replicate n false, incFldAt F.PKT_STALE_count p s)
    | some (k, w, jumped) =>
      let (fresh, late, part) := presentRun (windowPart w k) (hIndex h) n
      let s := setWindow cls (setWindowPart w k part) s
      let s := when jumped (raise Src.PKT_SEQ_JUMP) s
      let s := when (decide (late > 0)) (incFldAt F.PKT_LATE_count p) s
      let s := when (decide (n ≥ 1) && fresh.all (fun b => !b) && late == 0) (incFldAt F.PKT_DUP_count p) s
      (fresh, s)

/-! ### Delivery to consumers -/

/-- Whether this chip consumes a packet (R33, R69): a sender absorbs everything; a tile takes its own address and the
broadcast address; an unaddressed tile takes of the broadcasts only top note and commands. -/
def consumes (s : State) (h : List Byte) : Bool :=
  if isSender s then true
  else if tileAddress s == 0 then hDst h == 0xFF && (hClass h == 0 || (hClass h == 2 && hType h == 1))
  else hDst h == 0xFF || hDst h == tileAddress s

/-- A type code of R67 that some consumer takes. -/
def knownType (h : List Byte) : Bool :=
  match hClass h with
  | 0 => [1, 2, 3, 8, 9, 10, 16, 17, 24].contains (hType h)
  | 1 => [1, 2].contains (hType h)
  | 2 => [1, 2, 3, 4, 5, 8, 9].contains (hType h)
  | _ => false

/-- Whether a consumer of this chip takes a packet (R67, R69, R33); of a delay packet only one with hops 0 (R301). -/
def takenHere (s : State) (h : List Byte) : Bool :=
  knownType h && consumes s h && (!isDelayPkt h || hSpec h 2 == 0)

/-- A packet that a tile sends on in a row of its own, with its changes (R27, R300): a TIME_SYNC, ENUM_CW or ENUM_CCW that goes
to this tile's consumers. Any other packet leaves as soon as it has ended. -/
def rowSends (s : State) (h : List Byte) : Bool := (isEnumCount h || isTimeSync h) && takenHere s h && !hDup h

/-- Put a delivered packet or message where its consumer takes it; `stamp` is the receive stamp of its header flit. A packet
that `rowSends` does not name has been sent on already. -/
def deliver (p : Nat) (h body : List Byte) (stamp : Nat) (s : State) : State :=
  { s with pkt := { s.pkt with inbox := s.pkt.inbox ++
    [{ port := p, hdr := h, body := body, stamp := stamp, forwarded := !rowSends s h }] } }

/-- The payload bytes of a packet, without the pad bytes of its last payload flit (R65). -/
def payloadBytes (fl : List (List Byte)) : List Byte :=
  let all := (fl.drop 1).dropLast.flatten
  all.take (all.length - byteAt (fl.getLastD []) 5 % 32)

/-- Deliver the fresh flits of a confirmed heart packet, the last one without its pad bytes (R65, R75, R190). -/
def deliverHeart (p : Nat) (fl : List (List Byte)) (fresh : List Bool) (s : State) : State :=
  let h := fl.headD []
  let body := chunks 32 (payloadBytes fl)
  let segs := (List.zip (List.range body.length) (List.zip body fresh)).filterMap (fun x =>
    if x.2.2 then some (HeartSeg.mk (hType h) (hDst h) (hFrame h) (beAt h 12 2) (byteAt h 14) (byteAt h 15 / 64)
      (beAt h 16 4 + 32 * x.1) x.2.1 p) else none)
  { s with pkt := { s.pkt with
    segs := s.pkt.segs ++ segs, poolStale := s.pkt.poolStale || fresh.any (fun b => !b) } }

/-- While a tile is split it consumes packets with dup = 1 only from the port whose claimant is higher (R348). -/
def splitDrops (s : State) (p : Nat) (h : List Byte) : Bool :=
  isTile s && flag s F.RED_TILE_STAT_split && hDup h && flag s F.RED_TILE_STAT_higher_b != (p == 1)

/-- Deliver a complete base message: with dup = 1 only if its first payload flit is not marked, and then all its flits are
marked (R80), also those of a message for another tile, which no consumer of this one takes (R75). One that a split tile does
not consume is counted in RED_TILE_STAT.split_drop, and its flits are not marked (R348). -/
def deliverMessage (p : Nat) (m : PartialMsg) (s : State) : State :=
  let take (st : State) : State := if takenHere st m.hdr then deliver p m.hdr m.body st.time.counter st else st
  if splitDrops s p m.hdr then incFld F.RED_TILE_STAT_split_drop s
  else if !windowed s m.hdr then take s
  else
    match windowFor (windowAt s 2) (hFrame m.hdr) with
    | none => incFldAt F.PKT_STALE_count p s
    | some (k, w, jumped) =>
      let first := presentIndex (windowPart w k) (m.flits.headD (hIndex m.hdr))
      let part := m.flits.foldl (fun a i => (presentIndex a i).2.2) (windowPart w k)
      let s := when jumped (raise Src.PKT_SEQ_JUMP) s
      if first.1 then take (setWindow 2 (setWindowPart w k part) s)
      else
        let s := setWindow 2 w s
        if first.2.1 then incFldAt F.PKT_LATE_count p s else incFldAt F.PKT_DUP_count p s

/-- Hold the message built so far, or deliver it once it holds every byte (R80). -/
def finishMessage (p k : Nat) (m : PartialMsg) (s : State) : State :=
  if m.body.length ≥ m.length then deliverMessage p { m with body := m.body.take m.length } (clearPartial p k s)
  else holdPartial p k m s

/-- Take a confirmed base piece into its message: it starts one with msg_offset 0, continues the one at hand, or drops it and
may start another (R80). -/
def takePiece (p : Nat) (fl : List (List Byte)) (s : State) : State :=
  let h := fl.headD []
  let off := beAt h 12 4
  let len := beAt h 16 4
  let bytes := payloadBytes fl
  let seqs := (List.range (hLength h)).map (fun i => (hIndex h + i) % 2 ^ 20)
  let k := partKey s h
  let start (st : State) : State :=
    if off == 0 then finishMessage p k { hdr := h, length := len, body := bytes, flits := seqs } st else st
  match partialAt s p k with
  | some m =>
    if off == m.body.length && len == m.length then
      finishMessage p k { m with body := m.body ++ bytes, flits := m.flits ++ seqs } s
    else start (dropPartial p k s)
  | none => start s

/-- A tile's port has delivered a confirmed heart packet with dup = 1: noted for R83, and the port's one-sided mark ends
(R347). -/
def heartMark (p : Nat) (s : State) : State :=
  setFlag (if p == 0 then F.RED_TILE_A_one_sided else F.RED_TILE_B_one_sided) false
    (setPort p (fun q => { q with heartDelivered := true }) s)

/-- Whether a confirmed packet enters this chip's window or its consumers: those it takes, and at a tile every packet with
dup = 1, whatever its destination (R75). -/
def entersHere (s : State) (h : List Byte) : Bool := takenHere s h || windowed s h

/-- Deliver a confirmed packet to its consumer (R75, R79, R80). -/
def consumePacket (p : Nat) (fl : List (List Byte)) (stamp : Nat) (s : State) : State :=
  let h := fl.headD []
  if !entersHere s h || (hClass h != 2 && splitDrops s p h) then s
  else match hClass h with
    | 0 =>
      let (fresh, s) := sillage p h 1 s
      if fresh.headD false && takenHere s h then deliver p h ((fl.drop 1).flatten) stamp s else s
    | 1 =>
      let (fresh, s) := sillage p h (hLength h) s
      let s := when (hDup h && isTile s && fresh.any id) (heartMark p) s
      if takenHere s h then deliverHeart p fl fresh s else s
    | _ => takePiece p fl s

/-- Count and raise an outcome (R77, R86). -/
def countOutcome (p : Nat) (o : PktOutcome) (s : State) : State :=
  match o with
  | .confirmed => incFldAt F.PKT_OK_count p s
  | .failLocal => raise Src.PKT_FAIL_LOCAL (incFldAt F.PKT_FAIL_LOCAL_count p s)
  | .failBlock => raise Src.PKT_FAIL_BLOCK (incFldAt F.PKT_FAIL_BLOCK_count p s)
  | .failUpstream => incFldAt F.PKT_FAIL_UPSTREAM_count p s
  | .oversize => raise Src.PKT_OVERSIZE (incFldAt F.PKT_OVERSIZE_count p s)
  | .framing => s

/-- A gap in the journal at a standby member, which is recorded once (R356). -/
def journalGap (s : State) : State :=
  if fld s F.RED_STAT_state != 1 || s.red.gapKnown then s
  else
    let first := (fld s F.RED_JSEQ_value + 1) % 2 ^ 32
    let s := { s with red := { s.red with
      gapKnown := true, gapSince := true, snapReq := true, syncDue := false, missed := some first } }
    let s := setFld F.RED_GAP_JSEQ_value first (setFlag F.RED_STAT_sync false s)
    let s := setFld F.RED_GAP_SNAP_value (fld s F.RED_SNAP_value) s
    raise Src.RED_JOURNAL_GAP (incFld F.RED_CNT_0_journal_gaps s)

/-- A failed base packet on the tie link that names a JOURNAL message (R356). -/
def journalFailed (p : Nat) (h : List Byte) (s : State) : State :=
  if isSender s && p == 7 && hClass h == 2 && hType h == 9 then journalGap s else s

/-- A base piece that this chip would have taken in has failed: its partial message is dropped (R80). -/
def dropFailed (p : Nat) (h : List Byte) (s : State) : State :=
  if hClass h == 2 && entersHere s h then dropPartial p (partKey s h) s else s

/-- Heart data goes into the line-buffer pool as it is received, and stays there as discarded data when its packet fails
(R79, R81). -/
def poolTakes (h : List Byte) (failed : Bool) (s : State) : State :=
  if hClass h == 1 && takenHere s h then
    { s with pkt := { s.pkt with poolUsed := true, poolStale := s.pkt.poolStale || failed } }
  else s

/-- Take idle flits off the front of a port's stream (R61, R66). A flit with byte 0 = FFh whose other bytes are not all zero is
no idle flit and counts as a void flit (DESIGN CHOICE, log 156). -/
def skipIdle (p : Nat) (s : State) : State :=
  let n := ((portStream s p).takeWhile (fun f => f.bytes == idleFlit)).length
  forwardTo (popFlits p n s) p ((List.range n).flatMap (fun _ => idleFlit))

/-- End the packet at the front of a port's stream, if all of it has arrived: judge it, send it on, count the outcome and
deliver it (R61 to R80). A port that has lost framing ends nothing until the next marker period. -/
def endPacket (p : Nat) (s : State) : State :=
  let s := when (!(portAt s p).framingLost) (skipIdle p) s
  match portStream s p with
  | [] => s
  | f :: _ =>
    if hClass f.bytes == 3 || (portAt s p).framingLost then s
    else if f.bad || !hcheckOk f.bytes then loseFraming p (voidFlit (tileAddress s)) s
    else
      let n := packetFlits f.bytes
      let fl := (portStream s p).take n
      let s := poolTakes f.bytes false s
      if fl.length < n then s
      else
        let bs := fl.map Flit.bytes
        match judge fl with
        | .framing =>
          let s := poolTakes f.bytes true s
          loseFraming p (voidFlit (tileAddress s)) (popFlits p (n - 1) (forwardTo s p bs.dropLast.flatten))
        | .confirmed =>
          let s := popFlits p n s
          let s := if rowSends s f.bytes then s else forwardTo s p (sendOn s p .confirmed bs)
          let s := when (hClass f.bytes == 1 && hDup f.bytes) (setPort p (fun q => { q with heartConfirmed := true })) s
          consumePacket p bs f.stamp (countOutcome p .confirmed s)
        | o =>
          let s := poolTakes f.bytes true (forwardTo (popFlits p n s) p (sendOn s p o bs))
          let s := journalFailed p f.bytes (countOutcome p o s)
          dropFailed p f.bytes s

/-- A void flit at the front of a port's stream: framing is lost for the rest of the marker period, and the void flit goes on
unchanged (R66, R68). Any class 11b byte 0 other than the idle flit's counts as one. -/
def takeVoid (p : Nat) (s : State) : State :=
  let s := when (!(portAt s p).framingLost) (skipIdle p) s
  match portStream s p with
  | [] => s
  | f :: _ =>
    if hClass f.bytes == 3 && !(portAt s p).framingLost then loseFraming p f.bytes s else s

/-- The packet that a port was receiving when it left ACTIVE, cut before its end flit: the tile completes it on its egress with
idle flits and a stomped end. It ends as FAIL_BLOCK if an uncorrectable block lies within it, else as CUT (R51, R77). -/
def cutOpen (p : Nat) (s : State) : State :=
  match portStream s p with
  | [] => s
  | f :: _ =>
    if hClass f.bytes == 3 || (portAt s p).framingLost then clearFlits p s
    else if f.bad || !hcheckOk f.bytes then clearFlits p (loseFraming p (voidFlit (tileAddress s)) s)
    else
      let h := f.bytes
      let fl := (portStream s p).take (packetFlits h)
      let got := fl.map Flit.bytes
      let addr := tileAddress s
      let whole :=
        if hClass h == 0 then
          (if hLength h == 0 then got
           else got ++ List.replicate (packetFlits h - got.length) (List.replicate 32 0))
        else got ++ List.replicate (packetFlits h - 1 - got.length) idleFlit ++ [List.replicate 32 0]
      let out := whole.dropLast.flatten ++ stompLast addr whole
      let s := poolTakes h true (forwardTo (clearFlits p s) p out)
      let s := if fl.any Flit.bad then countOutcome p .failBlock s
        else raise Src.PKT_CUT (incFldAt F.PKT_CUT_count p s)
      dropFailed p h s

/-- A port has left ACTIVE: the packets that have arrived whole end as they are, and the one still open is cut (R51, R77). -/
def cutPacket (p : Nat) (s : State) : State :=
  let s := forEach (List.range (portStream s p).length) (fun _ => endPacket p) s
  cutOpen p (when (!(portAt s p).framingLost) (skipIdle p) s)

/-- At each marker block a port's stream starts afresh: a packet still open would cross the marker period and is lost as
FRAMING (R68); lost framing is recovered. DESIGN CHOICE (log 157): the loss counts as found at the packet's header flit, in whose
place the void flit stands. -/
def markerBoundary (p : Nat) (s : State) : State :=
  let s := when (!(portAt s p).framingLost) (skipIdle p) s
  let s := when (!(portStream s p).isEmpty && !(portAt s p).framingLost)
    (loseFraming p (voidFlit (tileAddress s))) s
  setPort p (fun q => { q with framingLost := false, turn := 0 }) (clearFlits p s)

/-! ### Rows of the opcode table -/

/-- VOID_FLIT_RECEIVE (R68). -/
def execVoidFlitReceive (port : Nat) (s : State) : Host.Outcome State Fault Refusal :=
  .next (whenOn 11 (takeVoid port) s)

end Sys2Proof.Machine
end

