-- ==== Sys2Proof/Machine/Slots.lean ====
section
/-! DEFINITION. Sending: how a chip's own packets are built, and which flit slot each gets
(spec/03_chain_packets_and_confirmation.md, R62 to R74). -/

namespace Sys2Proof.Machine

/-! ### Building packets (R62, R64) -/

/-- The direction a chip's own packets carry: a tile by the port, a sender by its member number when it is in pair operation
(R62). -/
def ownDir (s : State) (p : Nat) : Nat :=
  if isTile s then (if p == 0 then 1 else 0)
  else if flag s F.RED_CFG_enable then fld s F.CASCADE_ID_member else 0

/-- Source address of a chip's own packets: a tile's address, or 00h (R62). -/
def ownSrc (s : State) : Nat := if isTile s then tileAddress s else 0

/-- Pair index of a chip's own packets: configured at a sender, learnt by enumeration at a tile. -/
def ownPair (s : State) : Nat :=
  if isTile s then fld s F.TOPO_TILE_LOC_pair else fld s F.CASCADE_ID_pair

/-- Whether a sender sends heart and top-note packets with dup = 1: solo, active, or standby with sync (R341, R343). -/
def dupAllowed (s : State) : Bool :=
  !flag s F.RED_CFG_enable || fld s F.RED_STAT_state == 2 || (fld s F.RED_STAT_state == 1 && flag s F.RED_STAT_sync)

/-- Ring port field of a chip's own packets: the sender's port (7 on the tie link), or the tile's ring. -/
def ownRingPort (s : State) (p : Nat) : Nat :=
  if isTile s then fld s F.TOPO_TILE_LOC_ring_port else p

/-- Header bytes 0–27 (R62). -/
def mkHeader (cls typ : Nat) (dup : Bool) (dir len seq dst src pair ringPort : Nat) (specific : List Byte) : List Byte :=
  [BitVec.ofNat 8 (cls * 64 + typ), BitVec.ofNat 8 (b2n dup * 128 + dir * 32)] ++ beBytes 2 len ++ beBytes 4 seq ++
  [BitVec.ofNat 8 dst, BitVec.ofNat 8 src, BitVec.ofNat 8 (pair * 16 + ringPort), 0] ++ (padTo 16 specific).take 16

/-- Sequence field of the chip's next own packet with dup = 0, which its origin chooses (R74). -/
def freshSeq (s : State) : Nat × State :=
  (Config.ownSequence s.pkt.ownSeq % 2 ^ 32, { s with pkt := { s.pkt with ownSeq := s.pkt.ownSeq + 1 } })

/-- The flits of a top-note packet: the header, and for length 1 the second flit with its check (R64). -/
def topFlits (x : TxPkt) : List (List Byte) :=
  let h := headerFlit x.hdr
  if x.payload.isEmpty then [h]
  else
    let b := (padTo 28 x.payload).take 28
    [h, b ++ beBytes 4 (crc32c (h ++ b))]

/-- A time stamp of the ring, in counter units: 1/16 ns resolution (R296); how the time between two steps is rounded is not
stated, so one of the two is free. -/
def ringStamp (t : Nat) : Nat := (t / 2 ^ 28 + (if t % 2 ^ 28 == 0 then 0 else b2n (Config.stampUp t))) * 2 ^ 28

/-- Time from one slot to the slot `k` places on in a run of a port, in counter units: on each lane a slot lasts 4 link words,
1,024/225 ns (R36, R42). -/
def slotTime (s : State) (p k : Nat) : Nat := k / max 1 (portLanes s p).length * 1024 * nsUnit / 225

/-- A time packet as it leaves in the slot `k` places after the present one (R297): TIME_SYNC takes its origin time (R299),
DELAY_REQ records its transmit stamp, and DELAY_RESP takes its turnaround from the receive stamp kept in `due` (R301). -/
def stampTop (p k : Nat) (x : TxPkt) (s : State) : TxPkt × State :=
  let now := ringStamp (s.time.counter + slotTime s p k)
  match hType x.hdr with
  | 0x01 =>
    let ns := now / 2 ^ 32
    let origin := beBytes 6 (ns / 10 ^ 9) ++ beBytes 4 (ns % 10 ^ 9) ++ beBytes 2 (now % 2 ^ 32 / 2 ^ 16)
    ({ x with hdr := putBytes x.hdr 12 origin }, s)
  | 0x02 => (x, setPort p (fun q => { q with delayReq := q.delayReq.map (fun r => (r.1, some now)) }) s)
  | 0x03 =>
    let turnaround := ((now : Int) - (x.due : Int)) / (2 ^ 16 : Nat)
    ({ x with hdr := putBytes x.hdr 16 (beBytes 8 (unsgn 64 turnaround)) }, s)
  | _ => (x, s)

/-- Queue a top-note packet on a port: type, dup, sequence, destination, 16 specific bytes, and the 28 bytes of a second
flit (none for length 0). -/
def sendTop (p typ : Nat) (dup : Bool) (seq dst : Nat) (specific second : List Byte) (s : State) : State :=
  let h := mkHeader 0 typ dup (ownDir s p) (if second.isEmpty then 0 else 1) seq dst (ownSrc s) (ownPair s)
    (ownRingPort s p) specific
  setPort p (fun q => { q with tx := { q.tx with top := q.tx.top ++
    [{ hdr := h, payload := second, ready := s.time.counter }] } }) s

/-- Queue a top-note packet with dup = 0, whose sequence the chip chooses. -/
def sendTopOwn (p typ dst : Nat) (specific second : List Byte) (s : State) : State :=
  let (q, s) := freshSeq s
  sendTop p typ false q dst specific second s

/-- The packets of a base message: at most 256 payload flits each, in msg_offset order (R80). The last one is owned by a
command whose reply ends with it (R97). -/
def basePackets (s : State) (p typ : Nat) (dup : Bool) (seq dst owner : Nat) (msg : List Byte) : List TxPkt :=
  let cs := if msg.isEmpty then [[]] else chunks 8192 msg
  (List.zip (List.range cs.length) cs).map (fun x =>
    let flits := cdiv x.2.length 32
    { hdr := mkHeader 2 typ dup (ownDir s p) flits
        (seq / 2 ^ 20 * 2 ^ 20 + (seq % 2 ^ 20 + 256 * x.1) % 2 ^ 20) dst (ownSrc s) (ownPair s) (ownRingPort s p)
        (beBytes 4 (8192 * x.1) ++ beBytes 4 msg.length)
      payload := x.2
      owner := if x.1 + 1 == cs.length then owner else 0
      ready := s.time.counter })

/-- Queue a base message on a port. -/
def sendBase (p typ : Nat) (dup : Bool) (seq dst owner : Nat) (msg : List Byte) (s : State) : State :=
  setPort p (fun q => { q with tx := { q.tx with base := q.tx.base ++ basePackets s p typ dup seq dst owner msg } }) s

/-- Queue a base message with dup = 0, whose sequence the chip chooses. -/
def sendBaseOwn (p typ dst owner : Nat) (msg : List Byte) (s : State) : State :=
  let (q, s) := freshSeq s
  sendBase p typ false q dst owner msg s

/-! ### Pieces (R71, R80) -/

/-- A packet that starts to be sent: its payload cut into flits. -/
def startProgress (x : TxPkt) : TxProgress :=
  let fl := (chunks 32 x.payload).map (padTo 32)
  { hdr := x.hdr, flits := fl, pad := 32 * fl.length - x.payload.length, owner := x.owner, latest := x.latest }

/-- Header bytes 0–27 of the present piece: cont, length, sequence and offset follow the payload flits already sent (R71).
The header carries the number of payload flits the piece has in the end (DEDUCED from R61 and R71, log 8). -/
def pieceHeader (x : TxProgress) : List Byte :=
  let h := x.hdr
  let offAt := if hClass h == 1 then 16 else 12
  let seq := beAt h 4 4
  let h := putBytes h 1 [BitVec.ofNat 8 (withBits (byteAt h 1) 6 6 (b2n x.cont))]
  let h := putBytes h 2 (beBytes 2 x.now.length)
  let h := putBytes h 4 (beBytes 4 (seq / 2 ^ 20 * 2 ^ 20 + (seq % 2 ^ 20 + x.sent) % 2 ^ 20))
  putBytes h offAt (beBytes 4 (beAt x.hdr offAt 4 + 32 * x.sent))

/-- The end flit of a piece: its check, its kind and, in the final piece, the pad (R65). -/
def endFlit (content : List Byte) (kind pad : Nat) : List Byte :=
  padTo 32 (beBytes 4 (crc32c content) ++ [BitVec.ofNat 8 kind, BitVec.ofNat 8 pad])

/-- The bytes of the present piece with its end flit. -/
def pieceBytes (x : TxProgress) (kind : Nat) : List Byte :=
  let content := headerFlit (pieceHeader x) ++ x.now.flatten
  content ++ endFlit content kind (if kind == 0 then x.pad else 0)

/-- The packet after its present piece has ended with a split (R71), which top note has caused or not (R72). -/
def suspend (top : Bool) (x : TxProgress) : TxProgress :=
  { x with now := [], sent := x.sent + x.now.length, cont := true, owes := top }

/-! ### The egress of a port -/

/-- Change a port's egress. -/
def setTx (p : Nat) (f : Egress → Egress) (s : State) : State := setPort p (fun q => { q with tx := f q.tx }) s

/-- A port's egress. -/
def txAt (s : State) (p : Nat) : Egress := (portAt s p).tx

/-- A reply's last packet has left one port: the command's queue entry is freed with its last copy (R97). -/
def replySent (id : Nat) (s : State) : State :=
  if id == 0 then s
  else
    let q := s.cmd.queue.map (fun c => if c.id == id then { c with copies := c.copies - 1 } else c)
    { s with cmd := { s.cmd with queue := q.filter (fun c => !(c.id == id && c.copies == 0)) } }

/-- Headers of suspended pieces that are to be charged to top note when they leave (R72). -/
def owedHeaders (x : Egress) : Nat := b2n (x.heartNow.any TxProgress.owes) + b2n (x.baseNow.any TxProgress.owes)

/-- Whether a top-note packet of `n` flits, with `extra` framing flits of a split, stays within 5 % of every 1,000 slots
(R72): the window that ends with its last flit holds the most. -/
def topAllowed (x : Egress) (n extra : Nat) : Bool :=
  decide ((x.charges.filter (fun c => x.slotCount + n ≤ c + 1000)).length + n + extra + owedHeaders x ≤ 50)

/-- Charge `n` slots to top note (R72). -/
def chargeTop (n : Nat) (x : Egress) : Egress :=
  { x with charges := List.replicate n x.slotCount ++ x.charges.filter (fun c => x.slotCount < c + 1000) }

/-- One slot has passed: `per` slots make a marker period. -/
def nextSlot (per : Nat) (x : Egress) : Egress :=
  { x with slot := (x.slot + 1) % max 1 per, slotCount := x.slotCount + 1 }

/-- End the piece in progress of the base (`b`) or heart packet, final or split, by top note (`top`) or otherwise, and record
what it sent. -/
def endPiece (p : Nat) (b : Bool) (x : TxProgress) (final top : Bool) (s : State) : State :=
  let s := putFlits p (pieceBytes x (if final then 0 else 1)) s
  let nxt := if final then none else some (suspend top x)
  let s := when (final && !b && decide (x.latest < s.time.counter) && isSender s) (incFldAt F.NOTE_STAT_heart_late p) s
  let s := setTx p (fun e => if b then { e with baseNow := nxt, inBase := false }
    else { e with heartNow := nxt, inHeart := false }) s
  if final then replySent x.owner s else s

/-- Send the next flit of the piece in progress: a payload flit, or the final end flit. -/
def pieceFlit (p : Nat) (b : Bool) (x : TxProgress) (s : State) : State :=
  match x.flits with
  | [] => endPiece p b x true false s
  | f :: t =>
    let x' := { x with flits := t, now := x.now ++ [f] }
    setTx p (fun e => if b then { e with baseNow := some x' } else { e with heartNow := some x' }) s

/-- Start the first waiting top-note packet of a port: its first flit goes, the second waits for the next slot. -/
def startTop (p : Nat) (s : State) : State :=
  match (txAt s p).top with
  | [] => s
  | t :: rest =>
    let (t, s) := stampTop p 0 t s
    let fl := topFlits t
    putFlits p (fl.headD []) (setTx p (fun e =>
      chargeTop 1 { e with top := rest, topNow := fl.drop 1, topHeld := false }) s)

/-- The header of a suspended piece leaves: it is charged to the top note that caused the split (R72). -/
def resumePiece (x : TxProgress) (e : Egress) : Egress × TxProgress :=
  (if x.owes then chargeTop 1 e else e, { x with owes := false })

/-- Send the header of a suspended or due heart packet (R71). -/
def startHeart (p : Nat) (s : State) : State :=
  match (txAt s p).heartNow, (txAt s p).heart with
  | some x, _ => setTx p (fun e => let r := resumePiece x e; { r.1 with heartNow := some r.2, inHeart := true }) s
  | none, x :: rest => setTx p (fun e => { e with heart := rest, heartNow := some (startProgress x), inHeart := true }) s
  | none, [] => s

/-- Send the header of a suspended or waiting base packet; a new packet's wait is measured (R71, R87). -/
def startBase (p : Nat) (s : State) : State :=
  match (txAt s p).baseNow, (txAt s p).base with
  | some x, _ => setTx p (fun e => let r := resumePiece x e; { r.1 with baseNow := some r.2, inBase := true }) s
  | none, x :: rest =>
    let wait := cdiv (s.time.counter - x.ready) (1000 * 2 ^ 32)
    let s := when (isSender s)
      (fun st => setFldAt F.NOTE_STAT_base_wait_max p (max (fldAt st F.NOTE_STAT_base_wait_max p) (min 65535 wait)) st) s
    setTx p (fun e => { e with base := rest, baseNow := some (startProgress x), inBase := true }) s
  | none, [] => s

/-- A heart packet is suspended or due on a port (R71, R189). -/
def heartReady (s : State) (p : Nat) : Bool :=
  (txAt s p).heartNow.isSome ||
    (match (txAt s p).heart with
     | x :: _ => decide (x.due ≤ s.time.counter)
     | [] => false)

/-- A base packet is suspended or waiting. -/
def baseReady (s : State) (p : Nat) : Bool := (txAt s p).baseNow.isSome || !(txAt s p).base.isEmpty

/-- Flit slots of a port in one marker period (R40, R42). -/
def periodSlots (s : State) (p : Nat) : Nat := 275 * max 1 (portLanes s p).length

/-- Fill one flit slot of a sender's port, in the order of R71. -/
def fillSlot (p : Nat) (s : State) : State :=
  let w := max 1 (portLanes s p).length
  let per := periodSlots s p
  let x := txAt s p
  let room := per - x.slot
  let need := match x.top with
    | t :: _ => if t.payload.isEmpty then 1 else 2
    | [] => 0
  let waiting := !x.top.isEmpty
  let prog := if x.inHeart then x.heartNow else if x.inBase then x.baseNow else none
  let splits := prog.any (fun q => !q.flits.isEmpty)
  let held := waiting && !topAllowed x need (if splits then 2 else 0)
  let s := when (held && !x.topHeld) (fun st => setTx p (fun e => { e with topHeld := true })
    (incFldAt F.NOTE_STAT_top_over p st)) s
  let s :=
    if x.slot < 4 * w then putFlits p idleFlit s
    else if !x.topNow.isEmpty then
      putFlits p (x.topNow.headD []) (setTx p (fun e => chargeTop 1 { e with topNow := e.topNow.drop 1 }) s)
    else match prog with
      | some q =>
        let b := !x.inHeart
        if q.flits.isEmpty then pieceFlit p b q s
        else if waiting && !held && decide (room ≥ 1 + need) then
          setTx p (chargeTop 1) (endPiece p b q false true s)
        else if b && heartReady s p && decide (room ≥ 3) then endPiece p b q false false s
        else if room == 1 then endPiece p b q false false s
        else pieceFlit p b q s
      | none =>
        if waiting && !held && decide (room ≥ need) then startTop p s
        else if decide (room ≥ 2) && heartReady s p then startHeart p s
        else if decide (room ≥ 2) && baseReady s p then startBase p s
        else putFlits p idleFlit s
  setTx p (nextSlot per) s

/-- Put a tile's own packets into a run of idle slots that it sees, `at_` slots from its start: top note first, then base, each
in order; a piece needs three slots and ends in the last slot of the run at the latest (R73). -/
def insertRun : Nat → Nat → Nat → Nat → State → State
  | 0, _, _, _, s => s
  | f + 1, p, at_, run, s =>
    let x := txAt s p
    match x.top with
    | t :: rest =>
      let fl := topFlits t
      if fl.length ≤ run then
        let (t, s) := stampTop p at_ t s
        let fl := topFlits t
        insertRun f p (at_ + fl.length) (run - fl.length)
          (putFlits p fl.flatten (setTx p (fun e => { e with top := rest }) s))
      else s
    | [] =>
      if run < 3 then s
      else
        match (if x.baseNow.isSome then x.baseNow else (x.base.head?.map startProgress)) with
        | none => s
        | some q =>
          let s := if x.baseNow.isSome then s else setTx p (fun e => { e with base := e.base.drop 1 }) s
          let k := min q.flits.length (run - 2)
          let q' := { q with now := q.flits.take k, flits := q.flits.drop k }
          insertRun f p (at_ + 2 + k) (run - 2 - k) (endPiece p true q' q'.flits.isEmpty false s)

end Sys2Proof.Machine
end

