-- ==== Sys2Proof/Machine/Enumerate.lean ====
section
/-! DEFINITION. Enumeration of the rings (spec/01_roles_and_wall_topology.md, R26 to R33, R480). -/

namespace Sys2Proof.Machine

/-- Take the oldest delivered item that `want` accepts out of the inbox. -/
def takeInbox (want : Delivered → Bool) (s : State) : Option (Delivered × State) :=
  match s.pkt.inbox.find? want with
  | none => none
  | some d => some (d, { s with pkt := { s.pkt with inbox := s.pkt.inbox.eraseP want } })

/-- A delivered top-note packet of type `typ`. -/
def isTop (typ : Nat) (d : Delivered) : Bool := hClass d.hdr == 0 && hType d.hdr == typ

/-- A delivered base message of type `typ`. -/
def isBase (typ : Nat) (d : Delivered) : Bool := hClass d.hdr == 2 && hType d.hdr == typ

/-- Whether this sender is M0 of its pair (R20). -/
def isM0 (s : State) : Bool := fld s F.CASCADE_ID_member == 0

/-- The tie link is ACTIVE (R26). -/
def tieActive (s : State) : Bool := portActive s 7

/-- Bytes 12–15 of an enumeration packet (R480). -/
def enumBytes (round value : Nat) (reassign reversed bit0 : Bool) (b15 : Nat) : List Byte :=
  [BitVec.ofNat 8 round, BitVec.ofNat 8 value,
   BitVec.ofNat 8 (b2n reassign * 128 + b2n reversed * 64 + b2n bit0), BitVec.ofNat 8 b15]

/-- Queue a sender's enumeration packet, if the port is ACTIVE (R26). -/
def sendEnum (p typ : Nat) (spec : List Byte) (s : State) : State :=
  if portActive s p then sendTopOwn p typ 0xFF spec [] s else s

/-- Enumeration state of ring port `n`. -/
def ringAt (s : State) (n : Nat) : EnumRing := s.enumr.rings.getD n {}

/-- Change the enumeration state of ring port `n`. -/
def setRing (n : Nat) (f : EnumRing → EnumRing) (s : State) : State :=
  { s with enumr := { s.enumr with rings := updAt f s.enumr.rings n } }

/-- Run a round on ring port `n` under a number: an older one is abandoned, and the count goes out (R26, R27, R29). -/
def runRound (n round : Nat) (reassign : Bool) (s : State) : State :=
  let e := fldAt s F.TOPO_RING_len_expected n
  let s := setInst F.TOPO_RING_done n (BitVec.ofNat 32 (e * 2 ^ 24 + round % 256 * 2 ^ 8 + 2)) s
  let s := setRing n (fun _ => { reassign := reassign }) s
  sendEnum n (if isM0 s then 0x08 else 0x09) (enumBytes round 0 reassign false false 0) s

/-- A round under this member's own next number, which one counter gives to all its ports (DESIGN CHOICE, log 154). -/
def startRound (n : Nat) (reassign : Bool) (s : State) : State × Nat :=
  let r := (s.enumr.nextRound + 1) % 256
  (runRound n r reassign { s with enumr := { s.enumr with nextRound := r } }, r)

/-- A trigger at this member (R26): M0, or a member without a tie link, starts a round; M1 asks M0. -/
def enumTrigger (n : Nat) (reassign : Bool) (s : State) : State :=
  if !isSender s || n > 6 then s
  else if tieActive s then
    if isM0 s then
      let (s, r) := startRound n reassign s
      sendEnum 7 0x08 (enumBytes r 0 reassign false false n) s
    else sendEnum 7 0x08 (enumBytes 0 0 reassign false false (128 + n)) s
  else (startRound n reassign s).1

/-- A member receives a start or a request over the tie link (R26). -/
def enumTie (s : State) : State :=
  match takeInbox (fun d => d.port == 7 && isTop 0x08 d) s with
  | none => s
  | some (d, s) =>
    let b := hSpec d.hdr 3
    let n := b % 8
    let re := bitOf (hSpec d.hdr 2) 7
    if n > 6 then s
    else if bitOf b 7 then (if isM0 s then enumTrigger n re s else s)
    else runRound n (hSpec d.hdr 0) re s

/-- What a tile holds of the round of a confirmed packet: a differing round number starts afresh (R29). -/
def tileRound (h : List Byte) (s : State) : State :=
  let r := hSpec h 0
  let s := if s.enumr.tile.accepted == some r then s
    else { s with enumr := { s.enumr with tile := { accepted := some r } } }
  let t := s.enumr.tile
  let s := { s with enumr := { s.enumr with tile := { t with reassign := bitOf (hSpec h 2) 7 } } }
  let s := setFld F.TOPO_TILE_LOC_round r s
  let s := setFld F.TOPO_TILE_LOC_pair (hPair h) s
  setFld F.TOPO_TILE_LOC_ring_port (hRingPort h) s

/-- A tile takes an ENUM_CW (`ccw` false) or ENUM_CCW from its inbox: it counts, forwards on the other port, and records its
position or its reversal (R27, R28). -/
def enumCountTile (ccw : Bool) (s : State) : State :=
  match takeInbox (isTop (if ccw then 0x09 else 0x08)) s with
  | none => s
  | some (d, s) =>
    let s := tileRound d.hdr s
    let right := enumRight d.port d.hdr
    let count := enumCount d.hdr
    let wasRev := s.enumr.tile.reversed
    let s := if d.forwarded then s else forwardTo s d.port (enumForward d.hdr count (wasRev || !right))
    let t := s.enumr.tile
    if right then
      { s with enumr := { s.enumr with tile :=
        if ccw then { t with b := some count } else { t with a := some count } } }
    else
      let s := { s with enumr := { s.enumr with tile := { t with reversed := true } } }
      when (!wasRev) (raise Src.ENUM_REVERSED) s

/-- The candidate address and the derived bit (R29). With candidate 00h the spec assigns no derived bit: the model clears it
(DESIGN CHOICE, log 158). -/
def enumCandidate (t : EnumTile) : Nat × Bool :=
  let expected (l : Option (Nat × Bool)) : Option Nat := match l with
    | some (n, true) => some n
    | _ => none
  let byLength : Nat × Bool :=
    match t.b, (expected t.lenCw).orElse (fun _ => expected t.lenCcw) with
    | some b, some n => if b ≤ n && n + 1 - b ≤ 254 && 1 ≤ n + 1 - b then (n + 1 - b, true) else (0, false)
    | _, _ => (0, false)
  if t.reversed then (0, false)
  else match t.a with
    | some a => if a ≤ 254 then (a, false) else byLength
    | none => byLength

/-- The decision of a tile at a confirmed ENUM_LEN (R29, R30, R31). -/
def enumDecide (s : State) : State :=
  let t := s.enumr.tile
  let (cand, der) := enumCandidate t
  let keep := flag s F.TOPO_TILE_held && cand != tileAddress s && !t.reassign
  let s := if keep then s
    else setFlag F.TOPO_TILE_held (cand != 0) (setFld F.TOPO_TILE_address cand s)
  let s := setFlag F.TOPO_TILE_derived der s
  let n1 := t.lenCw.map Prod.fst
  let n2 := t.lenCcw.map Prod.fst
  let cons := match t.a, t.b, n1, n2 with
    | some a, some b, some x, some y => x == y && a + b == x + 1 && !der
    | _, _, _, _ => false
  let s := setFlag F.TOPO_TILE_consistent cons s
  let s := setFld F.TOPO_TILE_pos_b (t.b.getD 0) (setFlag F.TOPO_TILE_reversed t.reversed s)
  let s := if keep && !t.mismatchRaised then
      raise Src.ENUM_MISMATCH { s with enumr := { s.enumr with tile := { t with mismatchRaised := true } } }
    else s
  syncDry s

/-- A tile takes an ENUM_LEN from its inbox (R29). -/
def enumLenAtTile (s : State) : State :=
  match takeInbox (isTop 0x0A) s with
  | none => s
  | some (d, s) =>
    let s := tileRound d.hdr s
    let n := hSpec d.hdr 1
    let v := some (n, bitOf (hSpec d.hdr 2) 0)
    let t := s.enumr.tile
    let s := { s with enumr := { s.enumr with tile := if d.port == 0 then { t with lenCw := v } else { t with lenCcw := v } } }
    enumDecide (setFld F.TOPO_TILE_ring_len n s)

/-- A round is done when the own ENUM_LEN has gone and the partner's has come; lengths that disagree are a mismatch
(R31). -/
def finishRound (n : Nat) (s : State) : State :=
  match (ringAt s n).lenSent, (ringAt s n).partnerLen with
  | some a, some b =>
    let s := setFlagAt F.TOPO_RING_running n false (setFlagAt F.TOPO_RING_done n true s)
    if a != b then raise Src.ENUM_MISMATCH (setFlagAt F.TOPO_RING_mismatch n true s) else s
  | _, _ => s

/-- Send this sender's ENUM_LEN of the round on ring port `n` (R27, R480). -/
def sendLen (n value : Nat) (expected : Bool) (s : State) : State :=
  let r := ringAt s n
  let s := setRing n (fun x => { x with lenSent := some value }) s
  sendEnum n 0x0A (enumBytes (fldAt s F.TOPO_RING_round n) value r.reassign r.reversedSeen expected 0) s

/-- Whether a packet from ring port `n` belongs to the round this sender runs there (R480). -/
def ofRound (s : State) (n : Nat) (d : Delivered) : Bool :=
  flagAt s F.TOPO_RING_running n && hSpec d.hdr 0 == fldAt s F.TOPO_RING_round n

/-- A sender receives the far end's count (R27, R31). -/
def enumCountAtSender (s : State) : State :=
  match takeInbox (fun d => d.port != 7 && isTop (if isM0 s then 0x09 else 0x08) d) s with
  | none => s
  | some (d, s) =>
    let n := d.port
    if !ofRound s n d || (ringAt s n).lenSeen then s
    else
      let c := hSpec d.hdr 1
      let rev := bitOf (hSpec d.hdr 2) 6
      let s := setFldAt F.TOPO_RING_len_seen n c s
      let s := setRing n (fun x => { x with lenSeen := true, reversedSeen := rev }) s
      let s := when rev (setFlagAt F.TOPO_RING_mismatch n true) s
      let s := when (c == 255) (fun st => raise Src.RING_OVER_LENGTH (setFlagAt F.TOPO_RING_over_length n true st)) s
      let s := if (ringAt s n).lenSent.isNone then sendLen n c false s else s
      finishRound n s

/-- A sender receives its partner's ENUM_LEN (R31). -/
def enumLenAtSender (s : State) : State :=
  match takeInbox (fun d => d.port != 7 && isTop 0x0A d) s with
  | none => s
  | some (d, s) =>
    let n := d.port
    if !ofRound s n d then s
    else
      let s := when (bitOf (hSpec d.hdr 2) 6) (setFlagAt F.TOPO_RING_mismatch n true) s
      finishRound n (setRing n (fun x => { x with partnerLen := some (hSpec d.hdr 1) }) s)

/-- 1 ms after the start with no count returned: ENUM_LEN of kind expected, and the ring is broken (R27, R31). -/
def enumCountLate (n : Nat) (s : State) : State :=
  if isSender s && flagAt s F.TOPO_RING_running n && !(ringAt s n).lenSeen && (ringAt s n).lenSent.isNone then
    let s := sendLen n (fldAt s F.TOPO_RING_len_expected n) true s
    finishRound n (raise Src.RING_BROKEN (setFlagAt F.TOPO_RING_broken n true s))
  else s

/-- 2 ms after the start with no ENUM_LEN from the partner: the round is done (R31). -/
def enumDoneLate (n : Nat) (s : State) : State :=
  if isSender s && flagAt s F.TOPO_RING_running n && (ringAt s n).partnerLen.isNone && (ringAt s n).lenSent.isSome then
    setFlagAt F.TOPO_RING_running n false (setFlagAt F.TOPO_RING_done n true s)
  else s

/-! ### Rows of the opcode table -/

/-- ENUM_TIE_RECEIVE (R26). -/
def execEnumTieReceive (s : State) : Host.Outcome State Fault Refusal :=
  .next (if isSender s && domainOn s 11 then enumTie s else s)

/-- ENUM_CW_TILE (R27). -/
def execEnumCwTile (s : State) : Host.Outcome State Fault Refusal :=
  .next (if isTile s && domainOn s 11 then enumCountTile false s else s)

/-- ENUM_CCW_TILE (R27). -/
def execEnumCcwTile (s : State) : Host.Outcome State Fault Refusal :=
  .next (if isTile s && domainOn s 11 then enumCountTile true s else s)

/-- ENUM_LEN_TILE (R29). -/
def execEnumLenTile (s : State) : Host.Outcome State Fault Refusal :=
  .next (if isTile s && domainOn s 11 then enumLenAtTile s else s)

/-- ENUM_COUNT_SENDER (R27). -/
def execEnumCountSender (s : State) : Host.Outcome State Fault Refusal :=
  .next (if isSender s && domainOn s 11 then enumCountAtSender s else s)

/-- ENUM_LEN_SENDER (R31). -/
def execEnumLenSender (s : State) : Host.Outcome State Fault Refusal :=
  .next (if isSender s && domainOn s 11 then enumLenAtSender s else s)

/-- ENUM_COUNT_TIMEOUT (R31). -/
def execEnumCountTimeout (port : Nat) (s : State) : Host.Outcome State Fault Refusal :=
  .next (whenOn 11 (enumCountLate port) s)

/-- ENUM_DONE_TIMEOUT (R31). -/
def execEnumDoneTimeout (port : Nat) (s : State) : Host.Outcome State Fault Refusal :=
  .next (whenOn 11 (enumDoneLate port) s)

end Sys2Proof.Machine
end

