-- ==== Sys2Proof/Machine/Coushlink.lean ====
section
/-! DEFINITION. Coushlink lanes and ports: placement, training, markers, timing, electrical idle and wake, and the lane
counters (spec/02_coushlink_lanes.md, R36 to R60, R478; placement R16, R17). -/

namespace Sys2Proof.Machine

/-! ### Leaving ACTIVE -/

/-- The link delay filter of a port restarts; TIME_LINK_n.valid clears, which raises TIME_LINK_INVALID (R302). -/
def restartLinkFilter (p : Nat) (s : State) : State :=
  let s := setPort p (fun q => { q with delays := [], rejects := 0 }) s
  if flagAt s F.TIME_LINK_valid p then raise Src.TIME_LINK_INVALID (setFlagAt F.TIME_LINK_valid p false s) else s

/-- A tile's ingress port has left ACTIVE: the packet it was receiving is cut, and the egress of its direction moves to local
timing, marks UPSTREAM_LOST, and goes on in its own marker period (R51). A sender's port only cuts its packet (R77). -/
def upstreamLoss (p : Nat) (s : State) : State :=
  if isTile s then
    let e := otherPort p
    let s := cutPacket p s
    let s := setFlagAt F.PORT_CFG_timing_local e true s
    let s := setPort e (fun q => { q with
      upstreamGone := true, fwdResync := false, resyncLeft := 0, phasePending := false, moveAfterLock := false,
      tx := { q.tx with slot := q.tx.period.length } }) s
    raise Src.LANE_UPSTREAM_LOST s
  else cutPacket p s

/-- The tie link has failed: a snapshot in transfer is discarded (R359), and the tie path is no longer alive (R351). -/
def tieLost (s : State) : State :=
  let s := setFlag F.RED_STAT_snap_busy false { s with red := { s.red with snapOut := none, snapIn := none } }
  if flag s F.RED_STAT_tie_ok then raise Src.RED_DEGRADED (setFlag F.RED_STAT_tie_ok false s) else s

/-- What follows when a port that was ACTIVE no longer is: the flag clears, LANE_DOWN is raised except for electrical idle
(R59), the ingress is lost (R51), the link filter restarts (R302), and the tie path dies with port 7 (R351). -/
def portLeft (p : Nat) (idle : Bool) (s : State) : State :=
  let s := setFlagAt F.PORT_CFG_active p false (setFlagAt F.PORT_CFG_upstream_lost p false s)
  let s := when (!idle) (raise Src.LANE_DOWN) s
  let s := upstreamLoss p s
  let s := restartLinkFilter p s
  if isSender s && p == 7 then tieLost s else s

/-- Set a lane's training state and forget what the former state had learnt. -/
def laneEnter (l state : Nat) (s : State) : State :=
  let s := setFldAt F.LANE_STAT_state l state s
  setLane l (fun x => { x with
    goodRun := 0, badRun := 0, markerSeen := false, partnerActive := false, partnerReady := false,
    eidle := .none, answer := .none, burst := false, resyncWindow := 0 }) s

/-- The place of a lane in its port, which it sends as its lane_index (R41, R46). -/
def laneIndex (s : State) (p l : Nat) : Nat := ((portLanes s p).takeWhile (· != l)).length

/-- A lane sends a training frame (R46): its coefficient request and its receiver's readiness are its receiver's own. A lane in
DETECT, CDR or EQUALISE sends frames without a break (R45); the record shows one on each entry and one after each frame
received. -/
def sendTraining (l : Nat) (s : State) : State :=
  match lanePort s l with
  | none => s
  | some p =>
    let (k, s) := freshIdx s
    let w := trainingControl (Config.coefRequest k % 8) (laneAt s l).response (Config.receiverReady k) (laneIndex s p l)
      (portAt s p).widthEff
    let lv := trainingLevels w (Config.prbsStart k)
    emit (.training l (if flagAt s F.LANE_CTRL_tx_invert l then lv.map (fun z => -z) else lv))
      (setLane l (fun x => { x with control := w }) s)

/-- Send one lane to DETECT; an entry from ACTIVE or WAKE counts in LANE_RETRAIN (R45, R58). -/
def laneDetect (l : Nat) (s : State) : State :=
  let st := laneState s l
  let s := when (st == 7 || st == 9) (incFldAt F.LANE_RETRAIN_count l) s
  let s := setFlagAt F.LANE_STAT_cdr_lock l false (setFlagAt F.LANE_STAT_block_lock l false s)
  sendTraining l (laneEnter l 1 s)

/-- Send one lane to DISABLED. -/
def laneDisable (l : Nat) (s : State) : State :=
  laneEnter l 0 (setFlagAt F.LANE_STAT_cdr_lock l false (setFlagAt F.LANE_STAT_block_lock l false s))

/-- Whether the lanes of another running port overlap `ls` (R16). -/
def overlaps (s : State) (p : Nat) (ls : List Nat) : Bool :=
  (List.range 8).any (fun q => q != p && (portAt s q).running && (portLanes s q).any (fun l => ls.contains l))

/-- A port's enable or width takes effect: the width in force becomes PORT_CFG_n.width, the placement is judged, and the
port's lanes go to DETECT, or stay DISABLED with LANE_PLACEMENT raised (R16, R17, R47). -/
def portTakeEffect (p : Nat) (s : State) : State :=
  let w := fldAt s F.PORT_CFG_width p
  match placement s.board.role p w with
  | some ls =>
    if overlaps s p ls then
      raise Src.LANE_PLACEMENT (setFlagAt F.PORT_CFG_placement_err p true (setPort p (fun q => { q with running := false }) s))
    else
      let s := setPort p (fun q => { q with widthEff := w, running := true }) s
      let s := setFlagAt F.PORT_CFG_placement_err p false (setFlagAt F.PORT_CFG_width_mismatch p false s)
      forEach ls laneDetect s
  | none =>
    raise Src.LANE_PLACEMENT (setFlagAt F.PORT_CFG_placement_err p true (setPort p (fun q => { q with running := false }) s))

/-- A port whose lanes are all in DETECT takes the width written (R47). -/
def portRetrained (p : Nat) (s : State) : State :=
  let ls := portLanes s p
  if (portAt s p).running && ls.all (fun l => laneState s l == 1)
      && fldAt s F.PORT_CFG_width p != (portAt s p).widthEff then
    portTakeEffect p (forEach ls laneDisable s)
  else s

/-- Send a whole port to DETECT: an ACTIVE port leaves ACTIVE, and the width written takes effect (R45, R47, R48). -/
def portDetect (p : Nat) (s : State) : State :=
  if !(portAt s p).running then s
  else
    let s := if portActive s p then portLeft p false s else s
    portRetrained p (setFlagAt F.PORT_CFG_width_mismatch p false (forEach (portLanes s p) laneDetect s))

/-- One lane goes to DETECT on its own. -/
def laneRetrained (l : Nat) (s : State) : State :=
  let s := laneDetect l s
  match lanePort s l with
  | some p => portRetrained p s
  | none => s

/-- Send the port of a lane to DETECT. -/
def lanePortDetect (l : Nat) (s : State) : State :=
  match lanePort s l with
  | some p => portDetect p s
  | none => s

/-- The enabled port that its placement keeps DISABLED and to which a lane belongs by the width written, or as its first lane
where that width has no placement (R16, R47). -/
def waitingPort (s : State) (l : Nat) : Option Nat :=
  (List.range 8).find? (fun p => flagAt s F.PORT_CFG_enable p && !(portAt s p).running &&
    ((placement s.board.role p (fldAt s F.PORT_CFG_width p)).orElse (fun _ => placement s.board.role p 0)).any
      (fun ls => ls.contains l))

/-- LANE_CTRL_nn.retrain (R47): the lane's port goes to DETECT, and one held DISABLED by its placement has that judged again. -/
def laneRetrain (l : Nat) (s : State) : State :=
  match lanePort s l, waitingPort s l with
  | some p, _ => portDetect p s
  | none, some p => portTakeEffect p s
  | none, none => s

/-- A failed training attempt: attempts counts it, LANE_TRAIN_FAIL is raised at the eighth in a row, and from then on 10 ms
pass between attempts (R45). -/
def failAttempt (l : Nat) (s : State) : State :=
  let s := incFldAt F.LANE_STAT_attempts l s
  let n := fldAt s F.LANE_STAT_attempts l
  let s := when (n == 8) (raise Src.LANE_TRAIN_FAIL) s
  setLane l (fun x => { x with hold := decide (n ≥ 8) }) s

/-! ### Writes of PORT_CFG and LANE_CTRL -/

/-- PORT_CFG_n.enable takes a value (R16, R45): a legal port goes to DETECT; a disabled one stops. -/
def portEnable (p : Nat) (on : Bool) (s : State) : State :=
  let was := flagAt s F.PORT_CFG_enable p
  let s := setFlagAt F.PORT_CFG_enable p on s
  if on && !was then
    let s := when (isTile s && !portActive s (otherPort p)) (setFlagAt F.PORT_CFG_timing_local p true) s
    portTakeEffect p s
  else if !on && was then
    let s := if portActive s p then portLeft p false s else s
    let s := when (portAt s p).running (forEach (portLanes s p) laneDisable) s
    let s := setFlagAt F.PORT_CFG_placement_err p false (setFlagAt F.PORT_CFG_width_mismatch p false s)
    setPort p (fun q => { q with
      running := false, upstreamGone := false, resyncLeft := 0, phasePending := false, moveAfterLock := false }) s
  else s

/-- PORT_CFG_n.width takes a value: it is kept; a port in NEGOTIATE with a width mismatch goes to DETECT at once (R47). -/
def portWidth (p w : Nat) (s : State) : State :=
  let s := setFldAt F.PORT_CFG_width p w s
  if flagAt s F.PORT_CFG_width_mismatch p && (portAt s p).running then portDetect p s else s

/-- Clear the five counters of a lane (R58). -/
def laneClearCounts (l : Nat) (s : State) : State :=
  setFldAt F.LANE_CSYM_count l 0 (setFldAt F.LANE_CBLK_count l 0 (setFldAt F.LANE_UBLK_count l 0
    (setFldAt F.LANE_LLOSS_count l 0 (setFldAt F.LANE_RETRAIN_count l 0 s))))

/-- A request for electrical idle on an ACTIVE lane takes effect once it is set on every lane of the port: their next markers
carry it. No packet crosses a marker period, so none is then in progress (R56, R68). -/
def eidleAsk (l : Nat) (s : State) : State :=
  let s := setFlagAt F.LANE_CTRL_eidle_req l true s
  match lanePort s l with
  | none => s
  | some p =>
    let ls := portLanes s p
    if ls.all (fun k => flagAt s F.LANE_CTRL_eidle_req k && laneState s k == 7) then
      forEach ls (fun k st => setLane k (fun x => { x with eidle := if x.eidle == .none then .asked else x.eidle }) st) s
    else s

/-- Start a wake burst on a lane in EIDLE (R57). -/
def startBurst (l : Nat) (s : State) : State :=
  emit (.burst l) (setLane l (fun x => { x with burst := true }) s)

/-- Withdraw a lane's request unless its partner has agreed to it (R56). -/
def withdrawReq (l : Nat) (s : State) : State :=
  setLane l (fun x => { x with eidle := if x.eidle == .acked then .acked else .none }) s

/-- A write of eidle_req = 0: withdraws a request still unanswered, on every lane of the port, or wakes the lane from EIDLE. A
lane whose partner has agreed enters EIDLE and then wakes (R56, R57). -/
def eidleStop (l : Nat) (s : State) : State :=
  let s := setFlagAt F.LANE_CTRL_eidle_req l false s
  if laneState s l == 8 then (if (laneAt s l).burst then s else startBurst l s)
  else match lanePort s l with
    | some p => forEach (portLanes s p) withdrawReq s
    | none => withdrawReq l s

/-! ### Training steps (R45, R46) -/

/-- Signal present for 1 µs in DETECT. -/
def signalPresent (l : Nat) (s : State) : State :=
  if laneState s l == 1 && !(laneAt s l).hold then sendTraining l (laneEnter l 2 s) else s

/-- The CDR locks: in CDR the lane moves on; in WAKE it stays and locks (R45, R57). -/
def cdrLocks (l : Nat) (s : State) : State :=
  if laneState s l == 2 then sendTraining l (setFlagAt F.LANE_STAT_cdr_lock l true (laneEnter l 3 s))
  else if laneState s l == 9 then setFlagAt F.LANE_STAT_cdr_lock l true s
  else s

/-- One step of a tap, answered with updated, at minimum or at maximum (R46). -/
def moveTap (k : Nat) (up : Bool) (v : Int) : Int × Nat :=
  let v' := if up then v + 1 else v - 1
  if v' > Config.tapMax k then (v, 3) else if v' < Config.tapMin k then (v, 2) else (v', 1)

/-- Act on the coefficient request of a training frame: the taps, and the response to send (R46). -/
def tapRequest (req : Nat) (x : Lane) : Lane :=
  match req with
  | 1 => let r := moveTap 0 true x.tapPre; { x with tapPre := r.1, response := r.2 }
  | 2 => let r := moveTap 0 false x.tapPre; { x with tapPre := r.1, response := r.2 }
  | 3 => let r := moveTap 2 true x.tapPost; { x with tapPost := r.1, response := r.2 }
  | 4 => let r := moveTap 2 false x.tapPost; { x with tapPost := r.1, response := r.2 }
  | 5 | 6 | 7 => { x with
      tapPre := Config.tapPreset (req - 4) 0, tapMain := Config.tapPreset (req - 4) 1,
      tapPost := Config.tapPreset (req - 4) 2, response := 1 }
  | _ => { x with response := 0 }

/-- A training frame's control word is received in EQUALISE, where the ends exchange coefficients (R45, R46), and this end's
next frame answers it. In near-end loopback the lane receives the frame it has sent itself (R60). -/
def trainingFrame (l control : Nat) (s : State) : State :=
  let w := if fldAt s F.LANE_CTRL_loopback l == 1 then (laneAt s l).control else control
  if laneState s l == 3 then
    sendTraining l (setLane l (fun x => { tapRequest (bitsOf w 31 28) x with
      responseSeen := bitsOf w 27 24, partnerReady := bitOf w 23, widthSeen := bitsOf w 20 19 })
      (setFldAt F.LANE_STAT_lane_index l (bitsOf w 22 21) s))
  else s

/-- Both ends report ready (R45). -/
def bothReady (l : Nat) (s : State) : State :=
  if laneState s l == 3 && (laneAt s l).partnerReady then laneEnter l 4 s else s

/-- The timeout of a training state (R45): back to DETECT, with an attempt counted; in DESKEW the port fails. -/
def trainingLate (l : Nat) (s : State) : State :=
  let st := laneState s l
  if st == 2 || st == 3 || st == 4 then failAttempt l (laneRetrained l s)
  else if st == 5 then
    match lanePort s l with
    | none => s
    | some p => portRetrained p (raise Src.LANE_DESKEW_FAIL (setFlagAt F.PORT_CFG_deskew_fail p true
        (forEach (portLanes s p) laneDetect s)))
  else s

/-- The 10 ms retry interval ends (R45). -/
def trainingRetry (l : Nat) (s : State) : State := setLane l (fun x => { x with hold := false }) s

/-! ### Markers (R41, R44, R51, R52, R56) -/

/-- Whether this end permits its lanes to sleep: a tile while its target is a sleep state, a sender by ring_grant (R401). DESIGN
CHOICE (log 159): a sender grants no electrical idle on the tie link, for which the spec gives no grant. -/
def sleepGranted (s : State) (p : Nat) : Bool :=
  if isTile s then decide (2 ≤ fld s F.PWR_CTRL_target ∧ fld s F.PWR_CTRL_target ≤ 4)
  else decide (p < 7) && bitOf (fld s F.PWR_CTRL_ring_grant) p

/-- A lane enters EIDLE by handshake; the port is no longer ACTIVE. One whose request has been withdrawn after EIDLE_ACK wakes at
once (R56). -/
def enterEidle (l : Nat) (s : State) : State :=
  let wakes := (laneAt s l).eidle == .acked && !flagAt s F.LANE_CTRL_eidle_req l
  let wasActive := (lanePort s l).any (fun p => portActive s p)
  let s := match lanePort s l with
    | some p => if wasActive then portLeft p true s else s
    | none => s
  let s := setFlagAt F.LANE_STAT_cdr_lock l false (setFlagAt F.LANE_STAT_block_lock l false s)
  when wakes (startBurst l) (setLane l (fun x => { x with byHandshake := true }) (laneEnter l 8 s))

/-- An electrical idle request lapses (R56). -/
def eidleLapse (l : Nat) (s : State) : State :=
  let s := setLane l (fun x => { x with eidle := .none }) s
  let s := setFlagAt F.LANE_CTRL_eidle_req l false (setFlagAt F.LANE_STAT_eidle_refused l true s)
  raise Src.LANE_EIDLE_REFUSED s

/-- Act on the state field of a good marker received by an ACTIVE lane (R45, R51, R52, R56, R59). -/
def markerState (l st : Nat) (s : State) : State :=
  let x := laneAt s l
  let p := (lanePort s l).getD 0
  let s := when (st != 6) (setFlagAt F.PORT_CFG_upstream_lost p false) s
  let s := when (isTile s) (setPort (otherPort p) (fun q => { q with fwdResync := st == 7 })) s
  let s := when (st != 0 && st != 5 && decide (st < 8)) (setLane l (fun y => { y with partnerActive := true })) s
  match st with
  | 1 => setLane l (fun y => { y with answer := .none }) s
  | 2 =>
    let a : EidleAnswer := match x.answer with
      | .ack => .ack
      | .ackSent => .leaving
      | .leaving => .leaving
      | _ => if sleepGranted s p then .ack else .nak
    setLane l (fun y => { y with answer := a }) s
  | 3 => if x.eidle == .sent then setLane l (fun y => { y with eidle := .acked }) s else s
  | 4 => if x.eidle == .sent then eidleLapse l s else s
  | 6 => raise Src.LANE_UPSTREAM_LOST (setFlagAt F.PORT_CFG_upstream_lost p true s)
  | 7 => setLane l (fun y => { y with resyncWindow := 8 }) s
  | 0 | 5 => if x.partnerActive then portDetect p s else s
  | _ => s

/-- Record the fields of a good marker (R41, R49). -/
def markerFields (l : Nat) (b : List Byte) (s : State) : State :=
  let s := setFldAt F.LANE_STAT_lane_index l (byteAt b 6 / 64) s
  setLane l (fun x => { x with markerSeen := true, widthSeen := byteAt b 6 / 16 % 4, stateSeen := byteAt b 6 % 16 }) s

/-- Block lock is acquired: BLOCK_LOCK moves to DESKEW; an ACTIVE lane in a resync has regained it, and the tile's egress is
to move its block phase at the next marker boundary (R44, R52). -/
def lockAcquired (l : Nat) (s : State) : State :=
  let s := setFlagAt F.LANE_STAT_block_lock l true s
  if laneState s l == 4 then
    setFldAt F.LANE_STAT_state l 5 s
  else if laneState s l == 7 && isTile s then
    match lanePort s l with
    | some p => setPort (otherPort p) (fun q => { q with phasePending := q.moveAfterLock, moveAfterLock := false }) s
    | none => s
  else s

/-- Block lock is lost: counted; outside a resync an ACTIVE lane takes its port to DETECT, and in one the tile's egress is to
move its block phase once the lane locks again (R44, R45, R52). -/
def lockLost (l : Nat) (s : State) : State :=
  let s := incFldAt F.LANE_LLOSS_count l (setFlagAt F.LANE_STAT_block_lock l false s)
  if laneState s l != 7 then s
  else if (laneAt s l).resyncWindow == 0 then lanePortDetect l s
  else match lanePort s l with
    | some p => when (isTile s) (setPort (otherPort p) (fun q => { q with moveAfterLock := true })) s
    | none => s

/-- The decoder's outcome for a block is counted (R43), and LANE_CORR_HIGH raised once the corrected symbols of the interval
exceed the limit (R59). -/
def countBlock (l : Nat) (d : Decoded) (s : State) : State :=
  let s := when (decide (d.corrected > 0)) (fun t =>
    addFldAt F.LANE_CSYM_count l d.corrected (incFldAt F.LANE_CBLK_count l t)) s
  let s := when d.bad (fun t => raise Src.LANE_UNCORRECTABLE (incFldAt F.LANE_UBLK_count l t)) s
  let s := setLane l (fun x => { x with corrSum := x.corrSum + d.corrected }) s
  if decide ((laneAt s l).corrSum > fld s F.LANE_ERR_THR_csym_limit) && !(laneAt s l).corrRaised then
    raise Src.LANE_CORR_HIGH (setLane l (fun x => { x with corrRaised := true }) s)
  else s

/-- State field that a lane's own markers carry on port `p` (R41, R51, R52, R56, R57). -/
def egressMarkerState (s : State) (p l : Nat) : Nat :=
  let x := portAt s p
  let y := laneAt s l
  let st := laneState s l
  if st == 9 then 5
  else if st != 7 then 0
  else if y.eidle != .none then 2
  else match y.answer with
    | .ack | .ackSent | .leaving => 3
    | .nak => 4
    | .none => if decide (x.resyncLeft > 0) || x.fwdResync then 7 else if x.upstreamGone then 6 else 1

/-- Whether a port sends blocks: its lanes are past EQUALISE and not in EIDLE (R45). -/
def portSends (s : State) (p : Nat) : Bool :=
  let ls := portLanes s p
  (portAt s p).running && !ls.isEmpty && ls.all (fun l => decide (4 ≤ laneState s l) && laneState s l != 8)

/-- A lane sends a block: inverted under tx_invert, looped back to its own receiver under near-end loopback, and left out
under far-end loopback, in which the lane repeats what it has received (R49, R60). -/
def sendBlock (l : Nat) (marker : Bool) (syms : List Nat) (s : State) : State :=
  let out := if flagAt s F.LANE_CTRL_tx_invert l then invertSyms syms else syms
  match fldAt s F.LANE_CTRL_loopback l with
  | 2 => s
  | 1 => emit (.block l out) (setLane l (fun x => { x with looped := x.looped ++ [(marker, out)] }) s)
  | _ => emit (.block l out) s

/-- The data blocks of lane `j` of a port of width `w`, cut from the flits of a marker period: each block period takes five
flits a lane, flit j on lane j mod W, and what is missing of the last one is idle flits (R42). -/
def laneBlocks (w j : Nat) (flits : List (List Byte)) : List (List (List Byte)) :=
  (chunks (5 * w) flits).map (fun g => (List.range 5).map (fun i => g.getD (w * i + j) idleFlit))

/-- The data blocks of the marker period that ends leave on every lane of a port, each lane's scrambled from all ones on
(R39, R42). -/
def sendData (p : Nat) (s : State) : State :=
  let ls := portLanes s p
  let flits := (txAt s p).period
  let s := setTx p (fun e => { e with period := [], slot := 0 }) s
  forEach ls (fun l st =>
    ((laneBlocks ls.length (laneIndex st p l) flits).foldl (fun (a : Nat × State) g =>
      let (syms, sc) := dataSyms a.1 g
      (sc, sendBlock l false syms a.2)) (0x7FFFFFFF, st)).2) s

/-- What a lane's electrical idle handshake does with a marker that has been sent (R56): a request is out, an answer is given,
and a lane that both ends agree on leaves. -/
def eidleMarkerSent (l : Nat) (s : State) : State :=
  let x := laneAt s l
  if laneState s l == 7 && (x.eidle == .acked || x.answer == .leaving) then enterEidle l s
  else setLane l (fun y => { y with
    eidle := if y.eidle == .asked then .sent else y.eidle
    answer := if y.answer == .ack then .ackSent else y.answer }) s

/-- A port sends the marker blocks that start a marker period, in the same block period on all its lanes (R40, R41); one of the
RESYNC markers owed has gone (R52). -/
def sendMarker (p : Nat) (s : State) : State :=
  let ls := portLanes s p
  let x := portAt s p
  let timed := isTile s && !flagAt s F.PORT_CFG_timing_local p
  let sent := forEach ls (fun l st =>
    sendBlock l true (markerSyms (markerPayload (laneIndex s p l) x.widthEff (egressMarkerState s p l) (isSender s) p timed
      x.markers)) st) s
  forEach ls eidleMarkerSent
    (setPort p (fun q => { q with markers := (q.markers + 1) % 2 ^ 16, resyncLeft := q.resyncLeft - 1 }) sent)

/-- A tile's egress reaches the marker boundary of the ingress it is timed from (R40, R50). -/
def egressBoundary (e : Nat) (s : State) : State :=
  if isTile s && portSends s e && !flagAt s F.PORT_CFG_timing_local e then sendMarker e (sendData e s) else s

/-- The block that a lane's receiver gets: what arrives, or in near-end loopback the oldest of its own blocks of that kind
(R60). -/
def receivedBlock (l : Nat) (marker : Bool) (symbols : List Nat) (s : State) : Option (List Nat) × State :=
  if fldAt s F.LANE_CTRL_loopback l == 1 then
    (((laneAt s l).looped.find? (fun b => b.1 == marker)).map Prod.snd,
      setLane l (fun x => { x with looped := x.looped.eraseP (fun b => b.1 == marker) }) s)
  else (some symbols, s)

/-- In far-end loopback a lane sends a received block again, after correction (R60). -/
def loopFar (l : Nat) (d : Decoded) (s : State) : State :=
  if fldAt s F.LANE_CTRL_loopback l == 2 then
    let out := rsEncode (d.syms.take 128)
    emit (.block l (if flagAt s F.LANE_CTRL_tx_invert l then invertSyms out else out)) s
  else s

/-- A marker block arrives on a lane that runs blocks (R40 to R44): decoded, corrected, counted toward lock or its loss, and
acted on. Each starts a marker period: the scrambler reloads, the port's packets start afresh (R39, R68), and a tile's egress
timed from the port sends its own marker. -/
def markerBlock (l : Nat) (symbols : List Nat) (s : State) : State :=
  let st := laneState s l
  if st < 4 || st == 8 then s
  else
    let inv := flagAt s F.LANE_STAT_rx_inverted l
    let syms := if inv then invertSyms symbols else symbols
    let d := rsDecode syms
    let d' := rsDecode (invertSyms syms)
    let flip := !goodMarker d && goodMarker d'
    let s := when flip (setFlagAt F.LANE_STAT_rx_inverted l (!inv)) s
    let d := if flip then d' else d
    let s := loopFar l d (countBlock l d s)
    let s := setLane l (fun x => { x with scrambler := 0x7FFFFFFF, resyncWindow := x.resyncWindow - 1 }) s
    let first := (lanePort s l).filter (fun p => (flitOrder s p).headD 99 == l && portActive s p)
    let s := match first with
      | some p => markerBoundary p s
      | none => s
    let s :=
      if goodMarker d then
        let b := markerBytes d.syms
        let s := setLane l (fun x => { x with goodRun := x.goodRun + 1, badRun := 0 }) s
        let s := when (decide ((laneAt s l).goodRun ≥ 4) && !flagAt s F.LANE_STAT_block_lock l) (lockAcquired l) s
        let s := markerFields l b s
        if st == 7 then markerState l (byteAt b 6 % 16) s else s
      else
        let s := setLane l (fun x => { x with goodRun := 0, badRun := x.badRun + 1 }) s
        if (laneAt s l).badRun ≥ 4 && flagAt s F.LANE_STAT_block_lock l then lockLost l s else s
    match first with
    | some p => egressBoundary (otherPort p) s
    | none => s

/-- MARKER_BLOCK_RECEIVE: a marker block reaches the receiver of a lane. -/
def markerReceived (l : Nat) (symbols : List Nat) (s : State) : State :=
  match receivedBlock l true symbols s with
  | (some b, s) => markerBlock l b s
  | (none, s) => s

/-! ### From DESKEW to ACTIVE (R45, R47, R52, R54) -/

/-- The lanes of a port have aligned on markers with a skew in thousandths of a link-word cycle: deskew_add is the skew
rounded up; above 4 cycles deskew fails (R45, R54). -/
def deskewDone (p skew : Nat) (s : State) : State :=
  let ls := portLanes s p
  if (portAt s p).running && !ls.isEmpty && ls.all (fun l => laneState s l == 5) then
    let add := if ls.length == 1 then 0 else cdiv skew 1000
    if add ≤ 4 then
      let s := setFlagAt F.PORT_CFG_deskew_fail p false (setFldAt F.PORT_CFG_deskew_add p add s)
      forEach ls (fun l st => setFldAt F.LANE_STAT_state l 6 st) s
    else portRetrained p
      (raise Src.LANE_DESKEW_FAIL (setFlagAt F.PORT_CFG_deskew_fail p true (forEach ls laneDetect s)))
  else s

/-- An ingress has reached ACTIVE while its egress runs locally: an egress that is ACTIVE sends two RESYNC markers and moves
at the next marker boundary; one that is not moves at once (R52). -/
def resyncStart (p : Nat) (s : State) : State :=
  let e := otherPort p
  if isTile s && portActive s p && flagAt s F.PORT_CFG_timing_local e then
    if portActive s e then
      setPort e (fun q => { q with resyncLeft := 2, phasePending := true, upstreamGone := false }) s
    else setFlagAt F.PORT_CFG_timing_local e false (setPort e (fun q => { q with upstreamGone := false }) s)
  else s

/-- Close a port's marker period with idle flits, and send its blocks. -/
def closePeriod (p : Nat) (s : State) : State :=
  let left := periodSlots s p - (txAt s p).period.length
  sendData p (putFlits p ((List.replicate left idleFlit).flatten) s)

/-- All lanes of a port have reached ACTIVE: LANE_UP, and a ring port of a sender triggers enumeration (R26, R59). -/
def portUp (p : Nat) (s : State) : State :=
  let s := setFlagAt F.PORT_CFG_active p true (clearFlits p s)
  let s := setTx p (fun e => { e with slot := 0, period := [] }) s
  let s := raise Src.LANE_UP s
  if isSender s && p < 7 then enumTrigger p false s else s

/-- The marker fields of a port's lanes are compared (R45, R47): equal widths make it ACTIVE; unequal ones leave it in
NEGOTIATE with width_mismatch set. DESIGN CHOICE (log 160): the width is the field on which the ends must agree; the spec does not
say what role, port and lane_index are compared with. -/
def negotiate (p : Nat) (s : State) : State :=
  let ls := portLanes s p
  if (portAt s p).running && !ls.isEmpty &&
      ls.all (fun l => laneState s l == 6 && (laneAt s l).markerSeen) then
    if ls.all (fun l => (laneAt s l).widthSeen == (portAt s p).widthEff) then
      let s := setFlagAt F.PORT_CFG_width_mismatch p false s
      let s := forEach ls (fun l st => setFldAt F.LANE_STAT_attempts l 0
        (setLane l (fun x => { x with partnerActive := false, hold := false }) (setFldAt F.LANE_STAT_state l 7 st))) s
      portUp p s
    else if flagAt s F.PORT_CFG_width_mismatch p then s
    else raise Src.LANE_WIDTH_MISMATCH (setFlagAt F.PORT_CFG_width_mismatch p true s)
  else s

/-- Every 10 ms the ports with a width mismatch compare widths again (R47). -/
def widthRecheck (s : State) : State :=
  forEach (List.range 8) (fun p st => if flagAt st F.PORT_CFG_width_mismatch p then negotiate p st else st) s

/-- No valid marker for 50 µs in NEGOTIATE (R45). -/
def negotiateLate (l : Nat) (s : State) : State :=
  if laneState s l == 6 then
    match lanePort s l with
    | some p => portDetect p s
    | none => s
  else s

/-- The egress moves its block phase to loop timing at the marker boundary after the two RESYNC markers; those of them that it
has not sent yet go out first, each at the start of a marker period (R52). -/
def phaseMove (e : Nat) (s : State) : State :=
  if isTile s && (portAt s e).phasePending then
    let s := forEach (List.range (portAt s e).resyncLeft) (fun _ st => sendMarker e (closePeriod e st)) s
    let s := setPort e (fun q => { q with phasePending := false, resyncLeft := 0 }) (closePeriod e s)
    raise Src.LANE_RESYNC (setFlagAt F.PORT_CFG_timing_local e false s)
  else s

/-- Block lock is not regained within 8 marker periods of a resync (R52). -/
def resyncLate (l : Nat) (s : State) : State :=
  if laneState s l == 7 && !flagAt s F.LANE_STAT_block_lock l then lanePortDetect l s else s

/-- An ACTIVE lane loses its signal or its CDR lock (R478). -/
def signalLost (l : Nat) (s : State) : State :=
  if laneState s l == 7 then lanePortDetect l s else s

/-- A port's markers drift outside the deskew buffer (R54). DESIGN CHOICE (log 161): PORT_CFG.deskew_fail sets for it too. -/
def deskewDrift (p : Nat) (s : State) : State :=
  if portActive s p && decide ((portLanes s p).length > 1) then
    portDetect p (raise Src.LANE_DESKEW_FAIL (setFlagAt F.PORT_CFG_deskew_fail p true s))
  else s

/-! ### Wake (R57) -/

/-- A wake burst is detected on a lane: a lane in EIDLE answers with its own; an outstanding request is cancelled. -/
def burstSeen (l : Nat) (s : State) : State :=
  if laneState s l == 8 then
    let s := raise Src.LANE_WAKE s
    if (laneAt s l).burst then s else startBurst l s
  else if laneState s l == 7 && ((laneAt s l).eidle == .asked || (laneAt s l).eidle == .sent) then
    raise Src.LANE_WAKE (setFlagAt F.LANE_CTRL_eidle_req l false (setLane l (fun x => { x with eidle := .none }) s))
  else s

/-- A lane's own 2.0 µs burst ends: it sends WAKE blocks with the stored taps (R57). DESIGN CHOICE (log 162): the lane enters
WAKE here, from where its 25 µs run, and eidle_req clears on either end. -/
def burstEnd (l : Nat) (s : State) : State :=
  if laneState s l == 8 && (laneAt s l).burst then
    setFlagAt F.LANE_CTRL_eidle_req l false (setLane l (fun x => { x with byHandshake := false }) (laneEnter l 9 s))
  else s

/-- Fast retrain completes on a lane with block lock; the port is up again with its last lane (R57). DESIGN CHOICE (log 163): a
ring port that is up again so triggers an enumeration round as one that has trained in full (R26). -/
def wakeDone (l : Nat) (s : State) : State :=
  if laneState s l == 9 && flagAt s F.LANE_STAT_block_lock l then
    let s := setFldAt F.LANE_STAT_attempts l 0 (setFldAt F.LANE_STAT_state l 7 s)
    match lanePort s l with
    | some p => if portActive s p then portUp p s else s
    | none => s
  else s

/-- The lane is not ACTIVE 25 µs after it entered WAKE (R57). -/
def wakeLate (l : Nat) (s : State) : State :=
  if laneState s l == 9 then laneRetrained l s else s

/-! ### Data blocks (R39, R42, R43) and the corrected-symbol interval (R59) -/

/-- Receive stamp of slot `k` of a data block that passes the stage 9 tap of R53 now, as the ring timestamp point of R296: the
counter, back by the 58 cycles of the stages before and by deskew_add, and on by the slot's place in the block. -/
def slotStamp (s : State) (p k : Nat) : Nat :=
  let back := (58 + fldAt s F.PORT_CFG_deskew_add p) * 256 * nsUnit / 225
  let w := (portLanes s p).length
  let skew := if w ≤ 1 then 0 else Config.stampSkew p w
  ((s.time.counter : Int) + (k * 1024 * nsUnit / 225 : Nat) - (back : Nat) - skew).toNat

/-- A data block arrives on a lane with block lock: decoded, counted and descrambled; on an ACTIVE lane it is cut into its five
flits, which are flagged when the block is uncorrectable. In lost framing the flits go on unchanged and are not taken (R68). -/
def dataBlock (l : Nat) (symbols : List Nat) (s : State) : State :=
  let st := laneState s l
  if st < 5 || st == 8 || !flagAt s F.LANE_STAT_block_lock l then s
  else
    let syms := if flagAt s F.LANE_STAT_rx_inverted l then invertSyms symbols else symbols
    let d := rsDecode syms
    let s := loopFar l d (countBlock l d s)
    let (bits, sc) := descramble (laneAt s l).scrambler (symBits (d.syms.take 128))
    let s := setLane l (fun x => { x with scrambler := sc }) s
    match lanePort s l with
    | some p =>
      let cut := chunks 32 (bitsBytes bits)
      let flits := (List.zip (List.range 5) cut).map (fun x =>
        { bytes := x.2, bad := d.bad, stamp := slotStamp s p x.1 : Flit })
      if laneState s l != 7 then s
      else if (portAt s p).framingLost then forwardTo s p (flits.flatMap Flit.bytes)
      else setLane l (fun x => { x with rx := x.rx ++ flits }) s
    | none => s

/-- DATA_BLOCK_DECODE: a data block reaches the receiver of a lane. -/
def dataReceived (l : Nat) (symbols : List Nat) (s : State) : State :=
  match receivedBlock l false symbols s with
  | (some b, s) => dataBlock l b s
  | (none, s) => s

/-! ### Flit slots of an egress (R40, R42, R51, R71, R73) -/

/-- The flit slot of a sender's port that is due: the first of a marker period comes after its marker blocks, and after the last
one the period's data blocks leave. A port that is not ACTIVE yet sends idle flits (R45, R71). -/
def senderSlot (p : Nat) (s : State) : State :=
  let s := when ((txAt s p).slot == 0) (sendMarker p) s
  if !portSends s p then s
  else
    let s := if portActive s p then fillSlot p s else setTx p (nextSlot (periodSlots s p)) (putFlits p idleFlit s)
    if (txAt s p).slot == 0 then sendData p s else s

/-- Idle flits at the front of what a tile holds from the ingress of egress `e` (R73). -/
def idleRun (s : State) (e : Nat) : Nat := ((portStream s (otherPort e)).takeWhile (fun f => f.bytes == idleFlit)).length

/-- A run of slots of an egress that no ingress fills: it starts with the marker blocks where a marker period starts, the tile's
own packets take their slots, the rest are idle, and the run ends with the period at the latest (R51, R52). -/
def ownRun (e run : Nat) (s : State) : State :=
  let s := when ((txAt s e).slot == 0) (sendMarker e) s
  if !portSends s e then s
  else
    let per := periodSlots s e
    let n := min run (per - (txAt s e).slot)
    let had := (txAt s e).period.length
    let s := if portActive s e then insertRun n e 0 n s else s
    let used := (txAt s e).period.length - had
    let s := putFlits e ((List.replicate (n - used) idleFlit).flatten) s
    let s := setTx e (fun x => { x with slot := x.slot + n }) s
    if decide (per ≤ (txAt s e).slot) then sendData e s else s

/-- The tile's own packets take the place of idle flits that the egress would have carried on (R55, R73): of a run of `run` idle
slots in the present block period, as far as the tile holds them. -/
def replaceRun (e run : Nat) (s : State) : State :=
  let n := min (min run (5 * max 1 (portLanes s e).length)) (idleRun s e)
  let had := (txAt s e).period.length
  let s := insertRun n e 0 n s
  popFlits (otherPort e) ((txAt s e).period.length - had) s

/-- TILE_SLOT_INSERT: `run` idle slots of a tile's egress are visible. They are slots of its ingress while it carries that on with
block lock, and slots of its own otherwise (R51, R52, R73). -/
def tileRun (e run : Nat) (s : State) : State :=
  let locked := (portLanes s (otherPort e)).all (fun l => flagAt s F.LANE_STAT_block_lock l)
  if carriesOn s e && portActive s (otherPort e) && locked then replaceRun e run s else ownRun e run s

/-- The 1 s interval ends on every lane at once (R59). -/
def corrEnd (s : State) : State :=
  forEach (List.range 16) (fun l st => setLane l (fun x => { x with corrSum := 0, corrRaised := false }) st) s

/-! ### Rows of the opcode table that are events of the lanes -/

/-- SIGNAL_DETECT (R45). -/
def execSignalDetect (lane : Nat) (s : State) : Host.Outcome State Fault Refusal := .next (whenOn 11 (signalPresent lane) s)
/-- CDR_LOCK (R45). -/
def execCdrLock (lane : Nat) (s : State) : Host.Outcome State Fault Refusal := .next (whenOn 11 (cdrLocks lane) s)
/-- TRAINING_FRAME_RECEIVE (R46). -/
def execTrainingFrameReceive (lane control : Nat) (s : State) : Host.Outcome State Fault Refusal :=
  .next (whenOn 11 (trainingFrame lane control) s)
/-- EQUALISE_READY (R45). -/
def execEqualiseReady (lane : Nat) (s : State) : Host.Outcome State Fault Refusal := .next (whenOn 11 (bothReady lane) s)
/-- TRAINING_TIMEOUT (R45). -/
def execTrainingTimeout (lane : Nat) (s : State) : Host.Outcome State Fault Refusal := .next (whenOn 11 (trainingLate lane) s)
/-- TRAINING_RETRY (R45). -/
def execTrainingRetry (lane : Nat) (s : State) : Host.Outcome State Fault Refusal := .next (whenOn 11 (trainingRetry lane) s)
/-- MARKER_BLOCK_RECEIVE (R41). -/
def execMarkerBlockReceive (lane : Nat) (symbols : List Nat) (s : State) : Host.Outcome State Fault Refusal :=
  .next (whenOn 11 (markerReceived lane symbols) s)
/-- DESKEW_COMPLETE (R54). -/
def execDeskewComplete (port skew : Nat) (s : State) : Host.Outcome State Fault Refusal :=
  .next (whenOn 11 (deskewDone port skew) s)
/-- DESKEW_DRIFT_FAIL (R54). -/
def execDeskewDriftFail (port : Nat) (s : State) : Host.Outcome State Fault Refusal := .next (whenOn 11 (deskewDrift port) s)
/-- NEGOTIATE_COMPLETE (R45). -/
def execNegotiateComplete (port : Nat) (s : State) : Host.Outcome State Fault Refusal := .next (whenOn 11 (negotiate port) s)
/-- WIDTH_RECHECK (R47). -/
def execWidthRecheck (s : State) : Host.Outcome State Fault Refusal := .next (whenOn 11 widthRecheck s)
/-- NEGOTIATE_MARKER_TIMEOUT (R45). -/
def execNegotiateMarkerTimeout (lane : Nat) (s : State) : Host.Outcome State Fault Refusal :=
  .next (whenOn 11 (negotiateLate lane) s)
/-- LANE_SIGNAL_LOSS (R478). -/
def execLaneSignalLoss (lane : Nat) (s : State) : Host.Outcome State Fault Refusal := .next (whenOn 11 (signalLost lane) s)
/-- RESYNC_START (R52). -/
def execResyncStart (port : Nat) (s : State) : Host.Outcome State Fault Refusal := .next (whenOn 11 (resyncStart port) s)
/-- EGRESS_PHASE_MOVE (R52). -/
def execEgressPhaseMove (port : Nat) (s : State) : Host.Outcome State Fault Refusal := .next (whenOn 11 (phaseMove port) s)
/-- RESYNC_TIMEOUT (R52). -/
def execResyncTimeout (lane : Nat) (s : State) : Host.Outcome State Fault Refusal := .next (whenOn 11 (resyncLate lane) s)
/-- EIDLE_TIMEOUT (R56). -/
def execEidleTimeout (lane : Nat) (s : State) : Host.Outcome State Fault Refusal :=
  .next (if domainOn s 11 && (laneAt s lane).eidle == .sent then eidleLapse lane s else s)
/-- WAKE_BURST_END (R57). -/
def execWakeBurstEnd (lane : Nat) (s : State) : Host.Outcome State Fault Refusal := .next (whenOn 11 (burstEnd lane) s)
/-- WAKE_COMPLETE (R57). -/
def execWakeComplete (lane : Nat) (s : State) : Host.Outcome State Fault Refusal := .next (whenOn 11 (wakeDone lane) s)
/-- WAKE_TIMEOUT (R57). -/
def execWakeTimeout (lane : Nat) (s : State) : Host.Outcome State Fault Refusal := .next (whenOn 11 (wakeLate lane) s)
/-- DATA_BLOCK_DECODE (R43). -/
def execDataBlockDecode (lane : Nat) (symbols : List Nat) (s : State) : Host.Outcome State Fault Refusal :=
  .next (whenOn 11 (dataReceived lane symbols) s)
/-- SENDER_SLOT_FILL (R71): the next flit slot of a sender's port. -/
def execSenderSlotFill (port : Nat) (s : State) : Host.Outcome State Fault Refusal :=
  .next (if isSender s && domainOn s 11 && portSends s port then senderSlot port s else s)
/-- TILE_SLOT_INSERT (R73): a run of `run` idle slots is visible on a tile's egress port. -/
def execTileSlotInsert (port run : Nat) (s : State) : Host.Outcome State Fault Refusal :=
  .next (if isTile s && domainOn s 11 && portSends s port then tileRun port run s else s)
/-- CORR_INTERVAL_END (R59). -/
def execCorrIntervalEnd (s : State) : Host.Outcome State Fault Refusal := .next (whenOn 11 corrEnd s)

end Sys2Proof.Machine
end

