-- ==== Sys2Proof/Machine/LoopSlots.lean ====
section
/-! DEFINITION. The control engine's slots: descriptors, admission, triggers and the ready queue
(spec/12_control_engine.md, R274 to R279, R284, R286). Evaluations stand in ControlLoop.lean. -/

namespace Sys2Proof.Machine

/-- Word `w` of slot `n` (R278). -/
def ceWord (s : State) (n w : Nat) : Nat := fldAt s F.CE_DESC_word (32 * n + w)

/-- Set word `w` of slot `n`. -/
def setCeWord (n w v : Nat) (s : State) : State := setFldAt F.CE_DESC_word (32 * n + w) v s

/-- Whether slot `n` is enabled. -/
def ceEnabled (s : State) (n : Nat) : Bool := bitOf (ceWord s n 0) 31

/-- interval of slot `n`. -/
def ceInterval (s : State) (n : Nat) : Nat := ceWord s n 1 % 2 ^ 24

/-- prio of slot `n`. -/
def cePrio (s : State) (n : Nat) : Nat := bitsOf (ceWord s n 0) 27 26

/-- Whether the engine runs. -/
def ceRuns (s : State) : Bool := domainOn s 4 && flag s F.CE_CTRL_enable

/-- Change the engine's own state. -/
def setCe (f : CeState → CeState) (s : State) : State := { s with ce := f s.ce }

/-- Whether slot `n` has an entry in the ready queue. -/
def ceQueued (s : State) (n : Nat) : Bool := s.ce.queue.any (fun e => e.slot == n)

/-! ### Admission (R277) -/

/-- Assigned block sample codes (R279). -/
def blockSampleCode (c : Nat) : Bool := c == 0 || c == 1 || (decide (0x10 ≤ c) && decide (c ≤ 0x1B))

/-- Whether words 0–4 hold a reserved code (R277 reason 1h): trigger, input and output kinds, ADC channels and block sample
codes. -/
def ceReservedCode (s : State) (n : Nat) : Bool :=
  let tk := bitsOf (ceWord s n 0) 23 20
  let ts := bitsOf (ceWord s n 0) 19 14
  let ik := bitsOf (ceWord s n 2) 31 28
  let is := bitsOf (ceWord s n 2) 27 22
  let ok := bitsOf (ceWord s n 4) 31 28
  decide (tk > 3) || (tk == 1 && decide (ts > 7)) || (tk == 3 && !blockSampleCode ts) ||
    decide (ik > 2) || (ik == 0 && decide (is > 7)) || (ik == 2 && !blockSampleCode is) || decide (ok > 3)

/-- Sum of 25 / interval over slots, as a fraction. -/
def ceLoadSum (s : State) (l : List Nat) : Nat × Nat :=
  l.foldl (fun (p : Nat × Nat) n =>
    let i := max 1 (ceInterval s n)
    (p.1 * i + 25 * p.2, p.2 * i)) (0, 1)

/-- Enabled slots. -/
def ceActive (s : State) : List Nat := (List.range 64).filter (ceEnabled s)

/-- The sink of a slot as kind and place, if it has one. -/
def ceSink (s : State) (n : Nat) : Option (Nat × Nat) :=
  match bitsOf (ceWord s n 4) 31 28 with
  | 1 => some (1, 0)
  | 2 => some (2, bitsOf (ceWord s n 4) 27 22)
  | 3 => some (3, ceWord s n 5)
  | _ => none

/-- The first check of R277 that slot `n` fails, 0 for none; the slot counts as enabled. -/
def ceReason (s : State) (n : Nat) : Nat :=
  let l := n :: (ceActive s).filter (fun k => k != n)
  let sum := ceLoadSum s l
  if ceInterval s n < 25 || ceReservedCode s n then 1
  else if sum.1 > sum.2 then 2
  else if (l.filter (fun k => cePrio s k ≤ 2)).length > 37 then 3
  else if (ceSink s n).isSome && (l.drop 1).any (fun k => ceSink s k == ceSink s n) then 4
  else 0

/-- CE_LOAD follows the enabled slots (R290). -/
def ceShowLoad (s : State) : State :=
  let l := ceActive s
  let sum := ceLoadSum s l
  setFld F.CE_LOAD_load (cdiv (sum.1 * 1024) sum.2)
    (setFld F.CE_LOAD_rt_slots ((l.filter (fun k => cePrio s k ≤ 2)).length) s)

/-- Drop a slot's queued entry. -/
def ceUnqueue (n : Nat) (s : State) : State :=
  setFlagAt F.CE_SLOT_STAT_queued n false
    (setCe (fun c => { c with queue := c.queue.filter (fun e => e.slot != n) }) s)

/-- The bits of word `k` (of all slots' words) that a write selects take its value. -/
def cePutBits (k : Nat) (mask v : Word) (s : State) : State :=
  setFldAt F.CE_DESC_word k ((BitVec.ofNat 32 (fldAt s F.CE_DESC_word k) &&& ~~~ mask) ||| (v &&& mask)).toNat s

/-- Held writes land, oldest first, each in the bits it wrote (R286 item 2). -/
def ceLandHeld (n : Nat) (s : State) : State :=
  let mine := s.ce.held.filter (fun x => x.1 / 32 == n)
  setCe (fun c => { c with held := c.held.filter (fun x => x.1 / 32 != n) })
    (forEach mine (fun x st => cePutBits x.1 x.2.1 x.2.2 st) s)

/-- Disable slot `n` (R286 item 5): the queued entry is dropped; held writes land. -/
def ceDisable (n : Nat) (s : State) : State :=
  let s := ceLandHeld n s
  ceShowLoad (setFlagAt F.CE_SLOT_STAT_admitted n false (ceUnqueue n (setCeWord n 0 (ceWord s n 0 % 2 ^ 31) s)))

/-- trig_kind of slot `n` (R274). -/
def ceKind (s : State) (n : Nat) : Nat := bitsOf (ceWord s n 0) 23 20

/-- The last end of slot `n`'s interval at or before now, its intervals counted from enable (R274), which was at `from_`. -/
def cePeriodBefore (s : State) (n from_ : Nat) : Nat :=
  let i := 5 * max 1 (ceInterval s n)
  from_ + (s.time.mono - from_) / i * i

/-- Intervals of slot `n` that end while no trigger can be taken are not made up for: the next is the first to come (R274). -/
def ceSkipPeriods (n : Nat) (s : State) : State :=
  if ceKind s n == 0 then
    let t := cePeriodBefore s n (smGet (fun _ => 0) s.ce.since n)
    setCe (fun c => { c with lastTrig := smPut (fun _ => none) c.lastTrig n (some t) }) s
  else s

/-- A slot is enabled: its intervals count from now, no trigger has been accepted, and last_mode takes mode (R274, R285). -/
def ceStart (n : Nat) (s : State) : State :=
  let s := setCeWord n 19 (withBits (ceWord s n 19) 31 31 (bitsOf (ceWord s n 0) 30 30)) s
  let s := setFlagAt F.CE_SLOT_STAT_out_limit n false s
  let s := setCe (fun c => { c with
    since := smPut (fun _ => 0) c.since n s.time.mono
    lastTrig := smPut (fun _ => none) c.lastTrig n none
    atLimit := smPut (fun _ => 0) c.atLimit n 0
    refused := c.refused.filter (fun k => k != n) }) s
  ceSkipPeriods n s

/-- Word 0 of slot `n` has been written over `old`; `asks` tells whether the write put a 1 into enable, which is what admission
answers to (R277). A refused slot reads enable = 0; one that is cleared is disabled (R286); trig_kind 0h put into a slot that
runs counts its intervals from enable (R274). -/
def ceWord0Written (n old : Nat) (asks : Bool) (s : State) : State :=
  let was := bitOf old 31
  if !ceEnabled s n then (if was then ceDisable n s else s)
  else
    let r := if asks then ceReason s n else 0
    if r != 0 then raise Src.CE_CONFIG (setFldAt F.CE_SLOT_STAT_reason n r (ceDisable n s))
    else
      let s := when asks (fun st => setFldAt F.CE_SLOT_STAT_reason n 0 (setFlagAt F.CE_SLOT_STAT_admitted n true st)) s
      let s := if !was then ceStart n s else if bitsOf old 23 20 != 0 then ceSkipPeriods n s else s
      ceShowLoad s

/-! ### Triggers (R274, R275) -/

/-- A slot's raw input sample (R279): an ADC code × 8, a slot's last output, or a block sample's last value. What a reserved
code that a write puts into a running slot reads is not stated (log 187). -/
def ceInput (s : State) (n : Nat) : Int :=
  let src := bitsOf (ceWord s n 2) 27 22
  let open_ := sgn 16 (Config.reservedSample s.time.mono)
  match bitsOf (ceWord s n 2) 31 28 with
  | 0 => if src < 8 then sgn 16 (fldAt s F.CE_ADC_DATA_code src * 8) else open_
  | 1 => sgn 16 (ceWord s src 16)
  | 2 => if blockSampleCode src then smGet (fun _ => 0) s.ce.samples src else open_
  | _ => open_

/-- An overrun of slot `n` (R275). -/
def ceOverrun (n : Nat) (s : State) : State := raise Src.CE_OVERRUN (incFldAt F.CE_SLOT_STAT_overruns n s)

/-- Put a sample of slot `n` into the ready queue, or replace the one that waits (R274, R275). -/
def ceEnqueue (n : Nat) (v : Int) (s : State) : State :=
  if ceQueued s n then
    ceOverrun n (setCe (fun c => { c with queue := c.queue.map (fun e => if e.slot == n then { e with sample := some v } else e) }) s)
  else
    setFlagAt F.CE_SLOT_STAT_queued n true
      (setCe (fun c => { c with queue := c.queue ++ [{ slot := n, sample := some v, step := false }] }) s)

/-- A trigger of slot `n` of kind 1h–3h: one that comes too soon is discarded, else its sample is latched (R275). One
engine cycle is 5 half nanoseconds (R273). -/
def ceTrigger (n : Nat) (s : State) : State :=
  let early := match smGet (fun _ => none) s.ce.lastTrig n with
    | some t => decide (s.time.mono < t + 5 * ceInterval s n)
    | none => false
  if early then ceOverrun n s
  else ceEnqueue n (ceInput s n)
    (setCe (fun c => { c with lastTrig := smPut (fun _ => none) c.lastTrig n (some s.time.mono) }) s)

/-- Every enabled slot with a trigger kind and source is triggered, in ascending slot number. -/
def ceTriggerAll (kind src : Nat) (s : State) : State :=
  if ceRuns s then
    forEach ((ceActive s).filter (fun n => bitsOf (ceWord s n 0) 23 20 == kind && bitsOf (ceWord s n 0) 19 14 == src)) ceTrigger s
  else s

/-- A block sample arrives: its code and value (R279). -/
def ceBlockSample (code : Nat) (v : Int) (s : State) : State :=
  if domainOn s 4 then
    ceTriggerAll 3 code (setCe (fun c => { c with samples := smPut (fun _ => 0) c.samples code v }) s)
  else s

/-- A periodic slot's interval expires (R274). -/
def cePeriodic (n : Nat) (s : State) : State :=
  if n < 64 && ceRuns s && ceEnabled s n && ceKind s n == 0 then
    match smGet (fun _ => none) s.ce.lastTrig n with
    | some t =>
      let due := t + 5 * ceInterval s n
      let s := elapse (due - s.time.mono) s
      ceEnqueue n (ceInput s n) (setCe (fun c => { c with lastTrig := smPut (fun _ => none) c.lastTrig n (some due) }) s)
    | none => s
  else s

/-- A nonzero step has been written in word 15 of an enabled slot: a step evaluation is queued (R284). -/
def ceStepWritten (n : Nat) (s : State) : State :=
  if !ceEnabled s n || ceWord s n 15 % 2 ^ 16 == 0 then s
  else if ceQueued s n then
    setCe (fun c => { c with queue := c.queue.map (fun e => if e.slot == n then { e with step := true } else e) }) s
  else
    setFlagAt F.CE_SLOT_STAT_queued n true
      (setCe (fun c => { c with queue := c.queue ++ [{ slot := n, sample := none, step := true }] }) s)

/-! ### Writes to a slot (R286) -/

/-- A master writes the bits of word `w` of slot `n` that the mask selects; a write to the state words of an enabled slot is
held (R286 item 2, R440). -/
def ceWrite (n w : Nat) (mask v : Word) (s : State) : State :=
  let was := ceEnabled s n
  if 16 ≤ w && w ≤ 19 && was then setCe (fun c => { c with held := c.held ++ [(32 * n + w, mask, v)] }) s
  else
    let old := ceWord s n 0
    let s := cePutBits (32 * n + w) mask v s
    if w == 0 then ceWord0Written n old (bitOf (mask &&& v).toNat 31) s
    else if w == 1 && was then ceShowLoad s
    else if w == 15 && mask.toNat % 2 ^ 16 != 0 then ceStepWritten n s
    else s

/-- CE_CTRL.enable goes to 1: the slots that ran before do so again (R274). -/
def ceResume (s : State) : State := forEach (ceActive s) ceSkipPeriods s

/-! ### The PWM stage (R287) -/

/-- PWM period in engine cycles, held to 200–1,600. -/
def pwmPeriod (s : State) : Nat := clampN 200 1600 (fld s F.CE_PWM_CFG_period)

/-- Whether the PWM stage drives its pins (R287). -/
def pwmRuns (s : State) : Bool :=
  isTile s && ceRuns s && flag s F.CE_PWM_CFG_enable && (ceActive s).any (fun n => ceSink s n == some (1, 0))

/-- On-time in engine cycles of a duty code (R287). -/
def pwmOn (s : State) (y : Int) : Nat :=
  let m := min y.toNat (fld s F.CE_PWM_CFG_dmax * 8)
  (m * pwmPeriod s * 2 + 32768) / 65536

/-- The pins go low. -/
def pwmLow (s : State) : State := setCe (fun c => { c with phaseOn := [0, 0, 0, 0] }) s

/-- The pins are low whenever the stage does not run (R287). -/
def pwmSync (s : State) : State := if pwmRuns s then s else pwmLow s

/-- The channels that convert once per period of PS_PWM_0 (R288). -/
def syncedChannels (s : State) : List Nat :=
  (List.range 8).filter (fun k => bitOf (fld s F.CE_ADC_CFG_chan_en) k && bitOf (fld s F.CE_ADC_CFG_sync) k)

/-- Phase `k` starts its period with the latest delivered duty, 0 before the first; from the centre of PS_PWM_0's on-time the
synced channels convert, lowest first (R287, R288). One engine cycle is 5 half nanoseconds. -/
def pwmStart (k : Nat) (s : State) : State :=
  if !pwmRuns s then pwmLow s
  else if k > fld s F.CE_PWM_CFG_phases then s
  else
    let on := match s.ce.duty with
      | none => 0
      | some y => pwmOn s y
    let s := setCe (fun c => { c with phaseOn := updAt (fun _ => on) c.phaseOn k }) s
    if k == 0 then
      setCe (fun c => { c with adc := { c.adc with syncAt := s.time.mono + on * 5 / 2, syncLeft := syncedChannels s } }) s
    else s

/-- 64 periods have passed with no duty delivered (R287). -/
def pwmStale (s : State) : State :=
  if domainOn s 4 && flag s F.CE_PWM_CFG_enable && isTile s && flag s F.CE_CTRL_enable then
    raise Src.CE_PWM_STALE (setFlag F.CE_PWM_CFG_enable false (pwmLow (setCe (fun c => { c with duty := none }) s)))
  else s

/-- CE_CTRL.cnt_clear (R290). -/
def ceClearCounts (s : State) : State :=
  forEach (List.range 64) (fun n st => setFldAt F.CE_SLOT_STAT_overruns n 0 st) s

/-! ### Rows of the opcode table -/

/-- CE_PERIODIC_TRIGGER (R274). -/
def execCePeriodicTrigger (slot : Nat) (s : State) : Host.Outcome State Fault Refusal :=
  .next (cePeriodic slot s)

/-- PWM_PERIOD_START (R287). -/
def execPwmPeriodStart (phase : Nat) (s : State) : Host.Outcome State Fault Refusal :=
  .next (whenOn 4 (pwmStart phase) s)

/-- PWM_STALE_TIMEOUT (R287). -/
def execPwmStaleTimeout (s : State) : Host.Outcome State Fault Refusal :=
  .next (pwmStale s)

end Sys2Proof.Machine
end

