-- ==== Sys2Proof/Machine/TimeUnit.lean ====
section
/-! DEFINITION. The time unit and the event pins (spec/13_time_unit.md, R291 to R317). -/

namespace Sys2Proof.Machine

/-- Change the time unit's own state. -/
def setTime (f : TimeState → TimeState) (s : State) : State := { s with time := f s.time }

/-- Change the wall timing's own state. -/
def setWt (f : WtState → WtState) (s : State) : State := { s with wt := f s.wt }

/-! ### Event outputs (R308 to R310, R338) -/

/-- Pin `n` as armed. -/
def outPin (s : State) (n : Nat) : OutPin := s.time.outs.getD n {}

/-- Change pin `n`. -/
def setOut (n : Nat) (f : OutPin → OutPin) (s : State) : State := setTime (fun t => { t with outs := updAt f t.outs n }) s

/-- The level of pin `n` is shown in `active` and on the pin (R308). -/
def outLevel (n : Nat) (s : State) : State :=
  let act := !(outPin s n).stops.isEmpty
  emit (.pin n (act != flagAt s F.EVT_OUT_CTRL_invert n)) (setFlagAt F.EVT_OUT_CTRL_active n act s)

/-- Start of edge `k` of a pin's series, in counter units. -/
def edgeOf (p : OutPin) (k : Nat) : Nat := p.start + k * p.period

/-- A one-shot is late (R309, R310): it is not sent. -/
def outLate (n : Nat) (s : State) : State :=
  raise Src.EVT_OUT_LATE (setFlagAt F.EVT_OUT_CTRL_late n true (setOut n (fun p => { p with armed := false }) s))

/-- The number of the first edge of a series at or after `t`. -/
def firstEdge (p : OutPin) (t : Nat) : Nat := if t ≤ p.start then 0 else cdiv (t - p.start) p.period

/-- Start of the pulse of pin `n` in grid F in wall mode, in counter units (R338). -/
def wallPulse (s : State) (n f : Nat) : Nat :=
  let v := fldAt s F.WT_EVT_view n
  let block := tGrid s f + frameSpan s f (v * scanS s f) (viewCount s f * scanS s f)
  ((block : Int) + sgn 22 (fldAt s F.WT_EVT_lead n)).toNat * nsUnit

/-- The first grid at or after the present one in which pin `n` pulses later than `after` (R338). -/
def nextWallPulse (s : State) (n after : Nat) : Option Nat :=
  let m := fldAt s F.WT_EVT_div n + 1
  let ph := fldAt s F.WT_EVT_phase n % m
  let f0 := fCur s - 1
  (((List.range (m + 3)).map (fun i => f0 + i)).filter (fun f => frameTag s f % m == ph)).findSome?
    (fun f => let t := wallPulse s n f; if t > after then some t else none)

/-- EVT_OUT_CTRL_n has been written: with enable it arms the pin, sampling the timing registers; a pulse in progress
completes its width (R309). -/
def outWritten (n : Nat) (s : State) : State :=
  let s := setOut n (fun p => { p with armed := false }) s
  let s :=
    if !flagAt s F.EVT_OUT_CTRL_enable n then s
    else
      let mode := fldAt s F.EVT_OUT_CTRL_mode n
      let sec := fldAt s F.EVT_OUT_CTRL_sec_hi n * 2 ^ 32 + fldAt s F.EVT_OUT_SEC_value n
      let start := (sec * 10 ^ 9 + fldAt s F.EVT_OUT_NS_value n) * nsUnit
      let per := max (16 * nsUnit) (fldAt s F.EVT_OUT_PER_NS_value n * nsUnit + fldAt s F.EVT_OUT_PER_FRAC_value n)
      let w := fldAt s F.EVT_OUT_WIDTH_value n % 2 ^ 24 * nsUnit
      let w := if mode == 1 then min w (per - 4 * nsUnit) else w
      let now := s.time.counter
      let pin : OutPin := { outPin s n with armed := true, mode := mode, start := start, period := per, width := w, k := 0 }
      if mode == 0 then
        (if start < now + 64 * nsUnit then outLate n (setOut n (fun _ => pin) s) else setOut n (fun _ => pin) s)
      else if mode == 1 then setOut n (fun _ => { pin with k := firstEdge pin (now + 64 * nsUnit) }) s
      else if mode == 2 then setOut n (fun _ => { pin with last := now }) s
      else s
  outLevel n s

/-- A pulse of pin `n` starts at `t`: it is counted and ends after the width; a width of 0 gives none (R308). -/
def pulse (n t w : Nat) (s : State) : State :=
  if w == 0 then s
  else outLevel n (wrapFldAt F.EVT_OUT_COUNT_pulses n (setOut n (fun p => { p with stops := p.stops ++ [t + w] }) s))

/-- The edge time of an armed pin arrives (R308, R338). -/
def outPulse (n : Nat) (s : State) : State :=
  let p := outPin s n
  if !p.armed || n > 7 then s
  else if p.mode == 0 then
    pulse n p.start p.width (runTo p.start (setOut n (fun q => { q with armed := false, last := p.start }) s))
  else if p.mode == 1 then
    let t := edgeOf p p.k
    pulse n t p.width (runTo t (setOut n (fun q => { q with k := q.k + 1, last := t }) s))
  else if !recordValid (forceWord s F.WT_REC_0_rate.base).toNat (forceWord s F.WT_REC_1_offset.base).toNat
      || flag s F.TIME_STAT_estimated || !flag s F.WT_STAT_rec_valid then s
  else match nextWallPulse s n p.last with
    | none => s
    | some t =>
      let gap := frameSpan s (fCur s) (fldAt s F.WT_EVT_div n + 1) 1 * nsUnit
      pulse n t (min p.width (gap - 4 * nsUnit)) (runTo t (setOut n (fun q => { q with last := t }) s))

/-- The width of the oldest pulse of pin `n` elapses (R308). -/
def outPulseEnd (n : Nat) (s : State) : State :=
  match (outPin s n).stops with
  | [] => s
  | t :: rest => outLevel n (setOut n (fun q => { q with stops := rest }) (runTo t s))

/-- After a step or load each armed pin recomputes its next edge; a one-shot stepped over is late, and the periodic edges
passed over by a forward step are counted (R310). -/
def outStepped (forward : Bool) (s : State) : State :=
  forEach (List.range 8) (fun n st =>
    let p := outPin st n
    let now := st.time.counter
    if !p.armed then st
    else if p.mode == 0 then (if p.start ≤ now then outLate n st else st)
    else if p.mode == 1 then
      let k := firstEdge p (now + 1)
      addFldAt F.EVT_OUT_COUNT_skipped n (if forward then k - p.k else 0) (setOut n (fun q => { q with k := k }) st)
    else setOut n (fun q => { q with last := now }) st) s

/-! ### Event inputs (R311) -/

/-- Pin `n`. -/
def inPin (s : State) (n : Nat) : InPin := s.time.ins.getD n {}

/-- The queue of pin `n` as its registers show it. -/
def showIn (n : Nat) (s : State) : State :=
  let q := (inPin s n).queue
  let s := setFldAt F.EVT_IN_CFG_fill n q.length s
  match q with
  | [] =>
    setFldAt F.EVT_IN_SEC_value n 0 (setFldAt F.EVT_IN_NS_value n 0 (setInst F.EVT_IN_FRAC_valid n 0 s))
  | (t, rising) :: _ =>
    let s := setFldAt F.EVT_IN_SEC_value n (secOf t) s
    let s := setFldAt F.EVT_IN_NS_value n (nsOf t) s
    setInst F.EVT_IN_FRAC_valid n (BitVec.ofNat 32 (2 ^ 31 + b2n rising * 2 ^ 30 + fracOf t / 2 ^ 30)) s

/-- Change the queue of pin `n`. -/
def setIn (n : Nat) (f : InPin → InPin) (s : State) : State :=
  showIn n (setTime (fun t => { t with ins := updAt f t.ins n }) s)

/-- The edges that pin `n` stamps (R311). -/
def edgeWanted (s : State) (n : Nat) (rising : Bool) : Bool :=
  match fldAt s F.EVT_IN_CFG_edge n with
  | 2 => !rising
  | 3 => true
  | _ => rising

/-- An edge at pin `n` whose level has held for 4 ns, as EVT_IN_EDGE presents it at that moment: its stamp is the crossing 4 ns
before. One that comes less than 4 ns after the edge before it cannot have held, and does not count (R311; DESIGN CHOICE, log
165). -/
def inEdge (n : Nat) (rising : Bool) (s : State) : State :=
  let t := (s.time.counter - 4 * nsUnit) / 2 ^ 30 * 2 ^ 30
  let p := inPin s n
  let short := match p.held with
    | some h => decide (s.time.mono < h + 8)
    | none => false
  let close := match p.last with
    | some l => decide (t < l + 8 * nsUnit) && decide (l ≤ t)
    | none => false
  if n > 7 || short then s
  else
    let s := setTime (fun x => { x with ins := updAt (fun q => { q with held := some x.mono }) x.ins n }) s
    if !flagAt s F.EVT_IN_CFG_enable n || !edgeWanted s n rising || close then s
    else if p.queue.length ≥ 16 then
      raise Src.EVT_IN_OVERFLOW (incFldAt F.EVT_IN_CFG_overflow n (setIn n (fun q => { q with last := some t }) s))
    else
      let s' := setIn n (fun q => { q with queue := q.queue ++ [(t, rising)], last := some t }) s
      if p.queue.isEmpty then raise Src.EVT_IN_CAPTURE s' else s'

/-- The head entry of pin `n` is removed (R311). -/
def inPop (n : Nat) (s : State) : State := setIn n (fun q => { q with queue := q.queue.drop 1 }) s

/-! ### Steps, loads and adjustments (R294, R295, R336) -/

/-- The counter takes a corrected value: TIME_STEPPED, the grid (R336) and the pins (R310) follow. `size` is the step in
counter units, none for a load. -/
def retime (new : Nat) (size : Option Nat) (s : State) : State :=
  let old := s.time.counter
  let s := setWt (fun w => { w with rateWas := rateAhead s }) s
  let s := raise Src.TIME_STEPPED (setTime (fun t => { t with counter := new }) s)
  let small := match size with
    | some d => decide (d ≤ fld s F.WT_CFG_slip_ns * nsUnit)
    | none => false
  let s :=
    if small then incFld F.WT_SLIPS_slips s
    else raise Src.WT_UNSCHEDULED (setWt (fun w => { w with stepDue := true }) s)
  let s := setWt (fun w => { w with boundary := fCur s, latched := min w.latched (fCur s + 1) }) s
  outStepped (decide (old < new)) s

/-- Add a signed number of counter units to the counter, modulo its 48 bits of seconds. -/
def stepBy (d : Int) (s : State) : State :=
  retime (((s.time.counter : Int) + d) % (counterMod : Int)).toNat (some d.natAbs) s

/-- The seconds of the step registers. -/
def stepSeconds (s : State) : Nat := fld s F.TIME_STEP_SEC_HI_value % 2 ^ 16 * 2 ^ 32 + fld s F.TIME_STEP_SEC_LO_value

/-- step_go: the signed step is added (R294). -/
def timeStep (s : State) : State :=
  let ns := clampZ (-999999999) 999999999 (sgn 32 (fld s F.TIME_STEP_NS_value))
  stepBy ((sgn 48 (stepSeconds s) * 10 ^ 9 + ns) * (nsUnit : Int)) s

/-- step_load: the counter takes the value, its fraction 0 (R294). -/
def timeLoad (s : State) : State :=
  let ns := (clampZ 0 999999999 (sgn 32 (fld s F.TIME_STEP_NS_value))).toNat
  retime ((stepSeconds s * 10 ^ 9 + ns) * nsUnit) none s

/-- TIME_CTRL is written: with both triggers the load applies (R294). -/
def timeCtrlWritten (v : Word) (s : State) : State :=
  if bitOf v.toNat 1 then timeLoad s else if bitOf v.toNat 0 then timeStep s else s

/-- TIME_ADJ_CNT is written with go: delta and count are sampled and replace a running adjustment; a count of 0 runs nothing, and
a later write of either register leaves the run as it is (R294). -/
def adjustGo (s : State) : State :=
  let n := fld s F.TIME_ADJ_CNT_count
  setFlag F.TIME_STAT_adj_busy (decide (n > 0))
    (setTime (fun t => { t with adjDelta := sgn 32 (fld s F.TIME_ADJ_delta), adjCount := n }) s)

/-- The adjustment runs its count out (R294). -/
def adjustEnd (s : State) : State := if flag s F.TIME_STAT_adj_busy then runCycles (adjustLeft s) s else s

/-! ### Shadows (R293) -/

/-- The shadow of a master. -/
def shadowOf (m : Master) : Nat :=
  match m with
  | .hspi => 0 | .udp _ _ => 1 | .ring => 1 | .hk0 => 2 | .hk1 => 3 | .ce => 4

/-- A read of TIME_NOW_SEC_HI copies the counter into the reading master's shadow (R293). -/
def takeShadow (m : Master) (s : State) : State :=
  setTime (fun t => { t with shadows := updAt (fun _ => t.counter) t.shadows (shadowOf m) }) s

/-- The master's shadow. -/
def shadowAt (s : State) (m : Master) : Nat := s.time.shadows.getD (shadowOf m) 0

/-! ### Time samples (R305) -/

/-- locked clears: TIME_LOCK_LOST, and at a tile WT_STAT.holdover with WT_HOLDOVER (R305, R337). -/
def loseLock (s : State) : State :=
  let s := setTime (fun t => { t with good := 0, bad := 0 }) (setFlag F.TIME_STAT_locked false s)
  let s := raise Src.TIME_LOCK_LOST s
  if isTile s then syncTiming (raise Src.WT_HOLDOVER (setFlag F.WT_STAT_holdover true s)) else s

/-- locked sets: estimated clears, TIME_LOCKED, and holdover ends (R305, R327, R337). -/
def gainLock (s : State) : State :=
  let s := setFlag F.TIME_STAT_estimated false (setFlag F.TIME_STAT_locked true s)
  let s := raise Src.TIME_LOCKED s
  syncTiming (setWt (fun w => { w with everLocked := true, holdPast := false }) (setFlag F.WT_STAT_holdover false s))

/-- A time sample: its code in 1/16 ns, and on a tile whether it may lock (path_est 0 and time_ok 1) (R305). -/
def timeSample (o : Int) (lockable : Bool) (s : State) : State :=
  let s := setFlag F.TIME_STAT_holdover false s
  if flag s F.TIME_SERVO_CFG_auto_step && decide (o.natAbs > 16000) then
    let ns := (-o + 8) / 16
    stepBy (ns * (nsUnit : Int)) (setTime (fun t => { t with good := 0 }) s)
  else
    let inside := decide (o.natAbs ≤ fld s F.TIME_SERVO_CFG_lock_ns * 16)
    let s := setTime (fun t => { t with good := if inside && lockable then t.good + 1 else 0, bad := if inside then 0 else t.bad + 1 }) s
    let s := ceBlockSample 1 (clampZ (-32768) 32767 (o * 2)) s
    if !flag s F.TIME_STAT_locked then (if s.time.good ≥ 8 then gainLock s else s)
    else if s.time.bad ≥ 4 then loseLock s
    else s

/-- TIME_ERR has been written by a master: one time sample (R305). At a tile such a sample has no TIME_SYNC, and so no
path_est and no time_ok of its own; those of the last followed one count (DEDUCED, log 14). -/
def timeErrWritten (s : State) : State :=
  timeSample (sgn 32 (fld s F.TIME_ERR_offset)) (isSender s || (!flag s F.TIME_STAT_path_est && s.time.timeOk)) s

/-- No sample for 8 sync periods, or for 1 s on a sender: locked clears and holdover sets (R305). -/
def samplesStop (s : State) : State :=
  let s := setFlag F.TIME_STAT_holdover true s
  if flag s F.TIME_STAT_locked then loseLock s else s

/-! ### Ring time transfer (R298 to R306) -/

/-- TIME_RES as a tile shows it: each direction while its ingress port is ACTIVE. -/
def timeResWord (s : State) : Nat :=
  (if portActive s 0 then residenceCode s 0 * 2 ^ 16 else 0) + (if portActive s 1 then residenceCode s 1 else 0)

/-- A tile sends on a TIME_SYNC that it has not sent on yet (R300). -/
def forwardSync (d : Delivered) (s : State) : State :=
  if !d.forwarded then forwardTo s d.port (syncForward s d.port d.hdr d.body false) else s

/-- TIME_SYNC_FORWARD: the oldest TIME_SYNC that waits to be sent on. -/
def syncForwardNext (s : State) : State :=
  let waits (d : Delivered) : Bool := isTop 0x01 d && !d.forwarded
  match s.pkt.inbox.find? waits with
  | none => s
  | some d =>
    let s := forwardSync d s
    let rec mark : List Delivered → List Delivered
      | [] => []
      | x :: t => if waits x then { x with forwarded := true } :: t else x :: mark t
    { s with pkt := { s.pkt with inbox := mark s.pkt.inbox } }

/-- The offset of a TIME_SYNC at its receiver in counter units (R303). -/
def syncOffset (s : State) (d : Delivered) : Int :=
  let origin : Nat := (beAt d.hdr 12 6 * 10 ^ 9 + beAt d.hdr 18 4) * nsUnit + beAt d.hdr 22 2 * 2 ^ 16
  ((ringStamp d.stamp : Nat) : Int) - ((origin : Int) + sgn 64 (beAt d.body 0 8) * (2 ^ 16 : Nat) + ((linkDelay s d.port).1 : Int))

/-- The code of an offset in TIME_OFS and TIME_ERR: signed, 1/16 ns. -/
def offsetCode (o : Int) : Int := sgn 32 (fitSigned 32 (roundOpen o (2 ^ 28)))

/-- A sync period of a tile in units of 0.5 ns: sync_us, 0 counting as 125 µs (R305). -/
def syncPeriod (s : State) : Nat :=
  let us := fld s F.TIME_RING_CFG_sync_us
  (if us == 0 then 125 else us) * 2000

/-- Whether one redundancy epoch is higher than another: compared modulo 2¹⁶, equal ones by member, M0 higher (R304,
R350). -/
def epochHigher (x y : SyncDir) : Bool :=
  let d := (x.epoch + 65536 - y.epoch % 65536) % 65536
  if d == 0 then !x.member else d < 32768

/-- The direction a tile follows: 0 port A, 1 port B (R304). -/
def followDir (s : State) : Option Nat :=
  let ok (i : Nat) : Option SyncDir :=
    match s.time.dirs.getD i none with
    | some d => if s.time.mono ≤ d.at_ + 4 * syncPeriod s then some d else none
    | none => none
  let f := fld s F.TIME_SERVO_CFG_follow
  if f == 1 && (ok 0).isSome then some 0
  else if f == 2 && (ok 1).isSome then some 1
  else match ok 0, ok 1 with
    | none, none => none
    | some _, none => some 0
    | none, some _ => some 1
    | some a, some b =>
      if a.active && !b.active then some 0
      else if b.active && !a.active then some 1
      else if a.active && b.active then (if epochHigher b a then some 1 else some 0)
      else some 0

/-- Offsets of the two directions within one sync period that differ by more than agree_ns raise TIME_DIR_DISAGREE, at most
once a second (R304). -/
def checkAgree (p : Nat) (o : Int) (s : State) : State :=
  match s.time.dirs.getD (otherPort p) none with
  | none => s
  | some d =>
    let now := s.time.mono
    let recent := match s.time.disagreeAt with
      | some t => decide (now < t + 2 * 10 ^ 9)
      | none => false
    if now ≤ d.at_ + syncPeriod s && (o - d.off).natAbs > fld s F.TIME_SERVO_CFG_agree_ns * 16 && !recent then
      raise Src.TIME_DIR_DISAGREE (setTime (fun t => { t with disagreeAt := some now }) s)
    else s

/-- A tile acts on a confirmed TIME_SYNC (R303 to R305). -/
def syncAtTile (s : State) : State :=
  match takeInbox (isTop 0x01) s with
  | none => s
  | some (d, s) =>
    let s := forwardSync d s
    let p := d.port
    let fl := hSpec d.hdr 13
    let o := offsetCode (syncOffset s d)
    let est := bitOf fl 4
    let s := checkAgree p o (setFldAt F.TIME_OFS_offset p (unsgn 32 o) s)
    let dir : SyncDir := { at_ := s.time.mono, off := o, member := bitOf fl 7, active := bitOf fl 6, epoch := beAt d.hdr 26 2 }
    let s := setTime (fun t => { t with dirs := updAt (fun _ => some dir) t.dirs p }) s
    let f := followDir s
    let s := setFlag F.TIME_STAT_follow_b (f == some 1) s
    if f == some p then
      let s := setTime (fun t => { t with timeOk := bitOf fl 5 }) s
      timeSample o (!est && bitOf fl 5) (setFlag F.TIME_STAT_path_est est (setFld F.TIME_ERR_offset (unsgn 32 o) s))
    else s

/-- A sender takes its partner's TIME_SYNC at the far end of a ring, or over the tie link (R306). -/
def syncAtSender (s : State) : State :=
  match takeInbox (isTop 0x01) s with
  | none => s
  | some (d, s) =>
    let p := d.port
    let link := (linkDelay s p).1
    let s := setFldAt F.TIME_OFS_offset p (unsgn 32 (offsetCode (syncOffset s d))) s
    if p == 7 then s
    else
      let total := sgn 64 (beAt d.body 0 8) * (2 ^ 16 : Nat) + (link : Int)
      let s := setFldAt F.TIME_RING_TOT_hops p (hSpec d.hdr 12) s
      let s := setFldAt F.TIME_RING_TOT_total p (fitUnsigned 24 (roundOpen total (2 ^ 28))) s
      let s := setFldAt F.TIME_RING_HOP_hop_max p (beAt d.body 12 2) s
      setFldAt F.TIME_RING_HOP_flight p (fitUnsigned 16 (cdiv (beAt d.body 8 4 * 2 ^ 24 + link) nsUnit)) s

/-- Ring ports of the role, with the tie link. -/
def timePorts (s : State) : List Nat := if isTile s then [0, 1] else List.range 8

/-- A sender sends TIME_SYNC on every ACTIVE ring port and the tie link (R299); a solo sender sends as an active member
(R341). -/
def syncSend (s : State) : State :=
  if isSender s && fld s F.TIME_RING_CFG_sync_us != 0 then
    let active := !flag s F.RED_CFG_enable || fld s F.RED_STAT_state == 2
    let ok := flag s F.TIME_STAT_locked && !flag s F.TIME_STAT_estimated
    let fl := fld s F.CASCADE_ID_member * 128 + b2n active * 64 + b2n ok * 32
    let spec := List.replicate 12 0 ++ [0, BitVec.ofNat 8 fl] ++ beBytes 2 (fld s F.RED_EPOCH_epoch % 65536)
    forEach ((List.range 8).filter (portActive s)) (fun p st => sendTopOwn p 0x01 0xFF spec (List.replicate 28 0) st) s
  else s

/-- An ACTIVE port starts a link delay exchange (R301). -/
def delaySend (p : Nat) (s : State) : State :=
  if (timePorts s).contains p && portActive s p && fld s F.TIME_RING_CFG_p2p_us != 0 then
    let (k, s) := freshIdx s
    let id := Config.requestId k % 65536
    let s := setPort p (fun q => { q with delayReq := some (id, none) }) s
    sendTopOwn p 0x02 0xFF (beBytes 2 id) [] s
  else s

/-- The responder answers a DELAY_REQ on the same port; its receive stamp goes with the packet (R301). -/
def delayAnswer (s : State) : State :=
  match takeInbox (isTop 0x02) s with
  | none => s
  | some (d, s) =>
    let s := sendTopOwn d.port 0x03 0xFF ((d.hdr.drop 12).take 2) [] s
    setPort d.port (fun q => { q with tx := { q.tx with top :=
      q.tx.top.dropLast ++ (q.tx.top.getLast?.map (fun x => { x with due := ringStamp d.stamp })).toList } }) s

/-- A sample of port `p`'s link delay, in counter units, meets the filter (R302). -/
def filterSample (p : Nat) (v : Int) (s : State) : State :=
  let q := portAt s p
  let n := q.delays.length
  let sum : Int := q.delays.foldl (· + ·) 0
  let off := (v * n - sum).natAbs
  if n ≥ 16 && off > 2 * nsUnit * n then
    (if q.rejects + 1 ≥ 16 then restartLinkFilter p s
     else setPort p (fun x => { x with rejects := x.rejects + 1 }) s)
  else
    let l := (v :: q.delays).take 64
    let s := setPort p (fun x => { x with delays := l, rejects := 0 }) s
    let mean := roundOpen (l.foldl (· + ·) 0) (l.length * 2 ^ 24)
    let s := setFldAt F.TIME_LINK_delay p (fitUnsigned 24 mean) s
    when (decide (l.length ≥ 16)) (setFlagAt F.TIME_LINK_valid p true) s

/-- The requester takes a DELAY_RESP of its req_id within 20 µs (R301, R302). -/
def delayTake (s : State) : State :=
  match takeInbox (isTop 0x03) s with
  | none => s
  | some (d, s) =>
    match (portAt s d.port).delayReq with
    | some (id, some t1) =>
      if id != beAt d.hdr 12 2 then s
      else
        let s := setPort d.port (fun q => { q with delayReq := none }) s
        let t4 := ringStamp d.stamp
        if t4 > t1 + 20000 * nsUnit then s
        else
          let turn := sgn 64 (beAt d.hdr 16 8) * (2 ^ 16 : Nat)
          filterSample d.port (((t4 : Int) - (t1 : Int) - turn) / 2) s
    | _ => s

/-! ### Time across sleep (R312 to R314) -/

/-- TIME_AON_MEAS (R314): 0 until the running source has given 32,768 edges, then a measured average, which is free and stays the
same from one edge to the next. Edges are counted at the source's nominal period (DESIGN CHOICE, log 19). -/
def aonMeasured (s : State) : Nat :=
  let edges := s.time.mono * 2 ^ 15 / (if flag s F.TIME_SLEEP_src_now then 0x7A120000 else 0x77359400)
  if edges < 2 ^ 15 then 0 else Config.aonMeasured edges

/-- The always-on edge E0 after PD_03 has stopped: the counter, which has run on to here, is captured, and segment 0 starts
(R312). -/
def sleepCapture (s : State) : State :=
  if !domainOn s 3 && s.time.sleep.isNone then
    setTime (fun t => { t with sleep := some { captured := t.counter, segs := [(flag s F.TIME_SLEEP_src_now, 0)] } }) s
  else s

/-- Add edges to the last segment. -/
def addEdges (n : Nat) (l : List (Bool × Nat)) : List (Bool × Nat) :=
  l.dropLast ++ (l.getLast?.map (fun x => (x.1, x.2 + n))).toList

/-- The always-on source changes after `edges` more edges of the one before (R312, R316). -/
def sourceSwitch (toRc : Bool) (edges : Nat) (s : State) : State :=
  if flag s F.TIME_SLEEP_src_now == toRc then s
  else
    let s := setFlag F.TIME_SLEEP_src_now toRc s
    match s.time.sleep with
    | none => raise Src.TIME_AON_SWITCH s
    | some a =>
      let l := addEdges edges a.segs
      if l.length < 4 then setTime (fun t => { t with sleep := some { a with segs := l ++ [(toRc, 0)] } }) s
      else
        let l := l.dropLast ++ (l.getLast?.map (fun x => (true, x.2))).toList
        setFlag F.TIME_SLEEP_unbounded true (setTime (fun t => { t with sleep := some { a with segs := l } }) s)

/-- Period of a source in 2⁻¹⁶ ns (R312). -/
def aonPeriod (s : State) (rc : Bool) : Nat := if rc then fld s F.TIME_AON_PER_RC_period else fld s F.TIME_AON_PER_XT_period

/-- Tolerance of a source in 0.01 ppm (R313). -/
def aonTolerance (s : State) (rc : Bool) : Nat := if rc then fld s F.TIME_AON_TOL_rc * 100 else fld s F.TIME_AON_TOL_xt

/-- The always-on edge E1 after PD_03 has restarted, `edges` after the last source change: the counter takes the accounted
time, estimated sets, and TIME_SLEEP shows the uncertainty (R312, R313). -/
def wakeRestore (edges : Nat) (s : State) : State :=
  match s.time.sleep with
  | none => s
  | some a =>
    if !domainOn s 3 then s
    else
      let l := addEdges edges a.segs
      let gone := l.foldl (fun acc x => acc + x.2 * aonPeriod s x.1) 0
      let unc := l.foldl (fun acc x => acc + x.2 * aonPeriod s x.1 * aonTolerance s x.1) 0
      let u := if flag s F.TIME_SLEEP_unbounded then 0xFFFFFFF
        else min 0xFFFFFFF ((roundOpen (unc : Int) (2 ^ 16 * 10 ^ 8)).toNat + 8)
      let s := setTime (fun t => { t with counter := (a.captured + gone * 2 ^ 16) % counterMod, sleep := none }) s
      let s := setFld F.TIME_SLEEP_segments (l.length - 1) (setFld F.TIME_SLEEP_uncert u s)
      let s := setFlag F.TIME_STAT_estimated true s
      let s := setWt (fun w => { w with boundary := fCur s, latched := fCur s }) s
      let s := raise Src.TIME_ESTIMATED s
      let s := when (l.any Prod.fst) (raise Src.TIME_AON_SWITCH) s
      syncTiming (outStepped true s)

/-! ### Rows of the opcode table -/

/-- TIME_ADJUST_END (R294). -/
def execTimeAdjustEnd (s : State) : Host.Outcome State Fault Refusal :=
  .next (whenOn 3 adjustEnd s)

/-- TIME_SAMPLE_TIMEOUT (R305). -/
def execTimeSampleTimeout (s : State) : Host.Outcome State Fault Refusal :=
  .next (whenOn 3 samplesStop s)

/-- TIME_SYNC_SEND (R299). -/
def execTimeSyncSend (s : State) : Host.Outcome State Fault Refusal :=
  .next (whenOn 3 syncSend s)

/-- TIME_SYNC_FORWARD (R300). -/
def execTimeSyncForward (s : State) : Host.Outcome State Fault Refusal :=
  .next (if isTile s && domainOn s 11 then syncForwardNext s else s)

/-- TIME_SYNC_RECEIVE (R303 to R305). -/
def execTimeSyncReceive (s : State) : Host.Outcome State Fault Refusal :=
  .next (if isTile s && domainOn s 3 then syncAtTile s else s)

/-- TIME_SYNC_FAR_END (R306). -/
def execTimeSyncFarEnd (s : State) : Host.Outcome State Fault Refusal :=
  .next (if isSender s && domainOn s 3 then syncAtSender s else s)

/-- DELAY_REQ_SEND (R301). -/
def execDelayReqSend (port : Nat) (s : State) : Host.Outcome State Fault Refusal :=
  .next (whenOn 3 (delaySend port) s)

/-- DELAY_REQ_RECEIVE (R301). -/
def execDelayReqReceive (s : State) : Host.Outcome State Fault Refusal :=
  .next (whenOn 3 delayAnswer s)

/-- DELAY_RESP_RECEIVE (R302). -/
def execDelayRespReceive (s : State) : Host.Outcome State Fault Refusal :=
  .next (whenOn 3 delayTake s)

/-- EVT_OUT_PULSE (R308, R338). -/
def execEvtOutPulse (n : Nat) (s : State) : Host.Outcome State Fault Refusal :=
  .next (whenOn 3 (outPulse n) s)

/-- EVT_OUT_PULSE_END (R308). -/
def execEvtOutPulseEnd (n : Nat) (s : State) : Host.Outcome State Fault Refusal :=
  .next (whenOn 3 (outPulseEnd n) s)

/-- AON_SLEEP_CAPTURE (R312). -/
def execAonSleepCapture (s : State) : Host.Outcome State Fault Refusal :=
  .next (sleepCapture s)

/-- AON_SOURCE_SWITCH (R312). -/
def execAonSourceSwitch (toRc : Bool) (edges : Nat) (s : State) : Host.Outcome State Fault Refusal :=
  .next (sourceSwitch toRc edges s)

/-- TIME_WAKE_RESTORE (R312, R313). -/
def execTimeWakeRestore (edges : Nat) (s : State) : Host.Outcome State Fault Refusal :=
  .next (wakeRestore edges s)

end Sys2Proof.Machine
end

