-- ==== Sys2Proof/Machine/EthFrames.lean ====
section
/-! DEFINITION. Ethernet, IPv4, UDP, ARP, ICMP and IGMP as the ingest block and its firmware read and write them
(spec/05_ingest.md R112 to R114, R123). Field layouts that the spec takes from published standards are PRESUMED (log 46). -/

namespace Sys2Proof.Machine

/-! ### Check values of the standards -/

/-- One bit of the reflected CRC-32 of IEEE 802.3. -/
def fcsBit (c : Nat) : Nat := if c % 2 == 1 then Nat.xor (c / 2) 0xEDB88320 else c / 2

/-- One byte of the reflected CRC-32. -/
def fcsByte (c : Nat) (b : Byte) : Nat := (List.range 8).foldl (fun x _ => fcsBit x) (Nat.xor c b.toNat)

/-- The frame check sequence over the bytes of a frame before it. -/
def fcs (bs : List Byte) : Nat := Nat.xor (bs.foldl fcsByte 0xFFFFFFFF) 0xFFFFFFFF

/-- The sum of 16-bit words in one's complement, an odd last byte padded with 0. -/
def onesSum (bs : List Byte) : Nat :=
  let t := (chunks 2 bs).foldl (fun a c => a + byteAt c 0 * 256 + byteAt c 1) 0
  let t := t % 65536 + t / 65536
  t % 65536 + t / 65536

/-- The Internet checksum of bytes whose checksum field is 0. -/
def inetSum (bs : List Byte) : Nat := 65535 - onesSum bs

/-! ### Received frames -/

/-- A received frame: EtherType, what follows it, and whether it carried two tags (R112). -/
structure EthFrame where
  dst : List Byte
  src : List Byte
  typ : Nat
  tags : Nat
  body : List Byte
  deriving DecidableEq, Repr

/-- Read a frame without its FCS; one 802.1Q tag is removed (R112). -/
def parseEth (bs : List Byte) : EthFrame :=
  let t := beAt bs 12 2
  if t == 0x8100 then
    let u := beAt bs 16 2
    let n : Nat := if u == 0x8100 || u == 0x88A8 then 2 else 1
    { dst := bs.take 6, src := (bs.drop 6).take 6, typ := u, body := bs.drop 18, tags := n }
  else { dst := bs.take 6, src := (bs.drop 6).take 6, typ := t, body := bs.drop 14, tags := 0 }

/-- Whether the last four bytes are the FCS of the rest. -/
def fcsGood (bs : List Byte) : Bool :=
  decide (4 ≤ bs.length) && leNat (bs.drop (bs.length - 4)) == fcs (bs.take (bs.length - 4))

/-- An IPv4 datagram or fragment. -/
structure Ipv4 where
  ihl : Nat
  ident : Nat
  more : Bool
  offset : Nat
  proto : Nat
  src : Nat
  dst : Nat
  data : List Byte
  deriving DecidableEq, Repr

/-- Read an IPv4 header; none where the check of R113 rule 4 fails: version, header checksum, or a total length that the
frame cannot hold. -/
def parseIp (b : List Byte) : Option Ipv4 :=
  let ihl := byteAt b 0 % 16
  let total := beAt b 2 2
  if byteAt b 0 / 16 != 4 || ihl < 5 || b.length < 4 * ihl || onesSum (b.take (4 * ihl)) != 65535 ||
      total < 4 * ihl || b.length < total then none
  else
    let fl := beAt b 6 2
    some {
      ihl := ihl
      ident := beAt b 4 2
      more := bitOf fl 13
      offset := fl % 8192 * 8
      proto := byteAt b 9
      src := beAt b 12 4
      dst := beAt b 16 4
      data := (b.take total).drop (4 * ihl) }

/-- Whether a UDP datagram's checksum is 0 or right, over the pseudo header and the whole datagram (R113 rule 7). -/
def udpGood (src dst : Nat) (d : List Byte) : Bool :=
  beAt d 6 2 == 0 || onesSum (beBytes 4 src ++ beBytes 4 dst ++ [0, 17] ++ beBytes 2 d.length ++ d) == 65535

/-! ### Frames sent -/

/-- MAC address of port `p`: the base with the port number ORed into bits 2:0 (R112). -/
def macOf (s : State) (p : Nat) : List Byte :=
  beBytes 6 (Nat.lor (fld s F.ETH_MAC_HI_mac_hi * 2 ^ 32 + fld s F.ETH_MAC_LO_mac_lo) (p % 8))

/-- Build a frame from port `p`: padded to 60 bytes, with its FCS. -/
def buildEth (s : State) (p typ : Nat) (dst : List Byte) (body : List Byte) : List Byte :=
  let b := padTo 60 (dst ++ macOf s p ++ beBytes 2 typ ++ body)
  b ++ leBytes 4 (fcs b)

/-- Build an IPv4 header with options and its data. -/
def buildIp (tos proto ttl src dst : Nat) (opts data : List Byte) : List Byte :=
  let ihl := 5 + opts.length / 4
  let h (ck : Nat) : List Byte := [BitVec.ofNat 8 (64 + ihl), BitVec.ofNat 8 tos] ++ beBytes 2 (4 * ihl + data.length) ++
    [0, 0, 0, 0, BitVec.ofNat 8 ttl, BitVec.ofNat 8 proto] ++ beBytes 2 ck ++ beBytes 4 src ++ beBytes 4 dst ++ opts
  h (inetSum (h 0)) ++ data

/-- Address of port `p`. -/
def portIp (s : State) (p : Nat) : Nat := fldAt s F.ETH_IP_address p

/-- The broadcast MAC address. -/
def broadcast : List Byte := List.replicate 6 0xFF

/-- An ARP packet. -/
def arpPacket (op : Nat) (sha : List Byte) (spa : Nat) (tha : List Byte) (tpa : Nat) : List Byte :=
  [0, 1, 8, 0, 6, 4] ++ beBytes 2 op ++ sha ++ beBytes 4 spa ++ tha ++ beBytes 4 tpa

/-- A gratuitous ARP on link-up (R114). -/
def gratuitousArp (p : Nat) (s : State) : State :=
  if portIp s p == 0 then s
  else emit (.eth p (buildEth s p 0x0806 broadcast
    (arpPacket 1 (macOf s p) (portIp s p) (List.replicate 6 0) (portIp s p)))) s

/-- The firmware answers an ARP request for ETH_IP_n (R114). -/
def answerArp (p : Nat) (f : EthFrame) (s : State) : State :=
  let b := f.body
  if beAt b 6 2 == 1 && beAt b 24 4 == portIp s p && portIp s p != 0 then
    let who := (b.drop 8).take 6
    emit (.eth p (buildEth s p 0x0806 who (arpPacket 2 (macOf s p) (portIp s p) who (beAt b 14 4)))) s
  else s

/-- The firmware answers an ICMP echo request, up to 100 in a second per port (R114). -/
def answerEcho (p : Nat) (f : EthFrame) (ip : Ipv4) (s : State) : State :=
  let sec := s.time.mono / 2000000000
  let (was, n) := s.eth.echoes.getD p (0, 0)
  let n := if was == sec then n else 0
  if byteAt ip.data 0 == 8 && byteAt ip.data 1 == 0 && onesSum ip.data == 65535 && ip.dst == portIp s p && portIp s p != 0
      && n < 100 then
    let body := [0, 0, 0, 0] ++ ip.data.drop 4
    let reply := [0, 0] ++ beBytes 2 (inetSum body) ++ ip.data.drop 4
    let s := { s with eth := { s.eth with echoes := updAt (fun _ => (sec, n + 1)) s.eth.echoes p } }
    emit (.eth p (buildEth s p 0x0800 f.src (buildIp 0 1 64 (portIp s p) ip.src [] reply))) s
  else s

/-! ### IGMPv3 (R114) -/

/-- Whether an address is a multicast group. -/
def multicast (a : Nat) : Bool := a / 2 ^ 28 == 14

/-- An IGMPv3 report of one group record, sent to 224.0.0.22 with the Router Alert option. -/
def igmpReport (s : State) (d : IgmpDue) : List Byte :=
  let rec_ := [BitVec.ofNat 8 d.kind, 0] ++ beBytes 2 (if d.source == 0 then 0 else 1) ++ beBytes 4 d.group ++
    (if d.source == 0 then [] else beBytes 4 d.source)
  let m (ck : Nat) : List Byte := [0x22, 0] ++ beBytes 2 ck ++ [0, 0, 0, 1] ++ rec_
  buildEth s d.port 0x0800 [0x01, 0x00, 0x5E, 0x00, 0x00, 0x16]
    (buildIp 0xC0 2 1 (portIp s d.port) 0xE0000016 [0x94, 4, 0, 0] (m (inetSum (m 0))))

/-- Ports of the configuration in ETH_CFG.mode (R111). -/
def ethPorts (s : State) : Nat := [0, 8, 4, 2, 1, 8, 2].getD (fld s F.ETH_CFG_mode) 0

/-- Lanes of an Ethernet port are powered (R14, R111). -/
def ethServes (s : State) (p : Nat) : Bool :=
  isSender s && domainOn s 10 && decide (p < ethPorts s) &&
    domainOn s (if p * (8 / max 1 (ethPorts s)) < 4 then 6 else 7) && (domainOn s 7 || ethPorts s != 1)

/-- Whether a frame can leave on a port. -/
def ethSends (s : State) (p : Nat) : Bool := ethServes s p && flagAt s F.ETH_PORT_STAT_link_up p

/-- Send a report, on a port that is up. -/
def sendReport (d : IgmpDue) (s : State) : State :=
  if multicast d.group && ethSends s d.port then emit (.eth d.port (igmpReport s d)) s else s

/-- The memberships of the enabled flow entries: port, group and source, each once (R114). -/
def memberships (s : State) : List (Nat × Nat × Nat) :=
  ((List.range 16).flatMap (fun n =>
    if !flagAt s F.FLOW_CTRL_enable n then []
    else
      (fldAt s F.FLOW_CTRL_port_p n, fldAt s F.FLOW_GRP_P_address n, fldAt s F.FLOW_SRC_P_address n) ::
        (if fldAt s F.FLOW_CTRL_paths n == 1 then
          [(fldAt s F.FLOW_CTRL_port_s n, fldAt s F.FLOW_GRP_S_address n, fldAt s F.FLOW_SRC_S_address n)] else []))).eraseDups

/-- After a change of the flow table: memberships that are new are reported now and once more 1 s later; those that are gone
are left with a state-change report (R114). -/
def membershipsChanged (before : List (Nat × Nat × Nat)) (s : State) : State :=
  let now := memberships s
  let join (m : Nat × Nat × Nat) : IgmpDue := {
    port := m.1, kind := if m.2.2 == 0 then 4 else 5, group := m.2.1, source := m.2.2, due := s.time.mono + 2000000000 }
  let leave (m : Nat × Nat × Nat) : IgmpDue := { port := m.1, kind := if m.2.2 == 0 then 3 else 6, group := m.2.1, source := m.2.2 }
  let gone := before.filter (fun m => !now.contains m)
  let new := now.filter (fun m => !before.contains m)
  let s := forEach gone (fun m st => sendReport (leave m) st) s
  let s := { s with eth := { s.eth with igmp := s.eth.igmp.filter (fun d =>
    !gone.contains (d.port, d.group, d.source)) } }
  let s := forEach new (fun m st => sendReport (join m) st) s
  { s with eth := { s.eth with igmp := s.eth.igmp ++ new.map join } }

/-- A query's maximum response time in the monotonic clock's half nanoseconds: Max Resp Code in 0.1 s, with the exponent form
of IGMPv3 from 128 on, and 10 s for a query of IGMPv1 (PRESUMED, log 46). -/
def maxResponse (d : List Byte) : Nat :=
  let c := byteAt d 1
  let tenths := if d.length < 12 then (if c == 0 then 100 else c)
    else if c < 128 then c else (c % 16 + 16) * 2 ^ (c / 16 % 8 + 3)
  tenths * 200000000

/-- A report becomes due; one for the same membership that is due already goes by the earlier of the two times. -/
def addDue (d : IgmpDue) (l : List IgmpDue) : List IgmpDue :=
  if l.any (fun x => x.port == d.port && x.kind == d.kind && x.group == d.group && x.source == d.source) then
    l.map (fun x => if x.port == d.port && x.kind == d.kind && x.group == d.group && x.source == d.source then
      { x with due := min x.due d.due } else x)
  else l ++ [d]

/-- A received IGMP message: a query makes responses due within its maximum response time; queries of older versions are
counted (R114). -/
def igmpReceived (p : Nat) (ip : Ipv4) (s : State) : State :=
  let d := ip.data
  if byteAt d 0 != 0x11 || onesSum d != 65535 then s
  else
    let s := if d.length < 12 then
        { s with eth := { s.eth with oldQueries := updAt (fun n => n + 1) s.eth.oldQueries p } } else s
    let group := beAt d 4 4
    let count := if d.length < 12 then 0 else beAt d 10 2
    let srcs := (List.range count).map (fun i => beAt d (12 + 4 * i) 4)
    let hit := (memberships s).filter (fun m => m.1 == p && (group == 0 || m.2.1 == group) &&
      (srcs.isEmpty || m.2.2 == 0 || srcs.contains m.2.2))
    let answer (m : Nat × Nat × Nat) : IgmpDue := {
      port := m.1, kind := if m.2.2 == 0 then 2 else 1, group := m.2.1, source := m.2.2, due := s.time.mono + maxResponse d }
    { s with eth := { s.eth with igmp := (hit.map answer).foldl (fun l x => addDue x l) s.eth.igmp } }

/-- The report that is due first. -/
def firstDue : List IgmpDue → Option IgmpDue
  | [] => none
  | d :: t => match firstDue t with
    | some e => if e.due < d.due then some e else some d
    | none => some d

/-- A second unsolicited report or a query's response is sent: the one that is due first (R114). -/
def igmpTimer (s : State) : State :=
  match firstDue s.eth.igmp with
  | none => s
  | some d => sendReport d { s with eth := { s.eth with igmp := s.eth.igmp.erase d } }

/-! ### UDP datagrams sent -/

/-- A UDP datagram with its checksum, 0 of which is sent as FFFFh. -/
def buildUdp (src sport dst dport : Nat) (payload : List Byte) : List Byte :=
  let n := 8 + payload.length
  let h (ck : Nat) : List Byte := beBytes 2 sport ++ beBytes 2 dport ++ beBytes 2 n ++ beBytes 2 ck ++ payload
  let ck := inetSum (beBytes 4 src ++ beBytes 4 dst ++ [0, 17] ++ beBytes 2 n ++ h 0)
  h (if ck == 0 then 65535 else ck)

/-- The fragments of an IPv4 payload: header and data each, with DF clear, short enough for a frame of 9,216 bytes with its
FCS (R123). -/
def ipFragments (ident proto src dst : Nat) (data : List Byte) : List (List Byte) :=
  let l := chunks 9176 data
  l.zipIdx.map (fun x =>
    let fl := (if x.2 + 1 < l.length then 8192 else 0) + x.2 * 9176 / 8
    let h (ck : Nat) : List Byte := [0x45, 0] ++ beBytes 2 (20 + x.1.length) ++ beBytes 2 ident ++ beBytes 2 fl ++
      [64, BitVec.ofNat 8 proto] ++ beBytes 2 ck ++ beBytes 4 src ++ beBytes 4 dst
    h (inetSum (h 0)) ++ x.1)

/-- Send a UDP datagram from port `p` and its address, in as many frames as it needs (R123). The spec states neither the
identification nor the MAC address it goes to: they are free values (DESIGN CHOICE, log 170). -/
def sendUdp (p sport dst dport : Nat) (payload : List Byte) (s : State) : State :=
  let (k, s) := freshIdx s
  let frags := ipFragments (Config.ipIdent k % 65536) 17 (portIp s p) dst (buildUdp (portIp s p) sport dst dport payload)
  forEach frags (fun b st => emit (.eth p (buildEth st p 0x0800 (beBytes 6 (Config.nextHop dst)) b)) st) s

end Sys2Proof.Machine
end

