-- ==== Sys2Proof/Machine/Numeric.lean ====
section
/-! DEFINITION. Fixed-point values of the transcendental functions that the spec's formulas use (sine in R179, powers and
logarithms in R204 to R206), in units of 2⁻¹²⁸. They are computed with errors far below 2⁻¹⁰⁰, so a rounding of the result
is the rounding of the exact value unless that lies within the error of a tie (DEDUCED, log 40). -/

namespace Sys2Proof.Machine

/-- One unit: 2¹²⁸. -/
def fixOne : Nat := 2 ^ 128
/-- π. -/
def fixPi : Nat := 0x3243f6a8885a308d313198a2e03707345
/-- ln 2. -/
def fixLn2 : Nat := 0xb17217f7d1cf79abc9e3b39803f2f6af

/-- Product of two fixed-point numbers. -/
def fixMul (a b : Int) : Int := a * b / (fixOne : Int)

/-- Taylor terms of the sine: `t` is the last term, `k` its power. -/
def sinTerms (y2 : Int) : Nat → Nat → Int → Int
  | 0, _, t => t
  | f + 1, k, t => t + sinTerms y2 f (k + 2) (-(fixMul t y2) / (((k + 1) * (k + 2) : Nat) : Int))

/-- sin(π × r / m) for 0 ≤ r ≤ m. -/
def sinHalf (r m : Nat) : Int :=
  let y : Int := ((fixPi * min r (m - r) / max 1 m : Nat) : Int)
  sinTerms (fixMul y y) 24 1 y

/-- sin(π × n / m). -/
def sinPi (n : Int) (m : Nat) : Int :=
  let r := (n % ((2 * m : Nat) : Int)).toNat
  if r < m then sinHalf r m else - sinHalf (r - m) m

/-- Terms of the series of artanh: `z` to the power `k`, divided by `k`. -/
def atanhTerms (z2 : Nat) : Nat → Nat → Nat → Nat
  | 0, _, _ => 0
  | f + 1, k, t => t / k + atanhTerms z2 f (k + 2) (t * z2 / fixOne)

/-- ln(a / b) for positive `a` and `b`. -/
def fixLn (a b : Nat) : Int :=
  let t := a * fixOne * fixOne / max 1 b
  let e : Int := (Nat.log2 t : Int) - 256
  let m := if e ≥ -128 then t / 2 ^ (e + 128).toNat else t * 2 ^ (-128 - e).toNat
  let z := (m - fixOne) * fixOne / (m + fixOne)
  2 * (atanhTerms (z * z / fixOne) 48 1 z : Nat) + e * (fixLn2 : Int)

/-- Taylor terms of the exponential. -/
def expTerms (r : Nat) : Nat → Nat → Nat → Nat
  | 0, _, t => t
  | f + 1, k, t => t + expTerms r f (k + 1) (t * r / fixOne / k)

/-- The exponential of a fixed-point number. -/
def fixExp (y : Int) : Nat :=
  let k := y / (fixLn2 : Int)
  let e := expTerms (y - k * (fixLn2 : Int)).toNat 40 1 fixOne
  if k ≥ 0 then e * 2 ^ k.toNat else e / 2 ^ (-k).toNat

/-- (a / b) to the power p / q, and 0 when a is 0. -/
def fixPow (a b p q : Nat) : Nat :=
  if a == 0 then 0 else fixExp (fixLn a b * (p : Int) / ((max 1 q : Nat) : Int))

/-- A fixed-point number times `m`, rounded half up. -/
def fixRound (x m : Nat) : Nat := (2 * x * m + fixOne) / (2 * fixOne)

/-- `n / d` rounded half up, for a positive `d`. -/
def halfUp (n : Int) (d : Nat) : Int := (2 * n + (d : Int)) / ((2 * max 1 d : Nat) : Int)

/-- The greatest `v` below 2ⁿ for which `p` holds, where `p` holds up to some value and not above it and `p 0` holds. -/
def searchMax (p : Nat → Bool) : Nat → Nat → Nat
  | 0, v => v
  | n + 1, v => if p (v + 2 ^ n) then searchMax p n (v + 2 ^ n) else searchMax p n v

end Sys2Proof.Machine
end

