-- ==== Sys2Proof/Machine/Scaling.lean ====
section
/-! DEFINITION. Layer scaling (spec/08_composition_and_accords.md, R178 to R180): source positions, filter weights and the
two passes of the filter. -/

namespace Sys2Proof.Machine

/-- One direction of a layer's scaling: source start and length, destination start and length, the filter, and its a (4
horizontally, 2 vertically). -/
structure Axis where
  src : Nat
  srcLen : Nat
  dst : Nat
  dstLen : Nat
  filter : Nat
  a : Nat
  deriving DecidableEq, Repr

/-- The horizontal axis that a layer's words give (R176). -/
def axisH (l : LayerLatch) : Axis :=
  let w (i : Nat) : Nat := (l.words.getD i 0).toNat
  { src := w 2 / 65536, srcLen := w 3 / 65536, dst := w 4 / 65536, dstLen := w 5 / 65536,
    filter := bitsOf (w 0) 23 20, a := 4 }

/-- The vertical axis that a layer's words give (R176). -/
def axisV (l : LayerLatch) : Axis :=
  let w (i : Nat) : Nat := (l.words.getD i 0).toNat
  { src := w 2 % 65536, srcLen := w 3 % 65536, dst := w 4 % 65536, dstLen := w 5 % 65536,
    filter := bitsOf (w 0) 23 20, a := 2 }

/-- The direction is bypassed (R178). -/
def Axis.bypass (x : Axis) : Bool := x.srcLen == x.dstLen

/-- step of R178, u16.16, rounded half up. -/
def Axis.step (x : Axis) : Nat := (2 * x.srcLen * 65536 + x.dstLen) / (2 * max 1 x.dstLen)

/-- Source position s of a destination coordinate (R178). -/
def Axis.pos (x : Axis) (d : Nat) : Int :=
  (x.src * 65536 : Nat) + ((d : Int) - (x.dst : Int)) * (x.step : Int) + (x.step / 2 : Nat) - 32768

/-- Taps of the filter (R178). -/
def Axis.taps (x : Axis) : Nat :=
  if x.bypass then 1 else 2 * x.a * max 1 (cdiv x.srcLen (max 1 x.dstLen))

/-- Centre of a destination coordinate (R178). -/
def Axis.centre (x : Axis) (d : Nat) : Int :=
  if x.bypass then (x.src : Int) + ((d : Int) - (x.dst : Int)) else x.pos d / 65536

/-- Phase of a destination coordinate (R178). -/
def Axis.phase (x : Axis) (d : Nat) : Nat := (x.pos d / 1024 % 64).toNat

/-- A source coordinate held to the source rectangle (R178). -/
def Axis.held (x : Axis) (z : Int) : Nat := (clampZ (x.src : Int) ((x.src : Int) + (x.srcLen : Int) - 1) z).toNat

/-- The first and last source coordinates that a destination coordinate uses (R178). -/
def Axis.used (x : Axis) (d : Nat) : Nat × Nat :=
  if x.bypass then (x.held (x.centre d), x.held (x.centre d))
  else
    let t : Int := ((x.taps / 2 : Nat) : Int)
    (x.held (x.centre d - (t - 1)), x.held (x.centre d + t))

/-- The first and last source coordinates that a run of destination coordinates uses. -/
def Axis.span (x : Axis) (d0 d1 : Nat) : Nat × Nat := ((x.used d0).1, (x.used d1).2)

/-- Whether a destination coordinate lies in the destination rectangle. -/
def Axis.covers (x : Axis) (d : Nat) : Bool := decide (x.dst ≤ d) && decide (d < x.dst + x.dstLen)

/-! ### Weights (R179) -/

/-- D of the direction as a fraction. -/
def Axis.ratio (x : Axis) : Nat × Nat := if x.srcLen > x.dstLen then (x.srcLen, x.dstLen) else (1, 1)

/-- x_j / D of tap `j` at phase `p`, as numerator over denominator. -/
def Axis.tapAt (x : Axis) (p j : Nat) : Int × Nat :=
  let (dn, dd) := x.ratio
  ((64 * ((j : Int) - ((x.taps / 2 : Nat) : Int) + 1) - (p : Int)) * (dd : Int), 64 * dn)

/-- sinc(u) × sinc(u / a) in fixed point, 0 from |u| = a on. -/
def sincWeight (a : Nat) (n : Int) (m : Nat) : Int :=
  if n.natAbs ≥ a * m then 0
  else if n == 0 then (fixOne : Int)
  else
    let s := fixMul (sinPi n m) (sinPi n (a * m))
    let pi2 := fixMul (fixPi : Int) (fixPi : Int)
    s * ((a * m * m : Nat) : Int) * (fixOne : Int) / (pi2 * n * n)

/-- User kernel sample at `z` / 64 source pixels: coefficient k of phase p lies at k − 3 − p / 64. -/
def kernelSample (coef : List Word) (z : Int) : Int :=
  if z < -255 || z > 256 then 0
  else
    let k := -((-z) / 64) + 3
    let p := (64 * (k - 3) - z).toNat
    let w := (coef.getD (4 * p + k.toNat / 2) 0).toNat
    sgn 16 (if k.toNat % 2 == 1 then w / 65536 else w % 65536)

/-- The user kernel at n / m, times m: linear between samples, 0 outside −255/64 to 4. -/
def kernelWeight (coef : List Word) (n : Int) (m : Nat) : Int :=
  if 64 * n < -255 * (m : Int) || 64 * n > 256 * (m : Int) then 0
  else
    let i := 64 * n / (m : Int)
    let f := 64 * n % (m : Int)
    kernelSample coef i * ((m : Int) - f) + kernelSample coef (i + 1) * f

/-- Raw weights, up to a common factor. -/
def Axis.raw (x : Axis) (coef : List Word) (p : Nat) : List Int :=
  (List.range x.taps).map (fun j =>
    let (n, m) := x.tapAt p j
    match x.filter with
    | 0 => sincWeight x.a n m
    | 1 => max 0 ((m : Int) - (n.natAbs : Int))
    | _ => kernelWeight coef n m)

/-- The tap nearest x = 0, the lower among equals. -/
def Axis.nearest (x : Axis) (p : Nat) : Nat :=
  (List.range x.taps).foldl (fun best j =>
    if (x.tapAt p j).1.natAbs < (x.tapAt p best).1.natAbs then j else best) 0

/-- Weights in s1.14 summing to 4000h; none where filter 2h is used (R178, R179). -/
def Axis.weights (x : Axis) (coef : List Word) (p : Nat) : Option (List Int) :=
  if x.filter == 2 then none
  else
    let r := x.raw coef p
    let t := r.foldl (· + ·) 0
    if t == 0 then none
    else
      let w := r.map (fun z => if t > 0 then halfUp (z * 16384) t.toNat else halfUp (-z * 16384) (-t).toNat)
      let rest := 16384 - w.foldl (· + ·) 0
      some (updAt (fun z => z + rest) w (x.nearest p))

/-- The taps of a destination coordinate: source coordinates and weights; a direction with filter 2h takes one source pixel
with weight 1.0. -/
def Axis.plan (x : Axis) (coef : List Word) (d : Nat) : List (Nat × Int) :=
  let c := x.centre d
  match x.weights coef (x.phase d) with
  | some w => (List.zip (List.range w.length) w).map (fun (y : Nat × Int) =>
      (x.held (c - ((x.taps / 2 : Nat) : Int) + 1 + (y.1 : Int)), y.2))
  | none => [(x.held (if x.phase d ≥ 32 then c + 1 else c), 16384)]

/-! ### The two passes (R179) -/

/-- The vertical result of column `sx`, in 1/16 of the sample unit: exact sums are kept with 4 fraction bits, whose rounding
the spec leaves open. -/
def vertical (x : Axis) (coef : List Word) (sample : Nat → Nat → Int) (sx y : Nat) : Int :=
  if x.bypass then 16 * sample sx (x.held (x.centre y))
  else
    let t := (x.plan coef y).foldl (fun (a : Int) (q : Nat × Int) => a + q.2 * sample sx q.1) 0
    roundOpen t 1024

/-- The filtered value at a destination pixel, rounded half up and held to 0 to `top` (R179); what a bypassed horizontal
direction passes keeps no fraction either (DEDUCED, log 41). -/
def filtered (h v : Axis) (coef : List Word) (top : Int) (sample : Nat → Nat → Int) (x y : Nat) : Int :=
  if h.bypass then
    let r := vertical v coef sample (h.held (h.centre x)) y
    if v.bypass then r / 16 else clampZ 0 top (halfUp r 16)
  else
    let t := (h.plan coef x).foldl (fun (a : Int) (q : Nat × Int) => a + q.2 * vertical v coef sample q.1 y) 0
    clampZ 0 top (halfUp t 262144)

/-! ### Limits (R180) -/

/-- Whether a layer lies within the scale limits; a size of 0 lies outside them (R176 gives 1 or more). -/
def scaleOk (tile : Bool) (l : LayerLatch) : Bool :=
  let h := axisH l
  let v := axisV l
  decide (h.srcLen ≥ 1) && decide (h.dstLen ≥ 1) && decide (v.srcLen ≥ 1) && decide (v.dstLen ≥ 1) &&
    decide (h.srcLen ≤ 8 * h.dstLen) && decide (v.srcLen ≤ (if tile then 4 else 8) * v.dstLen) &&
    decide (h.dstLen ≤ 16 * h.srcLen) && decide (v.dstLen ≤ 16 * v.srcLen)

end Sys2Proof.Machine
end

