-- ==== Sys2Proof/Machine/DramPorts.lean ====
section
/-! DEFINITION. What every access to the external memory meets (spec/07_dram_controller.md): the place of an offset (R149),
whether the controller serves (R152), activates and the row-activation tables (R164 to R166), the bytes moved on a channel
(R169), and the traffic of the ports inside the device (R154). -/

namespace Sys2Proof.Machine

/-- Change the controller's part of the state. -/
def setDramc (f : DramState → DramState) (s : State) : State := { s with dramc := f s.dramc }

/-- Channel `c`. -/
def chanAt (s : State) (c : Nat) : DramChannel := s.dramc.chans.getD c {}

/-- Change channel `c`. -/
def setChan (c : Nat) (f : DramChannel → DramChannel) (s : State) : State :=
  setDramc (fun d => { d with chans := updAt f d.chans c }) s

/-! ### Configuration and the place of an offset (R148, R149) -/

/-- Channels, ranks and GiB per rank of a DRAM_CFG word. -/
def cfgChannels (w : Nat) : Nat := 2 ^ bitsOf w 11 10
@[inherit_doc cfgChannels] def cfgRanks (w : Nat) : Nat := bitsOf w 9 9 + 1
@[inherit_doc cfgChannels] def cfgGib (w : Nat) : Nat := bitsOf w 7 6 + 1

/-- Whether a DRAM_CFG word keeps R148 in the role. -/
def dramCfgOk (role : Role) (w : Nat) : Bool :=
  decide (bitsOf w 14 12 ≤ 4) && decide (bitsOf w 11 10 ≤ 2) && decide (cfgRanks w * cfgGib w ≤ 4) &&
    (role == .tile || bitsOf w 11 10 != 0)

/-- Fitted size in 256 MiB units. -/
def cfgUnits (w : Nat) : Nat := cfgChannels w * cfgRanks w * cfgGib w * 4

/-- Rows of one bank: a rank holds 16 banks of rows of 2 KiB. -/
def cfgRows (w : Nat) : Nat := cfgGib w * 2 ^ 15

/-- Channel, bank (with the rank above the bank bits) and row of offset `o` (R149). -/
def dramPlace (w o : Nat) : Nat × Nat × Nat :=
  let c := cfgChannels w
  let chan := if c == 4 then Nat.xor (bitsOf o 9 8) (bitsOf o 17 16)
    else if c == 2 then Nat.xor (bitsOf o 8 8) (bitsOf o 16 16) else 0
  let l := o / (256 * c) * 256 + o % 256
  if cfgRanks w == 2 then (chan, bitsOf l 15 11, l / 2 ^ 16) else (chan, bitsOf l 14 11, l / 2 ^ 15)

/-- Whether the controller serves its ports (R152). -/
def dramServes (s : State) : Bool := domainOn s 12 && domainOn s 13 && flag s F.DRAM_STAT_ready

/-- Leave self-refresh (R162). -/
def dramWake (s : State) : State :=
  if dramServes s then setFlag F.DRAM_STAT_self_refresh false s else s

/-! ### Activates and the row-activation table (R164 to R166) -/

/-- The threshold in force (R166). -/
def ratThreshold (s : State) : Nat := clampN 512 32768 (bitsOf s.dramc.rat 15 0)

/-- Whether the tables are active. -/
def ratActive (s : State) : Bool := bitOf s.dramc.rat 31

/-- The value of key `k` in a list of pairs. -/
def assoc {α : Type} (d : α) (l : List (Nat × α)) (k : Nat) : α :=
  match l.find? (fun e => e.1 == k) with
  | some e => e.2
  | none => d

/-- Set key `k` in a list of pairs. -/
def assocPut {α : Type} (k : Nat) (v : α) (l : List (Nat × α)) : List (Nat × α) :=
  if l.any (fun e => e.1 == k) then l.map (fun e => if e.1 == k then (k, v) else e) else l ++ [(k, v)]

/-- The entry with the lowest count, the lowest entry among equals. -/
def lowestEntry (l : List (Nat × Nat)) : Nat :=
  (l.zipIdx.foldl (fun (b : Nat × Option Nat) e => match b.2 with
    | none => (e.2, some e.1.2)
    | some c => if e.1.2 < c then (e.2, some e.1.2) else b) ((0 : Nat), none)).1

/-- An activate of row `r`: the table after it, and whether the neighbours of `r` are to be refreshed (R164). -/
def ratActivate (limit r : Nat) (t : RatTable) : RatTable × Bool :=
  let t :=
    if t.entries.any (fun e => e.1 == r) then
      { t with entries := t.entries.map (fun e => if e.1 == r then (r, e.2 + 1) else e) }
    else if t.entries.length < 32 then { t with entries := t.entries ++ [(r, t.floor + 1)] }
    else
      let m := lowestEntry t.entries
      let fl := max t.floor (t.entries.getD m (0, 0)).2
      { entries := updAt (fun _ => (r, fl + 1)) t.entries m, floor := fl }
  if limit ≤ assoc 0 t.entries r then
    ({ t with entries := t.entries.map (fun e => if e.1 == r then (r, t.floor) else e) }, true)
  else (t, false)

/-- A request opens row `row` of bank `bank` of channel `c` (R164, R165). -/
def activate (c bank row : Nat) (s : State) : State :=
  let s := setChan c (fun x => { x with rows := assocPut bank row x.rows }) s
  if !ratActive s then s
  else
    let (t, due) := ratActivate (ratThreshold s) row (assoc {} (chanAt s c).tables bank)
    let s := setChan c (fun x => { x with tables := assocPut bank t x.tables }) s
    let s := if due then setChan c (fun x => { x with due := .neighbour bank row :: x.due }) s else s
    if decide (ratThreshold s ≤ t.floor) && !(chanAt s c).sweeping.contains bank then
      setChan c (fun x => { x with sweeping := x.sweeping ++ [bank] }) s
    else s

/-! ### Bytes moved, and the traffic of the device's own ports (R154, R167, R169) -/

/-- Count 64 bytes moved on channel `c` in the present ms (R169). -/
def countMoved (c : Nat) (s : State) : State :=
  let ms := s.time.mono / 2000000
  setChan c (fun x =>
    if ms == x.ms then { x with moved := x.moved + 64 }
    else { x with ms := ms, moved := 64, load := if ms == x.ms + 1 then x.moved else 0 }) s

/-- A granule is moved at offset `o`: its row opens if it is not open, and its bytes count (R164, R169). -/
def moveGranule (o : Nat) (s : State) : State :=
  let (c, b, row) := dramPlace s.dramc.cfg o
  countMoved c (if (chanAt s c).rows.any (fun e => e == (b, row)) then s else activate c b row s)

/-- The role uses port `p` (R154). -/
def portUsed (s : State) (p : Nat) : Bool :=
  decide (p < 12) && (if isSender s then p != 3 else p != 0 && p != 2)

/-- A unit of the device moves the `n` bytes at offset `o` of region `r` through port `p`. In the external memory that takes it
out of self-refresh (R162), keeps its queues from being empty (R161), opens rows and counts (R154, R164, R169). The spec
gives the units' requests no times: they take place with the command that causes them (DESIGN CHOICE, log 174). -/
def portTraffic (p r o n : Nat) (s : State) : State :=
  if r != 1 || n == 0 || !dramServes s || !portUsed s p then s
  else
    let s := setDramc (fun d => { d with busyAt := s.time.mono }) (dramWake s)
    forEach (List.range ((o + n - 1) / 64 + 1 - o / 64)) (fun k => moveGranule ((o / 64 + k) * 64)) s

/-- A unit writes bytes through port `p`. -/
def portWrite (p r o : Nat) (l : List Byte) (s : State) : State := setMemBytes r o l (portTraffic p r o l.length s)

/-! ### Queues (R156 to R158) -/

/-- Every request that waits. -/
def dramWaiting (s : State) : List DramReq :=
  s.dramc.chans.flatMap (fun c => c.reads ++ c.writes) ++ s.dramc.stalled

/-- Whether `n` bytes at offset `o` of region `r` can be had through port `p`: the store gives them at once, the external
memory once it serves and no read of the port waits for a granule of them (R156). -/
def fetched (s : State) (p r o n : Nat) : Bool :=
  r != 1 || (dramServes s && !(dramWaiting s).any (fun q =>
    q.port == p && !q.write && decide (o < q.granule + 64) && decide (q.granule < o + n)))

/-- Entries of a read queue and of a write queue (R157). -/
def queueSize : Nat := 64

/-- Whether an access to the `n` bytes at offset `o` finds a queue of a channel it falls on full (R157, R158). -/
def queueFull (s : State) (write : Bool) (o n : Nat) : Bool :=
  dramServes s && (List.range (min 4 ((o + n + 255) / 256 - o / 256))).any (fun k =>
    let c := chanAt s (dramPlace s.dramc.cfg ((o / 256 + k) * 256)).1
    decide (queueSize ≤ (if write then c.writes else c.reads).length))

end Sys2Proof.Machine
end

