-- ==== Sys2Proof/Machine/Wcs.lean ====
section
/-! DEFINITION. Pixel formats, sample packing and the WCS coder (spec/06_surfaces_and_flacons.md R128 to R135,
spec/09_tile_pixel_pipeline.md R195 to R201). -/

namespace Sys2Proof.Machine

/-! ### Pixel formats (R128) -/

/-- Whether a pixel format code is assigned. -/
def pixLegal (f : Nat) : Bool := f < 8
/-- Sample depth in bits. -/
def pixDepth (f : Nat) : Nat := if f % 2 == 0 then 10 else 12
/-- Whether the format is YCbCr 4:2:2. -/
def pix422 (f : Nat) : Bool := f < 2
/-- Whether the format is RGB or RGBA. -/
def pixRgb (f : Nat) : Bool := f ≥ 4
/-- Whether the format carries alpha. -/
def pixAlpha (f : Nat) : Bool := f ≥ 6
/-- Components of a pixel, in the order of R128. -/
def pixComps (f : Nat) : Nat := if f ≥ 6 then 4 else 3
/-- Bits per pixel. -/
def pixBpp (f : Nat) : Nat := if f < 2 then 2 * pixDepth f else pixComps f * pixDepth f

/-- One component's samples of a unit, row by row (R195). -/
abbrev Plane := List (List Nat)

/-- Width of a component's plane in a unit of `w` columns: half for 4:2:2 chroma (R195). -/
def planeWidth (f w comp : Nat) : Nat := if pix422 f && comp != 1 then w / 2 else w

/-! ### Packing: one little-endian bit stream (R129) -/

/-- The bits of a sample, least significant first. -/
def sampleBits (d v : Nat) : List Bool := (List.range d).map (bitOf v)

/-- Bits to bytes, least significant bit of the lowest byte first. -/
def bitsBytesLe (bs : List Bool) : List Byte :=
  (chunks 8 bs).map (fun c => BitVec.ofNat 8 (c.foldr (fun b a => 2 * a + b2n b) 0))

/-- Samples packed under R129. -/
def packSamples (d : Nat) (vs : List Nat) : List Byte := bitsBytesLe (vs.flatMap (sampleBits d))

/-- The bits of bytes, least significant first. -/
def bytesBitsLe (bs : List Byte) : List Bool := bs.flatMap (fun b => sampleBits 8 b.toNat)

/-- `n` samples unpacked under R129; absent bits count as 0. -/
def unpackSamples (d n : Nat) (bs : List Byte) : List Nat :=
  let bits := bytesBitsLe bs
  ((chunks d (bits ++ List.replicate (d * n - bits.length) false)).take n).map
    (fun c => c.foldr (fun b a => 2 * a + b2n b) 0)

/-- One row of components as its samples in the order of R128. -/
def interleave (f : Nat) (rows : List (List Nat)) : List Nat :=
  if pix422 f then
    let cb := rows.getD 0 []
    let y := rows.getD 1 []
    let cr := rows.getD 2 []
    (List.range cb.length).flatMap (fun i => [cb.getD i 0, y.getD (2 * i) 0, cr.getD i 0, y.getD (2 * i + 1) 0])
  else (List.range (rows.headD []).length).flatMap (fun i => rows.map (fun r => r.getD i 0))

/-- Samples in the order of R128 as one row of components. -/
def deinterleave (f : Nat) (vs : List Nat) : List (List Nat) :=
  if pix422 f then
    let g := chunks 4 vs
    [g.map (fun c => c.getD 0 0), g.flatMap (fun c => [c.getD 1 0, c.getD 3 0]), g.map (fun c => c.getD 2 0)]
  else
    let g := chunks (pixComps f) vs
    (List.range (pixComps f)).map (fun k => g.map (fun c => c.getD k 0))

/-- Rows of a unit, each as its component rows. -/
def unitRow (u : List Plane) (i : Nat) : List (List Nat) := u.map (fun p => p.getD i [])

/-- The raw bytes of a unit: its rows packed in turn, each from a byte boundary or within the tile's stream (R129, R130:
a tile restarts the stream at its start). -/
def rawUnit (f : Nat) (u : List Plane) : List Byte :=
  packSamples (pixDepth f) ((List.range (u.headD []).length).flatMap (fun i => interleave f (unitRow u i)))

/-- The unit of `w` columns and `h` rows held in raw bytes. -/
def unrawUnit (f w h : Nat) (bs : List Byte) : List Plane :=
  let per := w * pixBpp f / pixDepth f
  let vs := unpackSamples (pixDepth f) (per * h) bs
  let rows := (chunks per vs).map (deinterleave f)
  (List.range (pixComps f)).map (fun k => rows.map (fun r => r.getD k []))

/-! ### Prediction and residuals (R197, R198) -/

/-- The predictor from the reconstructed neighbours (R197). -/
def wcsPredict (d : Nat) (left above corner : Option Nat) : Nat :=
  match left, above, corner with
  | none, none, _ => 2 ^ (d - 1)
  | some a, none, _ => a
  | none, some b, _ => b
  | some a, some b, some c =>
    if c ≥ max a b then min a b else if c ≤ min a b then max a b else a + b - c
  | some a, some _, none => a

/-- The quantised residual of a sample (R198). -/
def wcsResidual (q x p : Nat) : Int :=
  let e : Int := (x : Int) - (p : Int)
  if q == 0 then e
  else if e < 0 then - (((e.natAbs + 2 ^ (q - 1)) / 2 ^ q : Nat) : Int)
  else if e == 0 then 0
  else (((e.natAbs + 2 ^ (q - 1)) / 2 ^ q : Nat) : Int)

/-- The reconstructed sample (R198). -/
def wcsRecon (d q p : Nat) (r : Int) : Nat := (clampZ 0 (2 ^ d - 1 : Nat) ((p : Int) + r * (2 ^ q : Nat))).toNat

/-- The unsigned form of a residual (R198). -/
def wcsFold (r : Int) : Nat := if r ≥ 0 then (2 * r).toNat else (-2 * r - 1).toNat

/-- The residual of an unsigned form (R198). -/
def wcsUnfold (u : Nat) : Int := if u % 2 == 0 then (u / 2 : Nat) else - (((u + 1) / 2 : Nat) : Int)

/-- Code one row: the unsigned residuals and the reconstructed row. `above` is the row above with the sample to its left
first, `left` the sample before. -/
def wcsRow (d q : Nat) : Option Nat → Option Nat → List Nat → List Nat → List Nat × List Nat
  | _, _, _, [] => ([], [])
  | left, corner, above, x :: xs =>
    let p := wcsPredict d left above.head? corner
    let r := wcsResidual q x p
    let c := wcsRecon d q p r
    let (us, cs) := wcsRow d q (some c) above.head? (above.drop 1) xs
    (wcsFold r :: us, c :: cs)

/-- Code the rows of a plane: its unsigned residuals in raster order (R196). -/
def wcsPlaneRows (d q : Nat) : List Nat → Plane → List Nat
  | _, [] => []
  | above, row :: rest =>
    let (us, cs) := wcsRow d q none none above row
    us ++ wcsPlaneRows d q cs rest

/-- The unsigned residuals of a plane. -/
def wcsPlane (d q : Nat) (p : Plane) : List Nat := wcsPlaneRows d q [] p

/-- The bits of a number, most significant first. -/
def msbBits (n v : Nat) : List Bool := (List.range n).map (fun i => bitOf v (n - 1 - i))

/-- Length in bits of one Rice code (R198). -/
def riceLen (d q k u : Nat) : Nat := if u / 2 ^ k < 24 then u / 2 ^ k + 1 + k else 24 + (d - q + 2)

/-- One Rice code (R198). -/
def riceBits (d q k u : Nat) : List Bool :=
  if u / 2 ^ k < 24 then List.replicate (u / 2 ^ k) false ++ [true] ++ msbBits k u
  else List.replicate 24 false ++ msbBits (d - q + 2) u

/-- Length in bits of a plane under a Rice parameter. -/
def planeLen (d q k : Nat) (us : List Nat) : Nat := us.foldl (fun a u => a + riceLen d q k u) 0

/-- The smallest Rice parameter from 0 to d that gives the shortest plane (R199). -/
def bestK (d q : Nat) (us : List Nat) : Nat :=
  ((List.range (d + 1)).foldl (fun (best : Nat × Nat) k =>
    let l := planeLen d q k us
    if k == 0 || l < best.2 then (k, l) else best) (0, 0)).1

/-- The coded bits of a unit for a quantiser (R196). -/
def wcsBits (d q : Nat) (u : List Plane) : List Bool :=
  let us := u.map (wcsPlane d q)
  let ks := us.map (bestK d q)
  msbBits 4 q ++ ks.flatMap (msbBits 4) ++ (List.zip us ks).flatMap (fun x => x.1.flatMap (riceBits d q x.2))

/-- The mean of a plane's samples, rounded half up (R199). -/
def planeMean (p : Plane) : Nat :=
  let vs := p.flatten
  let n := max 1 vs.length
  (2 * vs.foldl (· + ·) 0 + n) / (2 * n)

/-- A flat unit (R196, R199). -/
def flatBits (d : Nat) (u : List Plane) : List Bool :=
  msbBits 4 15 ++ u.flatMap (fun p => msbBits d (planeMean p))

/-- A WCS-F unit of exactly `b` bytes (R199). -/
def encodeF (d b : Nat) (u : List Plane) : List Byte :=
  let bits := (((List.range (d + 1)).map (fun q => wcsBits d q u)).find? (fun x => x.length ≤ 8 * b)).getD (flatBits d u)
  padTo b (bitsBytes' bits)
where
  /-- Bits to bytes, most significant bit first, the last byte filled with zeros (R195). -/
  bitsBytes' (bs : List Bool) : List Byte :=
    (chunks 8 bs).map (fun c => BitVec.ofNat 8 ((c.foldl (fun a x => 2 * a + b2n x) 0) * 2 ^ (8 - c.length)))

/-! ### Decoding (R135, R201) -/

/-- Count leading zero bits up to 24. -/
def leadZeros : Nat → List Bool → Option (Nat × List Bool)
  | 0, bs => some (24, bs)
  | f + 1, false :: t => (leadZeros f t).map (fun r => (r.1, r.2))
  | f + 1, true :: t => some (23 - f, t)
  | _ + 1, [] => none

/-- Read an `n`-bit field, most significant bit first. -/
def takeBits (n : Nat) (bs : List Bool) : Option (Nat × List Bool) :=
  if bs.length < n then none else some ((bs.take n).foldl (fun a x => 2 * a + b2n x) 0, bs.drop n)

/-- Read one Rice code (R198). -/
def readRice (d q k : Nat) (bs : List Bool) : Option (Nat × List Bool) :=
  match leadZeros 24 bs with
  | none => none
  | some (n, t) =>
    if n < 24 then (takeBits k t).map (fun r => (n * 2 ^ k + r.1, r.2))
    else takeBits (d - q + 2) t

/-- Decode one row of `n` samples; stops where the stream ends. -/
def decodeRow (d q k : Nat) : Nat → Option Nat → Option Nat → List Nat → List Bool → List Nat × Option (List Bool)
  | 0, _, _, _, bs => ([], some bs)
  | n + 1, left, corner, above, bs =>
    match readRice d q k bs with
    | none => ([], none)
    | some (u, t) =>
      let c := wcsRecon d q (wcsPredict d left above.head? corner) (wcsUnfold u)
      let (cs, r) := decodeRow d q k n (some c) above.head? (above.drop 1) t
      (c :: cs, r)

/-- Decode the rows of a plane; after the stream has ended the rest is the last sample decoded, or 0 (R135, R201). -/
def decodeRows (d q k w : Nat) : Nat → Nat → List Nat → Option (List Bool) → Plane × Option (List Bool)
  | 0, _, _, bs => ([], bs)
  | h + 1, last, above, bs =>
    match bs with
    | none =>
      let row := List.replicate w last
      let (rows, r) := decodeRows d q k w h last row none
      (row :: rows, r)
    | some b =>
      let (cs, r) := decodeRow d q k w none none above b
      let last' := cs.getLast?.getD last
      let row := cs ++ List.replicate (w - cs.length) last'
      let (rows, r') := decodeRows d q k w h last' row r
      (row :: rows, r')

/-- Decode the planes of a unit one after another. -/
def decodePlanes (d q : Nat) (h : Nat) : List (Nat × Nat) → Option (List Bool) → List Plane × Option (List Bool)
  | [], bs => ([], bs)
  | (w, k) :: rest, bs =>
    let (p, r) := decodeRows d q k w h 0 [] bs
    let (ps, r') := decodePlanes d q h rest r
    (p :: ps, r')

/-- Read a list of fixed-width fields; absent bits read as 0 and end the stream. -/
def takeFields (n : Nat) : Nat → List Bool → List Nat × Option (List Bool)
  | 0, bs => ([], some bs)
  | c + 1, bs =>
    match takeBits n bs with
    | none => (List.replicate (c + 1) 0, none)
    | some (v, t) =>
      let (vs, r) := takeFields n c t
      (v :: vs, r)

/-- A decoded unit, and whether it was corrupt. -/
structure DecodedUnit where
  planes : List Plane
  corrupt : Bool
  deriving DecidableEq, Repr

/-- Decode a coded unit of format `f` with `w` columns and `h` rows from exactly the bytes given (R135, R195 to R201). -/
def decodeUnit (f w h : Nat) (bytes : List Byte) : DecodedUnit :=
  let d := pixDepth f
  let n := pixComps f
  let widths := (List.range n).map (planeWidth f w)
  match takeBits 4 (bytesBits bytes) with
  | none => { planes := widths.map (fun x => List.replicate h (List.replicate x 0)), corrupt := true }
  | some (q0, t) =>
    if q0 == 15 then
      let (vs, r) := takeFields d n t
      { planes := (List.zip widths vs).map (fun x => List.replicate h (List.replicate x.1 x.2)), corrupt := r.isNone }
    else
      let q := min q0 d
      let (ks, r) := takeFields 4 n t
      let (ps, r') := decodePlanes d q h (List.zip widths ks) r
      { planes := ps, corrupt := r'.isNone || decide (q0 > d) }

/-- A WCS-L tile (R134, R200): the kind, the units and the bytes of its slot. -/
def encodeL (f slot : Nat) (u : List Plane) : Nat × Nat × List Byte :=
  let d := pixDepth f
  let first := unitRow u 0
  let px := if pix422 f then [first.getD 0 [] |>.take 1, first.getD 1 [] |>.take 2, first.getD 2 [] |>.take 1]
    else first.map (List.take 1)
  let solid :=
    (if pix422 f then (u.getD 1 []).all (fun r => r.all (fun v => v == ((first.getD 1 []).headD 0)))
     else true) &&
    u.all (fun p => p.all (fun r => r.all (fun v => v == ((p.headD []).headD 0))))
  if solid then (2, 1, padTo 32 (packSamples d (interleave f px)))
  else
    let bits := wcsBits d 0 u
    if bits.length ≤ 8 * slot then
      let n := cdiv (cdiv bits.length 8) 32
      (0, n, padTo (32 * n) (encodeF.bitsBytes' bits))
    else (1, slot / 32, rawUnit f u)

/-- Bytes of a tile's slot that its index entry gives to be read (R134, R135): none or too many units stand for the slot. -/
def unitBytes (units slot : Nat) : Nat := if units == 0 || units * 32 ≥ slot then slot else 32 * units

/-- The samples of the last pixel in a group: of a 4:2:2 pair, the second pixel. -/
def lastPixel (f : Nat) (g : List Nat) : List Nat :=
  if pix422 f then [g.getD 0 0, g.getD 3 0, g.getD 2 0, g.getD 3 0] else g

/-- A raw tile of which fewer bytes are read than it has (R135): the pixels that are not whole in them are filled as those of a
coded stream are, with the last one, or with zero (DESIGN CHOICE, log 177). -/
def unrawShort (f : Nat) (bytes : List Byte) : List Plane :=
  let d := pixDepth f
  let per := if pix422 f then 4 else pixComps f
  let total := 1024 * pixBpp f / d / per
  let m := min total (8 * bytes.length / (per * d))
  let vs := unpackSamples d (per * m) bytes
  let fill := if m == 0 then List.replicate per 0 else lastPixel f (vs.drop (per * (m - 1)))
  let rows := (chunks (64 * pixBpp f / d) (vs ++ (List.replicate (total - m) fill).flatten)).map (deinterleave f)
  (List.range (pixComps f)).map (fun k => rows.map (fun r => r.getD k []))

/-- A WCS-L tile from its index entry and its slot (R134, R135): kind, units, and the slot's bytes. -/
def decodeL (f kind units slot : Nat) (bytes : List Byte) : DecodedUnit :=
  let bad := units == 0 || units * 32 > slot
  let n := unitBytes units slot
  match kind with
  | 0 => let r := decodeUnit f 64 16 (bytes.take n); { r with corrupt := r.corrupt || bad }
  | 1 =>
    if n == slot then { planes := unrawUnit f 64 16 (bytes.take slot), corrupt := bad }
    else { planes := unrawShort f (bytes.take n), corrupt := true }
  | 2 =>
    let one := deinterleave f (unpackSamples (pixDepth f) (if pix422 f then 4 else pixComps f) (bytes.take 32))
    { planes := (List.range (pixComps f)).map (fun k =>
        let w := planeWidth f 64 k
        let src := one.getD k []
        List.replicate 16 ((List.range w).map (fun i => src.getD (i % max 1 src.length) 0)))
      corrupt := bad }
  | _ => { planes := (List.range (pixComps f)).map (fun k => List.replicate 16 (List.replicate (planeWidth f 64 k) 0)),
           corrupt := true }

/-! ### Layouts (R130 to R132) -/

/-- Whether a layout code is assigned (R130). -/
def layoutLegal (l : Nat) : Bool := l == 0 || l == 2 || l == 3 || l == 4 || l == 8 || l == 9
/-- Whether a layout is a WCS layout. -/
def layoutWcs (l : Nat) : Bool := l == 0 || l == 2 || l == 3 || l == 4
/-- Tiles across (R131). -/
def tilesX (w : Nat) : Nat := cdiv w 64
/-- Tiles down (R131). -/
def tilesY (h : Nat) : Nat := cdiv h 16
/-- Slot size in bytes (R132). -/
def slotSize (layout fmt : Nat) : Nat :=
  match layout with
  | 2 | 3 | 4 => cdiv (cdiv (128 * pixBpp fmt) layout) 32 * 32
  | 9 => 0
  | _ => 128 * pixBpp fmt
/-- data_offset (R132). -/
def dataOffset (layout tiles : Nat) : Nat :=
  match layout with
  | 0 => cdiv (0x40 + 2 * tiles) 256 * 256
  | 2 | 3 | 4 => 0x100
  | _ => 0
/-- Smallest surface size (R132). -/
def surfaceSize (layout fmt stride w h : Nat) : Nat :=
  if layout == 9 then stride * h
  else dataOffset layout (tilesX w * tilesY h) + tilesX w * tilesY h * slotSize layout fmt
/-- Packed length of a linear row, rounded up to 32 bytes (R130). -/
def linearRow (fmt w : Nat) : Nat := cdiv (cdiv (w * pixBpp fmt) 8) 32 * 32

end Sys2Proof.Machine
end

