-- ==== Sys2Proof/Machine/Surfaces.lean ====
section
/-! DEFINITION. Surfaces and flacons (spec/06_surfaces_and_flacons.md, R130 to R145). -/

namespace Sys2Proof.Machine

/-- The entry that four register values spell (R140, R147); byte units. -/
def entryOf (base fmt dim size : Nat) : FlaconEntry :=
  { region := bitsOf base 31 31, base := bitsOf base 30 0 * 256, stride := bitsOf fmt 31 16 * 32,
    layout := bitsOf fmt 15 12, fmt := bitsOf fmt 11 8, colorimetry := bitsOf fmt 7 6, tcs := bitsOf fmt 5 4,
    width := bitsOf dim 31 16, height := bitsOf dim 15 0, size := size }

/-- The entry of flacon `n`. -/
def flaconEntry (s : State) (n : Nat) : FlaconEntry :=
  entryOf (regWord s (F.FLACON_BASE_region.addr n)).toNat (regWord s (F.FLACON_FMT_stride.addr n)).toNat
    (regWord s (F.FLACON_DIM_width.addr n)).toNat (fldAt s F.FLACON_SIZE_size n)

/-- Flacons of the role (R15). -/
def flaconCount (s : State) : Nat := if isSender s then 256 else 64

/-- State code of flacon `n` (R137). -/
def flaconState (s : State) (n : Nat) : Nat := fldAt s F.FLACON_STAT_state n

/-- Whether flacon `n` is fenced (R142). -/
def fenced (s : State) (n : Nat) : Bool := flagAt s F.FLACON_STAT_fenced n

/-- Full F of the latest latch of flacon `n` (R142). -/
def fenceFrame (s : State) (n : Nat) : Nat := smGet (fun _ => 0) s.flac.fences n

/-- The check of R140 that an entry fails first, as its status, or none. -/
def bindCheck (s : State) (n : Nat) (e : FlaconEntry) : Option Nat :=
  if n ≥ flaconCount s then some 0x04
  else if regionSize s e.region == 0 || e.base + e.size > regionSize s e.region then some 0x04
  else if fenced s n || flaconState s n == 4 then some 0x06
  else if !(layoutLegal e.layout) || !(pixLegal e.fmt) || e.colorimetry == 3 || e.tcs == 3
      || (if e.layout == 9 then e.stride == 0 || decide (e.stride < linearRow e.fmt e.width) else e.stride != 0)
      || (pix422 e.fmt && e.width % 2 == 1) then some 0x06
  else if e.width == 0 || e.width > 8192 || e.height == 0 || e.height > 4320 then some 0x0F
  else if e.size < surfaceSize e.layout e.fmt e.stride e.width e.height then some 0x0F
  else none

/-- The WCS header's words 0 to 14 (R133). -/
def wcsHeaderWords (e : FlaconEntry) : List Nat :=
  let tx := tilesX e.width
  let ty := tilesY e.height
  [0x57435331,
   0x01 * 2 ^ 24 + e.layout * 2 ^ 20 + e.fmt * 2 ^ 16 + e.colorimetry * 2 ^ 14 + e.tcs * 2 ^ 12,
   e.width * 2 ^ 16 + e.height, tx * 2 ^ 16 + ty, if e.layout == 0 then 0x40 else 0,
   dataOffset e.layout (tx * ty), slotSize e.layout e.fmt, 0, 0, 0, 0, 0, 0, 0, 0]

/-- The 64 header bytes, with hcheck over words 0 to 14 as they lie in memory (R133). -/
def wcsHeader (e : FlaconEntry) : List Byte :=
  let b := (wcsHeaderWords e).flatMap (leBytes 4)
  b ++ leBytes 4 (crc32c b)

/-- The bind pixel of a format, packed, with the rest of the 32 bytes 0 (R140). -/
def bindPixel (fmt : Nat) : List Byte :=
  let d := pixDepth fmt
  let y := 16 * 2 ^ (d - 8)
  let c := 128 * 2 ^ (d - 8)
  padTo 32 (packSamples d (
    if pix422 fmt then [c, y, c, y] else if pixRgb fmt then (if pixAlpha fmt then [y, y, y, 0] else [y, y, y]) else [c, y, c]))

/-- What FLACON_BIND writes into the surface: the header of a WCS layout, and for WCS-L a solid index and bind pixels
(R134, R140), through port SURF (R154). -/
def bindSurface (e : FlaconEntry) (s : State) : State :=
  if layoutWcs e.layout then
    let s := portWrite 11 e.region e.base (wcsHeader e) s
    if e.layout == 0 then
      let n := tilesX e.width * tilesY e.height
      let off := dataOffset 0 n
      let slot := slotSize 0 e.fmt
      let px := bindPixel e.fmt
      forEach (List.range n) (fun t st =>
        portWrite 11 e.region (e.base + off + t * slot) px
          (portWrite 11 e.region (e.base + 0x40 + 2 * t) (leBytes 2 0x8001) st)) s
    else s
  else s

/-- Bytes of the ingest buffer (R125). -/
def ingestBytes : Nat := 0x400000

/-- Bytes that wait in the ingest buffer. -/
def ingestUsed (s : State) : Nat := s.eth.flows.foldl (fun a f => a + f.buf.foldl (fun b p => b + p.size) 0) 0

/-- Show the fill in percent. -/
def showFill (s : State) : State := setFld F.INGEST_OVL_fill (ingestUsed s * 100 / ingestBytes) s

/-- Distance from extended sequence number `a` forward to `b`, modulo 2³². -/
def seqAhead (a b : Nat) : Nat := (b + 2 ^ 32 - a) % 2 ^ 32

/-- Whether `b` comes after `a` in the order of extended sequence numbers. -/
def seqAfter (a b : Nat) : Bool := decide (0 < seqAhead a b) && decide (seqAhead a b < 2 ^ 31)

/-- The last of extended sequence numbers, counted on from one that is known. -/
def seqLast (x : Option Nat) (l : List Nat) : Option Nat :=
  l.foldl (fun b y => match b with
    | none => some y
    | some z => if seqAfter z y then some y else b) x

/-- A flow's open frame in flacon `n` is abandoned and not published (R120, R140, R143): its packets that wait are discarded
and counted as shed, its later packets are discarded too, and the next frame begins after them (DESIGN CHOICE, log 167). -/
def abandonFrame (n : Nat) (s : State) : State :=
  forEach (List.range 16) (fun k st =>
    match (st.eth.flows.getD k {}).frame with
    | some o =>
      if o.flacon == n then
        let gone := ((st.eth.flows.getD k {}).buf).filter (fun p => p.rtp == o.rtp)
        let st := { st with eth := { st.eth with flows := updAt (fun f =>
          { f with
            frame := none
            abandoned := some o.rtp
            prevLast := seqLast f.prevLast (gone.map FlowPkt.seq)
            buf := f.buf.filter (fun p => p.rtp != o.rtp) }) st.eth.flows k } }
        let st := showFill (addFldAt F.FLOW_SHED_count k gone.length st)
        raise Src.FLOW_FRAME_DROP (incFldAt F.FLOW_STAT_frames_dropped k st)
      else st
    | none => st) s

/-- FLACON_BIND of words 1 to 4 (R140): the entry, the header, index and bind pixels, state bound. -/
def bindFlacon (n base fmt dim size : Nat) (s : State) : State :=
  let wasFilling := flaconState s n == 2
  let s := setInst F.FLACON_BASE_region n (BitVec.ofNat 32 base) s
  let s := setInst F.FLACON_FMT_stride n (BitVec.ofNat 32 (fmt / 16 * 16)) s
  let s := setInst F.FLACON_DIM_width n (BitVec.ofNat 32 dim) s
  let s := setFldAt F.FLACON_SIZE_size n size s
  let s := bindSurface (flaconEntry s n) s
  let s := when wasFilling (abandonFrame n) s
  setFlagAt F.FLACON_STAT_early_release n false (setFldAt F.FLACON_STAT_state n 1 s)

/-- FLACON_RELEASE (R143). -/
def releaseFlacon (n : Nat) (s : State) : State :=
  let st := flaconState s n
  if st == 0 || st == 4 then s
  else if fenced s n then
    let s := when (st == 2) (abandonFrame n) s
    raise Src.SURF_EARLY_RELEASE (setFlagAt F.FLACON_STAT_early_release n true (setFldAt F.FLACON_STAT_state n 4 s))
  else setFldAt F.FLACON_STAT_state n 0 (when (st == 2) (abandonFrame n) s)

/-- The composition unit has finished every read of a flacon for its latest latched frame: the fence clears, and a releasing
flacon becomes free (R142, R143). -/
def clearFence (n : Nat) (s : State) : State :=
  let s := setFlagAt F.FLACON_STAT_fenced n false s
  if flaconState s n == 4 then setFldAt F.FLACON_STAT_state n 0 s else s

/-- The composition unit latches flacon `n` for frame `f`: it is fenced, with that frame recorded, until the time `ends` at
the latest (R138, R142). -/
def latchFlacon (n f ends : Nat) (s : State) : State :=
  let s := setFlagAt F.FLACON_STAT_fenced n true (setFldAt F.FLACON_STAT_fence_frame n (f % 65536) s)
  { s with flac := { s.flac with
      fences := smPut (fun _ => 0) s.flac.fences n f
      fenceEnds := smPut (fun _ => 0) s.flac.fenceEnds n ends } }

/-- Whether a latch of flacon `n` is refused: it is free or releasing, or lies in DRAM that is not ready (R138, R152). -/
def latchRefused (s : State) (n : Nat) : Bool :=
  flaconState s n == 0 || flaconState s n == 4 || ((flaconEntry s n).region == 1 && !flag s F.DRAM_STAT_ready)

/-- A latch request is refused: SURF_LATCH_REFUSED once per flacon and latch point (R138). -/
def refuseLatch (n : Nat) (s : State) : State :=
  if s.flac.refused.contains n then s
  else raise Src.SURF_LATCH_REFUSED { s with flac := { s.flac with refused := n :: s.flac.refused } }

/-- The fences whose time has passed are clear (R142). -/
def settleFences (s : State) : State :=
  forEach (List.range (flaconCount s)) (fun n st =>
    when (fenced st n && decide (smGet (fun _ => 0) st.flac.fenceEnds n ≤ st.time.mono)) (clearFence n) st) s

/-! ### Reading a surface (R129 to R135, R201) -/

/-- The bytes of tile `t`'s slot. -/
def tileSlot (s : State) (e : FlaconEntry) (t : Nat) : List Byte :=
  let n := tilesX e.width * tilesY e.height
  let slot := slotSize e.layout e.fmt
  memBytes s e.region (e.base + dataOffset e.layout n + t * slot) slot

/-- Tile `t` of a tiled or WCS surface, decoded (R130, R134, R135). -/
def readTile (s : State) (e : FlaconEntry) (t : Nat) : DecodedUnit :=
  let b := tileSlot s e t
  if e.layout == 8 then { planes := unrawUnit e.fmt 64 16 b, corrupt := false }
  else if e.layout == 0 then
    let i := leNat (memBytes s e.region (e.base + 0x40 + 2 * t) 2)
    decodeL e.fmt (i / 2 ^ 14) (i % 256) (slotSize 0 e.fmt) b
  else decodeUnit e.fmt 64 16 b

/-- Component samples of row `y`, columns `x` to `x + n − 1` of a linear surface. -/
def linearRowComps (s : State) (e : FlaconEntry) (y : Nat) : List (List Nat) :=
  let b := memBytes s e.region (e.base + y * e.stride) (cdiv (e.width * pixBpp e.fmt) 8)
  deinterleave e.fmt (unpackSamples (pixDepth e.fmt) (e.width * pixBpp e.fmt / pixDepth e.fmt) b)

/-- The sample of component `k` at pixel (x, y) of a plane set; a 4:2:2 chroma sample lies at x / 2. -/
def compAt (fmt k x : Nat) (row : List (List Nat)) : Nat :=
  (row.getD k []).getD (if pix422 fmt && k != 1 then x / 2 else x) 0

/-- The raw component samples of pixel (x, y) of a surface. -/
def pixelComps (s : State) (e : FlaconEntry) (x y : Nat) : List Nat :=
  if e.layout == 9 then
    let row := linearRowComps s e y
    (List.range (pixComps e.fmt)).map (fun k => compAt e.fmt k x row)
  else
    let u := readTile s e (y / 16 * tilesX e.width + x / 64)
    let row := unitRow u.planes (y % 16)
    (List.range (pixComps e.fmt)).map (fun k => compAt e.fmt k (x % 64) row)

/-! ### Rows of the opcode table -/

/-- FENCE_CLEAR (R142). -/
def execFenceClear (n : Nat) (s : State) : Host.Outcome State Fault Refusal :=
  .next (whenOn 16 (fun st =>
    let st := settleFences st
    when (fenced st n) (clearFence n) st) s)

end Sys2Proof.Machine
end

