-- ==== Sys2Proof/Machine/ScanPlan.lean ====
section
/-! DEFINITION. The class B settings and their checks: which registers they are (R332), the packing map (R213, R214), the
scan configuration (R244), and the checks of an epoch change (R334). A set of settings is read through a word reader, so
that the same checks serve the settings in force, the registers and a staged set. -/

namespace Sys2Proof.Machine

/-! ### Class B registers (R332) -/

/-- The class B bits of the register at an address; 0 for a register that has none. -/
def classBMask (a : Nat) : Nat :=
  if a == F.WT_REC_0_rate.base || a == F.WT_REC_1_offset.base || a == F.COMP_WIN_x0.base || a == F.LL_GEOM_mux.base
      || a == F.LL_SCAN_s_log2.base || a == F.LL_WIN_blank.base || a == F.PACK_CFG_drivers.base then 0xFFFFFFFF
  else if a == F.COMP_TIMING_latch_lead.base then 0xFFFF0000
  else if F.LL_GRP_CFG_trim.base ≤ a && a < F.LL_GRP_CFG_trim.base + 64 && a % 4 == 0 then 0xF
  else if F.TMAP_HI_x0.base ≤ a && a < F.TMAP_HI_x0.base + 0x3800 && a % 4 == 0 then 0xFFFFFFFF
  else 0

/-- The class B registers of a tile's wall timing record. -/
def recordAddrs : List Nat := [F.WT_REC_0_rate.base, F.WT_REC_1_offset.base]

/-- The class B registers whose words differ from the set in force, with the words they hold (R335). -/
def classBDiff (s : State) : List (Nat × Word) :=
  let keys := (s.regs.map Prod.fst ++ s.wt.force.map Prod.fst).filter (fun a => classBMask a != 0)
  (keys.filter (fun a =>
    Nat.land (Nat.xor (regWord s a).toNat (forceWord s a).toNat) (classBMask a) != 0)).eraseDups.map
      (fun a => (a, regWord s a))

/-- Bring registers into force from frame `f` on (R333, R335): the set before governs the frames before. -/
def adoptFrom (f : Nat) (addrs : List Nat) (s : State) : State :=
  let w := s.wt
  let old := if w.since == f && f != 0 then w.forceOld else w.force
  let new := (addrs.filter (fun a => classBMask a != 0)).foldl (fun m a => smPut resetWord m a (regWord s a)) w.force
  showPhase { s with wt := { w with force := new, forceOld := old, since := f } }

/-! ### The packing map (R213, R214) -/

/-- The map that class B words spell. -/
def mapOf (w : Nat → Word) : MapSet :=
  let f (x : Fld) : Nat := bitsOf (w x.base).toNat x.hi x.lo
  { w := f F.LL_GEOM_width, h := f F.LL_GEOM_height, m := f F.LL_GEOM_mux + 1, n := f F.PACK_CFG_lamps + 1,
    order := f F.PACK_CFG_slot_order, d := f F.PACK_CFG_drivers + 1, c := f F.PACK_CFG_channels,
    halves := f F.PACK_CFG_halves + 1 }

/-- The slot at position `p` of the slot order: position 0 in the two highest bits. -/
def MapSet.slotAt (x : MapSet) (p : Nat) : Nat := x.order / 4 ^ (3 - p) % 4

/-- wh, the width of a half. -/
def MapSet.wh (x : MapSet) : Nat := x.w / x.halves
/-- cap, the channels of a lane. -/
def MapSet.cap (x : MapSet) : Nat := x.d * x.c
/-- lb, the lanes of a band. -/
def MapSet.lb (x : MapSet) : Nat := cdiv (x.wh * x.n) (max 1 x.cap)
/-- Lanes of each half that the map uses. -/
def MapSet.lanesPerHalf (x : MapSet) : Nat := cdiv x.h x.m * x.lb

/-- The lanes that the map uses. -/
def MapSet.lanes (x : MapSet) : List Nat :=
  (List.range x.halves).flatMap (fun k => (List.range x.lanesPerHalf).map (fun i => 64 * k + i))

/-- Where a lamp lies: lane, driver, channel and scan row (R213). -/
def MapSet.place (m : MapSet) (x y p : Nat) : Nat × Nat × Nat × Nat :=
  let half := x / max 1 m.wh
  let xl := x - half * m.wh
  let ch := xl * m.n + p
  (64 * half + y / m.m * m.lb + ch / max 1 m.cap, ch % max 1 m.cap / max 1 m.c, ch % max 1 m.c, y % m.m)

/-- Bytes of a correction area (R207). -/
def MapSet.corrBytes (x : MapSet) : Nat := 32 * x.w * x.h

/-- Region and byte offset of correction area `b` (R207). -/
def corrBase (s : State) (b : Nat) : Nat × Nat :=
  let w := if b == 0 then (regWord s 0x200008).toNat else (regWord s 0x20000C).toNat
  (bitsOf w 31 31, bitsOf w 30 0 * 256)

/-- Whether the correction area in use is reachable (R207, R214 reason 4h). -/
def corrReachable (s : State) (x : MapSet) : Bool :=
  let (r, o) := corrBase s (fld s F.PIPE_BANK_corr)
  decide (o + x.corrBytes ≤ regionSize s r) && (r == 1 || decide (x.w * x.h ≤ 393216))

/-- The first check of R214 that a map fails; 0 for none. -/
def mapReason (s : State) (x : MapSet) : Nat :=
  let ps := (List.range x.n).map x.slotAt
  if x.lanesPerHalf > 64 then 1
  else if x.halves == 2 && x.w % 2 == 1 then 2
  else if x.c == 0 || x.c > 48 || !ps.eraseDups.length == ps.length then 3
  else if !corrReachable s x then 4
  else 0

/-! ### The scan configuration (R244) -/

/-- The scan settings beside the map. -/
structure ScanSet where
  rate : Option (Nat × Nat)
  views : Nat
  s : Nat
  div : Nat
  window : Nat
  blank : Nat
  deriving DecidableEq, Repr

/-- The scan settings that class B words spell. -/
def scanOf (w : Nat → Word) : ScanSet :=
  let f (x : Fld) : Nat := bitsOf (w x.base).toNat x.hi x.lo
  { rate := frameRate (f F.WT_REC_0_rate), views := f F.WT_REC_0_views + 1, s := 2 ^ f F.LL_SCAN_s_log2,
    div := f F.LL_SCAN_gclk_div, window := f F.LL_WIN_window, blank := f F.LL_WIN_blank }

/-- The first check of R244 that fails; 0 for none. -/
def scanReason (s : State) (w : Nat → Word) : Nat :=
  let m := mapOf w
  let x := scanOf w
  match x.rate with
  | none => 3
  | some (n, d) =>
    let rows := n * x.views * x.s * m.m
    let dead := if flag s F.LD_CTRL_blot_en then 80 else 20
    if m.w < 1 || m.w > 1024 || m.h < 1 || m.h > 576 || mapReason s m != 0 then 1
    else if x.blank < 4 || x.window < 1 || rows * ((x.blank + x.window) * 5 * (x.div + 1) + dead) > d * 10 ^ 9 then 2
    else if n * x.views * x.s > 7680 * d || rows * 1280 > d * 10 ^ 9 then 3
    else if n * ((cdiv (m.d * m.c) 2 + 2) * m.m * x.views + (m.d + 2)) > 10718750 * d then 4
    else if m.lanes.any (fun l => decide (fldAt s F.LL_CHAIN_found l < m.d)) then 5
    else 0

/-! ### Checks of a class B change (R324, R334) -/

/-- Whether a tile's window ends within L_total (R320). -/
def windowFits (w : Nat → Word) : Bool :=
  let f (x : Fld) : Nat := bitsOf (w x.base).toNat x.hi x.lo
  decide (f F.COMP_WIN_y0 + f F.LL_GEOM_height ≤ f F.WT_REC_0_lines)

/-- Whether every lag_v is at most 1 (R324). -/
def lagsOk (s : State) (w : Nat → Word) : Bool :=
  match swapSetOf s w with
  | none => false
  | some x => (List.range x.views).all (fun v => decide ((swapPlace x v).2 ≤ 1))

/-- The reason of WT_STAT that a tile's settings give, 0 for none; a map or scan that fails R214 or R244 has a reason of its
own in LL_STAT and PIPE_STAT. -/
def tileTimingReason (s : State) (w : Nat → Word) : Nat :=
  if !recordValid (w F.WT_REC_0_rate.base).toNat (w F.WT_REC_1_offset.base).toNat then 1
  else if !windowFits w then 3
  else if !lagsOk s w then 6
  else 0

/-- Whether t_epoch_old(F + 1) is a frame boundary of a new rate (R334 check 3). -/
def commonBoundary (old new : Nat × Nat) (f : Nat) : Bool :=
  (f + 1) * old.2 * new.1 % (old.1 * new.2) == 0

/-- The checks of R334 on settings committed for epoch `f`: the reason that fails first, 0 for none. -/
def classBReason (s : State) (w : Nat → Word) (f : Nat) : Nat :=
  let w0 := (w F.WT_REC_0_rate.base).toNat
  if isSender s && flag s F.WT_STAT_no_master then 5
  else if !recordValid w0 (w F.WT_REC_1_offset.base).toNat then 1
  else if (match frameRate s.wt.rate, frameRate (bitsOf w0 7 0) with
      | some o, some n => o != n && !commonBoundary o n f
      | _, _ => false) then 2
  else if isTile s then
    (if !windowFits w then 3 else if !lagsOk s w then 6 else if scanReason s w != 0 then 7 else 0)
  else 0

end Sys2Proof.Machine
end

