-- ==== Sys2Proof/Machine/WallTiming.lean ====
section
/-! DEFINITION. Wall timing: the record, epochs, changes without epoch, the timing cause (spec/14_wall_timing.md, R318 to
R340). What crosses the UDP command port (R328, R331) stands in Cascade.lean. -/

namespace Sys2Proof.Machine

/-- The registers hold a valid record (R319). -/
def recordOk (s : State) : Bool :=
  recordValid (regWord s F.WT_REC_0_rate.base).toNat (regWord s F.WT_REC_1_offset.base).toNat

/-- A sender's record has been written: rec_valid follows (R319). -/
def recordWritten (s : State) : State :=
  if isSender s then setFlag F.WT_STAT_rec_valid (recordOk s) s else s

/-- The rate code of the record registers. -/
def recordRate (s : State) : Nat := fld s F.WT_REC_0_rate

/-- The first frame of a rate whose epoch is at or after `t` ns. -/
def firstFrom (r : Nat × Nat) (t : Nat) : Nat :=
  let q := frameAt r.1 r.2 (t * nsUnit)
  if epochNs r.1 r.2 q == t then q else q + 1

/-- Every frame that the machine holds by number changes its number from `f + a` to `f + b`. -/
def renumber (a b : Nat) (s : State) : State :=
  let r (f : Nat) : Nat := f + b - a
  { s with
    wt := { s.wt with
      since := r s.wt.since
      boundary := r s.wt.boundary
      latched := r s.wt.latched
      darkUntil := s.wt.darkUntil.map r
      change := s.wt.change.map (fun c => { c with start := r c.start })
      cut := s.wt.cut.map r }
    comp := { s.comp with
      frames := s.comp.frames.map (fun x => { x with frame := r x.frame })
      plans := s.comp.plans.map (fun l => l.map (fun x => { x with frame := r x.frame }))
      flowSeen := s.comp.flowSeen.map (fun o => o.map r) }
    lamp := { s.lamp with
      grid := s.lamp.grid.map (fun g => (r g.1, g.2))
      lastAdv := s.lamp.lastAdv.map (fun g => (r g.1, g.2))
      dryFrom := r s.lamp.dryFrom }
    red := { s.red with deferred := s.red.deferred.map r, held := s.red.held.map r } }

/-- A change of rate whose time has not come is forgotten. -/
def dropRate (s : State) : State :=
  match rateAhead s with
  | some c => setWt (fun w => { w with rate := c.rate, rateWas := none }) (renumber c.new c.old s)
  | none => s

/-- The rate of the record registers counts frames from `t` ns on, when it is another: F restarts at the new rate's index
(R333). -/
def queueRate (t : Nat) (s : State) : State :=
  let s := dropRate s
  let w := s.wt.rate
  if recordRate s == w then s
  else match frameRate w, frameRate (recordRate s) with
    | some o, some n =>
      let c : RateChange := { rate := w, start := t, old := firstFrom o t, new := firstFrom n t }
      setWt (fun x => { x with rate := recordRate s, rateWas := some c }) (renumber c.old c.new s)
    | _, _ => setWt (fun x => { x with rate := recordRate s, rateWas := none }) s

/-- The rate of the record registers counts frames from now on: the grid starts again. -/
def takeRate (s : State) : State :=
  let s := setWt (fun w => { w with rate := recordRate s, rateWas := none }) s
  setWt (fun w => { w with boundary := fCur s, latched := fCur s }) s

/-- A rate that has come into force counts frames from now on. -/
def settleRate (s : State) : State :=
  if (rateAhead s).isSome then s
  else setWt (fun w => { w with rateWas := w.rateWas.map (fun c => { c with done := true }) }) s

/-! ### WT_PEND on a sender (R331, R334) -/

/-- The pending epoch. -/
def pendFrame (s : State) : Nat := fld s F.WT_PEND_F_HI_value * 2 ^ 32 + fld s F.WT_PEND_F_LO_value

/-- A word reader in which the pending record stands for the record. -/
def withPend (s : State) (a : Nat) : Word :=
  if a == F.WT_REC_0_rate.base then regWord s F.WT_PEND_0_value.base
  else if a == F.WT_REC_1_offset.base then regWord s F.WT_PEND_1_value.base
  else regWord s a

/-- The reason for which WT_PEND does not arm, 0 for none (R331, R334). -/
def pendReason (s : State) : Nat :=
  let f := pendFrame s
  if !recordValid (regWord s F.WT_PEND_0_value.base).toNat (regWord s F.WT_PEND_1_value.base).toNat then 1
  else if f < fNow s + 2 then 5
  else classBReason s (withPend s) f

/-- A write to WT_PEND_F_LO on a sender arms, refuses or disarms (R331). -/
def pendWritten (s : State) : State :=
  if !isSender s then s
  else if pendFrame s == 0 then setFlag F.WT_STAT_pending false s
  else
    let r := pendReason s
    if r == 0 then setFld F.WT_STAT_reason 0 (setFlag F.WT_STAT_pending true s)
    else raise Src.WT_CONFIG (setFld F.WT_STAT_reason r (setFlag F.WT_STAT_pending false s))

/-- Class B words come into force from frame `f` on, after a tile's timing check and scan check (R320, R324, R244). One that
fails sets its reason and raises its event, the last settings that passed stay in force, and the words do not start a change
without epoch (R335). Before any have passed there are none to keep, and the words come into force (DEDUCED, log 26). -/
def adoptChecked (f : Nat) (addrs : List Nat) (s : State) : State :=
  if !isTile s then adoptFrom f addrs s
  else
    let w (a : Nat) : Word := if addrs.contains a then regWord s a else forceWord s a
    let keep (st : State) : State := setWt (fun x => { x with refused := some (classBDiff st) }) st
    let t := tileTimingReason s w
    if t > 1 && f != 0 && tileTimingReason s (forceWord s) == 0 then keep (raise Src.WT_CONFIG (setFld F.WT_STAT_reason t s))
    else
      let s := when (decide (t > 1)) (fun st => raise Src.WT_CONFIG (setFld F.WT_STAT_reason t st)) s
      if !domainOn s 5 then adoptFrom f addrs s
      else
        let r := scanReason s w
        let s := setFld F.LL_STAT_reason r s
        if r == 0 then adoptFrom f addrs { s with lamp := { s.lamp with everScan := true } }
        else
          let s := raise Src.LL_SCAN_INVALID s
          if s.lamp.everScan then keep s else adoptFrom f addrs s

/-- At the epoch the pending record is copied into WT_REC (R330, R331): the first boundary whose frame is at least F. It
governs the frames from the next one on, whose start a new rate begins to count (R333). -/
def pendApply (s : State) : State :=
  if flag s F.WT_STAT_pending && decide (pendFrame s ≤ fNow s) then
    let changed := regWord s F.WT_PEND_0_value.base != regWord s F.WT_REC_0_rate.base
      || regWord s F.WT_PEND_1_value.base != regWord s F.WT_REC_1_offset.base
    let s := setInst F.WT_REC_0_rate 0 (regWord s F.WT_PEND_0_value.base) s
    let s := setInst F.WT_REC_1_offset 0 (regWord s F.WT_PEND_1_value.base) s
    let s := setFlag F.WT_STAT_rec_valid (recordOk s) (setFlag F.WT_STAT_pending false s)
    let s := queueRate (tEpoch s (fCur s + 1)) s
    let s := adoptChecked (fCur s + 1) recordAddrs s
    when (isTile s && changed) (setWt (fun w => { w with cut := some (fCur s + 1) })) s
  else s

/-- Class B registers that a stage wrote at t_epoch(F) govern the frames from F + 1 on (R333). -/
def stageAdopt (addrs : List Nat) (s : State) : State :=
  let l := addrs.filter (fun a => classBMask a != 0)
  if l.isEmpty then s
  else
    let s := when (l.any (fun a => recordAddrs.contains a))
      (fun st => queueRate (tEpoch st (fCur st + 1)) (recordWritten st)) s
    let s := adoptChecked (fCur s + 1) l s
    when (isTile s) (setWt (fun w => { w with cut := some (fCur s + 1) })) s

/-! ### Changes without epoch at a tile (R335) -/

/-- The first latch point `f` that finds class B words different from the set in force starts a change without epoch: the
timing cause stands until relighting. -/
def detectChange (f : Nat) (s : State) : State :=
  let d := classBDiff s
  if d.isEmpty || s.wt.change.isSome || s.wt.refused == some d then s
  else
    let s := raise Src.WT_UNSCHEDULED s
    let rate := recordRate s != s.wt.rate && (frameRate (recordRate s)).isSome
    let s := setWt (fun w => { w with change := some { start := f + 2, rate := rate }, darkUntil := some (f + 3) }) s
    syncTiming s

/-- At t_epoch(F1 + 2) the new settings come into force, unless they fail the checks: then the last valid ones stay
(R324, R335, R244). A new rate counts from the first of its boundaries at or after t_epoch(F1 + 2), and the tile relights
at the frame after it. -/
def changeApply (s : State) : State :=
  match s.wt.change with
  | none => s
  | some c =>
    if fCur s < c.start then s
    else
      let s := setWt (fun w => { w with change := none }) s
      let r := tileTimingReason s (regWord s)
      let d := classBDiff s
      if r != 0 then
        raise Src.WT_CONFIG (setFld F.WT_STAT_reason r (setWt (fun w => { w with refused := some d }) s))
      else
        let s := setWt (fun w => { w with refused := none }) (setFlag F.WT_STAT_rec_valid true s)
        match c.rate, frameRate (recordRate s) with
        | true, some n =>
          let g := firstFrom n (tEpoch s (fCur s))
          let s := queueRate (epochNs n.1 n.2 g) s
          adoptChecked g (d.map Prod.fst) (setWt (fun w => { w with darkUntil := some (g + 1) }) s)
        | _, _ => adoptChecked (fCur s) (d.map Prod.fst) s

/-- A sender's directly written class B settings change its own grid and plan from its next latch point (R335). -/
def senderAdopt (f : Nat) (s : State) : State :=
  let d := classBDiff s
  if d.isEmpty then s else adoptFrom f (d.map Prod.fst) s

/-- A sender's directly written rate counts frames from this latch point on (R335): the next one is that of the first frame of
the new count. -/
def senderRate (s : State) : State :=
  let s := takeRate (dropRate s)
  adoptFrom (fCur s) ((classBDiff s).map Prod.fst) s

/-- The timing part of latch point F (R335, R336): a step that was not followed sets the cause until F + 3, and the cause of
either rule clears at its frame when no change waits. -/
def timingLatch (f : Nat) (s : State) : State :=
  let s := if isTile s then detectChange f s else senderAdopt f s
  let s :=
    if s.wt.stepDue then
      setWt (fun w => { w with stepDue := false, darkUntil := some (max (w.darkUntil.getD 0) (f + 3)) }) s
    else s
  let s := match s.wt.darkUntil with
    | some u => if u ≤ f && s.wt.change.isNone then setWt (fun w => { w with darkUntil := none }) s else s
    | none => s
  syncTiming s

/-- The timing part of a boundary: rates and records come into force. -/
def timingBoundary (s : State) : State := changeApply (pendApply (settleRate s))

/-! ### EPOCH_ANNOUNCE (R329, R330) -/

/-- Record words as bytes. -/
def wordBytes (s : State) (a : Nat) : List Byte := beBytes 4 (regWord s a).toNat

/-- A sender's EPOCH_ANNOUNCE of the present frame, on every ACTIVE ring port (R329). -/
def announceSend (s : State) : State :=
  if !isSender s || !dupAllowed s then s
  else
    let f := fNow s
    let s := runTo ((tEpoch s (fCur s) + 10000) * nsUnit) s
    let pf := if flag s F.WT_STAT_pending then pendFrame s else 0
    let spec := wordBytes s F.WT_REC_0_rate.base ++ wordBytes s F.WT_REC_1_offset.base ++ beBytes 8 pf
    let second := wordBytes s F.WT_PEND_0_value.base ++ wordBytes s F.WT_PEND_1_value.base ++
      beBytes 2 (fld s F.COMP_TIMING_latch_lead) ++ List.replicate 18 0
    forEach ((List.range 7).filter (portActive s))
      (fun p st => sendTop p 0x18 true (f % 4096 * 2 ^ 20 + 10) 0xFF spec second st) s

/-- A tile writes record words and takes them into force at once. -/
def adoptRecord (w0 w1 : Nat) (s : State) : State :=
  let s := setInst F.WT_REC_0_rate 0 (BitVec.ofNat 32 w0) s
  let s := setInst F.WT_REC_1_offset 0 (BitVec.ofNat 32 w1) s
  let s := setFlag F.WT_STAT_rec_valid (recordOk s) s
  let s := adoptChecked 0 recordAddrs (setWt (fun w => { w with rate := bitsOf w0 7 0, rateWas := none }) s)
  setWt (fun w => { w with boundary := fCur s, latched := min w.latched (fCur s + 1) }) s

/-- A tile acts on a confirmed EPOCH_ANNOUNCE (R330). -/
def announceTake (s : State) : State :=
  match takeInbox (isTop 0x18) s with
  | none => s
  | some (d, s) =>
    let w0 := beAt d.hdr 12 4
    let w1 := beAt d.hdr 16 4
    let pf := beAt d.hdr 20 8
    let s := if flag s F.WT_STAT_rec_valid then s else adoptRecord w0 w1 s
    let s :=
      if pf != 0 && pf > fNow s then
        let s := setFld F.WT_PEND_0_value (beAt d.body 0 4) s
        let s := setFld F.WT_PEND_1_value (beAt d.body 4 4) s
        setFlag F.WT_STAT_pending true (setPair F.WT_PEND_F_HI_value F.WT_PEND_F_LO_value pf s)
      else s
    let s :=
      if (regWord s F.WT_REC_0_rate.base).toNat != w0 || (regWord s F.WT_REC_1_offset.base).toNat != w1 then
        let s := setInst F.WT_REC_0_rate 0 (BitVec.ofNat 32 w0) (setInst F.WT_REC_1_offset 0 (BitVec.ofNat 32 w1) s)
        setFlag F.WT_STAT_rec_valid (recordOk s) s
      else s
    let s :=
      if beAt d.body 8 2 != fld s F.COMP_TIMING_latch_lead then
        let s := setFld F.WT_STAT_reason 4 s
        let due := match s.wt.configAt with
          | some t => decide (s.time.mono ≥ t + 60 * 10 ^ 9 * 2)
          | none => true
        if due then raise Src.WT_CONFIG (setWt (fun w => { w with configAt := some s.time.mono }) s) else s
      else s
    syncTiming s

/-- Holdover has lasted past hold_ms (R337). -/
def holdoverPast (s : State) : State :=
  if isTile s && flag s F.WT_STAT_holdover then syncTiming (setWt (fun w => { w with holdPast := true }) s) else s

/-- A read of WT_FRAME_HI latches WT_FRAME_LO (R340). -/
def latchFrame (s : State) : State :=
  setPair F.WT_FRAME_HI_frame F.WT_FRAME_LO_frame (fNow s % 2 ^ 64) s

/-- No write of the master has arrived for 3 s at a sender of another pair (R331). -/
def noMaster (s : State) : State :=
  if isSender s && !flag s F.CASCADE_ID_wtm then setFlag F.WT_STAT_no_master true s else s

/-! ### Rows of the opcode table -/

/-- EPOCH_ANNOUNCE_SEND (R329). -/
def execEpochAnnounceSend (s : State) : Host.Outcome State Fault Refusal :=
  .next (whenOn 3 announceSend s)

/-- EPOCH_ANNOUNCE_RECEIVE (R330). -/
def execEpochAnnounceReceive (s : State) : Host.Outcome State Fault Refusal :=
  .next (if isTile s && domainOn s 3 then announceTake s else s)

/-- NO_MASTER_TIMEOUT (R331). -/
def execNoMasterTimeout (s : State) : Host.Outcome State Fault Refusal :=
  .next (whenOn 3 noMaster s)

/-- HOLDOVER_EXPIRE (R337). -/
def execHoldoverExpire (s : State) : Host.Outcome State Fault Refusal :=
  .next (whenOn 3 holdoverPast s)

end Sys2Proof.Machine
end

