-- ==== Sys2Proof/Machine/Accords.lean ====
section
/-! DEFINITION. Accords, their checks and latch, ring streams and the plan (spec/08_composition_and_accords.md, R170 to R191,
with R85 of spec/03). The checks read words through a reader, so that the same text serves a latch point and a commit. -/

namespace Sys2Proof.Machine

/-! ### Slots and layers (R171, R175, R176) -/

/-- Word `i` of accord slot `n`, through a reader. -/
def slotWord (rd : Nat → Word) (n i : Nat) : Word := rd (0x181000 + 0x400 * n + 4 * i)

/-- The enabled layers of slot `n` in ascending number; a tile has layers 1–7 (R171). -/
def slotLayers (tile : Bool) (rd : Nat → Word) (n : Nat) : List LayerLatch :=
  ((List.range (if tile then 8 else 16)).drop 1).filterMap (fun k =>
    let ws := (List.range 16).map (fun i => slotWord rd n (16 * k + i))
    if bitOf (ws.getD 0 0).toNat 31 then some { k := k, words := ws, src := .absent } else none)

/-- Word `i` of a layer. -/
def LayerLatch.word (l : LayerLatch) (i : Nat) : Nat := (l.words.getD i 0).toNat
/-- kind: 0 flacon, 1 flow, 2 ring, 3 solid. -/
def LayerLatch.kind (l : LayerLatch) : Nat := bitsOf (l.word 0) 30 28
/-- z. -/
def LayerLatch.z (l : LayerLatch) : Nat := bitsOf (l.word 0) 27 24
/-- source. -/
def LayerLatch.source (l : LayerLatch) : Nat := bitsOf (l.word 0) 15 8
/-- chain_fmt. -/
def LayerLatch.chainFmt (l : LayerLatch) : Nat := bitsOf (l.word 10) 31 28
/-- chain_ratio. -/
def LayerLatch.chainRatio (l : LayerLatch) : Nat := bitsOf (l.word 10) 27 26
/-- The pixel format of the layer's ring stream. A flacon layer's word 10 is ignored (R176): its stream has the source's format
(R185), raw (DESIGN CHOICE, log 178). -/
def LayerLatch.streamFmt (l : LayerLatch) : Nat :=
  match l.kind, l.src with
  | 0, .flacon e => e.fmt
  | _, _ => l.chainFmt
/-- The ratio of the layer's ring stream. -/
def LayerLatch.streamRatio (l : LayerLatch) : Nat := if l.kind == 0 then 0 else l.chainRatio

/-- Word `i` of a view's header. -/
def ViewLatch.head (v : ViewLatch) (i : Nat) : Nat := (v.header.getD i 0).toNat
/-- Whether the view runs in accord mode (R170). -/
def ViewLatch.accord (v : ViewLatch) : Bool := bitsOf (v.head 0) 31 30 == 1
/-- out_fmt. -/
def ViewLatch.outFmt (v : ViewLatch) : Nat := bitsOf (v.head 0) 29 26
/-- out_ratio. -/
def ViewLatch.outRatio (v : ViewLatch) : Nat := bitsOf (v.head 0) 25 24
/-- out_colorimetry. -/
def ViewLatch.outCol (v : ViewLatch) : Nat := bitsOf (v.head 0) 23 22
/-- out_tcs. -/
def ViewLatch.outTcs (v : ViewLatch) : Nat := bitsOf (v.head 0) 21 20

/-- A slot that has never passed: background only, black, with no stream (R174; the mode is not stated, accord is taken,
DEDUCED, log 42). -/
def blackView (n : Nat) : ViewLatch := { slot := n, header := [0x40000000, 0, 0, 0], layers := [] }

/-- Views that are composed under given words (R191). -/
def viewsOf (rd : Nat → Word) : Nat := bitsOf (rd F.WT_REC_0_views.base).toNat F.WT_REC_0_views.hi F.WT_REC_0_views.lo + 1

/-- The slot of each composed view (R191). -/
def selectedSlots (rd : Nat → Word) : List Nat :=
  (List.range (viewsOf rd)).map (fun v => bitsOf (rd F.COMP_VIEWSEL_view0.base).toNat (4 * v + 2) (4 * v))

/-- The flacon that a layer would latch now, if it has one (R177). -/
def layerFlacon (s : State) (l : LayerLatch) : Option Nat :=
  match l.kind with
  | 0 => if l.source < flaconCount s then some l.source else none
  | 1 =>
    if l.source < 16 && (s.eth.flows.getD l.source {}).hasPrev && isSender s then
      match s.red.named.find? (fun e => e.1 == l.source) with
      | some e =>
        ((List.range (fldAt s F.FLOW_FLACON_count l.source)).map (fun i =>
          (fldAt s F.FLOW_FLACON_first l.source + i) % 256)).find? (fun k =>
            flaconState s k == 3 && fldAt s F.FLACON_RTP_rtp_ts k == e.2)
      | none => some (fldAt s F.FLOW_STAT_last_flacon l.source)
    else none
  | _ => none

/-! ### Windows -/

/-- A tile's window on the wall. -/
structure Win where
  x0 : Nat
  y0 : Nat
  w : Nat
  h : Nat
  deriving DecidableEq, Repr

/-- A tile's own window (R193 COMP_WIN, R249 LL_GEOM). -/
def ownWindow (rd : Nat → Word) : Win :=
  let f (x : Fld) : Nat := bitsOf (rd x.base).toNat x.hi x.lo
  { x0 := f F.COMP_WIN_x0, y0 := f F.COMP_WIN_y0, w := f F.LL_GEOM_width, h := f F.LL_GEOM_height }

/-- The windows of the tiles of ring port `p`, by address (TMAP). -/
def portWindows (rd : Nat → Word) (p : Nat) : List (Nat × Win) :=
  ((List.range 255).drop 1).filterMap (fun a =>
    let hi := (rd (0x188000 + 0x800 * p + 8 * a)).toNat
    let lo := (rd (0x188000 + 0x800 * p + 8 * a + 4)).toNat
    if lo / 65536 == 0 then none
    else some (a, { x0 := hi / 65536, y0 := hi % 65536, w := lo / 65536, h := lo % 65536 }))

/-- The windows that the chip composes for. -/
def chipWindows (tile : Bool) (rd : Nat → Word) : List Win :=
  if tile then [ownWindow rd] else (List.range 7).flatMap (fun p => (portWindows rd p).map Prod.snd)

/-- U of a port: the smallest rectangle that holds its windows (R186). -/
def unionWin (l : List Win) : Option Win :=
  match l with
  | [] => none
  | a :: t => some (t.foldl (fun (u : Win) (b : Win) =>
      let x0 := min u.x0 b.x0
      let y0 := min u.y0 b.y0
      { x0 := x0, y0 := y0, w := max (u.x0 + u.w) (b.x0 + b.w) - x0, h := max (u.y0 + u.h) (b.y0 + b.h) - y0 }) a)

/-- The part of a window inside a layer's destination rectangle, as first and last column and first and last line. -/
def layerInWin (l : LayerLatch) (u : Win) : Option (Nat × Nat × Nat × Nat) :=
  let h := axisH l
  let v := axisV l
  let xa := max u.x0 h.dst
  let xb := min (u.x0 + u.w) (h.dst + h.dstLen)
  let ya := max u.y0 v.dst
  let yb := min (u.y0 + u.h) (v.dst + v.dstLen)
  if xa < xb && ya < yb then some (xa, xb - 1, ya, yb - 1) else none

/-- The source columns that windows use, widened outward to groups of 16, as first column and length (R181). -/
def layerSpan (l : LayerLatch) (ws : List Win) : Nat × Nat :=
  let r := ws.filterMap (fun u => (layerInWin l u).map (fun q => (axisH l).span q.1 q.2.1))
  match r with
  | [] => (0, 0)
  | a :: t =>
    let lo := t.foldl (fun m q => min m q.1) a.1 / 16 * 16
    let hi := t.foldl (fun m q => max m q.2) a.2 / 16 * 16 + 16
    (lo, hi - lo)

/-- The source rows that windows use, as a number of rows. -/
def layerRows (l : LayerLatch) (ws : List Win) : Nat :=
  let r := ws.filterMap (fun u => (layerInWin l u).map (fun q => (axisV l).span q.2.2.1 q.2.2.2))
  match r with
  | [] => 0
  | a :: t => t.foldl (fun m q => max m q.2) a.2 + 1 - t.foldl (fun m q => min m q.1) a.1

/-! ### Streams (R185 to R187) -/

/-- A ring stream: its view and layer (0 canvas), destination, chain coding, the rows and 16-pixel groups it holds, its
first source column and row, and the wall line that first needs each of its rows. -/
structure RingStream where
  view : Nat
  layer : Nat
  dst : Nat
  fmt : Nat
  ratio : Nat
  x0 : Nat
  y0 : Nat
  groups : Nat
  rows : Nat
  lines : List Nat
  deriving DecidableEq, Repr

/-- Bytes of a chain group (R185). -/
def groupBytes (fmt ratio : Nat) : Nat := cdiv (16 * pixBpp fmt) (8 * (ratio + 1))

/-- Bytes of a stream. -/
def RingStream.size (x : RingStream) : Nat := x.rows * x.groups * groupBytes x.fmt x.ratio

/-- The layer stream of a sender layer on a port with windows `ws` (R186, R187). -/
def layerStream (v : Nat) (l : LayerLatch) (ws : List Win) : Option RingStream :=
  match unionWin ws with
  | none => none
  | some u =>
    match layerInWin l u with
    | none => none
    | some (xa, xb, ya, yb) =>
      let cols := (axisH l).span xa xb
      let rows := (axisV l).span ya yb
      let x0 := cols.1 / 16 * 16
      let first (r : Nat) : Nat :=
        ((List.range (yb + 1 - ya)).find? (fun i =>
          decide (((axisV l).used (ya + i)).1 ≤ r) && decide (r ≤ ((axisV l).used (ya + i)).2))).getD 0 + ya
      some { view := v, layer := l.k, dst := 0xFF, fmt := l.streamFmt, ratio := l.streamRatio, x0 := x0, y0 := rows.1,
             groups := cdiv (cols.2 + 1 - x0) 16, rows := rows.2 + 1 - rows.1,
             lines := (List.range (rows.2 + 1 - rows.1)).map (fun i => first (rows.1 + i)) }

/-- The canvas stream of a tile (R186, R187). -/
def canvasStream (v : Nat) (x : ViewLatch) (a : Nat) (u : Win) : RingStream :=
  { view := v, layer := 0, dst := a, fmt := x.outFmt, ratio := x.outRatio, x0 := 0, y0 := 0, groups := cdiv u.w 16,
    rows := u.h, lines := (List.range u.h).map (fun i => u.y0 + i) }

/-- Whether a lower view selects the same slot: its streams serve this view too (R187). -/
def sharedView (vs : List ViewLatch) (v : Nat) : Nat :=
  ((List.range v).find? (fun u => (vs.getD u (blackView 0)).slot == (vs.getD v (blackView 0)).slot)).getD v

/-- The streams of ring port `p` for the views of a frame (R186, R187). A solid layer has no source to ship. -/
def portStreams (rd : Nat → Word) (vs : List ViewLatch) (p : Nat) : List RingStream :=
  let ws := portWindows rd p
  (List.range vs.length).flatMap (fun v =>
    let x := vs.getD v (blackView 0)
    if sharedView vs v != v then []
    else if x.accord then
      x.layers.filterMap (fun l => if l.kind ≤ 1 && l.src != .absent then layerStream v l (ws.map Prod.snd) else none)
    else ws.map (fun a => canvasStream v x a.1 a.2))

/-! ### The plan (R187 to R189) -/

/-- The packets of a stream: 64 payload flits each, the last one shorter (R187). -/
def streamPackets (f : Nat) (x : RingStream) : List PlanPkt :=
  let row := max 1 (x.groups * groupBytes x.fmt x.ratio)
  (List.range (cdiv x.size 2048)).map (fun i =>
    { frame := f, view := x.view, layer := x.layer, dst := x.dst, line := x.lines.getD (2048 * i / row) 0,
      offset := 2048 * i, len := min 2048 (x.size - 2048 * i), index := 0, due := 0, latest := 0 })

/-- Plan order: wall line, view, layer, destination, offset (R188). -/
def planBefore (a b : PlanPkt) : Bool :=
  decide (a.line < b.line) || (a.line == b.line && (decide (a.view < b.view) || (a.view == b.view &&
    (decide (a.layer < b.layer) || (a.layer == b.layer && (decide (a.dst < b.dst) || (a.dst == b.dst &&
      decide (a.offset ≤ b.offset))))))))

/-- Insert a packet into a sorted plan. -/
def planInsert (x : PlanPkt) : List PlanPkt → List PlanPkt
  | [] => [x]
  | y :: t => if planBefore x y then x :: y :: t else y :: planInsert x t

/-- Give each packet of a sorted plan its heart index: the payload flits before it (R188). -/
def planIndex : Nat → List PlanPkt → List PlanPkt
  | _, [] => []
  | n, x :: t => { x with index := n % 2 ^ 20 } :: planIndex (n + cdiv x.len 32) t

/-- The plan of ring port `p` for frame `f` (R188, R189): sorted, with index, due time and latest send time. -/
def portPlan (s : State) (rd : Nat → Word) (vs : List ViewLatch) (f p : Nat) : List PlanPkt :=
  let l := ((portStreams rd vs p).flatMap (streamPackets f)).foldr planInsert []
  let lead := fldAt s F.RING_LEAD_lead p
  let ahead := 1000 * fld s F.COMP_TIMING_ahead
  let open_ := tLatch s f + 20000
  (planIndex 0 l).map (fun x =>
    let t := tLine s f x.line
    { x with due := max open_ (t - lead - ahead), latest := t - lead })

/-- Flits with framing of a packet. -/
def planFlits (x : PlanPkt) : Nat := cdiv x.len 32 + 2

/-- H + S of a plan, and the limit it must keep (R85). -/
def admitUse (rate : Nat × Nat) (lanes : Nat) (l : List PlanPkt) : Nat × Nat :=
  let (n, d) := rate
  (l.foldl (fun a x => a + planFlits x) 0 + 2 * cdiv (878906250 * d) (1190 * n), 203108600 * lanes * 92 * d / (100 * n))

/-- The interval test of R189. -/
def intervalTest (s : State) (lanes f p : Nat) (l : List PlanPkt) : Bool :=
  let rate := 186859912 * lanes - 1477148
  let lead : Int := ((fldAt s F.RING_LEAD_lead p : Nat) : Int)
  let ahead : Int := ((1000 * fld s F.COMP_TIMING_ahead : Nat) : Int)
  let open_ : Int := ((tLatch s f + 20000 : Nat) : Int)
  let lines := (l.map (fun x => x.line)).eraseDups
  lines.all (fun l1 => lines.all (fun l2 =>
    if l2 < l1 then true
    else
      let demand := (l.filter (fun x => decide (l1 ≤ x.line) && decide (x.line ≤ l2))).foldl (fun a x => a + planFlits x) 0
      let start := max open_ (((tLine s f l1 : Nat) : Int) - lead - ahead)
      let span := ((tLine s f l2 : Nat) : Int) - lead - start
      decide (span > 0) && decide ((demand * 10 ^ 9 : Nat) ≤ (rate : Int) * span)))

/-- Lanes of a ring port. -/
def portWidthLanes (s : State) (p : Nat) : Nat := max 1 (portLanes s p).length

/-- Whether every ring port passes R85 and R189 for frame `f` with given views; with it the flits of each port. -/
def admits (s : State) (rd : Nat → Word) (rate : Nat × Nat) (vs : List ViewLatch) (f : Nat) : Bool × List Nat :=
  let r := (List.range 7).map (fun p =>
    let l := portPlan s rd vs f p
    let u := admitUse rate (portWidthLanes s p) l
    (decide (u.1 ≤ u.2) && intervalTest s (portWidthLanes s p) f p l, u.1))
  (r.all (fun x => x.1), r.map (fun x => x.2))

/-! ### The checks (R174) -/

/-- Check 1 for a layer: no reserved code, ring layers where they may be, and the chain format rule of R185. -/
def layerCodesOk (s : State) (tile accord : Bool) (l : LayerLatch) : Bool :=
  let chain := l.kind == 1 || l.kind == 2
  decide (l.kind ≤ 3) && decide (bitsOf (l.word 0) 23 20 ≤ 3) && !(tile && l.kind == 1) &&
    !(l.kind == 2 && (!tile || !accord)) &&
    (!chain || (decide (l.chainFmt ≤ 7) && bitsOf (l.word 10) 25 24 != 3 && bitsOf (l.word 10) 23 22 != 3)) &&
    (tile || !accord || l.kind != 1 ||
      (match layerFlacon s l with
       | some n => l.chainFmt / 2 == (flaconEntry s n).fmt / 2
       | none => true))

/-- Whether a slot's words ask for accord mode (R170). -/
def slotAccord (rd : Nat → Word) (n : Nat) : Bool := bitsOf (slotWord rd n 0).toNat 31 30 == 1

/-- Check 1 of R174 for slot `n`. -/
def slotCodesOk (s : State) (tile : Bool) (rd : Nat → Word) (n : Nat) : Bool :=
  let w := (slotWord rd n 0).toNat
  let mode := bitsOf w 31 30
  decide (mode ≤ 1) &&
    (mode == 1 || (decide (bitsOf w 29 26 ≤ 5) && bitsOf w 23 22 != 3 && bitsOf w 21 20 != 3)) &&
    (slotLayers tile rd n).all (layerCodesOk s tile (mode == 1))

/-- Line-buffer bytes of a layer (R181). -/
def layerLines (l : LayerLatch) (ws : List Win) : Nat :=
  if l.kind == 3 then 0
  else ((axisV l).taps + (if l.kind == 2 then 8 else 0)) * (layerSpan l ws).2 * 8

/-- The line-buffer pool in bytes (R181, COMP_LB). -/
def linePool (tile : Bool) (rd : Nat → Word) : Nat :=
  min (if tile then 0x80 else 0x100) (bitsOf (rd F.COMP_LB_size.base).toNat 31 23) * 65536

/-- Destination pixels of a layer in windows (R182). -/
def layerArea (l : LayerLatch) (ws : List Win) : Nat :=
  ws.foldl (fun a u => match layerInWin l u with
    | some (xa, xb, ya, yb) => a + (xb + 1 - xa) * (yb + 1 - ya)
    | none => a) 0

/-- Source pixels that a layer's decode takes per frame. -/
def layerDecoded (l : LayerLatch) (ws : List Win) : Nat :=
  if l.kind == 3 then 0 else (layerSpan l ws).2 * layerRows l ws

/-- Layer pixels and decoded pixels of the views of a frame, those of one slot once (R182, R191, R220). -/
def pixelDemand (tile : Bool) (rd : Nat → Word) (vs : List ViewLatch) : Nat × Nat :=
  let ws := chipWindows tile rd
  ((List.range vs.length).filter (fun v => sharedView vs v == v)).foldl (fun (p : Nat × Nat) v =>
    let x := vs.getD v (blackView 0)
    let canvas := if tile && !x.accord then (ownWindow rd).w * (ownWindow rd).h else 0
    let dec := x.layers.foldl (fun a l => a + layerDecoded l ws) canvas
    let lay :=
      if !tile && x.accord then
        (List.range 7).foldl (fun a q =>
          ((portStreams rd vs q).filter (fun y => y.view == v)).foldl (fun b y => b + y.rows * y.groups * 16) a) 0
      else x.layers.foldl (fun a l => a + layerArea l ws) 0
    (p.1 + lay, p.2 + dec)) (0, 0)

/-- The view that a slot's words spell, with its layers' sources as they would be latched now. -/
def viewFrom (s : State) (tile : Bool) (rd : Nat → Word) (n : Nat) : ViewLatch :=
  { slot := n, header := (List.range 4).map (slotWord rd n),
    layers := (slotLayers tile rd n).map (fun l => { l with src :=
      match l.kind with
      | 2 => .ring
      | 3 => .solid
      | _ => match layerFlacon s l with
        | some k => if latchRefused s k then .absent else .flacon (flaconEntry s k)
        | none => .absent }) }

/-- The reason of R174 for slot `n`, 0 when it passes. Checks 3 to 5 are sums over all selected views. -/
def accordReason (s : State) (tile : Bool) (rd : Nat → Word) (f n : Nat) : Nat :=
  let vs := (selectedSlots rd).map (viewFrom s tile rd)
  let ws := chipWindows tile rd
  let rate := frameRate (bitsOf (rd F.WT_REC_0_rate.base).toNat F.WT_REC_0_rate.hi F.WT_REC_0_rate.lo)
  let lines := vs.foldl (fun a x => x.layers.foldl (fun b l => b + layerLines l ws) a) 0
  let (lay, dec) := pixelDemand tile rd vs
  let limit := if tile then 4 * 10 ^ 9 else 16 * 10 ^ 9
  if !slotCodesOk s tile rd n then 1
  else if !((slotLayers tile rd n).all (fun l => l.kind == 3 || scaleOk (tile || slotAccord rd n) l)) then 2
  else if lines > linePool tile rd then 3
  else match rate with
    | none => 0
    | some r =>
      if lay * r.1 > limit * r.2 || dec * r.1 > limit * r.2 then 4
      else if !tile && flag s F.WT_STAT_rec_valid && !(admits s rd r vs f).1 then 5
      else 0

/-! ### The latch (R172, R174, R177) -/

/-- Class B words as they govern frame `f`, all others as they stand. -/
def wordsFor (s : State) (f a : Nat) : Word := if classBMask a != 0 then wordFor s f a else regWord s a

/-- Latch a flow's flacon: COMP_FLOW_STAT counts a frame that is latched again (R177). -/
def latchFlow (n f : Nat) (s : State) : State :=
  if s.comp.flowSeen.getD n none == some f then s
  else
    let again := !s.comp.flowNew.getD n false && s.comp.flowSeen.getD n none == some (f - 1) && decide (f ≥ 1)
    let s := when again (incFldAt F.COMP_FLOW_STAT_repeats n) s
    { s with comp := { s.comp with
        flowSeen := updAt (fun _ => some f) s.comp.flowSeen n
        flowNew := updAt (fun _ => false) s.comp.flowNew n } }

/-- A flow has published a frame; one that no wall frame has latched is counted as dropped (R177). -/
def flowPublished (n : Nat) (s : State) : State :=
  let s := when (s.comp.flowNew.getD n false) (incFldAt F.COMP_FLOW_STAT_drops n) s
  { s with comp := { s.comp with flowNew := updAt (fun _ => true) s.comp.flowNew n } }

/-- The time on the monotonic clock of t_epoch(F + 1) + O for frame `f`, by which its fences are clear (R142). -/
def fenceEnd (s : State) (f : Nat) : Nat :=
  s.time.mono + cdiv ((tEpoch s (f + 1) + phaseOffset s f) * nsUnit - s.time.counter) (nsUnit / 2)

/-- Latch a layer's source for frame `f`; an absent one raises COMP_LAYER_ABSENT (R177). A standby member's flow layers wait
for the latch entry (R344). -/
def latchLayer (f : Nat) (l : LayerLatch) (s : State) : LayerLatch × State :=
  if l.kind == 1 && s.red.deferred == some f then ({ l with src := .absent }, s)
  else match l.kind with
  | 2 => ({ l with src := .ring }, s)
  | 3 => ({ l with src := .solid }, s)
  | k =>
    match layerFlacon s l with
    | some n =>
      if latchRefused s n then ({ l with src := .absent }, raise Src.COMP_LAYER_ABSENT (refuseLatch n s))
      else ({ l with src := .flacon (flaconEntry s n) }, latchFlacon n (frameTag s f) (fenceEnd s f) (when (k == 1) (latchFlow l.source f) s))
    | none => ({ l with src := .absent }, raise Src.COMP_LAYER_ABSENT s)

/-- Latch the layers of a view in ascending number. -/
def latchLayers (f : Nat) : List LayerLatch → State → List LayerLatch × State
  | [], s => ([], s)
  | l :: t, s =>
    let (l, s) := latchLayer f l s
    let (t, s) := latchLayers f t s
    (l :: t, s)

/-- Check slot `n` and latch its sources (R172, R174): none when it fails. -/
def latchSlot (f n : Nat) (s : State) : Option ViewLatch × State :=
  let rd := wordsFor s f
  let tile := isTile s
  let r := accordReason s tile rd f n
  let s := setFldAt F.ACCORD_STAT_reason n r (setFlagAt F.ACCORD_STAT_passed n (r == 0) s)
  if r == 0 then
    let (ls, s) := latchLayers f (slotLayers tile rd n) s
    (some { slot := n, header := (List.range 4).map (slotWord rd n), layers := ls },
      { s with comp := { s.comp with everPassed := if s.comp.everPassed.contains n then s.comp.everPassed else n :: s.comp.everPassed } })
  else
    let s := when (r == 5) (fun st => raise Src.ADMIT_REFUSED (incFld F.ADMIT_REFUSED_count st)) s
    (none, raise Src.COMP_ACCORD_INVALID s)

/-- The copy that view `v` uses: the slot's when it passed; when it failed, the view's of the previous frame, with its sources
latched anew, and the black one for a slot that has never passed (R174). It is the copy of the slot that the view selects. -/
def keepView (f v n : Nat) (x : Option ViewLatch) (s : State) : ViewLatch × State :=
  let (y, s) := match x with
    | some x => (x, s)
    | none =>
      match s.comp.last.getD v none with
      | none => (blackView n, s)
      | some x =>
        if !s.comp.everPassed.contains n then (blackView n, s)
        else
          let (ls, s) := latchLayers f x.layers s
          ({ x with slot := n, layers := ls }, s)
  (y, { s with comp := { s.comp with last := updAt (fun _ => some y) s.comp.last v } })

/-- Check and copy the slots of all composed views, each slot once: `seen` holds the slots checked so far. -/
def latchViews (f : Nat) : List (Nat × Option ViewLatch) → List (Nat × Nat) → State → List ViewLatch × State
  | _, [], s => ([], s)
  | seen, x :: t, s =>
    let (c, s) := match seen.find? (fun e => e.1 == x.2) with
      | some e => (e.2, s)
      | none => latchSlot f x.2 s
    let (v, s) := keepView f x.1 x.2 c s
    let (t, s) := latchViews f ((x.2, c) :: seen) t s
    (v :: t, s)

/-- ACCORD_STAT.live follows the selection (R193). -/
def showAccords (sel : List Nat) (s : State) : State :=
  forEach (List.range 8) (fun n st => setFlagAt F.ACCORD_STAT_live n (sel.contains n) st) s

/-- A sender makes its plans for frame `f` and shows the flits they use (R85, R188). -/
def makePlans (f : Nat) (vs : List ViewLatch) (s : State) : State :=
  if !isSender s || !flag s F.WT_STAT_rec_valid then s
  else
    let rd := wordsFor s f
    forEach (List.range 7) (fun p st =>
      let l := portPlan st rd vs f p
      let st := match rateOf st f with
        | some r => setFldAt F.ADMIT_USE_flits p (admitUse r (portWidthLanes st p) l).1 st
        | none => st
      { st with comp := { st.comp with plans := updAt (fun o => o ++ l) st.comp.plans p } }) s

/-- The accord part of latch point F: views (one that is not composed keeps no copy), sources, ACCORD_STAT and COMP_STAT.frame, and a sender's plans. -/
def latchAccords (f : Nat) (s : State) : List ViewLatch × State :=
  let sel := selectedSlots (wordsFor s f)
  let s := { s with
    flac := { s.flac with refused := [] }
    comp := { s.comp with last := (List.range 4).map (fun v => if v < sel.length then s.comp.last.getD v none else none) } }
  let (vs, s) := latchViews f [] (List.zip (List.range sel.length) sel) s
  let s := setFld F.COMP_STAT_frame (frameTag s f % 65536) (showAccords sel s)
  let s := when (isSender s && vs.any (fun v => !v.accord && v.layers.any (fun l => l.kind ≤ 1 && l.src != .absent)))
    (fun st => { st with pkt := { st.pkt with poolUsed := true } }) s
  (vs, makePlans f vs s)

end Sys2Proof.Machine
end

