-- ==== Sys2Proof/Machine/Colour.lean ====
section
/-! DEFINITION. Transfer tables and the conversions between code values and linear light
(spec/09_tile_pixel_pipeline.md, R202 to R206, R218). -/

namespace Sys2Proof.Machine

/-- Full scale of linear light: 2²⁰ − 1. -/
def fullScale : Nat := 2 ^ 20 - 1

/-! ### Contents that the firmware writes (R204) -/

/-- The SMPTE ST 2084 EOTF of i / 4,096, as a fraction of 10,000 cd/m². -/
def pqEotf (i : Nat) : Nat :=
  let x := fixPow i 4096 32 2523
  let num := 128 * x - 107 * fixOne
  let den := 2413 * fixOne - 2392 * x
  fixPow num den 8192 1305

/-- The SMPTE ST 2084 inverse EOTF of a / b of 10,000 cd/m². -/
def pqInverse (a b : Nat) : Nat :=
  let y := fixPow a b 1305 8192
  min fixOne (fixPow (107 * fixOne + 2413 * y) (128 * fixOne + 2392 * y) 2523 32)

/-- c of BT.2100 HLG: 0.5 − a ln(4a), with a = 0.17883277. -/
def hlgC : Int := (fixOne / 2 : Nat) - 17883277 * fixLn 71533108 100000000 / 100000000

/-- The BT.2100 HLG inverse OETF of i / 4,096. -/
def hlgInverseOetf (i : Nat) : Nat :=
  if i ≤ 2048 then i * i * fixOne / (3 * 4096 * 4096)
  else
    let e := fixExp ((((i * fixOne / 4096 : Nat) : Int) - hlgC) * 100000000 / 17883277)
    (e + 28466892 * fixOne / 100000000) / 12

/-- The BT.2100 HLG OETF of a / b. -/
def hlgOetf (a b : Nat) : Nat :=
  if 12 * a ≤ b then fixPow (3 * a) b 1 2
  else min fixOne (17883277 * fixLn (12 * 100000000 * a - 28466892 * b) (100000000 * b) / 100000000 + hlgC).toNat

/-- Entry `i` of the SDR table: the exact power, rounded half up. -/
def sdrEntry (f : TfFill) (i : Nat) : Nat :=
  searchMax (fun v => v == 0 || decide ((2 * v - 1) ^ 100 * 4096 ^ f.gamma ≤ (2 * f.white) ^ 100 * i ^ f.gamma)) 20 0

/-- Entry `i` of the inverse of the SDR table; a white level of 0 has no inverse, and the value is free. -/
def sdrInverse (f : TfFill) (i : Nat) : Nat :=
  if f.white == 0 then Config.outside (i : Int) % 65536
  else searchMax (fun v => v == 0 ||
    decide ((2 * v - 1) ^ f.gamma * f.white ^ 100 ≤ 131070 ^ f.gamma * (256 * i) ^ 100)) 16 0

/-- Entry `i` of table `t` as the firmware writes it (R204, R218). -/
def tfEntry (f : TfFill) (t i : Nat) : Nat :=
  match t with
  | 1 => sdrEntry f i
  | 2 => fixRound (min fixOne (pqEotf i * 10000 / max 1 f.peak)) fullScale
  | 3 => fixRound (min fixOne (hlgInverseOetf i)) fullScale
  | 6 => sdrInverse f i
  | 7 => fixRound (pqInverse (256 * i * f.peak) (fullScale * 10000)) 65535
  | 8 => fixRound (hlgOetf (256 * i) fullScale) 65535
  | _ => 0

/-- Bank, table and entry of a byte address of the transfer-table area, if one lies there (R218). -/
def tfPlace (a : Nat) : Option (Nat × Nat × Nat) :=
  if a < 0x204000 || a % 4 != 0 then none
  else
    let o := a - 0x204000
    let b := o / 0x18800
    let k := o % 0x18800 / 0x4100
    let i := o % 0x18800 % 0x4100 / 4
    if b < 2 && k < 6 && i < 4097 then some (b, if k < 3 then k + 1 else k + 3, i) else none

/-- What a transfer-table word reads that nothing has written since its bank was filled (R204, R218). -/
def tfDefault (fills : List (Option TfFill)) (sender : Bool) (a : Nat) : Word :=
  match tfPlace a with
  | none => 0
  | some (b, t, i) =>
    match fills.getD b none with
    | some f => if t ≥ 6 && !sender then 0 else BitVec.ofNat 32 (tfEntry f t i)
    | none => 0

/-- Bits of a word of table `t` that hold its value; the others are reserved (R218). -/
def tfBits (t : Nat) : Word := if t ≥ 6 then 0xFFFF else 0xFFFFF

/-- The word of a transfer table at a byte address. -/
def tfWord (s : State) (a : Nat) : Word := smGet (tfDefault s.pipe.fills (isSender s)) s.pipe.tables a

/-- Write a word of a transfer table. -/
def setTfWord (a : Nat) (w : Word) (s : State) : State :=
  { s with pipe := { s.pipe with tables := smPut (tfDefault s.pipe.fills (isSender s)) s.pipe.tables a w } }

/-- The parameters that TF_CFG and TF_LEVEL give a refill (R204). -/
def tfParams (s : State) : TfFill :=
  { gamma := clampN 100 300 (fld s F.TF_CFG_gamma), white := 16 * fld s F.TF_LEVEL_sdr_white,
    peak := clampN 100 10000 (fld s F.TF_LEVEL_pq_peak) }

/-- Fill bank `b` (R204): every entry takes the firmware's value. -/
def tfFillBank (b : Nat) (f : TfFill) (s : State) : State :=
  { s with pipe := { s.pipe with
      fills := updAt (fun _ => some f) s.pipe.fills b
      tables := s.pipe.tables.filter (fun e => match tfPlace e.1 with | some (k, _) => k != b | none => true) } }

/-- Byte address of entry `i` of table `t` in bank `b` (R218). -/
def tfAddr (b t i : Nat) : Nat := 0x204000 + 0x18800 * b + 0x4100 * (if t < 4 then t - 1 else t - 3) + 4 * i

/-- A lookup with `f` fraction bits in the index, rounded half up (R203). -/
def tfLookup (s : State) (b t idx f : Nat) : Nat :=
  let i := min 4096 (idx / 2 ^ f)
  let v (k : Nat) : Int := (((tfWord s (tfAddr b t k)).toNat % 2 ^ 20 : Nat) : Int)
  if i ≥ 4096 then (v 4096).toNat
  else (v i + halfUp ((v (i + 1) - v i) * ((idx % 2 ^ f : Nat) : Int)) (2 ^ f)).toNat

/-! ### Code values to linear light (R202) -/

/-- Kr and Kb of a colorimetry in 1/10,000. -/
def lumaWeights (colorimetry : Nat) : Nat × Nat := if colorimetry == 0 then (2126, 722) else (2627, 593)

/-- R′, G′, B′ of three codes at depth `d`, over one denominator (R202 steps 2 and 3). -/
def signalRgb (fmt colorimetry : Nat) (c : List Nat) : List Int × Nat :=
  let k : Nat := 2 ^ (pixDepth fmt - 8)
  let code (i : Nat) : Int := ((c.getD i 0 : Nat) : Int)
  if pixRgb fmt then ((List.range 3).map (fun i => code i - 16 * (k : Int)), 219 * k)
  else
    let (kr, kb) := lumaWeights colorimetry
    let rest : Nat := 10000 - kr - kb
    let y := (code 1 - 16 * (k : Int)) * 224 * 10000
    let cb := (code 0 - 128 * (k : Int)) * 219
    let cr := (code 2 - 128 * (k : Int)) * 219
    let r := y + 2 * ((10000 - kr : Nat) : Int) * cr
    let b := y + 2 * ((10000 - kb : Nat) : Int) * cb
    let g := 10000 * y - (kr : Int) * r - (kb : Int) * b
    ([r * (rest : Int), g, b * (rest : Int)], 219 * 224 * k * 10000 * rest)

/-- Steps 4 and 5: the transfer table of the source and, for HLG, the display step; results in units of 2⁻¹²⁸ of a linear
step. The rounding of the index to its 16 fraction bits is open. -/
def toLinear (s : State) (bank tcs : Nat) (e : List Int × Nat) : List Nat :=
  let lin := e.1.map (fun z =>
    let held := clampZ 0 (e.2 : Int) z
    tfLookup s (bank % 2) (tcs + 1) (roundOpen (held * (2 ^ 28 : Nat)) e.2).toNat 16)
  if tcs == 2 then
    let y := 2627 * lin.getD 0 0 + 6780 * lin.getD 1 0 + 593 * lin.getD 2 0
    let g := clampN 100 250 (fld s F.TF_CFG_hlg_gamma)
    let k := if y == 0 then 0 else if g == 100 then fixOne else fixPow y (fullScale * 10000) (g - 100) 100
    lin.map (fun v => v * k)
  else lin.map (fun v => v * fixOne)

/-- Coefficient (i, j) of gamut matrix `m`, s1.14 (R218). -/
def gamutCoef (s : State) (bank m i j : Nat) : Int :=
  sgn 16 (regWord s (0x201000 + 0x100 * (bank / 2 % 2) + 4 * (9 * m + 3 * i + j))).toNat

/-- A gamut matrix applied to values in 2⁻¹²⁸ of a linear step, clamped to full scale; the rounding to whole steps is
open. -/
def applyGamut (s : State) (bank m : Nat) (v : List Nat) : List Nat :=
  (List.range 3).map (fun i =>
    let z := (List.range 3).foldl (fun (a : Int) j => a + gamutCoef s bank m i j * ((v.getD j 0 : Nat) : Int)) 0
    (clampZ 0 (fullScale : Int) (roundOpen z (16384 * fixOne))).toNat)

/-- The linear RGB in wall primaries of three codes (R202). -/
def codesToWall (s : State) (bank fmt colorimetry tcs : Nat) (c : List Nat) : List Nat :=
  applyGamut s bank (if colorimetry == 0 then 0 else 1) (toLinear s bank tcs (signalRgb fmt colorimetry c))

/-! ### Linear light to code values, in a sender (R206) -/

/-- E′ of the three components, in 1/65,535. -/
def wallToSignal (s : State) (bank colorimetry tcs : Nat) (v : List Nat) : List Nat :=
  let w := applyGamut s bank (if colorimetry == 0 then 2 else 3) (v.map (fun x => x * fixOne))
  let w :=
    if tcs == 2 then
      let y := 2627 * w.getD 0 0 + 6780 * w.getD 1 0 + 593 * w.getD 2 0
      let g := clampN 100 250 (fld s F.TF_CFG_hlg_gamma)
      if y == 0 then [0, 0, 0]
      else
        let k := if g == 100 then fixOne else fixPow y (fullScale * 10000) (g - 100) g
        w.map (fun x => (clampZ 0 (fullScale : Int) (roundOpen ((x * fixOne : Nat) : Int) k)).toNat)
    else w
  w.map (fun x => tfLookup s (bank % 2) (tcs + 6) x 8 % 65536)

/-- The codes of a pixel in the order of R128, before chroma is thinned out: rounded half up and held to the code range. -/
def signalCodes (fmt colorimetry : Nat) (e : List Nat) : List Nat :=
  let d := pixDepth fmt
  let k : Nat := 2 ^ (d - 8)
  let top : Int := ((2 ^ d - 1 : Nat) : Int)
  let r : Int := ((e.getD 0 0 : Nat) : Int)
  let g : Int := ((e.getD 1 0 : Nat) : Int)
  let b : Int := ((e.getD 2 0 : Nat) : Int)
  let held (z : Int) (den : Nat) : Nat := (clampZ 0 top (halfUp z den)).toNat
  if pixRgb fmt then [r, g, b].map (fun x => held (x * 219 * (k : Int) + 16 * (k : Int) * 65535) 65535)
  else
    let (kr, kb) := lumaWeights colorimetry
    let y := (kr : Int) * r + ((10000 - kr - kb : Nat) : Int) * g + (kb : Int) * b
    let chroma (x : Int) (kc : Nat) : Nat :=
      held ((10000 * x - y) * 224 * (k : Int) + 128 * (k : Int) * 65535 * 2 * ((10000 - kc : Nat) : Int))
        (65535 * 2 * (10000 - kc))
    [chroma b kb, held (y * 219 * (k : Int) + 16 * (k : Int) * 655350000) 655350000, chroma r kr]

end Sys2Proof.Machine
end

