-- ==== Sys2Proof/Machine/Pipeline.lean ====
section
/-! DEFINITION. The pixel path: intake of ring streams, composition in both roles, correction, dither and packing
(spec/08_composition_and_accords.md R183 to R190, spec/09_tile_pixel_pipeline.md R194 to R224, R82 of spec/03). -/

namespace Sys2Proof.Machine

/-! ### Frames in work -/

/-- The latched frame with full index `f`. -/
def frameLatch (s : State) (f : Nat) : Option FrameLatch := s.comp.frames.find? (fun x => x.frame == f)

/-- Change the latched frame `f`. -/
def setFrame (f : Nat) (g : FrameLatch → FrameLatch) (s : State) : State :=
  { s with comp := { s.comp with frames := s.comp.frames.map (fun x => if x.frame == f then g x else x) } }

/-- View `v` of a latched frame. -/
def FrameLatch.view (x : FrameLatch) (v : Nat) : ViewLatch := x.views.getD v (blackView 0)

/-- The clusters held for kernels are awake (R221). -/
def clustersOn (s : State) : Bool :=
  (List.range 16).all (fun k => !bitOf (fld s F.PIPE_PE_STAT_in_use) k || domainOn s (17 + k))

/-- Raise COMP_OVERRUN once per frame and count a late packet or segment (R189, R190). -/
def countOverrun (f : Nat) (s : State) : State :=
  let s := incFld F.COMP_STAT_overruns s
  match frameLatch s f with
  | some x => if x.overrun then s else raise Src.COMP_OVERRUN (setFrame f (fun y => { y with overrun := true }) s)
  | none => raise Src.COMP_OVERRUN s

/-! ### Corrupt WCS tiles (R135) -/

/-- The WCS tiles of a latched layer that a wall rectangle uses: each with its surface. -/
def layerTiles (l : LayerLatch) (u : Win) : List (FlaconEntry × Nat) :=
  match l.src, layerInWin l u with
  | .flacon e, some (xa, xb, ya, yb) =>
    let c := (axisH l).span xa xb
    let r := (axisV l).span ya yb
    if layoutWcs e.layout then
      (List.range (r.2 / 16 + 1 - r.1 / 16)).flatMap (fun j => (List.range (c.2 / 64 + 1 - c.1 / 64)).map (fun i =>
        (e, (r.1 / 16 + j) * tilesX e.width + (c.1 / 64 + i))))
    else []
  | _, _ => []

/-- Tiles that the reads for frame `f` decode: SURF_WCS_CORRUPT for each corrupt one, once per frame (R135). -/
def noteTiles (f : Nat) (l : List (FlaconEntry × Nat)) (s : State) : State :=
  forEach l (fun x st =>
    let key := (x.1.region, x.1.base, x.2)
    match frameLatch st f with
    | none => st
    | some q =>
      if q.badTiles.contains key || !(readTile st x.1 x.2).corrupt then st
      else raise Src.SURF_WCS_CORRUPT (setFrame f (fun y => { y with badTiles := key :: y.badTiles }) st)) s

/-! ### Planes: component `k` at row `y` and plane column `i` -/

/-- Samples of a flacon (R130 to R135). -/
def flaconPlane (s : State) (e : FlaconEntry) (k y i : Nat) : Nat :=
  if e.layout == 9 then ((linearRowComps s e y).getD k []).getD i 0
  else
    let per := planeWidth e.fmt 64 k
    let u := readTile s e (y / 16 * tilesX e.width + i / per)
    ((unitRow u.planes (y % 16)).getD k []).getD (i % per) 0

/-- Bytes of a stream of frame `f`, as delivered; none while one of them is missing (R190). -/
def streamBytes (s : State) (f : Nat) (x : RingStream) (o n : Nat) : Option (List Byte) :=
  let mine := s.pkt.segs.filter (fun g => g.frame == frameTag s f % 4096 && g.view == x.view && g.layer == x.layer)
  (List.range n).mapM (fun i =>
    match mine.find? (fun g => decide (g.offset ≤ o + i) && decide (o + i < g.offset + g.bytes.length)) with
    | some g => some (g.bytes.getD (o + i - g.offset) 0)
    | none => none)

/-- Whether groups `g0` to `g1` of a stream row have been delivered. -/
def groupsHere (s : State) (f : Nat) (x : RingStream) (row g0 g1 : Nat) : Bool :=
  let gb := groupBytes x.fmt x.ratio
  decide (row < x.rows) && decide (g1 < x.groups) && (streamBytes s f x ((row * x.groups + g0) * gb) ((g1 + 1 - g0) * gb)).isSome

/-- A chain group decoded (R185, R201): the raw form is packed, the coded one goes through the WCS coder. -/
def decodeGroup (fmt ratio : Nat) (bs : List Byte) : DecodedUnit :=
  if ratio == 0 then { planes := unrawUnit fmt 16 1 bs, corrupt := false } else decodeUnit fmt 16 1 bs

/-- Samples of a delivered stream: row and columns count from the stream's own first row and group. -/
def streamPlane (s : State) (f : Nat) (x : RingStream) (k row i : Nat) : Nat :=
  let per := planeWidth x.fmt 16 k
  let gb := groupBytes x.fmt x.ratio
  match streamBytes s f x ((row * x.groups + i / per) * gb) gb with
  | some bs => ((unitRow (decodeGroup x.fmt x.ratio bs).planes 0).getD k []).getD (i % per) 0
  | none => 0

/-- Component `k` at pixel (x, y) with 4:2:2 chroma upsampled in a row of `width` pixels (R202 step 1). -/
def upsampled (fmt width : Nat) (plane : Nat → Nat → Nat → Nat) (k x y : Nat) : Nat :=
  if pix422 fmt && k != 1 then
    if x % 2 == 0 || x + 1 ≥ width then plane k y (x / 2) else (plane k y (x / 2) + plane k y (x / 2 + 1) + 1) / 2
  else plane k y x

/-! ### A layer at a wall pixel (R183) -/

/-- Where a layer's samples come from: format, colorimetry, tcs, row width, planes in source coordinates. -/
structure Samples where
  fmt : Nat
  colorimetry : Nat
  tcs : Nat
  width : Nat
  plane : Nat → Nat → Nat → Nat

/-- The key factor of a source pixel (R183). -/
def keyed (l : LayerLatch) (c : List Nat) : Bool :=
  let near (a b : Nat) : Bool := decide (a ≤ b + bitsOf (l.word 7) 11 0) && decide (b ≤ a + bitsOf (l.word 7) 11 0)
  bitOf (l.word 0) 19 && near (c.getD 0 0) (bitsOf (l.word 6) 27 16) && near (c.getD 1 0) (bitsOf (l.word 6) 11 0) &&
    near (c.getD 2 0) (bitsOf (l.word 7) 27 16)

/-- Coverage of a source pixel in 1/65,536 (R183 step 3): pixel alpha times the key factor; the rounding of an alpha code to
a 16-bit fraction is open. -/
def coverageAt (l : LayerLatch) (m : Samples) (x y : Nat) : Int :=
  let c := (List.range 3).map (fun k => upsampled m.fmt m.width m.plane k x y)
  if keyed l c then 0
  else if pixAlpha m.fmt then roundOpen ((m.plane 3 y x * 65536 : Nat) : Int) (2 ^ pixDepth m.fmt - 1)
  else 65536

/-- A layer's linear RGB and coverage at wall pixel (x, y) (R183 steps 1 to 5). -/
def layerPixel (s : State) (q : FrameLatch) (l : LayerLatch) (m : Samples) (x y : Nat) : List Nat × Nat :=
  let h := axisH l
  let v := axisV l
  let top : Int := ((2 ^ pixDepth m.fmt - 1 : Nat) : Int)
  let c := (List.range 3).map (fun k =>
    (filtered h v q.coef top (fun a b => ((upsampled m.fmt m.width m.plane k a b : Nat) : Int)) x y).toNat)
  let cov :=
    if !pixAlpha m.fmt && !bitOf (l.word 0) 19 then 65536
    else (filtered h v q.coef 65536 (fun a b => coverageAt l m a b) x y).toNat
  (codesToWall s q.bank m.fmt m.colorimetry m.tcs c, cov)

/-! ### Blending (R184) -/

/-- Insert a layer into the blend order: ascending z, the lower number first among equals. -/
def blendInsert (l : LayerLatch) : List LayerLatch → List LayerLatch
  | [] => [l]
  | y :: t => if l.z ≤ y.z then l :: y :: t else y :: blendInsert l t

/-- The layers of a view in blend order. -/
def blendOrder (x : ViewLatch) : List LayerLatch := x.layers.foldr blendInsert []

/-- Blend one layer over exact component values n / d. -/
def blendOver (alpha cov : Nat) (c : List Nat) (out : List Int × Nat) : List Int × Nat :=
  let b : Nat := 65535 * 65536
  let a : Int := ((alpha * cov : Nat) : Int)
  ((List.zip c out.1).map (fun (p : Nat × Int) => (p.1 : Int) * a * (out.2 : Int) + p.2 * ((b : Int) - a)), out.2 * b)

/-- The background of a view. -/
def background (x : ViewLatch) : List Int :=
  [1, 2, 3].map (fun i => ((x.head i % 2 ^ 20 : Nat) : Int))

/-- The blend of a view at a wall pixel over a base (R184): `src` gives a layer's colour and coverage there. The exact result
is clamped; its rounding to whole steps is open. -/
def blend (x : ViewLatch) (base : List Int) (src : LayerLatch → Option (List Nat × Nat)) : List Nat :=
  let r := (blendOrder x).foldl (fun (o : List Int × Nat) l =>
    match src l with
    | some (c, cov) => blendOver (l.word 1 / 65536) cov c o
    | none => o) (base, 1)
  r.1.map (fun z => (clampZ 0 (fullScale : Int) (roundOpen (clampZ 0 ((fullScale * r.2 : Nat) : Int) z) r.2)).toNat)

/-- Whether a layer covers a wall pixel. -/
def LayerLatch.at (l : LayerLatch) (x y : Nat) : Bool := (axisH l).covers x && (axisV l).covers y

/-! ### Composition in a tile -/

/-- A tile's stream for a ring layer of view `v` (R186, R190). -/
def ringStream (q : FrameLatch) (v : Nat) (l : LayerLatch) : RingStream :=
  { view := sharedView q.views v, layer := l.source, dst := 0xFF, fmt := l.chainFmt, ratio := l.chainRatio,
    x0 := l.word 8 / 65536, y0 := l.word 9 / 65536, groups := l.word 8 % 65536, rows := l.word 9 % 65536, lines := [] }

/-- A tile's canvas stream of view `v`. -/
def canvasOf (q : FrameLatch) (v : Nat) (u : Win) : RingStream :=
  canvasStream (sharedView q.views v) (q.view v) 0 u

/-- The streams that a tile takes in for view `v` (R190). -/
def tileStreams (q : FrameLatch) (v : Nat) (u : Win) : List RingStream :=
  if (q.view v).accord then ((q.view v).layers.filter (fun l => l.kind == 2)).map (ringStream q v) else [canvasOf q v u]

/-- The tile window of frame `f`. -/
def tileWindow (s : State) (f : Nat) : Win := ownWindow (wordsFor s f)

/-- The samples of a layer in a tile; ring streams are read at source coordinates. -/
def tileSamples (s : State) (q : FrameLatch) (v : Nat) (l : LayerLatch) : Option Samples :=
  match l.src with
  | .flacon e => some { fmt := e.fmt, colorimetry := e.colorimetry, tcs := e.tcs, width := e.width, plane := flaconPlane s e }
  | .ring =>
    let x := ringStream q v l
    some { fmt := x.fmt, colorimetry := bitsOf (l.word 10) 25 24, tcs := bitsOf (l.word 10) 23 22,
           width := x.x0 + 16 * x.groups,
           plane := fun k y i => streamPlane s q.frame x k (y - x.y0) (i - planeWidth x.fmt x.x0 k) }
  | _ => none

/-- Colour and coverage of a present layer at a wall pixel of a tile. -/
def tileLayer (s : State) (q : FrameLatch) (v x y : Nat) (l : LayerLatch) : Option (List Nat × Nat) :=
  if !l.at x y then none
  else match l.src with
    | .solid => some ([11, 12, 13].map (fun i => l.word i % 2 ^ 20), 65536)
    | .absent => none
    | _ => (tileSamples s q v l).map (fun m => layerPixel s q l m x y)

/-- The composed linear RGB of view `v` at tile pixel (x, y): over the background, or over the canvas (R184). -/
def tilePixel (s : State) (q : FrameLatch) (v x y : Nat) : List Nat :=
  let u := tileWindow s q.frame
  let w := q.view v
  let base :=
    if w.accord then background w
    else
      let c := canvasOf q v u
      let codes := (List.range 3).map (fun k => upsampled c.fmt u.w (streamPlane s q.frame c) k x y)
      (codesToWall s q.bank c.fmt w.outCol w.outTcs codes).map (fun (n : Nat) => (n : Int))
  blend w base (tileLayer s q v (u.x0 + x) (u.y0 + y))

/-- Where rows `lo` to `hi` of a surface lie in its region, as offset and bytes (R130 to R132). -/
def surfaceRows (e : FlaconEntry) (lo hi : Nat) : Nat × Nat :=
  if e.layout == 9 then (e.base + lo * e.stride, (hi + 1 - lo) * e.stride)
  else
    let tx := tilesX e.width
    let row := tx * slotSize e.layout e.fmt
    (e.base + dataOffset e.layout (tx * tilesY e.height) + lo / 16 * row, (hi / 16 + 1 - lo / 16) * row)

/-- Whether the rows that a layer takes from a flacon for the lines of a window have come through port `p` (R156). -/
def layerFetched (s : State) (p : Nat) (u : Win) (l : LayerLatch) : Bool :=
  match l.src, layerInWin l u with
  | .flacon e, some (_, _, ya, yb) =>
    let rows := (axisV l).span ya yb
    let r := surfaceRows e rows.1 rows.2
    fetched s p e.region r.1 r.2
  | _, _ => true

/-- Whether the stream rows that a layer needs for a tile row have been delivered (R190), and those of a flacon read. -/
def layerUsable (s : State) (q : FrameLatch) (v : Nat) (u : Win) (y : Nat) (l : LayerLatch) : Bool :=
  match l.src with
  | .ring =>
    match layerInWin l { u with y0 := u.y0 + y, h := 1 } with
    | none => true
    | some (xa, xb, ya, _) =>
      let x := ringStream q v l
      let cols := (axisH l).span xa xb
      let rows := (axisV l).used ya
      decide (x.x0 ≤ cols.1) && decide (x.y0 ≤ rows.1) &&
        (List.range (rows.2 + 1 - rows.1)).all (fun i =>
          groupsHere s q.frame x (rows.1 + i - x.y0) ((cols.1 - x.x0) / 16) ((cols.2 - x.x0) / 16))
  | _ => layerFetched s 1 { u with y0 := u.y0 + y, h := 1 } l

/-- Whether the correction records of tile row `y` have come through port CORR_RD (R207, R208). -/
def recordsHere (s : State) (q : FrameLatch) (y : Nat) : Bool :=
  match q.map with
  | some m =>
    let (r, o) := corrBase s (q.bank / 8 % 2)
    fetched s 3 r (o + 32 * y * m.w) (32 * m.w)
  | none => true

/-- Whether the segment of tile row `y` in view `v` is usable: every stream row that its layers need is, and its correction
records have arrived (R190, R208). -/
def segmentUsable (s : State) (q : FrameLatch) (v y : Nat) : Bool :=
  let u := tileWindow s q.frame
  let w := q.view v
  (w.accord || groupsHere s q.frame (canvasOf q v u) y 0 (cdiv u.w 16 - 1)) && w.layers.all (layerUsable s q v u y) &&
    recordsHere s q y

/-- The WCS tiles that tile row `y` of view `v` is composed of. -/
def rowTiles (s : State) (q : FrameLatch) (v y : Nat) : List (FlaconEntry × Nat) :=
  let u := tileWindow s q.frame
  ((q.view v).layers.flatMap (fun l => layerTiles l { u with y0 := u.y0 + y, h := 1 })).eraseDups

/-! ### Intake (R190, R201) -/

/-- Whether a delivered flit belongs to a stream and lies inside it; a canvas packet has the tile's own address as dst. -/
def segFits (g : HeartSeg) (x : RingStream) : Bool :=
  g.typ == (if x.dst == 0xFF then 2 else 1) && (x.dst == 0xFF || g.dst != 0xFF) && g.view == x.view && g.layer == x.layer &&
    decide (g.offset + g.bytes.length ≤ x.size)

/-- The streams of a latched frame that a tile takes in, over all its views. -/
def allStreams (s : State) (q : FrameLatch) : List RingStream :=
  let u := tileWindow s q.frame
  (List.range q.views.length).flatMap (fun v => tileStreams q v u)

/-- Rows and groups of a stream that a tile uses, as first and last of each. -/
def usedPart (s : State) (q : FrameLatch) (x : RingStream) : Nat × Nat × Nat × Nat :=
  let u := tileWindow s q.frame
  if x.dst != 0xFF then (0, x.rows, 0, x.groups)
  else
    match ((q.view x.view).layers.filter (fun l => l.kind == 2 && l.source == x.layer)).filterMap (fun l =>
        (layerInWin l u).map (fun r => ((axisH l).span r.1 r.2.1, (axisV l).span r.2.2.1 r.2.2.2))) with
    | [] => (1, 0, 1, 0)
    | (c, r) :: _ => (r.1 - x.y0, r.2 - x.y0, (c.1 - x.x0) / 16, (c.2 - x.x0) / 16)

/-- Groups of a stream that the newest flits complete and that decode as corrupt (R201). -/
def newCorrupt (s : State) (q : FrameLatch) (x : RingStream) (new : List HeartSeg) : Nat :=
  let gb := max 1 (groupBytes x.fmt x.ratio)
  let (r0, r1, g0, g1) := usedPart s q x
  let ids := (new.flatMap (fun g =>
    (List.range ((g.offset + g.bytes.length - 1) / gb + 1 - g.offset / gb)).map (fun i => g.offset / gb + i))).eraseDups
  (ids.filter (fun i =>
    let row := i / max 1 x.groups
    let col := i % max 1 x.groups
    decide (r0 ≤ row) && decide (row ≤ r1) && decide (g0 ≤ col) && decide (col ≤ g1) && x.ratio != 0 &&
      (match streamBytes s q.frame x (i * gb) gb with
       | some bs => (decodeGroup x.fmt x.ratio bs).corrupt
       | none => false))).length

/-- Count corrupt groups; PIPE_GROUP_CORRUPT at most once per frame (R201). -/
def countCorrupt (f n : Nat) (s : State) : State :=
  if n == 0 then s
  else
    let s := addFldAt F.PIPE_STAT_group_corrupt 0 n s
    match frameLatch s f with
    | some x => if x.corrupt then s else raise Src.PIPE_GROUP_CORRUPT (setFrame f (fun y => { y with corrupt := true }) s)
    | none => s

/-- A stray packet: discarded whole and counted, with COMP_STREAM_MISMATCH once per frame (R190). -/
def strayPacket (keep : Nat) (q : Option FrameLatch) (s : State) : State :=
  let s := { s with pkt := { s.pkt with segs := s.pkt.segs.take keep } }
  let s := incFld F.COMP_STRAY_count s
  match q with
  | some x =>
    if x.mismatch then s
    else raise Src.COMP_STREAM_MISMATCH (setFrame x.frame (fun y => { y with mismatch := true }) s)
  | none => raise Src.COMP_STREAM_MISMATCH s

/-- A tile takes in the heart flits that a packet end has delivered: those after the first `keep` (R190). -/
def heartIntake (keep : Nat) (s : State) : State :=
  let new := s.pkt.segs.drop keep
  match new with
  | [] => s
  | g :: _ =>
    if !isTile s then { s with pkt := { s.pkt with segs := s.pkt.segs.take keep } }
    else
      match s.comp.frames.find? (fun x => frameTag s x.frame % 4096 == g.frame) with
      | none => strayPacket keep s.comp.frames.head? s
      | some q =>
        match (allStreams s q).find? (fun x => new.all (fun y => segFits y x)) with
        | none => strayPacket keep (some q) s
        | some x => countCorrupt q.frame (newCorrupt s q x new) s

/-! ### The presentation deadline (R82) -/

/-- Rows of a line that are not usable at its deadline fall back: nothing is sent for them. -/
def lineDeadline (q : FrameLatch) (line : Nat) (s : State) : State :=
  let u := tileWindow s q.frame
  let s := runTo (tLine s q.frame line * nsUnit) s
  let s := setFrame q.frame (fun x => { x with passed := line :: x.passed }) s
  if line < u.y0 || line ≥ u.y0 + u.h then s
  else
    let y := line - u.y0
    let awake := clustersOn s
    let gone := (List.range q.views.length).filter (fun v =>
      !q.done.contains (y, v) && !(awake && segmentUsable s q v y))
    if gone.isEmpty then s
    else
      let s := setFrame q.frame (fun x => { x with done := gone.map (fun v => (y, v)) ++ x.done }) s
      let s := when (!awake) (countOverrun q.frame) s
      raise Src.PKT_LATE_LINE (incFld F.LATE_LINE_count s)

/-- The oldest latched frame whose deadline of a line has not passed. -/
def deadlineFrame (s : State) (line : Nat) : Option FrameLatch :=
  s.comp.frames.reverse.find? (fun x => !x.passed.contains line)

/-! ### Correction, dimming and dither (R207 to R212, R267) -/

/-- Coefficient j of row `c` of the correction record of a tile pixel (R207). -/
def corrCoef (s : State) (q : FrameLatch) (m : MapSet) (x y c j : Nat) : Int :=
  let (r, o) := corrBase s (q.bank / 8 % 2)
  sgn 16 (leNat (memBytes s r (o + 32 * (y * m.w + x) + 8 * c + 2 * j) 2))

/-- A lamp value after the dimming scale (R208, R209, R211). -/
def lampValue (s : State) (q : FrameLatch) (m : MapSet) (rgb : List Nat) (x y c : Nat) : Nat :=
  let a := rgb.getD 0 0
  let b := rgb.getD 1 0
  let d := rgb.getD 2 0
  let ins := [a, b, d, min a (min b d)]
  let t := (List.range 4).foldl (fun (z : Int) j => z + corrCoef s q m x y c j * ((ins.getD j 0 : Nat) : Int)) 0
  let v := halfUp t 16384
  let v := halfUp (v * ((q.gains.getD c 0x4000 : Nat) : Int)) 16384
  let v := halfUp (v * ((min 0x8000 (q.dims.getD c 0x8000) : Nat) : Int)) 32768
  (clampZ 0 (fullScale : Int) v).toNat

/-- Offset of a lamp in the lamp state table (R262). -/
def lampOffset (m : MapSet) (x y c : Nat) : Nat := 4 * (y * m.w + x) + c

/-- A lamp value after masking and fill (R267): a masked lamp gives a share to its neighbours, unless it is masked with no fill
(R266), and goes to 0. A neighbour row that is not usable gives nothing. -/
def filledValue (s : State) (q : FrameLatch) (m : MapSet) (v x y c : Nat) : Nat :=
  if q.masked.contains (lampOffset m x y c) then 0
  else
    let own := lampValue s q m (tilePixel s q v x y) x y c
    let near := [(x + 1, y), (x, y + 1)] ++ (if x ≥ 1 then [(x - 1, y)] else []) ++ (if y ≥ 1 then [(x, y - 1)] else [])
    near.foldl (fun a p =>
      if p.1 < m.w && p.2 < m.h && q.masked.contains (lampOffset m p.1 p.2 c) &&
          !q.noFill.contains (lampOffset m p.1 p.2 c) && segmentUsable s q v p.2 then
        min fullScale (a + lampValue s q m (tilePixel s q v p.1 p.2) p.1 p.2 c * fld s F.LD_CONTAIN_fill / 256)
      else a) own

/-- The ordered threshold (R212). -/
def ditherT (a b : Nat) : Nat := [0, 8, 2, 10, 12, 4, 14, 6, 3, 11, 1, 9, 15, 7, 13, 5].getD (4 * b + a) 0

/-- The 16-bit grayscale value of lamp slot `c` at tile pixel (x, y) of view `v` (R212). -/
def grayValue (s : State) (q : FrameLatch) (m : MapSet) (v x y c : Nat) : Nat :=
  let u := tileWindow s q.frame
  let a := (u.x0 + x + frameTag s q.frame % 4 + c) % 4
  let b := (u.y0 + y + frameTag s q.frame / 4 % 4) % 4
  let t := if q.dither then ditherT a b else 8
  min 65535 ((filledValue s q m v x y c + t) / 16)

/-- The D × C values of one lane of a half for a tile row, in chain order (R213, R234); what a channel without a lamp is
sent is not stated. -/
def laneValues (s : State) (q : FrameLatch) (m : MapSet) (v y half i : Nat) : List Nat :=
  (List.range m.cap).map (fun g =>
    let ch := i * m.cap + g
    let xl := ch / m.n
    if xl < m.wh then grayValue s q m v (half * m.wh + xl) y (m.slotAt (ch % m.n)) else Config.unlampedGray ch % 65536)

/-! ### The latch of the pipeline (R209, R214, R216, R221) -/

/-- The gain of slot `c` at the present temperature (R209). -/
def tempGain (s : State) (c : Nat) : Nat :=
  let pt (k : Nat) : Nat := (regWord s (0x202000 + 0x100 * fld s F.PIPE_BANK_tgain + 4 * (16 * c + k))).toNat
  let tk (k : Nat) : Int := sgn 16 (pt k / 65536)
  let gk (k : Nat) : Int := ((pt k % 65536 : Nat) : Int)
  let t := sgn 16 (fld s F.TCOMP_TEMP_temp)
  if t ≤ tk 0 then (gk 0).toNat
  else if t ≥ tk 15 then (gk 15).toNat
  else
    let k := (List.range 16).foldl (fun b i => if tk i ≤ t then i else b) 0
    (gk k + halfUp ((gk (k + 1) - gk k) * (t - tk k)) (tk (k + 1) - tk k).toNat).toNat % 65536

/-- Check the map (R214): an invalid one leaves the last valid map in use. -/
def checkMap (f : Nat) (s : State) : State :=
  let m := mapOf (wordFor s f)
  let r := mapReason s m
  let s := setFld F.PIPE_STAT_map_reason r (setFlag F.PIPE_STAT_map_ok (r == 0) s)
  if r == 0 then { s with pipe := { s.pipe with map := some m } } else raise Src.PIPE_MAP_ERROR s

/-- Bits per second of a video flow (R124); 0 under a reserved rate or for an ancillary flow. -/
def flowBits (s : State) (n : Nat) : Nat × Nat :=
  let deep := fldAt s F.FLOW_FMT_depth n == 0xC
  let bpp := if fldAt s F.FLOW_FMT_sampling n == 0 then (if deep then 24 else 20) else (if deep then 36 else 30)
  if flagAt s F.FLOW_CTRL_kind n then (0, 1)
  else match frameRate (fldAt s F.FLOW_FMT_rate n) with
    | some (a, b) => (fldAt s F.FLOW_DIM_width n * fldAt s F.FLOW_DIM_height n * bpp * a, b)
    | none => (0, 1)

/-- Declared rate of a flow in Mbit/s, rounded up (R124). -/
def declaredRate (s : State) (n : Nat) : Nat := cdiv (flowBits s n).1 ((flowBits s n).2 * 10 ^ 6)

/-- Clusters of a kernel: ceil(demand / capacity), at least one, counted upward (R221). -/
def kernelClusters (first count demand capacity : Nat) : List Nat :=
  (List.range (min count (max 1 (cdiv demand capacity)))).map (fun i => first + i)

/-- The clusters that the kernels need for a frame (R220, R221). -/
def clusterNeed (s : State) (f : Nat) (vs : List ViewLatch) : List Nat :=
  let rd := wordsFor s f
  let tile := isTile s
  let (lay, dec) := pixelDemand tile rd vs
  let (n, d) := (rateOf s f).getD (0, 1)
  let per (x : Nat) : Nat := cdiv (x * n) d
  if tile then
    let m := mapOf rd
    let px := per (m.w * m.h * vs.length)
    kernelClusters 0 4 (per dec) (10 ^ 9) ++ kernelClusters 4 4 (per lay) (10 ^ 9) ++
      kernelClusters 8 2 px (4 * 10 ^ 8) ++ [10, 11]
  else
    let run := (List.range 16).filter (fun k => fldAt s F.FLOW_STAT_state k == 2)
    kernelClusters 0 6 (run.foldl (fun a k => a + declaredRate s k) 0) 70000 ++
      kernelClusters 6 4 (per dec) (4 * 10 ^ 9) ++ kernelClusters 10 6 (per lay) (27 * 10 ^ 8)

/-- PIPE_PE_STAT holds the clusters in need, and releases one after 16 frames without (R221). -/
def holdClusters (f : Nat) (vs : List ViewLatch) (s : State) : State :=
  let need := clusterNeed s f vs
  let idle : List Nat := (List.zip (List.range 16) s.pipe.idle).map (fun x => if need.contains x.1 then 0 else x.2 + 1)
  let held := (List.range 16).filter (fun k =>
    need.contains k || (bitOf (fld s F.PIPE_PE_STAT_in_use) k && decide (idle.getD k 0 < 16)))
  setFld F.PIPE_PE_STAT_in_use (held.foldl (fun a k => a + 2 ^ k) 0) { s with pipe := { s.pipe with idle := idle } }

/-- A tile's gains of slots 0–3 for the frame, shown in TCOMP_GAIN (R209). -/
def latchGains (s : State) : State :=
  forEach (List.range 4) (fun c st => setFldAt F.TCOMP_GAIN_gain c (tempGain st c) st) s

/-- The gain that the pipeline applies to pixels (R209). -/
def pixelGains (s : State) : List Nat :=
  (List.range 4).map (fun c => if flag s F.TCOMP_CFG_target then 0x4000 else fldAt s F.TCOMP_GAIN_gain c)

/-- COMP_COEF, kept when a layer of the frame filters with it (R179). -/
def coefFor (s : State) (vs : List ViewLatch) : List Word :=
  if vs.any (fun x => x.layers.any (fun l => bitsOf (l.word 0) 23 20 == 3)) then
    (List.range 256).map (fun i => regWord s (F.COMP_COEF_word.addr i))
  else []

/-- Add a latched frame; of older ones the last three stay in work, with their flits. -/
def addFrame (x : FrameLatch) (s : State) : State :=
  let keep := (s.comp.frames.filter (fun y => decide (y.frame + 3 > x.frame) && y.frame != x.frame)).take 3
  let live := (x :: keep).map (fun y => frameTag s y.frame % 4096)
  { s with
    comp := { s.comp with frames := x :: keep }
    pkt := { s.pkt with segs := s.pkt.segs.filter (fun g => live.contains g.frame) } }

/-! ### Emission of ring streams by a sender (R185 to R189, R206) -/

/-- Source of a layer's samples in a sender. -/
def senderSamples (s : State) (l : LayerLatch) : Option Samples :=
  match l.src with
  | .flacon e => some { fmt := e.fmt, colorimetry := e.colorimetry, tcs := e.tcs, width := e.width, plane := flaconPlane s e }
  | _ => none

/-- Colour and coverage of a present layer at a wall pixel, in a sender. -/
def senderLayer (s : State) (q : FrameLatch) (x y : Nat) (l : LayerLatch) : Option (List Nat × Nat) :=
  if !l.at x y then none
  else match l.src with
    | .solid => some ([11, 12, 13].map (fun i => l.word i % 2 ^ 20), 65536)
    | _ => (senderSamples s l).map (fun m => layerPixel s q l m x y)

/-- Codes of a canvas pixel (R184, R206). -/
def canvasCodes (s : State) (q : FrameLatch) (w : ViewLatch) (x y : Nat) : List Nat :=
  signalCodes w.outFmt w.outCol (wallToSignal s q.bank w.outCol w.outTcs (blend w (background w) (senderLayer s q x y)))

/-- A sample of depth `a` at depth `b`: rounded to nearest when it loses bits (R185; a tie is free), scaled when it gains. -/
def recode (a b v : Nat) : Nat :=
  if a == b then v
  else if a > b then
    let k := 2 ^ (a - b)
    let r := v % k
    let n := v / k + (if 2 * r > k then 1 else if 2 * r == k then b2n (Config.roundUp (v : Int) k) else 0)
    if n < 2 ^ b then n else Config.outside (n : Int) % 2 ^ b
  else v * 2 ^ (b - a)

/-- The sample planes of one chain group: 16 columns from `x` of a row, the last pixel of the row repeated (R131, R185). -/
def groupPlanes (fmt width x : Nat) (sample : Nat → Nat → Nat) : List Plane :=
  (List.range (pixComps fmt)).map (fun k =>
    let per := planeWidth fmt 16 k
    let last := planeWidth fmt width k - 1
    let x0 := planeWidth fmt x k
    [(List.range per).map (fun i => sample k (min last (x0 + i)))])

/-- A chain group coded (R185, R199). -/
def encodeGroup (fmt ratio : Nat) (u : List Plane) : List Byte :=
  if ratio == 0 then rawUnit fmt u else encodeF (pixDepth fmt) (groupBytes fmt ratio) u

/-- Group `g` of row `i` of a sender's stream (R185, R186). -/
def streamGroup (s : State) (q : FrameLatch) (x : RingStream) (u : Win) (i g : Nat) : List Byte :=
  let w := q.view x.view
  if x.layer == 0 then
    encodeGroup x.fmt x.ratio (groupPlanes x.fmt u.w (16 * g) (fun k c =>
      let px := if pix422 x.fmt && k != 1 then 2 * c else c
      (canvasCodes s q w (u.x0 + px) (u.y0 + i)).getD k 0))
  else
    match (w.layers.find? (fun l => l.k == x.layer)).bind (fun l => senderSamples s l) with
    | some m => encodeGroup x.fmt x.ratio (groupPlanes x.fmt m.width (x.x0 + 16 * g) (fun k c =>
        recode (pixDepth m.fmt) (pixDepth x.fmt) (m.plane k (x.y0 + i) c)))
    | none => List.replicate (groupBytes x.fmt x.ratio) 0

/-- `n` bytes of a sender's stream from offset `o`. -/
def streamSlice (s : State) (q : FrameLatch) (x : RingStream) (u : Win) (o n : Nat) : List Byte :=
  let gb := max 1 (groupBytes x.fmt x.ratio)
  let first := o / gb
  let bs := (List.range ((o + n - 1) / gb + 1 - first)).flatMap (fun i =>
    streamGroup s q x u ((first + i) / max 1 x.groups) ((first + i) % max 1 x.groups))
  (bs.drop (o - first * gb)).take n

/-- The WCS tiles that the groups of `n` bytes of a stream from offset `o` are composed of. -/
def sliceTiles (q : FrameLatch) (x : RingStream) (u : Win) (o n : Nat) : List (FlaconEntry × Nat) :=
  let gb := max 1 (groupBytes x.fmt x.ratio)
  let w := q.view x.view
  let tile (e : FlaconEntry) (r c : Nat) : FlaconEntry × Nat := (e, r / 16 * tilesX e.width + c / 64)
  ((List.range ((o + n - 1) / gb + 1 - o / gb)).flatMap (fun i =>
    let row := (o / gb + i) / max 1 x.groups
    let g := (o / gb + i) % max 1 x.groups
    if x.layer == 0 then
      w.layers.flatMap (fun l => layerTiles l { x0 := u.x0 + 16 * g, y0 := u.y0 + row, w := min 16 (u.w - 16 * g), h := 1 })
    else
      match w.layers.find? (fun l => l.k == x.layer) with
      | some l => match l.src with
        | .flacon e => if layoutWcs e.layout then [tile e (x.y0 + row) (min (x.x0 + 16 * g) (e.width - 1))] else []
        | _ => []
      | none => [])).eraseDups

/-- The stream that a plan entry cuts, and the window of its destination. -/
def planStream (s : State) (p : Nat) (q : FrameLatch) (x : PlanPkt) : Option RingStream × Win :=
  let rd := wordsFor s x.frame
  ((portStreams rd q.views p).find? (fun y => y.view == x.view && y.layer == x.layer && y.dst == x.dst),
   (((portWindows rd p).find? (fun a => a.1 == x.dst)).map Prod.snd).getD { x0 := 0, y0 := 0, w := 0, h := 0 })

/-- The WCS tiles that the packet of a plan entry is composed of. -/
def planTiles (s : State) (p : Nat) (q : FrameLatch) (x : PlanPkt) : List (FlaconEntry × Nat) :=
  match planStream s p q x with
  | (some y, u) => sliceTiles q y u x.offset x.len
  | (none, _) => []

/-- Whether what the packet of a plan entry is made of has been read: the flacon rows of its layers, through RING_RD for a
layer stream and COMP_RD for a canvas stream (R154, R156). -/
def planFetched (s : State) (p : Nat) (q : FrameLatch) (x : PlanPkt) : Bool :=
  match planStream s p q x with
  | (some y, u) =>
    let row := max 1 (y.groups * groupBytes y.fmt y.ratio)
    let lo := x.offset / row
    let hi := (x.offset + x.len - 1) / row
    if x.layer == 0 then
      (q.view y.view).layers.all (layerFetched s 1 { u with y0 := u.y0 + lo, h := hi + 1 - lo })
    else
      match (q.view y.view).layers.find? (fun l => l.k == x.layer) with
      | some l => match l.src with
        | .flacon e =>
          let r := surfaceRows e (y.y0 + lo) (y.y0 + hi)
          fetched s 2 e.region r.1 r.2
        | _ => true
      | none => true
  | (none, _) => true

/-- The heart packet that a plan entry stands for (R64, R187). -/
def heartPacket (s : State) (p : Nat) (q : FrameLatch) (x : PlanPkt) : TxPkt :=
  let (st, u) := planStream s p q x
  { hdr := mkHeader 1 (if x.layer == 0 then 1 else 2) true (ownDir s p) (cdiv x.len 32)
      (frameTag s x.frame % 4096 * 2 ^ 20 + x.index) x.dst (ownSrc s) (ownPair s) (ownRingPort s p)
      (beBytes 2 x.line ++ [BitVec.ofNat 8 x.layer, BitVec.ofNat 8 (x.view * 64)] ++ beBytes 4 x.offset)
    payload := match st with | some y => streamSlice s q y u x.offset x.len | none => []
    due := x.due * nsUnit
    latest := x.latest * nsUnit
    ready := s.time.counter }

/-- The first packet of a port's plan comes due (R189): it is composed, coded and queued; kernels asleep, or memory that has not been read, make it late (R156). A
standby member without sync, or one that holds the frame, sends none (R343, R344). -/
def heartDue (p : Nat) (s : State) : State :=
  match s.comp.plans.getD p [] with
  | [] => s
  | x :: rest =>
    let s := runTo (x.due * nsUnit) s
    let setPlan (l : List PlanPkt) (st : State) : State :=
      { st with comp := { st.comp with plans := updAt (fun _ => l) st.comp.plans p } }
    match frameLatch s x.frame with
    | none => setPlan rest s
    | some q =>
      if !portActive s p || !dupAllowed s || s.red.held.contains x.frame then setPlan rest s
      else if !clustersOn s then
        if x.late then s else countOverrun x.frame (setPlan ({ x with late := true } :: rest) s)
      else if !planFetched s p q x then s
      else
        let pk := heartPacket s p q x
        let s := noteTiles x.frame (planTiles s p q x) s
        setPlan rest (setPort p (fun o => { o with tx := { o.tx with heart := o.tx.heart ++ [pk] } }) s)

/-! ### Tables and temperature (R204, R210) -/

/-- TF_CFG.regen: the refill of the named bank starts (R204). -/
def tfRegen (s : State) : State :=
  setFlag F.TF_CFG_busy true { s with pipe := { s.pipe with refill := some (fld s F.TF_CFG_bank, tfParams s) } }

/-- The firmware has refilled the bank (R204); its entries change together at that time (DESIGN CHOICE, log 43). -/
def tfRefillDone (s : State) : State :=
  match s.pipe.refill with
  | none => s
  | some (b, f) => setFlag F.TF_CFG_busy false (tfFillBank b f { s with pipe := { s.pipe with refill := none } })

/-- TCOMP_TEMP has been written (R210). -/
def tempWritten (s : State) : State := { s with pipe := { s.pipe with staleRaised := false } }

/-- TCOMP_TEMP has not been written for stale_ms (R210). -/
def tempStale (s : State) : State :=
  if isTile s && fld s F.TCOMP_CFG_stale_ms != 0 && !s.pipe.staleRaised then
    raise Src.PIPE_TEMP_STALE { s with pipe := { s.pipe with staleRaised := true } }
  else s

/-- PIPE_CFG.cnt_clear (R224). -/
def pipeClear (s : State) : State := setFld F.PIPE_STAT_table_reject 0 (setFld F.PIPE_STAT_group_corrupt 0 s)

/-! ### Rows of the opcode table -/

/-- PACKET_END (R77): the packet at the front of the port's stream ends; a tile takes in what the heart window delivers
(R190). -/
def execPacketEnd (port : Nat) (s : State) : Host.Outcome State Fault Refusal :=
  .next (whenOn 11 (fun st => heartIntake st.pkt.segs.length (endPacket port st)) s)

/-- LINE_DEADLINE (R82, R320): the deadline of a wall line in the oldest latched frame that still awaits it. -/
def execLineDeadline (line : Nat) (s : State) : Host.Outcome State Fault Refusal :=
  .next (if isTile s && domainOn s 16 && flag s F.WT_STAT_rec_valid then
    match deadlineFrame s line with
    | some q => lineDeadline q line s
    | none => s
  else s)

/-- HEART_PACKET_DUE (R189). -/
def execHeartPacketDue (port : Nat) (s : State) : Host.Outcome State Fault Refusal :=
  .next (if isSender s && domainOn s 16 && port < 7 then heartDue port s else s)

/-- TF_REFILL_DONE (R204). -/
def execTfRefillDone (s : State) : Host.Outcome State Fault Refusal :=
  .next (whenOn 16 tfRefillDone s)

/-- TCOMP_STALE (R210). -/
def execTcompStale (s : State) : Host.Outcome State Fault Refusal :=
  .next (whenOn 16 tempStale s)

end Sys2Proof.Machine
end

