-- ==== Sys2Proof/Machine/Ingest.lean ====
section
/-! DEFINITION. Studio ingest (spec/05_ingest.md, R111 to R127): ports, classification of frames, flows and their merge,
frames into flacons, admission and shedding. -/

namespace Sys2Proof.Machine

/-- Change the ingest part of the state. -/
def setEth (f : EthState → EthState) (s : State) : State := { s with eth := f s.eth }

/-- Flow `n`. -/
def flowAt (s : State) (n : Nat) : Flow := s.eth.flows.getD n {}

/-- Change flow `n`. -/
def setFlow (n : Nat) (f : Flow → Flow) (s : State) : State := setEth (fun e => { e with flows := updAt f e.flows n }) s

/-- State code of flow `n`. -/
def flowState (s : State) (n : Nat) : Nat := fldAt s F.FLOW_STAT_state n

/-! ### Ports (R111, R122) -/

/-- Rate of each port, in Gbit/s. -/
def ethRate (s : State) : Nat := [0, 50, 100, 200, 400, 25, 100].getD (fld s F.ETH_CFG_mode) 0

/-- Receive and transmit corrections of the ports, in 0.1 ns (R122). -/
def ethCorrection (s : State) : Nat × Nat :=
  match fld s F.ETH_CFG_mode with
  | 1 => (1426, 964)
  | 2 => (1182, 848)
  | 3 => (1045, 773)
  | 4 => (961, 729)
  | 5 => if flag s F.ETH_CFG_fec_off then (614, 492) else (2280, 1315)
  | 6 => (1703, 1026)
  | _ => (0, 0)

/-- The receive timestamp of a frame that arrives now: hardware's latched time less the fixed correction (R122). -/
def rxStamp (s : State) : Nat :=
  let c := (ethCorrection s).1 * nsUnit / 10
  (s.time.counter + counterMod - c) % counterMod

/-- The timestamp of a PTP event message that leaves now: hardware's latched time and the fixed correction (R122). -/
def txStamp (s : State) : Nat := (s.time.counter + (ethCorrection s).2 * nsUnit / 10) % counterMod

/-- Count a frame or datagram that is discarded (R113); a port that is not in use counts nothing (R127). -/
def ethDiscard (p : Nat) (s : State) : State := if p < ethPorts s then incFldAt F.ETH_DISCARD_count p s else s

/-! ### The ingest buffer (R125) -/

/-- The ingest area that a value of INGEST_BUF gives, in 256-byte units: one past the end of the store acts as the reset
value (R125). -/
def ingestArea (s : State) : Nat :=
  let o := fld s F.INGEST_BUF_offset
  if o * 256 + 4352 * 1024 > storeSize then 0x13C00 else o

/-! ### Flow entries (R115 to R118, R141) -/

/-- Pixel format code of a flow's surfaces, by sampling and depth (R141). -/
def flowPix (s : State) (n : Nat) : Nat :=
  2 * fldAt s F.FLOW_FMT_sampling n + (if fldAt s F.FLOW_FMT_depth n == 0xC then 1 else 0)

/-- Whether flow `n` is ancillary. -/
def flowAnc (s : State) (n : Nat) : Bool := flagAt s F.FLOW_CTRL_kind n

/-- Flacons of flow `n`, in turn. -/
def flowFlacons (s : State) (n : Nat) : List Nat :=
  (List.range (fldAt s F.FLOW_FLACON_count n)).map (fun i => (fldAt s F.FLOW_FLACON_first n + i) % 256)

/-- Whether flacon `k` is bound and matches flow `n`; a flow whose flacon is in DRAM needs the controller ready
(R121, R141, R152). -/
def flaconMatches (s : State) (n k : Nat) : Bool :=
  let e := flaconEntry s k
  let st := flaconState s k
  st != 0 && st != 4 && e.layout == fldAt s F.FLOW_FMT_wcs n && e.width == fldAt s F.FLOW_DIM_width n &&
    e.height == fldAt s F.FLOW_DIM_height n && e.fmt == flowPix s n && e.colorimetry == fldAt s F.FLOW_FMT_colorimetry n &&
    e.tcs == fldAt s F.FLOW_FMT_tcs n && (e.region == 0 || flag s F.DRAM_STAT_ready)

/-- Whether a video entry's fields are all within R117 and R127. -/
def videoLegal (s : State) (n : Nat) : Bool :=
  let g (f : Fld) : Nat := fldAt s f n
  decide (g F.FLOW_FMT_sampling ≤ 2) && (g F.FLOW_FMT_depth == 0xA || g F.FLOW_FMT_depth == 0xC) &&
    decide (g F.FLOW_FMT_colorimetry ≤ 2) && decide (g F.FLOW_FMT_tcs ≤ 2) && decide (g F.FLOW_FMT_packing ≤ 1) &&
    [0, 2, 3, 4].contains (g F.FLOW_FMT_wcs) && decide (g F.FLOW_FMT_rate ≤ 14) &&
    decide (16 ≤ g F.FLOW_DIM_width) && decide (g F.FLOW_DIM_width ≤ 8192) &&
    decide (16 ≤ g F.FLOW_DIM_height) && decide (g F.FLOW_DIM_height ≤ 4320) &&
    decide (2 ≤ g F.FLOW_FLACON_count) && decide (g F.FLOW_FLACON_count ≤ 4)

/-- Whether flow `n` is in config_error: reserved codes, a fifth ancillary entry, or flacons that do not match
(R117, R118, R121, R127). -/
def flowBadConfig (s : State) (n : Nat) : Bool :=
  decide (fldAt s F.FLOW_CTRL_paths n ≥ 2) ||
    (if flowAnc s n then
      decide (((List.range n).filter (fun k => flagAt s F.FLOW_CTRL_enable k && flowAnc s k)).length ≥ 4)
    else !videoLegal s n || !(flowFlacons s n).all (flaconMatches s n))

/-! ### Admission (R124) -/

/-- Ports that flow `n` uses. -/
def flowPorts (s : State) (n : Nat) : List Nat :=
  (fldAt s F.FLOW_CTRL_port_p n ::
    (if fldAt s F.FLOW_CTRL_paths n == 1 then [fldAt s F.FLOW_CTRL_port_s n] else [])).eraseDups

/-- Flows in order of priority, within one in ascending number. -/
def byPriority (s : State) : List Nat :=
  (List.range 16).flatMap (fun p => (List.range 16).filter (fun n => fldAt s F.FLOW_CTRL_priority n == p))

/-- Whether flow `n` keeps both limits beside the flows already admitted. -/
def admitFits (s : State) (done : List Nat) (n : Nat) : Bool :=
  let all := n :: done
  let sum (l : List Nat) : Nat := l.foldl (fun a k => a + declaredRate s k) 0
  decide (sum all ≤ fld s F.INGEST_CAP_rate) &&
    (flowPorts s n).all (fun p =>
      let rate := if p < ethPorts s then ethRate s else 0
      decide (105 * sum (all.filter (fun k => (flowPorts s k).contains p)) ≤ 100 * rate * 1000))

/-- The flows that admission takes. -/
def admitted (s : State) : List Nat :=
  (byPriority s).foldl (fun acc n =>
    if flagAt s F.FLOW_CTRL_enable n && !flowBadConfig s n && admitFits s acc n then n :: acc else acc) []

/-- Give up a flow's open frame and what waits in its buffer, which counts as shed (R125). -/
def flowForget (n : Nat) (s : State) : State :=
  let s := addFldAt F.FLOW_SHED_count n (flowAt s n).buf.length s
  let s := match (flowAt s n).frame with
    | some o => if flaconState s o.flacon == 2 then setFldAt F.FLACON_STAT_state o.flacon 1 s else s
    | none => s
  showFill (setFlow n (fun f => { f with buf := [], frame := none, pend := none }) s)

/-- A flow enters a shed state (R124, R125, R126). -/
def enterShed (n code : Nat) (s : State) : State := raise Src.FLOW_SHED (setFldAt F.FLOW_STAT_state n code (flowForget n s))

/-- Bring one flow to what admission decided (R124): a running flow that is shed stops at its next frame start, and a shed
flow that is admitted starts at its next frame start. -/
def settleFlow (ok : List Nat) (n : Nat) (s : State) : State :=
  let st := flowState s n
  if !flagAt s F.FLOW_CTRL_enable n then
    if st == 0 then s else
      setFlow n (fun f => { f with prevLast := none, turn := 0, high := none, seen := [], sOnly := [], abandoned := none })
        (setFldAt F.FLOW_STAT_state n 0 (setFlagAt F.FLOW_STAT_live_p n false (setFlagAt F.FLOW_STAT_live_s n false
          (flowForget n s))))
  else if flowBadConfig s n then setFldAt F.FLOW_STAT_state n 5 (if st == 5 then s else flowForget n s)
  else if ok.contains n then
    if st == 0 || st == 5 then setFldAt F.FLOW_STAT_state n 1 s
    else if st == 4 then setFlow n (fun f => { f with pend := some 2 }) s
    else if (flowAt s n).pend == some 4 then setFlow n (fun f => { f with pend := none }) s
    else s
  else if st == 4 then setFlow n (fun f => { f with pend := none }) s
  else if st == 2 then setFlow n (fun f => { f with pend := some 4 }) s
  else enterShed n 4 s

/-- Admit the flows again (R124). -/
def admitFlows (s : State) : State :=
  if isTile s || !domainOn s 10 then s
  else
    let ok := admitted s
    forEach (byPriority s) (settleFlow ok) s

/-- A flow entry has been written; `before` are the memberships before (R114, R124). -/
def flowWritten (before : List (Nat × Nat × Nat)) (s : State) : State := admitFlows (membershipsChanged before s)

/-- FLOW_CTRL_n.cnt_clear (R127). -/
def flowClear (n : Nat) (s : State) : State :=
  setFldAt F.FLOW_STAT_frames_dropped n 0 (setFldAt F.FLOW_LOST_count n 0 (setFldAt F.FLOW_REPAIR_count n 0
    (setFldAt F.FLOW_SHED_count n 0 (setFldAt F.FLOW_BAD_count n 0 s))))

/-! ### Mode and links (R111, R126) -/

/-- ETH_CFG.mode has been written: every port goes down, and a waiting INGEST_BUF takes effect (R111, R125). -/
def ethModeWritten (s : State) : State :=
  let up := (List.range 8).any (fun p => flagAt s F.ETH_PORT_STAT_link_up p)
  let s := forEach (List.range 8) (fun p st => setInst F.ETH_PORT_STAT_link_up p 0 st) s
  let s := when up (raise Src.ETH_LINK_DOWN) s
  admitFlows (setEth (fun e => { e with area := ingestArea s }) s)

/-- A port reaches alignment and FEC lock (R126); the firmware sends a gratuitous ARP (R114). -/
def ethUp (p : Nat) (s : State) : State :=
  if ethServes s p && !flagAt s F.ETH_PORT_STAT_link_up p then
    let s := setFlagAt F.ETH_PORT_STAT_link_up p true
      (setFlagAt F.ETH_PORT_STAT_lt_done p (flag s F.ETH_CFG_lt_en)
        (setFlagAt F.ETH_PORT_STAT_local_fault p false (setFlagAt F.ETH_PORT_STAT_remote_fault p false s)))
    admitFlows (gratuitousArp p (raise Src.ETH_LINK_UP s))
  else s

/-- A port loses alignment or FEC lock, or receives a fault (R126, R127). -/
def ethDown (p : Nat) (localFault remoteFault : Bool) (s : State) : State :=
  let s := when (ethServes s p) (fun st => setFlagAt F.ETH_PORT_STAT_local_fault p localFault
    (setFlagAt F.ETH_PORT_STAT_remote_fault p remoteFault st)) s
  if flagAt s F.ETH_PORT_STAT_link_up p then
    admitFlows (raise Src.ETH_LINK_DOWN (setFlagAt F.ETH_PORT_STAT_lt_done p false
      (setFlagAt F.ETH_PORT_STAT_link_up p false s)))
  else s

/-- ETH_CFG.cnt_clear (R127). -/
def ethClear (s : State) : State :=
  forEach (List.range 8) (fun p st => setFldAt F.ETH_FCS_count p 0 (setFldAt F.ETH_DISCARD_count p 0 st)) s

/-! ### RTP packets (R116 to R118) -/

/-- An RTP packet: marker, payload type, sequence number, timestamp and payload. -/
structure Rtp where
  marker : Bool
  pt : Nat
  seq : Nat
  ts : Nat
  body : List Byte
  deriving DecidableEq, Repr

/-- Read an RTP packet of version 2: CSRC entries, a header extension and padding are skipped (R116). -/
def parseRtp (b : List Byte) : Option Rtp :=
  let b0 := byteAt b 0
  let cc := b0 % 16
  let ext := bitOf b0 4
  let h := 12 + 4 * cc
  let h := if ext then h + 4 + 4 * beAt b (h + 2) 2 else h
  let pad := if bitOf b0 5 then byteAt b (b.length - 1) else 0
  if b0 / 64 != 2 || b.length < h + pad || (bitOf b0 5 && pad == 0) then none
  else some {
    marker := bitOf (byteAt b 1) 7
    pt := byteAt b 1 % 128
    seq := beAt b 2 2
    ts := beAt b 4 4
    body := (b.take (b.length - pad)).drop h }

/-- Octets and pixels of a pixel group (ST 2110-20): 4:2:2 and 4:4:4 at 10 and 12 bits. -/
def pgroup (sampling depth : Nat) : Nat × Nat :=
  if sampling == 0 then (if depth == 0xA then (5, 2) else (6, 2)) else (if depth == 0xA then (15, 4) else (9, 2))

/-- The sample row data headers of a video payload, at most `fuel`: length, row word, offset word, and where the data
starts. -/
def rowHeaders : Nat → List Byte → Nat → Option (List (Nat × Nat × Nat) × Nat)
  | 0, _, _ => none
  | k + 1, b, i =>
    if b.length < i + 6 then none
    else
      let len := beAt b i 2
      let row := beAt b (i + 2) 2
      let off := beAt b (i + 4) 2
      let h := (len, row, off % 32768)
      if bitOf off 15 then (rowHeaders k b (i + 6)).map (fun r => (h :: r.1, r.2)) else some ([h], i + 6)

/-- The rows of a video packet for flow `n`: row, pixel offset and bytes; none where the packet breaks R117. -/
def videoRows (s : State) (n : Nat) (b : List Byte) : Option (List (Nat × Nat × List Byte)) :=
  match rowHeaders 3 b 2 with
  | none => none
  | some (hs, start) =>
    let (oct, pix) := pgroup (fldAt s F.FLOW_FMT_sampling n) (fldAt s F.FLOW_FMT_depth n)
    let total := hs.foldl (fun a h => a + h.1) 0
    let ok := hs.all (fun h =>
      h.1 % oct == 0 && h.2.2 % pix == 0 && !bitOf h.2.1 15 && decide (h.2.1 % 32768 < fldAt s F.FLOW_DIM_height n) &&
        decide (h.2.2 + h.1 / oct * pix ≤ fldAt s F.FLOW_DIM_width n))
    if !ok || b.length < start + total then none
    else
      some (hs.foldl (fun (acc : List (Nat × Nat × List Byte) × Nat) h =>
        (acc.1 ++ [(h.2.1 % 32768, h.2.2, (b.drop acc.2).take h.1)], acc.2 + h.1)) ([], start)).1

/-! ### Frames into flacons (R120, R121) -/

/-- Component samples of packed pixel groups, most significant bit first, in the order Cb, Y, Cr or R, G, B per pixel; a
4:2:2 group gives Cb, Y0, Cr, Y1. -/
def groupSamples (depth : Nat) (b : List Byte) : List Nat :=
  (chunks depth (bytesBits b)).filterMap (fun c =>
    if c.length == depth then some (c.foldl (fun a x => 2 * a + b2n x) 0) else none)

/-- A decoded row segment: row, first pixel, pixels, component planes. -/
structure RowSeg where
  row : Nat
  x : Nat
  n : Nat
  comps : List (List Nat)
  deriving DecidableEq, Repr

/-- The row segments of the packets of a frame. -/
def frameSegs (s : State) (n : Nat) (ps : List FlowPkt) : List RowSeg :=
  let fmt := flowPix s n
  let (oct, pix) := pgroup (fldAt s F.FLOW_FMT_sampling n) (fldAt s F.FLOW_FMT_depth n)
  ps.flatMap (fun p => p.rows.map (fun r =>
    { row := r.1, x := r.2.1, n := r.2.2.length / oct * pix, comps := deinterleave fmt (groupSamples (pixDepth fmt) r.2.2) }))

/-- The component samples of pixel (x, y) in a frame's segments; none where no packet carries it. -/
def segPixel (fmt : Nat) (segs : List RowSeg) (x y : Nat) : Option (List Nat) :=
  (segs.find? (fun g => g.row == y && decide (g.x ≤ x) && decide (x < g.x + g.n))).map (fun g =>
    (List.range (pixComps fmt)).map (fun k => compAt fmt k (x - g.x) g.comps))

/-- The planes of WCS tile (tx, ty), with pad pixels (R131); none where a lost packet would have written it. -/
def tilePlanes (e : FlaconEntry) (segs : List RowSeg) (tx ty : Nat) : Option (List Plane) :=
  let px := (List.range 16).map (fun j => (List.range 64).map (fun i =>
    segPixel e.fmt segs (min (64 * tx + i) (e.width - 1)) (min (16 * ty + j) (e.height - 1))))
  if px.any (fun r => r.any Option.isNone) then none
  else
    some ((List.range (pixComps e.fmt)).map (fun k => px.map (fun r =>
      if pix422 e.fmt && k != 1 then
        ((List.range 32).map (fun i => ((r.getD (2 * i) none).getD []).getD k 0))
      else r.map (fun c => (c.getD []).getD k 0))))

/-- Write one coded tile of a WCS surface through port INGEST_WR (R130, R134, R154). -/
def writeTile (e : FlaconEntry) (t : Nat) (u : List Plane) (s : State) : State :=
  let n := tilesX e.width * tilesY e.height
  let slot := slotSize e.layout e.fmt
  let at_ := e.base + dataOffset e.layout n + t * slot
  if e.layout == 0 then
    let (kind, units, b) := encodeL e.fmt slot u
    portWrite 0 e.region at_ b (portWrite 0 e.region (e.base + 0x40 + 2 * t) (leBytes 2 (kind * 2 ^ 14 + units)) s)
  else portWrite 0 e.region at_ (encodeF (pixDepth e.fmt) slot u) s

/-- Copy `n` bytes from one flacon's memory into another's, through port INGEST_WR (R120, R154). -/
def copyBytes (old e : FlaconEntry) (offset n : Nat) (s : State) : State :=
  portWrite 0 e.region (e.base + offset) (memBytes s old.region (old.base + offset) n)
    (portTraffic 0 old.region (old.base + offset) n s)

/-- Copy tile `t` from the previous published frame's flacon (R120). -/
def copyTile (old e : FlaconEntry) (t : Nat) (s : State) : State :=
  let n := tilesX e.width * tilesY e.height
  let slot := slotSize e.layout e.fmt
  let at_ := dataOffset e.layout n + t * slot
  if e.layout == 0 then
    copyBytes old e at_ (unitBytes (leNat (memBytes s old.region (old.base + 0x40 + 2 * t) 2) % 256) slot)
      (copyBytes old e (0x40 + 2 * t) 2 s)
  else copyBytes old e at_ slot s

/-- Write a frame's tiles into its flacon: coded from the packets, or copied where a packet was lost (R120, R121). -/
def writeFrame (n flacon : Nat) (ps : List FlowPkt) (s : State) : State :=
  let e := flaconEntry s flacon
  let old := flaconEntry s (fldAt s F.FLOW_STAT_last_flacon n)
  let segs := frameSegs s n ps
  let tx := tilesX e.width
  forEach (List.range (tx * tilesY e.height)) (fun t st =>
    match tilePlanes e segs (t % tx) (t / tx) with
    | some u => writeTile e t u st
    | none => copyTile old e t st) s

/-- Publish a frame (R121): timestamps with the flacon, state published, last_flacon. -/
def publish (n : Nat) (o : OpenFrame) (s : State) : State :=
  let s := setFldAt F.FLACON_RTP_rtp_ts o.flacon o.rtp s
  let s := setFldAt F.FLACON_RXS_seconds o.flacon (secOf o.stamp % 2 ^ 32) s
  let s := setFldAt F.FLACON_RXN_nanoseconds o.flacon (nsOf o.stamp) s
  let s := setFldAt F.FLOW_STAT_last_flacon n o.flacon (setFldAt F.FLACON_STAT_state o.flacon 3 s)
  flowPublished n (setFlow n (fun f => { f with hasPrev := true }) s)

/-- The earliest of a list of sequence numbers. -/
def seqFirst (l : List Nat) : Option Nat :=
  l.foldl (fun b x => match b with
    | none => some x
    | some y => if seqAfter x y then some x else b) none

/-- The last sequence number of the open frame, once its end is known: the marker packet's, or the one before the first
packet with a later timestamp (R120). -/
def frameEnd (f : Flow) (o : OpenFrame) : Option Nat :=
  match f.buf.find? (fun p => p.rtp == o.rtp && p.marker) with
  | some p => some p.seq
  | none => (seqFirst ((f.buf.filter (fun p => p.rtp != o.rtp)).map (·.seq))).map (fun x => (x + 2 ^ 32 - 1) % 2 ^ 32)

/-- The path differential delay that flow `n` accepts, in the monotonic clock's half nanoseconds: FLOW_FLACON.skew in 100 µs,
0 as 1 and above 100 as 100 (R119, R127). -/
def flowSkew (s : State) (n : Nat) : Nat := clampN 1 100 (fldAt s F.FLOW_FLACON_skew n) * 200000

/-- Whether the open frame of a flow closes now that its end has arrived (R120): every packet of it is held, or the flow has
one path, or the accepted delay has passed since the first arrival that showed its end. -/
def closesNow (s : State) (n : Nat) (f : Flow) (o : OpenFrame) (first last : Nat) : Bool :=
  let ends := (f.buf.filter (fun p => p.rtp != o.rtp || p.marker)).map FlowPkt.at_
  decide (seqAhead first last + 1 = (f.buf.filter (fun p => p.rtp == o.rtp)).length) || fldAt s F.FLOW_CTRL_paths n != 1 ||
    ends.any (fun t => decide (t + flowSkew s n ≤ s.time.mono))

/-- The first sequence number of the open frame: the one after the frame closed before, or the first that is held. -/
def frameFirst (f : Flow) (o : OpenFrame) (last : Nat) : Nat :=
  match f.prevLast with
  | some x => (x + 1) % 2 ^ 32
  | none => (seqFirst ((f.buf.filter (fun p => p.rtp == o.rtp)).map (·.seq))).getD last

/-- The open frame `o` of flow `n`, as `f` holds it, ends at sequence number `last`: repaired, lost and missing packets are
counted, and the frame is published or dropped (R120). -/
def closeFrame (n : Nat) (f : Flow) (o : OpenFrame) (last : Nat) (s : State) : State :=
  let ps := f.buf.filter (fun p => p.rtp == o.rtp)
  let k := seqAhead (frameFirst f o last) last + 1 - ps.length
  let fills := if fldAt s F.FLOW_CTRL_paths n == 1 then (ps.filter (fun p => !p.gotP)).length else 0
  let ok := k == 0 || (decide (k ≤ fldAt s F.FLOW_CTRL_loss_tol n) && f.hasPrev &&
    flaconMatches s n (fldAt s F.FLOW_STAT_last_flacon n))
  let s := addFldAt F.FLOW_LOST_count n k (addFldAt F.FLOW_REPAIR_count n fills s)
  let s := when ok (writeFrame n o.flacon ps) s
  let s := showFill (setFlow n (fun x => { x with
    frame := none
    abandoned := none
    prevLast := some last
    buf := x.buf.filter (fun p => p.rtp != o.rtp) }) s)
  if ok then
    let others := s.red.repaired.filter (fun x => x != o.flacon)
    let s := publish n o { s with red := { s.red with repaired := if k != 0 then o.flacon :: others else others } }
    when (k != 0) (raise Src.FLOW_LOSS) s
  else
    raise Src.FLOW_FRAME_DROP (incFldAt F.FLOW_STAT_frames_dropped n (setFldAt F.FLACON_STAT_state o.flacon 1 s))

/-- Whether the unpack kernel's writes to a flacon stall: a write queue on which its surface falls is full, or requests of its
port stall already (R157, R158). -/
def ingestStalled (s : State) (e : FlaconEntry) : Bool :=
  e.region == 1 && (queueFull s true e.base e.size || s.dramc.stalled.any (fun r => r.port == 0))

/-- An open frame of flow `n` closes, once its end has arrived (R119, R120, R121). The unpack kernel writes into no fenced
flacon: a frame whose flacon has been latched meanwhile closes when the fence is clear (R145), and one whose writes stall when
they stall no more, until when its packets fill the ingest buffer (R158; DESIGN CHOICE, log 168). -/
def flowClose (n : Nat) (s : State) : State :=
  let f := flowAt s n
  match f.frame with
  | none => s
  | some o =>
    match frameEnd f o with
    | none => s
    | some last =>
      let s := settleFences s
      if closesNow s n f o (frameFirst f o last) last && !fenced s o.flacon && !ingestStalled s (flaconEntry s o.flacon) then
        closeFrame n f o last s
      else s

/-- The next flacon in turn that composition does not hold latched (R121). -/
def nextFlacon (s : State) (n : Nat) : Option (Nat × Nat) :=
  let c := max 1 (fldAt s F.FLOW_FLACON_count n)
  ((List.range c).map (fun i => ((flowAt s n).turn + i) % c)).findSome? (fun i =>
    let k := (fldAt s F.FLOW_FLACON_first n + i) % 256
    if fenced s k then none else some (i, k))

/-- A frame of flow `n` starts (R121, R124, R125, R141): changes that wait take effect, the match is checked, and the next
flacon is filled. -/
def flowStart (n : Nat) (s : State) : State :=
  let s := settleFences s
  let f := flowAt s n
  let st := flowState s n
  if !flagAt s F.FLOW_CTRL_enable n || f.frame.isSome then s
  else match f.pend with
    | some 2 => setFldAt F.FLOW_STAT_state n 2 (setFlow n (fun x => { x with pend := none, prevLast := none }) s)
    | some c => enterShed n c s
    | none =>
      if st == 5 then (if flowBadConfig s n then s else admitFlows s)
      else if st != 2 || flowAnc s n then s
      else if !(flowFlacons s n).all (flaconMatches s n) then
        setFldAt F.FLOW_STAT_state n 5 (flowForget n s)
      else
        match f.buf, nextFlacon s n with
        | p :: _, some (i, k) =>
          let s := setFlow n (fun x => { x with
            frame := some { rtp := p.rtp, stamp := p.stamp, flacon := k }
            turn := (i + 1) % max 1 (fldAt s F.FLOW_FLACON_count n) }) s
          setFldAt F.FLACON_STAT_state k 2 s
        | _, _ => s

/-! ### Flow packets (R115, R116, R119) -/

/-- Whether a datagram on port `p` belongs to a path of flow `n` (R115). -/
def pathMatches (s : State) (n p src dst dport : Nat) (second : Bool) : Bool :=
  let g (a b : Fld) : Nat := fldAt s (if second then b else a) n
  flagAt s F.FLOW_CTRL_enable n && (!second || fldAt s F.FLOW_CTRL_paths n == 1) &&
    g F.FLOW_CTRL_port_p F.FLOW_CTRL_port_s == p && g F.FLOW_GRP_P_address F.FLOW_GRP_S_address == dst &&
    (g F.FLOW_SRC_P_address F.FLOW_SRC_S_address == src || g F.FLOW_SRC_P_address F.FLOW_SRC_S_address == 0) &&
    g F.FLOW_UDP_dport_p F.FLOW_UDP_dport_s == dport

/-- The flow and path that a datagram belongs to: the lowest entry, path P first (R115). -/
def flowMatch (s : State) (p src dst dport : Nat) : Option (Nat × Bool) :=
  (List.range 16).findSome? (fun n =>
    if pathMatches s n p src dst dport false then some (n, false)
    else if pathMatches s n p src dst dport true then some (n, true) else none)

/-- A packet with payload `b` breaks R116, R117 or R118: FLOW_FORMAT is raised once per flow per frame. Its frame is the one of
its RTP timestamp field, and the last 16 frames are remembered (DEDUCED, log 171). -/
def flowBad (n : Nat) (b : List Byte) (s : State) : State :=
  let s := incFldAt F.FLOW_BAD_count n s
  let ts := beAt b 4 4
  if (flowAt s n).formatRaised.contains ts then s
  else raise Src.FLOW_FORMAT (setFlow n (fun f => { f with formatRaised := ts :: f.formatRaised.take 15 }) s)

/-- Sequence numbers of the merge window (R119). -/
def mergeWindow : Nat := 131072

/-- Whether a packet is older than the merge window of a flow of two paths (R119). -/
def pastWindow (s : State) (n seq : Nat) : Bool :=
  fldAt s F.FLOW_CTRL_paths n == 1 && (match (flowAt s n).high with
    | some h => seqAfter seq h && decide (seqAhead seq h ≥ mergeWindow)
    | none => false)

/-- A path has delivered a packet (R119). -/
def pathLive (n : Nat) (second : Bool) (s : State) : State :=
  setFlagAt (if second then F.FLOW_STAT_live_s else F.FLOW_STAT_live_p) n true s

/-- A video packet of flow `n` is kept, merged or discarded (R119, R125). -/
def keepPacket (n : Nat) (second : Bool) (pkt : FlowPkt) (s : State) : State :=
  let f := flowAt s n
  let old := match f.prevLast with
    | some x => !seqAfter x pkt.seq
    | none => false
  let s := setFlow n (fun x => { x with high := seqLast x.high [pkt.seq] }) s
  if f.abandoned == some pkt.rtp then
    incFldAt F.FLOW_SHED_count n (setFlow n (fun x => { x with prevLast := seqLast x.prevLast [pkt.seq] }) s)
  else if old || pastWindow s n pkt.seq then s
  else if f.buf.any (fun q => q.seq == pkt.seq) then
    setFlow n (fun x => { x with buf := x.buf.map (fun q =>
      if q.seq == pkt.seq then { q with gotP := q.gotP || !second } else q) }) s
  else if ingestUsed s + pkt.size > ingestBytes then
    let s := incFldAt F.FLOW_SHED_count n s
    let ms := s.time.mono / 2000000
    if s.eth.fullAt == some ms then s else raise Src.INGEST_BUF_FULL (setEth (fun e => { e with fullAt := some ms }) s)
  else
    let s := setFlow n (fun x => { x with buf := x.buf ++ [pkt] }) (setEth (fun e => { e with bufUsed := true }) s)
    showFill (if flowState s n == 1 then setFldAt F.FLOW_STAT_state n 2 s else s)

/-- The ANC data packets of an RFC 8331 payload: DID, SDID and the bytes of each; none where the payload ends early. -/
def ancPackets : Nat → List Byte → Option (List (Nat × Nat × List Byte))
  | 0, _ => some []
  | k + 1, b =>
    let bits := bytesBits (b.drop 4)
    let num (i w : Nat) : Nat := ((bits.drop i).take w).foldl (fun a x => 2 * a + b2n x) 0
    let size := 4 + cdiv (10 * (num 20 10 % 256 + 4)) 32 * 4
    if b.length < 8 || b.length < size then none
    else (ancPackets k (b.drop size)).map (fun r => (num 0 10 % 256, num 10 10 % 256, b.take size) :: r)

/-- Write bytes into the circular ANC record of flow `n` (R118, R125). -/
def ancWrite (n : Nat) (bs : List Byte) (s : State) : State :=
  let base := s.eth.area * 256 + ingestBytes + 0x4000 * n
  bs.foldl (fun st b =>
    let p := (flowAt st n).ancPos
    setFlow n (fun f => { f with ancPos := (p + 1) % 0x4000 }) (setStoreByte (base + p) b st)) s

/-- An ancillary packet with number `seq` arrives on a path of a flow of two: the numbers that only path S has delivered are a
gap of path P, and count as repaired, once path P goes on beyond them or is not live (R119; DESIGN CHOICE, log 172). -/
def ancRepair (n seq : Nat) (second : Bool) (s : State) : State :=
  let f := flowAt s n
  if second then
    if f.seen.contains seq then s
    else if flagAt s F.FLOW_STAT_live_p n then setFlow n (fun x => { x with sOnly := seq :: x.sOnly }) s
    else incFldAt F.FLOW_REPAIR_count n s
  else
    let gaps := f.sOnly.filter (fun q => seqAfter q seq)
    addFldAt F.FLOW_REPAIR_count n gaps.length
      (setFlow n (fun x => { x with sOnly := x.sOnly.filter (fun q => q != seq && !seqAfter q seq) }) s)

/-- An ancillary packet of flow `n` (R118, R119): the first copy of each number within the merge window is taken. -/
def ancPacket (n : Nat) (second : Bool) (stamp : Nat) (b : List Byte) (r : Rtp) (s : State) : State :=
  let seq := beAt r.body 0 2 * 65536 + r.seq
  let both := fldAt s F.FLOW_CTRL_paths n == 1
  match ancPackets (byteAt r.body 4) (r.body.drop 8) with
  | none => flowBad n b s
  | some l =>
    let again := both && ((flowAt s n).seen.contains seq || pastWindow s n seq)
    let s := when both (ancRepair n seq second) s
    if again then s
    else
      let fmt := (regWord s (F.FLOW_FMT_sampling.addr n)).toNat
      let did := bitsOf fmt 31 24
      let sdid := bitsOf fmt 23 16
      let hit := l.filter (fun a => (did == 0 || a.1 == did) && (sdid == 0 || a.2.1 == sdid))
      let head := leBytes 4 r.ts ++ leBytes 4 (secOf stamp % 2 ^ 32) ++ leBytes 4 (nsOf stamp)
      let s := when both (setFlow n (fun x =>
        let h := seqLast x.high [seq]
        { x with
          high := h
          seen := seq :: x.seen.filter (fun q => decide (seqAhead q (h.getD seq) < mergeWindow)) })) s
      let s := forEach hit (fun a st => ancWrite n (head ++ a.2.2) st) s
      if flowState s n == 1 then setFldAt F.FLOW_STAT_state n 2 s else s

/-- A datagram for flow `n` on a path (R116 to R119, R124, R125). -/
def flowPacket (p n : Nat) (second : Bool) (stamp size : Nat) (b : List Byte) (s : State) : State :=
  let st := flowState s n
  if st == 5 || st == 0 then ethDiscard p s
  else match parseRtp b with
    | none => flowBad n b s
    | some r =>
      if r.pt != fldAt s F.FLOW_CTRL_payload_type n || r.body.length < 2 then flowBad n b s
      else if flowAnc s n then
        if st == 4 || st == 3 then incFldAt F.FLOW_SHED_count n s else ancPacket n second stamp b r (pathLive n second s)
      else match videoRows s n r.body with
        | none => flowBad n b s
        | some rows =>
          let s := pathLive n second s
          if (st == 3 || st == 4) then incFldAt F.FLOW_SHED_count n s
          else
            keepPacket n second {
              seq := beAt r.body 0 2 * 65536 + r.seq
              rtp := r.ts
              stamp := stamp
              marker := r.marker
              gotP := !second
              rows := rows
              size := size
              at_ := s.time.mono } s

/-- A path of a flow has delivered nothing for 100 ms (R119). -/
def pathTimeout (n : Nat) (second : Bool) (s : State) : State :=
  let f := if second then F.FLOW_STAT_live_s else F.FLOW_STAT_live_p
  if flagAt s f n then raise Src.FLOW_PATH_LOST (setFlagAt f n false s) else s

/-! ### Load shedding (R125) -/

/-- While the fill is above hi, the lowest-priority admitted flow is to be shed at its next frame start (R125). -/
def shedTick (s : State) : State :=
  if fld s F.INGEST_OVL_fill > fld s F.INGEST_OVL_hi then
    match ((byPriority s).filter (fun n =>
      (flowState s n == 1 || flowState s n == 2) && (flowAt s n).pend.isNone)).getLast? with
    | some n => setFlow n (fun f => { f with pend := some 3 }) s
    | none => s
  else s

/-- After 100 ms below lo, the highest-priority flow in shed_load returns at its next frame start (R125). -/
def restoreTick (s : State) : State :=
  if fld s F.INGEST_OVL_fill < fld s F.INGEST_OVL_lo then
    match ((byPriority s).filter (fun n => flowState s n == 3 && (flowAt s n).pend.isNone)).head? with
    | some n => setFlow n (fun f => { f with pend := some 2 }) s
    | none => s
  else s

/-! ### Classification (R112, R113, R123) -/

/-- A datagram for the UDP command port: ingress port, source address and port, payload (R123). -/
structure CmdDatagram where
  port : Nat
  ip : Nat
  sport : Nat
  payload : List Byte
  deriving DecidableEq, Repr

/-- Whether a datagram of `p` may be a command: its port is enabled in CMDP_CFG and has an address (R113, R127). -/
def cmdPortOpen (s : State) (p dst : Nat) : Bool :=
  flag s F.CMDP_CFG_enable && bitOf (fld s F.CMDP_CFG_port_mask) p && portIp s p != 0 && portIp s p == dst

/-- A datagram goes to the PTP stack with its receive stamp. The stack may answer with an event message, whose transmit stamp
it gets (R113, R122); when and with what, only IEEE 1588 says: free values (DESIGN CHOICE, log 173). -/
def ptpTaken (p src stamp : Nat) (d : List Byte) (s : State) : State :=
  let (k, s) := freshIdx (setEth (fun e => { e with ptp := e.ptp ++ [(p, stamp, d)] }) s)
  if Config.ptpSends k && ethSends s p then
    sendUdp p 319 src 319 (Config.ptpMessage k) (setEth (fun e => { e with ptpSent := e.ptpSent ++ [(p, txStamp s)] }) s)
  else s

/-- Rules 7 to 9 for a whole UDP datagram; none where none of them takes it. -/
def udpRules (p : Nat) (ip : Ipv4) (stamp : Nat) (s : State) : Option (State × Option CmdDatagram) :=
  let d := ip.data
  let dport := beAt d 2 2
  if d.length < 8 || !udpGood ip.src ip.dst d then some (ethDiscard p s, none)
  else if dport == 319 || dport == 320 then
    some (ptpTaken p ip.src stamp d s, none)
  else if cmdPortOpen s p ip.dst && dport == fld s F.CMDP_CFG_udp_port then
    some (s, some { port := p, ip := ip.src, sport := beAt d 0 2, payload := d.drop 8 })
  else none

/-- Whether the pieces of a reassembly cover its whole datagram; the bytes if they do. -/
def reasmWhole (r : Reasm) : Option (List Byte) :=
  match r.total with
  | none => none
  | some n =>
    let byte (i : Nat) : Option Byte := (r.frags.find? (fun f => decide (f.1 ≤ i) && decide (i < f.1 + f.2.length))).map
      (fun f => f.2.getD (i - f.1) 0)
    let l := (List.range n).filterMap byte
    if l.length == n then some l else none

/-- A fragment for the command port joins its reassembly. A datagram that arrives while 4 are open, or that carries more than
65,507 bytes of UDP payload, is discarded and counted once, with all its fragments (the last 64 such datagrams are remembered).
A whole datagram goes through rules 6 to 9 (R113, R123). -/
def fragmentHeld (p : Nat) (ip : Ipv4) (stamp : Nat) (s : State) : State × Option CmdDatagram :=
  let piece := (ip.offset, ip.data)
  let total := if ip.more then none else some (ip.offset + ip.data.length)
  let same := s.eth.reasm.find? (fun r => r.src == ip.src && r.ident == ip.ident)
  let other := s.eth.reasm.find? (fun r => r.src == ip.src && r.ident != ip.ident)
  let refuse (s : State) : State := setEth (fun e => { e with refused := ((ip.src, ip.ident) :: e.refused).take 64 }) s
  if s.eth.refused.contains (ip.src, ip.ident) then (s, none)
  else if same.isNone && other.isNone && s.eth.reasm.length ≥ 4 then (ethDiscard p (refuse s), none)
  else if ip.offset + ip.data.length > 65515 then
    (ethDiscard p (refuse (setEth (fun e => { e with reasm := e.reasm.filter (fun r => r.src != ip.src || r.ident != ip.ident) }) s)), none)
  else
    let s := match other with
      | some r => ethDiscard r.port (setEth (fun e => { e with reasm := e.reasm.erase r }) s)
      | none => s
    let r : Reasm := match same with
      | some r => { r with frags := r.frags ++ [piece], total := if r.total.isSome then r.total else total }
      | none => { src := ip.src, ident := ip.ident, port := p, hdr := [], frags := [piece], total := total }
    let s := setEth (fun e => { e with reasm := e.reasm.filter (fun x => !(x.src == ip.src && x.ident == ip.ident)) }) s
    match reasmWhole r with
    | none => (setEth (fun e => { e with reasm := e.reasm ++ [r] }) s, none)
    | some d =>
      match udpRules p { ip with data := d, more := false, offset := 0 } stamp s with
      | some x => x
      | none => (ethDiscard p s, none)

/-- Reassembly number `i` has lasted 100 ms (R123). -/
def reasmTimeout (i : Nat) (s : State) : State :=
  match s.eth.reasm[i]? with
  | some r => ethDiscard r.port (setEth (fun e => { e with reasm := e.reasm.erase r }) s)
  | none => s

/-- Rules 4 to 13 for an IPv4 frame (R113). -/
def ipRules (p : Nat) (f : EthFrame) (size stamp : Nat) (s : State) : State × Option CmdDatagram :=
  match parseIp f.body with
  | none => (ethDiscard p s, none)
  | some ip =>
    let frag := ip.more || ip.offset != 0
    if frag && ip.proto == 17 && cmdPortOpen s p ip.dst then fragmentHeld p ip stamp s
    else if ip.proto == 2 then (igmpReceived p ip s, none)
    else if ip.proto == 1 then (answerEcho p f ip s, none)
    else
      let udp := if ip.proto == 17 && !frag then udpRules p ip stamp s else none
      match udp with
      | some x => x
      | none =>
        if frag || ip.ihl > 5 || ip.proto != 17 then (ethDiscard p s, none)
        else match flowMatch s p ip.src ip.dst (beAt ip.data 2 2) with
          | some (n, second) => (flowPacket p n second stamp size (ip.data.drop 8) s, none)
          | none => (ethDiscard p s, none)

/-- A frame with its FCS arrives on port `p` (R112, R113): the state after it, and the command datagram it completes. -/
def ethReceive (p : Nat) (bs : List Byte) (s : State) : State × Option CmdDatagram :=
  if !ethSends s p then (s, none)
  else if !fcsGood bs then (incFldAt F.ETH_FCS_count p s, none)
  else if bs.length < 64 || bs.length > 9216 then (ethDiscard p s, none)
  else
    let f := parseEth (bs.take (bs.length - 4))
    if f.tags ≥ 2 then (ethDiscard p s, none)
    else if f.typ == 0x0806 then (answerArp p f s, none)
    else if f.typ != 0x0800 then (ethDiscard p s, none)
    else ipRules p f bs.length (rxStamp s) s

/-! ### Rows of the opcode table -/

/-- ETH_LINK_UP (R126). -/
def execEthLinkUp (port : Nat) (s : State) : Host.Outcome State Fault Refusal := .next (ethUp port s)

/-- ETH_LINK_DOWN (R126). -/
def execEthLinkDown (link : LinkLoss) (s : State) : Host.Outcome State Fault Refusal :=
  .next (whenOn 10 (ethDown link.port link.localFault link.remoteFault) s)

/-- REASSEMBLY_TIMEOUT (R123). -/
def execReassemblyTimeout (idx : Nat) (s : State) : Host.Outcome State Fault Refusal := .next (whenOn 10 (reasmTimeout idx) s)

/-- IGMP_REPORT_TIMER (R114). -/
def execIgmpReportTimer (s : State) : Host.Outcome State Fault Refusal := .next (whenOn 10 igmpTimer s)

/-- FLOW_PATH_TIMEOUT (R119). -/
def execFlowPathTimeout (flow : Nat) (pathS : Bool) (s : State) : Host.Outcome State Fault Refusal :=
  .next (whenOn 10 (pathTimeout flow pathS) s)

/-- FLOW_FRAME_CLOSE (R120). -/
def execFlowFrameClose (flow : Nat) (s : State) : Host.Outcome State Fault Refusal := .next (whenOn 10 (flowClose flow) s)

/-- FLOW_FRAME_START (R121, R124, R125, R141). -/
def execFlowFrameStart (flow : Nat) (s : State) : Host.Outcome State Fault Refusal := .next (whenOn 10 (flowStart flow) s)

/-- INGEST_SHED_TICK (R125). -/
def execIngestShedTick (s : State) : Host.Outcome State Fault Refusal := .next (whenOn 10 shedTick s)

/-- INGEST_RESTORE_TICK (R125). -/
def execIngestRestoreTick (s : State) : Host.Outcome State Fault Refusal := .next (whenOn 10 restoreTick s)

end Sys2Proof.Machine
end

