-- ==== Sys2Proof/Machine/Redundancy.lean ====
section
/-! DEFINITION. Sender redundancy (spec/15_redundancy.md): member states, heartbeats and claims, paths, swaps, the tile's
records and its split state, and the base-note sequences (R341 to R352, R360). The journal and the snapshots stand in
Journal.lean. -/

namespace Sys2Proof.Machine

/-- Change the redundancy part of the state. -/
def setRed (f : RedState → RedState) (s : State) : State := { s with red := f s.red }

/-- Member state code: 0 solo, 1 standby, 2 active, 3 starting (R341). -/
def redState (s : State) : Nat := fld s F.RED_STAT_state

/-- Whether this sender serves the host and the tiles: solo or active (R341). -/
def servesTiles (s : State) : Bool := isSender s && (redState s == 0 || redState s == 2)

/-- Whether claimant (`ex`, member `mx`) is higher than claimant (`ey`, member `my`) (R350). -/
def higherClaim (ex : Nat) (mx : Bool) (ey : Nat) (my : Bool) : Bool :=
  let d := (ex + 2 ^ 32 - ey) % 2 ^ 32
  if d == 0 then !mx && my else decide (d < 2 ^ 31)

/-- The ring ports and the tie link that are ACTIVE: where heartbeats and claims go (R349, R350). -/
def redPorts (s : State) : List Nat := (List.range 8).filter (portActive s)

/-! ### Heartbeats (R349, R351) -/

/-- Heartbeat bytes 12–27. -/
def heartbeatSpec (s : State) : List Byte :=
  let fl := fld s F.CASCADE_ID_member * 128 + b2n (flag s F.RED_STAT_sync) * 64 + b2n s.red.snapReq * 32 +
    b2n (flag s F.RED_STAT_tie_ok) * 16 + b2n (flag s F.RED_STAT_ring_ok) * 8
  beBytes 4 (fld s F.RED_EPOCH_epoch) ++ [BitVec.ofNat 8 (redState s), BitVec.ofNat 8 fl] ++
    beBytes 2 (fld s F.RED_CFG_hb_us) ++ beBytes 4 (fld s F.RED_SNAP_value) ++ beBytes 4 (fld s F.RED_JSEQ_value)

/-- A member in pair operation sends its HEARTBEAT on the tie link and every ACTIVE ring port (R349). -/
def heartbeatSend (s : State) : State :=
  if !isSender s || redState s == 0 then s
  else
    let spec := heartbeatSpec s
    let second := BitVec.ofNat 8 (fld s F.RED_STAT_ring_seen) :: List.replicate 27 0
    forEach (redPorts s) (fun p st => sendTopOwn p 0x10 0xFF spec second st) s

/-- RED_STAT.ring_ok: every enabled ring port's path is alive (R351). `lost`: a path has gone silent; that, and ring_ok clearing,
raise RED_DEGRADED (R351, R362; DEDUCED, log 195). -/
def showRingOk (lost : Bool) (s : State) : State :=
  let ok := (List.range 7).all (fun p => !flagAt s F.PORT_CFG_enable p || bitOf (fld s F.RED_STAT_ring_seen) p)
  let was := flag s F.RED_STAT_ring_ok
  let s := setFlag F.RED_STAT_ring_ok ok s
  if lost || (was && !ok) then raise Src.RED_DEGRADED s else s

/-- The enable of a ring port has been written: the paths that count for RED_STAT.ring_ok change with it (R351). -/
def ringPortWritten (s : State) : State := if isSender s && redState s != 0 then showRingOk false s else s

/-- Set one bit of ring_seen. -/
def setRingSeen (p : Nat) (b : Bool) (s : State) : State :=
  let lost := !b && flagAt s F.PORT_CFG_enable p && bitOf (fld s F.RED_STAT_ring_seen) p
  showRingOk lost (setFld F.RED_STAT_ring_seen (withBits (fld s F.RED_STAT_ring_seen) p p (b2n b)) s)

/-- A path has carried a heartbeat (R351). -/
def pathHeard (p : Nat) (s : State) : State :=
  let s := setRed (fun r => { r with silent := updAt (fun _ => false) r.silent p }) s
  if p == 7 then setFlag F.RED_STAT_tie_ok true s else setRingSeen p true s

/-! ### Claims (R350, R352) -/

/-- Send ACTIVE_CLAIM on the tie link and every ACTIVE ring port. -/
def sendClaim (s : State) : State :=
  let spec := beBytes 4 (fld s F.RED_EPOCH_epoch) ++
    [BitVec.ofNat 8 (fld s F.CASCADE_ID_member * 128), BitVec.ofNat 8 s.red.cause] ++ List.replicate 10 0
  forEach (redPorts s) (fun p st => sendTopOwn p 0x11 0xFF spec [] st) s

/-- Claim the active state (R350): the epoch passes both members', and ACTIVE_CLAIM goes out three times. -/
def claim (cause : Nat) (s : State) : State :=
  let e := (max (fld s F.RED_EPOCH_epoch) (fld s F.RED_PARTNER_EPOCH_epoch) + 1) % 2 ^ 32
  let s := setFld F.RED_STAT_state 2 (setFld F.RED_EPOCH_epoch e s)
  sendClaim (setRed (fun r => { r with
    claims := 2, cause := cause, listening := false, snapReq := false, syncDue := false }) s)

/-- ACTIVE_CLAIM is sent again (R350). -/
def claimResend (s : State) : State :=
  if s.red.claims > 0 && redState s == 2 then sendClaim (setRed (fun r => { r with claims := r.claims - 1 }) s) else s

/-- No swap is pending any more, and none is wanted (R360). -/
def clearSwap (s : State) : State :=
  setRed (fun r => { r with swapAt := none, swapWanted := false })
    (setFlag F.RED_STAT_swap_pending false (setPair F.RED_SWAP_F_HI_frame F.RED_SWAP_F_LO_frame 0 s))

/-- Enter standby: no sync, and a snapshot is asked for (R342). -/
def joinStandby (s : State) : State :=
  setRed (fun r => { r with listening := false, snapReq := true, syncDue := false, claims := 0 })
    (setFlag F.RED_STAT_sync false (setFld F.RED_STAT_state 1 s))

/-- A member that is no longer active assigns no further base-note sequences: what it holds since its promotion is never sent
(R350, R360). -/
def endAssigning (s : State) : State :=
  setRed (fun r => { r with claims := 0, heldMsgs := [], holdUntil := List.replicate 7 none }) s

/-- An active member stands down (R350). -/
def standDown (s : State) : State :=
  raise Src.RED_STOOD_DOWN (endAssigning (clearSwap (joinStandby s)))

/-- The base-note sequences of a promoted member (R352): on each port 65,536 past what its journal holds for the port and frame,
or 0 from the next frame on where that would reach 2^19. -/
def promotedSequences (s : State) : State :=
  let f := fNow s
  let next := s.red.journalHigh.map (fun e => if e.1 == f then e.2 + 65536 else 65536)
  setRed (fun r => { r with
    baseSeq := next.map (fun n => if n ≥ 2 ^ 19 then (f + 1, 0) else (f, n))
    holdUntil := next.map (fun n => if n ≥ 2 ^ 19 then some (f + 1) else none) }) s

/-- The standby promotes itself (R351, R352). Without sync RED_GAP names the last applied snapshot and the first missing
entry, as a journal gap has recorded them or as they stand now (R359). -/
def promote (s : State) : State :=
  let gap := !flag s F.RED_STAT_sync
  let s := promotedSequences (claim 1 (clearSwap s))
  let s := raise Src.RED_PROMOTED s
  if gap then
    let s :=
      if !s.red.everApplied then setFld F.RED_GAP_SNAP_value 0 (setFld F.RED_GAP_JSEQ_value 0 s)
      else if s.red.gapSince then s
      else setFld F.RED_GAP_SNAP_value (fld s F.RED_SNAP_value) (setFld F.RED_GAP_JSEQ_value (fld s F.RED_JSEQ_value + 1) s)
    raise Src.RED_STATE_GAP s
  else s

/-- Whether the tie path and every enabled ring path have been silent (R351). -/
def allSilent (s : State) : Bool :=
  s.red.silent.getD 7 true && (List.range 7).all (fun p => !flagAt s F.PORT_CFG_enable p || s.red.silent.getD p true)

/-- A path has been silent for miss × hb_us (R351); without the tie link a snapshot in transfer is discarded (R359). -/
def pathSilent (p : Nat) (s : State) : State :=
  if !isSender s || redState s == 0 || p ≥ 8 then s
  else
    let s := setRed (fun r => { r with silent := updAt (fun _ => true) r.silent p }) s
    let s :=
      if p == 7 then tieLost s
      else setRingSeen p false s
    if redState s == 1 && allSilent s then promote s else s

/-- What a member does on learning its partner's claim of the active state (R342, R350). -/
def partnerActive (epoch : Nat) (member : Bool) (s : State) : State :=
  if redState s == 3 then joinStandby s
  else if redState s == 2 && higherClaim epoch member (fld s F.RED_EPOCH_epoch) (fld s F.CASCADE_ID_member == 1) then
    standDown s
  else s

/-- Whether a packet comes from the pair's other member. -/
def fromPartner (s : State) (d : Delivered) (member : Bool) : Bool :=
  hPair d.hdr == fld s F.CASCADE_ID_pair && member != (fld s F.CASCADE_ID_member == 1)

/-- A member takes its partner's HEARTBEAT (R342, R349 to R351, R357). -/
def heartbeatTake (s : State) : State :=
  if !isSender s then s
  else match takeInbox (isTop 0x10) s with
    | none => s
    | some (d, s) =>
      let member := bitOf (hSpec d.hdr 5) 7
      let epoch := beAt d.hdr 12 4
      let st := hSpec d.hdr 4
      if redState s == 0 || !fromPartner s d member then s
      else
        let s := pathHeard d.port s
        let s := setFlag F.RED_STAT_partner_active (st == 2) (setFld F.RED_PARTNER_EPOCH_epoch epoch s)
        let s := setRed (fun r => { r with
          partnerWord := beAt d.hdr 16 4
          heard := if r.listening then some st else r.heard
          snapWanted := r.snapWanted || (bitOf (hSpec d.hdr 5) 5 && r.snapOut.isNone) }) s
        if st == 2 then partnerActive epoch member s else s

/-- A member takes its partner's ACTIVE_CLAIM (R350). -/
def claimTake (s : State) : State :=
  if !isSender s then s
  else match takeInbox (isTop 0x11) s with
    | none => s
    | some (d, s) =>
      let member := bitOf (hSpec d.hdr 4) 7
      let epoch := beAt d.hdr 12 4
      if redState s == 0 || !fromPartner s d member then s
      else partnerActive epoch member (setFld F.RED_PARTNER_EPOCH_epoch epoch s)

/-! ### Starting (R341, R342) -/

/-- No path is alive and the partner is unknown: what RED_STAT shows at the start and at the end of pair operation (DEDUCED,
logs 78, 195). -/
def forgetPaths (s : State) : State :=
  setFlag F.RED_STAT_tie_ok false (setFlag F.RED_STAT_ring_ok false (setFlag F.RED_STAT_partner_active false
    (setFld F.RED_STAT_ring_seen 0 (setRed (fun r => { r with silent := List.replicate 8 true, syncDue := false }) s))))

/-- RED_CFG has been written; `was` is its enable before. -/
def redCfgWritten (was : Bool) (s : State) : State :=
  let now := flag s F.RED_CFG_enable
  if now && !was then
    showRingOk false (setRed (fun r => { r with listening := true, heard := none, snapReq := false, claims := 0 })
      (forgetPaths (setFlag F.RED_STAT_sync false (setFld F.RED_STAT_state 3 s))))
  else if was && !now then
    setRed (fun r => { r with listening := false, claims := 0, snapOut := none, snapIn := none, named := [], deferred := none })
      (forgetPaths (clearSwap (setFlag F.RED_STAT_snap_busy false
        (setFlag F.RED_STAT_sync false (setFld F.RED_STAT_state 0 s)))))
  else s

/-- The listen time ends (R342). -/
def listenEnd (s : State) : State :=
  if redState s == 3 && s.red.listening then
    let wait := fld s F.CASCADE_ID_member == 1 && (s.red.heard == some 3 || s.red.heard == some 1)
    if wait then setRed (fun r => { r with listening := false }) s else claim 0 s
  else s

/-! ### Swaps (R360) -/

/-- Whether the active member may arm a swap: the partner is standby with sync, tie_ok is 1, and none is pending. -/
def swapMayArm (s : State) : Bool :=
  redState s == 2 && s.red.partnerWord / 2 ^ 24 == 1 && bitOf s.red.partnerWord 22 && flag s F.RED_STAT_tie_ok

/-- The role swap takes effect at the boundary of frame `f` (R360). -/
def swapBoundary (f : Nat) (s : State) : State :=
  if redState s == 2 && flag s F.RED_STAT_swap_pending && decide (pairAt s F.RED_SWAP_F_HI_frame F.RED_SWAP_F_LO_frame ≤ f) then
    raise Src.RED_SWAPPED (endAssigning (setFlag F.RED_STAT_sync true (setFld F.RED_STAT_state 1 (clearSwap s))))
  else match s.red.swapAt with
    | some g =>
      if redState s == 1 && decide (g ≤ f) then
        let s := claim 2 (clearSwap s)
        let s := setRed (fun r => { r with
          baseSeq := List.replicate 7 (f, 0), snapWanted := true, holdUntil := List.replicate 7 none }) s
        raise Src.RED_SWAPPED s
      else s
    | none => s

/-! ### The tile's records (R347, R348) -/

/-- The fields of a port's record. -/
def tileRecord (p : Nat) : Fld × Fld × Fld × Fld :=
  if p == 0 then (F.RED_TILE_A_seen, F.RED_TILE_A_active, F.RED_TILE_A_member, F.RED_TILE_EP_A_epoch)
  else (F.RED_TILE_B_seen, F.RED_TILE_B_active, F.RED_TILE_B_member, F.RED_TILE_EP_B_epoch)

/-- Judge whether the tile is split, and which claimant is higher (R348). -/
def judgeSplit (s : State) : State :=
  let both := flag s F.RED_TILE_A_seen && flag s F.RED_TILE_A_active && flag s F.RED_TILE_B_seen && flag s F.RED_TILE_B_active
  let was := flag s F.RED_TILE_STAT_split
  let b := higherClaim (fld s F.RED_TILE_EP_B_epoch) (flag s F.RED_TILE_B_member) (fld s F.RED_TILE_EP_A_epoch)
    (flag s F.RED_TILE_A_member)
  let s := setFlag F.RED_TILE_STAT_higher_b (both && b) (setFlag F.RED_TILE_STAT_split both s)
  if both && !was then raise Src.RED_SPLIT_BRAIN s else s

/-- A tile records a confirmed HEARTBEAT or ACTIVE_CLAIM for its port (R347). -/
def tileRecordTake (s : State) : State :=
  if !isTile s then s
  else match takeInbox (fun d => isTop 0x10 d || isTop 0x11 d) s with
    | none => s
    | some (d, s) =>
      let hb := isTop 0x10 d
      let (seen, act, mem, ep) := tileRecord d.port
      let active := if hb then hSpec d.hdr 4 == 2 else true
      let member := bitOf (hSpec d.hdr (if hb then 5 else 4)) 7
      let s := setFlag seen true (setFlag act active (setFlag mem member (setFld ep (beAt d.hdr 12 4) s)))
      let s := if hb then setRed (fun r => { r with tileHb := updAt (fun _ => beAt d.hdr 18 2) r.tileHb d.port }) s else s
      judgeSplit s

/-- A port's record is no longer seen (R347). -/
def tileRecordOld (p : Nat) (s : State) : State :=
  if isTile s && p < 2 then judgeSplit (setFlag (tileRecord p).1 false s) else s

/-- PKT_ONE_SIDED at the end of a frame: the silent port's record is marked (R83, R347). -/
def oneSidedCheck (s : State) : State :=
  if !isTile s then s
  else
    let a := portAt s 0
    let b := portAt s 1
    let s :=
      if a.heartDelivered && !b.heartConfirmed then raise Src.PKT_ONE_SIDED (setFlag F.RED_TILE_B_one_sided true s)
      else if b.heartDelivered && !a.heartConfirmed then raise Src.PKT_ONE_SIDED (setFlag F.RED_TILE_A_one_sided true s)
      else s
    forEach [0, 1] (fun p st => setPort p (fun q => { q with heartConfirmed := false, heartDelivered := false }) st) s

/-! ### Base-note messages on the ring (R74, R345, R354) -/

/-- The head of a journal entry (R354). -/
def journalHead (jseq kind port frame seq length : Nat) : List Byte :=
  beBytes 4 jseq ++ [BitVec.ofNat 8 kind, BitVec.ofNat 8 (port * 16), 0, 0] ++ beBytes 8 frame ++ beBytes 4 seq ++
    beBytes 4 length

/-- Packets of a journal message go ahead of every snapshot message of the tie link that has not begun (R354). -/
def aheadOfSnapshots (n : Nat) (q : List TxPkt) : List TxPkt :=
  let old := q.take n
  let k := (old.takeWhile (fun x => !(hType x.hdr == 0x08 && beAt x.hdr 12 4 == 0))).length
  old.take k ++ q.drop n ++ old.drop k

/-- The active member in pair operation journals an entry over the tie link (R354). -/
def journal (kind port frame seq : Nat) (item : List Byte) (s : State) : State :=
  if redState s != 2 then s
  else
    let j := (fld s F.RED_JSEQ_value + 1) % 2 ^ 32
    let s := setFld F.RED_JSEQ_value j s
    let n := (portAt s 7).tx.base.length
    if portActive s 7 then
      setPort 7 (fun q => { q with tx := { q.tx with base := aheadOfSnapshots n q.tx.base } })
        (sendBaseOwn 7 0x09 0 0 (journalHead j kind port frame seq item.length ++ item) s)
    else s

/-- Emit a base message with dup = 1 on a ring port under the next sequence of this frame, journalled first (R74, R345). -/
def emitRing (p typ dst : Nat) (msg : List Byte) (s : State) : State :=
  let f := fNow s
  let (g, i) := s.red.baseSeq.getD p (0, 0)
  let i := if g == f then i else 0
  let seq := f % 4096 * 2 ^ 20 + i
  let s := setRed (fun r => { r with baseSeq := updAt (fun _ => (f, (i + cdiv msg.length 32) % 2 ^ 20)) r.baseSeq p }) s
  let s := journal 2 p 0 seq ([BitVec.ofNat 8 typ, BitVec.ofNat 8 dst, 0, 0] ++ msg) s
  sendBase p typ true seq dst 0 msg s

/-- Send a base message with dup = 1 on a ring port, or hold it until the frame in which sequences start again (R345, R352). -/
def sendRing (p typ dst : Nat) (msg : List Byte) (s : State) : State :=
  match s.red.holdUntil.getD p none with
  | some f =>
    if fNow s < f then
      setRed (fun r => { r with heldMsgs := r.heldMsgs ++ [{ port := p, seq := 0, typ := typ, dst := dst, msg := msg }] }) s
    else emitRing p typ dst msg s
  | none => emitRing p typ dst msg s

/-- Base messages held since a promotion go out from the frame they waited for (R352). -/
def releaseHeld (f : Nat) (s : State) : State :=
  let free (p : Nat) : Bool := match s.red.holdUntil.getD p none with
    | some g => decide (g ≤ f)
    | none => true
  let l := s.red.heldMsgs
  let s := setRed (fun r => { r with
    holdUntil := r.holdUntil.zipIdx.map (fun x => if free x.2 then none else x.1)
    heldMsgs := l.filter (fun e => !free e.port) }) s
  forEach (l.filter (fun e => free e.port)) (fun e st => emitRing e.port e.typ e.dst e.msg st) s

/-- The standby emits the oldest relay entry's message with its sequence (R345); one that it cannot emit within 100 µs of its
arrival, because the port is not ACTIVE or the time has passed, is discarded. -/
def relayEmit (s : State) : State :=
  match s.red.relays with
  | [] => s
  | e :: t =>
    let s := setRed (fun r => { r with relays := t }) s
    if portActive s e.port && decide (s.time.mono ≤ e.at_ + 200000) then sendBase e.port e.typ true e.seq e.dst 0 e.msg s
    else incFld F.RED_CNT_1_relay_late s

/-! ### Rows of the opcode table -/

/-- RED_LISTEN_END (R342). -/
def execRedListenEnd (s : State) : Host.Outcome State Fault Refusal := .next (whenOn 1 listenEnd s)

/-- HEARTBEAT_SEND (R349). -/
def execHeartbeatSend (s : State) : Host.Outcome State Fault Refusal := .next (whenOn 1 heartbeatSend s)

/-- HEARTBEAT_RECEIVE (R351). -/
def execHeartbeatReceive (s : State) : Host.Outcome State Fault Refusal := .next (whenOn 1 heartbeatTake s)

/-- CLAIM_RESEND (R350). -/
def execClaimResend (s : State) : Host.Outcome State Fault Refusal := .next (whenOn 1 claimResend s)

/-- CLAIM_RECEIVE (R350). -/
def execClaimReceive (s : State) : Host.Outcome State Fault Refusal := .next (whenOn 1 claimTake s)

/-- TILE_REDUNDANCY_RECORD (R347). -/
def execTileRedundancyRecord (s : State) : Host.Outcome State Fault Refusal := .next (whenOn 1 tileRecordTake s)

/-- TILE_RECORD_EXPIRE (R347). -/
def execTileRecordExpire (port : Nat) (s : State) : Host.Outcome State Fault Refusal := .next (whenOn 1 (tileRecordOld port) s)

/-- PATH_SILENT (R351): ring ports 0–6, and 7 the tie path. -/
def execPathSilent (path : Nat) (s : State) : Host.Outcome State Fault Refusal := .next (whenOn 1 (pathSilent path) s)

/-- RELAY_ENTRY_EMIT (R345). -/
def execRelayEntryEmit (s : State) : Host.Outcome State Fault Refusal := .next (whenOn 1 relayEmit s)

/-- SWAP_TIMER (R360): an automatic swap is requested; SWAP_ARM_RETRY arms it. -/
def execSwapTimer (s : State) : Host.Outcome State Fault Refusal :=
  .next (whenOn 1 (fun st => if redState st == 2 && fld st F.RED_PERIOD_swap_s != 0 then
    setRed (fun r => { r with swapWanted := true }) st else st) s)

/-- SNAPSHOT_PERIOD (R357): the periodic interval expires and a capture is due. -/
def execSnapshotPeriod (s : State) : Host.Outcome State Fault Refusal :=
  .next (whenOn 1 (fun st => if redState st == 2 && fld st F.RED_PERIOD_snap_s != 0 && st.red.snapOut.isNone then
    setRed (fun r => { r with snapWanted := true }) st else st) s)

end Sys2Proof.Machine
end

