-- ==== Sys2Proof/Machine/Boot.lean ====
section
/-! DEFINITION. Flash, boot record, images, update sessions and settings (spec/19_boot_and_update.md, R413 to R434). What
needs the power manager (resets, recovery, hand-over) stands in Rom.lean. -/

namespace Sys2Proof.Machine

/-- Change the boot part of the state. -/
def setBoot (f : BootState → BootState) (s : State) : State := { s with boot := f s.boot }

/-! ### Flash (R413) -/

/-- An erased flash byte. -/
def erasedByte (_ : Nat) : Byte := 0xFF

/-- Byte `o` of the flash. -/
def flashByte (s : State) (o : Nat) : Byte := smGet erasedByte s.boot.flash o

/-- Consecutive bytes of the flash. -/
def flashBytes (s : State) (o n : Nat) : List Byte := (List.range n).map (fun k => flashByte s (o + k))

/-- A 32-bit word of a flash structure (R7, R413). -/
def flashWord (s : State) (o : Nat) : Nat := leNat (flashBytes s o 4)

/-- Program consecutive bytes of a flash map. -/
def putFlash : Nat → List Byte → SMap Byte → SMap Byte
  | _, [], m => m
  | o, b :: t, m => putFlash (o + 1) t (smPut erasedByte m o b)

/-- Program consecutive bytes; none past the end of the flash. -/
def setFlashBytes (o : Nat) (bs : List Byte) (s : State) : State :=
  setBoot (fun x => { x with flash := putFlash o (bs.take (x.flashBytes - o)) x.flash }) s

/-- Erase `n` sectors of 64 KiB from offset `o`. -/
def eraseSectors (o n : Nat) (s : State) : State :=
  setBoot (fun x => { x with
    flash := x.flash.filter (fun e => decide (e.1 < o) || decide (o + n * 0x10000 ≤ e.1)) }) s

/-! ### Retention bytes and the handover words (R407, R419) -/

/-- Byte `o` of the retention SRAM. -/
def retByte (s : State) (o : Nat) : Byte := smGet zeroByte s.pwr.retention o

/-- A word of the retention SRAM (R7). -/
def retWord (s : State) (o : Nat) : Nat := leNat ((List.range 4).map (fun k => retByte s (o + k)))

/-- Write consecutive bytes of a retention map. -/
def putRetention : Nat → List Byte → SMap Byte → SMap Byte
  | _, [], m => m
  | o, b :: t, m => putRetention (o + 1) t (smPut zeroByte m o b)

/-- Write consecutive bytes of the retention SRAM. -/
def setRetBytes (o : Nat) (bs : List Byte) (s : State) : State :=
  { s with pwr := { s.pwr with retention := putRetention o bs s.pwr.retention } }

/-- Offset of the handover words (R419). -/
def handoverAt : Nat := 0x7000

/-- The handover request and its slot; (0, 0) when the words are not valid (R419). -/
def handover (s : State) : Nat × Nat :=
  let w (k : Nat) : Nat := retWord s (handoverAt + 4 * k)
  let body := (List.range 12).map (fun k => retByte s (handoverAt + k))
  if w 0 == 0x484F4646 && w 3 == crc32c body then (w 1, w 2) else (0, 0)

/-- Write a handover request. -/
def setHandover (request slot : Nat) (s : State) : State :=
  let body := leBytes 4 0x484F4646 ++ leBytes 4 request ++ leBytes 4 slot
  setRetBytes handoverAt (body ++ leBytes 4 (crc32c body)) s

/-- Clear the handover words. -/
def clearHandover (s : State) : State := setRetBytes handoverAt (List.replicate 16 0) s

/-! ### The boot record (R414) -/

/-- The sixteen words of record copy `c`. -/
def recordCopy (s : State) (c : Nat) : List Nat := (List.range 16).map (fun k => flashWord s (0x1000 * c + 4 * k))

/-- Whether copy `c` is valid. -/
def copyValid (s : State) (c : Nat) : Bool :=
  let w := recordCopy s c
  w.getD 0 0 == 0x42545243 && decide (bitsOf (w.getD 2 0) 30 29 ≤ 1) &&
    w.getD 15 0 == crc32c (flashBytes s (0x1000 * c) 60)

/-- Whether sequence `x` is higher than `y`, modulo 2³² (R350, R414). -/
def seqHigher (x y : Nat) : Bool :=
  let d := (x + 2 ^ 32 - y) % 2 ^ 32
  decide (0 < d) && decide (d < 2 ^ 31)

/-- The copy in force and its words (R414). -/
def bootRecord (s : State) : Option (Nat × List Nat) :=
  let a := recordCopy s 0
  let b := recordCopy s 1
  match copyValid s 0, copyValid s 1 with
  | true, true => if seqHigher (b.getD 1 0) (a.getD 1 0) then some (1, b) else some (0, a)
  | true, false => some (0, a)
  | false, true => some (1, b)
  | false, false => none

/-- slot_size where no record is valid (R433), in 64 KiB units. -/
def freshSlotSize (s : State) : Nat := (s.boot.flashBytes - 0x100000) / 2 / 0x10000

/-- The record in force, or the one that UPD_SCHEDULE writes afresh in recovery (R433). -/
def recordWords (s : State) : List Nat :=
  match bootRecord s with
  | some (_, w) => w
  | none =>
    [0x42545243, (Config.freshRecord 0 + 2 ^ 32 - 1) % 2 ^ 32, 2 ^ 31, freshSlotSize s,
      (regWord s (F.HOLDUP_CFG_0_cap_uf.addr 0)).toNat, (regWord s (F.HOLDUP_CFG_1_load_mw.addr 0)).toNat,
      fld s F.HOLDUP_CFG_2_ratio, Config.freshRecord 1 % 2 ^ 32] ++ List.replicate 8 0

/-- Write a record: the words of the one in force with word 2 and the image version replaced, seq one higher, to the other
copy (R414). -/
def writeBootRecord (word2 version : Nat) (s : State) : State :=
  let old := recordWords s
  let w := updAt (fun _ => version) (updAt (fun _ => word2) (updAt (fun v => (v + 1) % 2 ^ 32) old 1) 2) 7
  let body := (w.take 15).flatMap (leBytes 4)
  let copy := match bootRecord s with
    | some (c, _) => 1 - c
    | none => 0
  setFlashBytes (0x1000 * copy) (body ++ leBytes 4 (crc32c body)) (eraseFlash (0x1000 * copy) s)
where
  /-- The copy's 4 KiB are erased before they are written. -/
  eraseFlash (o : Nat) (s : State) : State :=
    setBoot (fun x => { x with
      flash := x.flash.filter (fun e => decide (e.1 < o) || decide (o + 0x1000 ≤ e.1)) }) s

/-- Word 2 of a record: active slot, state and deadline. -/
def recordWord2 (active state confirm : Nat) : Nat := active * 2 ^ 31 + state * 2 ^ 29 + confirm

/-- Slot size in bytes (R413). -/
def slotBytes (s : State) : Nat := (recordWords s).getD 3 0 * 0x10000

/-- Offset of slot `x` (R413). -/
def slotAt (s : State) (x : Nat) : Nat := 0x100000 + x * slotBytes s

/-! ### Images (R415 to R417) -/

/-- OTP security version (R431). -/
def otpVersion (s : State) : Nat := s.boot.otpSvn.getLast?.getD 0

/-- What verifying an image finds, in the order of R424. -/
inductive Verdict where
  | good
  | blocks (bad : List Nat)
  | signature
  | refused
  deriving DecidableEq, Repr

/-- Header word `k` of the image in slot `x`. -/
def headerWord (s : State) (x k : Nat) : Nat := flashWord s (slotAt s x + 4 * k)

/-- Whether the header of slot `x` has a form that R415 and R417 allow. -/
def headerOk (s : State) (x : Nat) : Bool :=
  let n := headerWord s x 3
  headerWord s x 0 == 0x45484E44 && bitsOf (headerWord s x 1) 31 24 == 1 && n % 0x1000 == 0 && decide (0x3000 ≤ n) &&
    decide (n ≤ slotBytes s) && decide (slotAt s x + n ≤ s.boot.flashBytes)

/-- Blocks of the image in slot `x` that differ from their check table entries (R415). -/
def badBlocks (s : State) (x : Nat) : List Nat :=
  let n := headerWord s x 3 / 0x1000
  let t := cdiv (4 * n) 0x1000
  (List.range n).filter (fun k =>
    let entry := flashWord s (slotAt s x + 0x1000 + 4 * k)
    if (decide (1 ≤ k) && decide (k ≤ t)) || k == n - 1 then entry != 0
    else entry != crc32c (flashBytes s (slotAt s x + 0x1000 * k) 0x1000))

/-- Verify the image in slot `x` (R417); a header of no legal form counts as a bad block 0. -/
def verifySlot (s : State) (x : Nat) : Verdict :=
  if !headerOk s x then .blocks [0]
  else
    let bad := badBlocks s x
    let w := headerWord s x 1
    if !bad.isEmpty then .blocks bad
    else if !Config.signatureValid (flashBytes s (slotAt s x) (headerWord s x 3)) then .signature
    else if !bitOf w (if isTile s then 17 else 16) || decide (w % 2 ^ 16 < otpVersion s) then .refused
    else .good

/-! ### Write windows and hold-up (R385, R429) -/

/-- Whether PD_02 writes flash at present: an erase, a program, or the owner lock (R401). -/
def flashBusy (s : State) : Bool := fld s F.UPD_STAT_state == 1 || !s.boot.places.isEmpty || flag s F.OTP_PROG_busy

/-- The hold-up check for an operation that erases, or for a page program; HOLDUP_STAT shows it (R429). -/
def holdupCheck (erase : Bool) (s : State) : Bool × State :=
  let cap := fld s F.HOLDUP_CFG_0_cap_uf
  let d := 2 ^ 24
  let n := fld s F.HOLDUP_STAT_code * 1800 * fld s F.HOLDUP_CFG_2_ratio
  let floor := fld s F.HOLDUP_CFG_0_vmin_mv * d
  let num := cap * (n * n - floor * floor)
  let den := 2 * 10 ^ 6 * d * d
  let need := fld s F.HOLDUP_CFG_1_load_mw *
    (if erase then fld s F.HOLDUP_CFG_1_erase_ms else fld s F.HOLDUP_CFG_1_prog_ms)
  let ok := cap == 0 || decide (need * den ≤ num)
  (ok, setFlag F.HOLDUP_STAT_ok ok (setFld F.HOLDUP_STAT_energy (min 0xFFFF (num / (10 * den))) s))

/-- Steps 3 and 4 of R422: the flash window, then the hold-up check. -/
def flashChecks (erase : Bool) (s : State) : Option Nat × State :=
  if !flag s F.THERM_STAT_flash_ok then (some Code.thermal, s)
  else
    let (ok, s) := holdupCheck erase s
    (if ok then none else some Code.holdup, s)

/-- Refuse an update command; the refusals of steps 1, 3 and 4 and VERSION raise UPD_REFUSED (R422). -/
def updRefuse (c : Nat) (s : State) : Answer × State :=
  answer c (when ([Code.locked, Code.thermal, Code.holdup, Code.version].contains c) (raise Src.UPD_REFUSED) s)

/-! ### Update sessions (R421 to R428) -/

/-- UPD_STAT.state. -/
def updState (s : State) : Nat := fld s F.UPD_STAT_state

/-- Set UPD_STAT.state. -/
def setUpdState (v : Nat) (s : State) : State := setFld F.UPD_STAT_state v s

/-- Whether the session `id` is held. -/
def sessionIs (s : State) (id : Nat) : Bool :=
  match s.boot.session with
  | some x => x.id == id
  | none => false

/-- The slot that updates are written to: the one that is not running, or in recovery the one that failed first (R433). -/
def updateSlot (s : State) : Nat := if s.boot.mode == .recovery then s.boot.failed else 1 - s.boot.running

/-- UPD_BEGIN (R422). -/
def updBegin (ws : List Word) (s : State) : Answer × State :=
  let w (k : Nat) : Nat := (ws.getD k 0).toNat
  if ws.length != 4 then answer Code.length s
  else if w 3 / 2 ^ 16 != 0 then answer Code.opcode s
  else if s.boot.otpLock then updRefuse Code.locked s
  else if updState s == 4 || updState s == 5 then updRefuse Code.state s
  else if w 1 % 0x1000 != 0 || decide (w 1 < 0x3000) || decide (slotBytes s < w 1) then updRefuse Code.capacity s
  else if w 3 < otpVersion s then updRefuse Code.version s
  else match flashChecks true s with
    | (some c, s) => updRefuse c s
    | (none, s) =>
      let n := cdiv (w 1) 0x10000
      let x : UpdSession := { id := w 0, length := w 1, version := w 2, svn := w 3, slot := updateSlot s, erase := n }
      let s := eraseSectors (slotAt s x.slot) n s
      let s := setFlag F.UPD_STAT_holdup_wait false s
      let s := setUpdState 1 (setBoot (fun b => { b with session := some x, places := [] }) s)
      answerWords [BitVec.ofNat 32 (Config.eraseEstimate n), BitVec.ofNat 32 Config.programRate] (raise Src.UPD_BEGUN s)

/-- The background erase goes on after its first sector: the hold-up check is made again, and with it passed the rest of the
slot is erased and the session opens (R421, R429). -/
def eraseDone (s : State) : State :=
  match s.boot.session with
  | none => s
  | some x =>
    if updState s != 1 || flag s F.UPD_STAT_holdup_wait then s
    else
      let (ok, s) := if x.erase ≤ 1 then (true, s) else holdupCheck true s
      if ok then setUpdState 2 (setBoot (fun b => { b with session := some { x with erase := 0 } }) s)
      else
        setFlag F.UPD_STAT_holdup_wait true (setBoot (fun b => { b with session := some { x with erase := x.erase - 1 } }) s)

/-- Program bytes of the session's image; a sealed session falls back to open (R421). -/
def programImage (offset : Nat) (bs : List Byte) (s : State) : State :=
  match s.boot.session with
  | none => s
  | some x =>
    let s := setFlashBytes (slotAt s x.slot + offset) bs s
    if updState s == 3 then setUpdState 2 s else s

/-- Session checks of UPD_BLOCK: the answer, if they refuse (R422). -/
def blockSession (id : Nat) (s : State) : Option Answer :=
  match s.boot.session with
  | none => some { status := Code.state }
  | some x =>
    if x.id != id then some { status := Code.state }
    else if updState s == 1 then
      some { status := Code.busy, retry := clampN 1 65535 (Config.eraseLeft x.erase) }
    else if updState s == 2 || updState s == 3 then none
    else some { status := Code.state }

/-- UPD_BLOCK in its inline form (R422). -/
def updBlockInline (ws : List Word) (s : State) : Answer × State :=
  let id := (ws.getD 0 0).toNat
  let offset := (ws.getD 1 0).toNat % 2 ^ 31
  let data := ws.drop 2
  if ws.length < 2 then answer Code.length s
  else if s.boot.otpLock then updRefuse Code.locked s
  else match blockSession id s with
    | some a => (a, s)
    | none =>
      let len := match s.boot.session with
        | some x => x.length
        | none => 0
      if offset % 4 != 0 || decide (len < offset + 4 * data.length) then updRefuse Code.address s
      else match flashChecks false s with
        | (some c, s) => updRefuse c s
        | (none, s) => answer Code.ok (programImage offset (data.flatMap (fun v => leBytes 4 v.toNat)) s)

/-- A tile takes a delivered FIRMWARE_DATA message for programming, or discards it (R423). -/
def firmwareData (msg : List Byte) (s : State) : State :=
  let offset := beAt msg 4 4 * 0x1000
  let drop (s : State) : State := incFld F.UPD_STAT_dropped s
  let len := match s.boot.session with
    | some x => x.length
    | none => 0
  if msg.length != 4104 || s.boot.otpLock || (blockSession (beAt msg 0 4) s).isSome ||
      decide (len < offset + 0x1000) || decide (2 ≤ s.boot.places.length) then drop s
  else match flashChecks false s with
    | (some _, s) => drop s
    | (none, s) => setBoot (fun b => { b with places := b.places ++ [(offset, msg.drop 8)] }) s

/-- The oldest place has been programmed; the next program starts, or waits for the hold-up check (R423, R429). -/
def programDone (s : State) : State :=
  match s.boot.places with
  | [] => s
  | (o, bs) :: t =>
    if flag s F.UPD_STAT_holdup_wait then s
    else
      let s := programImage o bs (setBoot (fun b => { b with places := t }) s)
      if t.isEmpty then s
      else
        let (ok, s) := holdupCheck false s
        setFlag F.UPD_STAT_holdup_wait (!ok) s

/-- A background operation that waits goes on once the check passes (R429). -/
def holdupWaitEnd (s : State) : State :=
  if flag s F.UPD_STAT_holdup_wait then
    let (ok, s) := holdupCheck (updState s == 1) s
    if ok then setFlag F.UPD_STAT_holdup_wait false s else s
  else s

/-- UPD_SEAL (R424). -/
def updSeal (ws : List Word) (s : State) : Answer × State :=
  if ws.length != 1 then answer Code.length s
  else if s.boot.otpLock then updRefuse Code.locked s
  else if !sessionIs s (ws.getD 0 0).toNat || updState s != 2 then updRefuse Code.state s
  else
    let x := match s.boot.session with
      | some x => x.slot
      | none => 0
    match verifySlot s x with
    | .good => answer Code.ok (raise Src.UPD_SEALED (setUpdState 3 s))
    | .blocks bad =>
      ({ status := Code.check, words := (bad.length :: padNat 16 (bad.take 16)).map (BitVec.ofNat 32) },
        raise Src.UPD_BLOCK_FAIL s)
    | .signature => answer Code.signature (raise Src.UPD_SIG_FAIL s)
    | .refused => updRefuse Code.version s
where
  /-- A list of numbers, padded with zeros to `n`. -/
  padNat (n : Nat) (l : List Nat) : List Nat := l ++ List.replicate (n - l.length) 0

/-- confirm_s as a record takes it (R434). -/
def confirmSeconds (s : State) : Nat := clampN 10 600 (fld s F.UPD_CFG_confirm_s)

/-- The active slot that an armed record names: unchanged, but in recovery the slot opposite to the download (R425, R433). -/
def scheduledActive (s : State) : Nat :=
  match s.boot.mode, s.boot.session with
  | .recovery, some x => 1 - x.slot
  | _, _ => (recordWords s).getD 2 0 / 2 ^ 31

/-- UPD_SCHEDULE (R422, R425). -/
def updSchedule (ws : List Word) (s : State) : Answer × State :=
  let f := (ws.getD 1 0).toNat * 2 ^ 32 + (ws.getD 2 0).toNat
  if ws.length != 3 then answer Code.length s
  else if s.boot.otpLock then updRefuse Code.locked s
  else if !sessionIs s (ws.getD 0 0).toNat || updState s != 3 then updRefuse Code.state s
  else if f != 0 && (s.boot.mode == .recovery || decide (f < fNow s + 2)) then updRefuse Code.state s
  else match flashChecks true s with
    | (some c, s) => updRefuse c s
    | (none, s) =>
      let s := writeBootRecord (recordWord2 (scheduledActive s) 1 (confirmSeconds s)) ((recordWords s).getD 7 0) s
      let s := setUpdState 4 (setBoot (fun b => { b with armed := some f }) s)
      let s := setPair F.UPD_SCHED_F_HI_frame F.UPD_SCHED_F_LO_frame f s
      answer Code.ok (raise Src.UPD_SCHEDULED s)

/-- Raise the OTP security version (R431). -/
def svnRaise (v : Nat) (s : State) : State :=
  let s := setFlag F.UPD_STAT_svn_pending false (setBoot (fun b => { b with svnDue := none }) s)
  if v ≤ otpVersion s then s
  else if 32 ≤ s.boot.otpSvn.length then raise Src.UPD_REFUSED s
  else showOtp (setBoot (fun b => { b with otpSvn := b.otpSvn ++ [v] }) s)
where
  /-- OTP_SVN shows the entries. -/
  showOtp (s : State) : State := setFld F.OTP_SVN_used s.boot.otpSvn.length (setFld F.OTP_SVN_svn (otpVersion s) s)

/-- UPD_CONFIRM (R428). -/
def updConfirm (ws : List Word) (s : State) : Answer × State :=
  if !ws.isEmpty then answer Code.length s
  else match s.boot.trial with
    | none => updRefuse Code.state s
    | some (slot, _) =>
      if updState s != 5 || s.boot.deadlinePast then updRefuse Code.state s
      else match flashChecks true s with
        | (some c, s) => updRefuse c s
        | (none, s) =>
          let w := recordWords s
          let s := writeBootRecord (recordWord2 slot 0 (w.getD 2 0 % 2 ^ 16)) (s.boot.header.getD 2 0) s
          let s := setUpdState 0 (clearHandover (setBoot (fun b => { b with trial := none }) s))
          let svn := s.boot.header.getD 1 0 % 2 ^ 16
          let s := if flag s F.THERM_STAT_otp_ok then svnRaise svn s
            else if svn ≤ otpVersion s then s
            else setFlag F.UPD_STAT_svn_pending true (setBoot (fun b => { b with svnDue := some svn }) s)
          answer Code.ok s

/-- UPD_ABORT (R422). -/
def updAbort (ws : List Word) (s : State) : Answer × State :=
  let id := (ws.getD 0 0).toNat
  if ws.length != 1 then answer Code.length s
  else if updState s == 5 || (id != 0xFFFFFFFF && !sessionIs s id) then updRefuse Code.state s
  else
    let armed := updState s == 4
    let s := setBoot (fun b => { b with session := none, places := [], armed := none, rewriteDue := b.rewriteDue || armed }) s
    let s := setFlag F.UPD_STAT_holdup_wait false (setPair F.UPD_SCHED_F_HI_frame F.UPD_SCHED_F_LO_frame 0 s)
    answer Code.ok (if updState s == 6 then s else setUpdState 0 s)

/-- UPD_RECOVER (R422): the reset follows 100 µs after the reply. -/
def updRecover (ws : List Word) (s : State) : Answer × State :=
  if ws.length != 1 then answer Code.length s
  else if ws.getD 0 0 != 0 then answer Code.opcode s
  else if s.boot.otpLock then updRefuse Code.locked s
  else answer Code.ok (setBoot (fun b => { b with recoverDue := true }) s)

/-- An armed record without a matching request, or one whose update was aborted, is rewritten as confirmed (R420, R422). -/
def recordRewrite (s : State) : State :=
  if !s.boot.rewriteDue || !flag s F.THERM_STAT_flash_ok then s
  else
    let (ok, s) := holdupCheck true s
    if ok then
      let w := recordWords s
      writeBootRecord (recordWord2 (w.getD 2 0 / 2 ^ 31) 0 (w.getD 2 0 % 2 ^ 16)) (w.getD 7 0)
        (setBoot (fun b => { b with rewriteDue := false }) s)
    else s

/-- The deadline of a trial runs out: its time has come on the always-on clock (R427). -/
def deadlineOut (s : State) : State :=
  match s.boot.trial with
  | none => s
  | some (_, t) =>
    if s.boot.deadlinePast then s
    else
      let s := elapse (t + s.boot.deadline * 2000000000 - s.time.mono) s
      raise Src.UPD_CONFIRM_DUE (setBoot (fun b => { b with deadlinePast := true }) s)

/-- Seconds left to the deadline (R427). -/
def confirmLeft (s : State) : Nat :=
  match s.boot.trial with
  | none => 0
  | some (_, t) =>
    if s.boot.deadlinePast then 0 else cdiv (t + s.boot.deadline * 2000000000 - s.time.mono) 2000000000

/-! ### Owner lock (R432) -/

/-- A write of OTP_PROG: with go and the key the lock is programmed, inside the OTP window. -/
def otpProgram (go : Bool) (key : Nat) (s : State) : State :=
  if !go || key != 0x4C4B || flag s F.OTP_PROG_busy then s
  else if flag s F.THERM_STAT_otp_ok then setFlag F.OTP_PROG_busy true (setFld F.OTP_PROG_result 0 s)
  else setFld F.OTP_PROG_result 2 s

/-- The lock bit is programmed. -/
def otpDone (s : State) : State :=
  if flag s F.OTP_PROG_busy then
    setFlag F.OTP_SVN_lock true (setFld F.OTP_PROG_result 1 (setFlag F.OTP_PROG_busy false
      (setBoot (fun b => { b with otpLock := true }) s)))
  else s

/-! ### Settings (R430) -/

/-- Offset of half `h` of the settings area of slot `x`. -/
def settingsAt (x h : Nat) : Nat := 0x10000 + 0x40000 * x + 0x20000 * h

/-- A valid settings half: its version, its data and its seq. -/
def settingsHalf (s : State) (x h : Nat) : Option (Nat × List Byte × Nat) :=
  let o := settingsAt x h
  let n := flashWord s (o + 8)
  if flashWord s o == 0x53455454 && decide (20 ≤ n) && decide (n ≤ 0x20000) &&
      flashWord s (o + n - 4) == crc32c (flashBytes s o (n - 4)) then
    some (flashWord s (o + 4), flashBytes s (o + 16) (n - 20), flashWord s (o + 12))
  else none

/-- The settings of slot `x` in force: the half, version, data and seq. -/
def settingsOf (s : State) (x : Nat) : Option (Nat × Nat × List Byte × Nat) :=
  match settingsHalf s x 0, settingsHalf s x 1 with
  | some (v, d, q), some (v', d', q') => if q < q' then some (1, v', d', q') else some (0, v, d, q)
  | some (v, d, q), none => some (0, v, d, q)
  | none, some (v, d, q) => some (1, v, d, q)
  | none, none => none

/-- The migration of the previous slot's settings to version `v`: its code and the data (R430). -/
def migrate (s : State) (prev v : Nat) : Nat × List Byte :=
  match settingsOf s prev with
  | some (_, u, d, _) =>
    if u < v then (1, Config.migratedSettings v d) else if u == v then (2, d) else (3, Config.defaultSettings v)
  | none => (3, Config.defaultSettings v)

/-- Write settings data of version `v` to the half of slot `x` that is not in force, which holds 128 KiB (R430). -/
def writeSettings (x v : Nat) (whole : List Byte) (s : State) : State :=
  let data := whole.take (0x20000 - 20)
  let (h, seq) := match settingsOf s x with
    | some (h, _, _, q) => (1 - h, q + 1)
    | none => (0, Config.freshRecord 2)
  let o := settingsAt x h
  let body := leBytes 4 0x53455454 ++ leBytes 4 v ++ leBytes 4 (data.length + 20) ++ leBytes 4 seq ++ data
  setFlashBytes o (body ++ leBytes 4 (crc32c body)) (eraseSectors o 2 s)

/-- The settings write of a trial is tried (R385, R429, R430). -/
def settingsTry (s : State) : State :=
  match s.boot.settingsDue with
  | none => s
  | some (code, data) =>
    match flashChecks true s with
    | (some _, s) => s
    | (none, s) =>
      let s := writeSettings s.boot.running (s.boot.header.getD 4 0 % 2 ^ 16) data s
      raise Src.UPD_MIGRATED (setFld F.UPD_STAT_migrate code (setBoot (fun b => { b with settingsDue := none }) s))

/-! ### Rows of the opcode table -/

/-- SETTINGS_RETRY (R430). -/
def execSettingsRetry (s : State) : Host.Outcome State Fault Refusal :=
  .next (if s.boot.mode == .firmware then whenOn 2 settingsTry s else s)

/-- RECORD_REWRITE (R420). -/
def execRecordRewrite (s : State) : Host.Outcome State Fault Refusal :=
  .next (if s.boot.mode == .firmware then whenOn 2 recordRewrite s else s)

/-- UPD_ERASE_DONE (R421). -/
def execUpdEraseDone (s : State) : Host.Outcome State Fault Refusal := .next (whenOn 2 eraseDone s)

/-- FIRMWARE_DATA_RECEIVE (R423). A message waits for a PD_02 that gating has stopped or that restarts (R399). -/
def execFirmwareDataReceive (s : State) : Host.Outcome State Fault Refusal :=
  .next (if isTile s && !s.pwr.gated.contains 2 && !s.pwr.restarts.contains 2 then
    (match takeInbox (isBase 0x04) s with
     | none => s
     | some (d, s) => if domainOn s 2 then firmwareData d.body s else s)
   else s)

/-- FLASH_PROGRAM_DONE (R423). -/
def execFlashProgramDone (s : State) : Host.Outcome State Fault Refusal := .next (whenOn 2 programDone s)

/-- HOLDUP_WAIT_END (R429). -/
def execHoldupWaitEnd (s : State) : Host.Outcome State Fault Refusal := .next (whenOn 2 holdupWaitEnd s)

/-- SVN_RAISE (R428, R431): a pending raise is made while the OTP window holds. -/
def execSvnRaise (s : State) : Host.Outcome State Fault Refusal :=
  .next (whenOn 2 (fun st => match st.boot.svnDue with
    | some v => if flag st F.THERM_STAT_otp_ok then svnRaise v st else st
    | none => st) s)

/-- CONFIRM_DEADLINE (R427). -/
def execConfirmDeadline (s : State) : Host.Outcome State Fault Refusal := .next (deadlineOut s)

/-- OTP_LOCK_DONE (R432). -/
def execOtpLockDone (s : State) : Host.Outcome State Fault Refusal := .next (whenOn 2 otpDone s)

end Sys2Proof.Machine
end

