-- ==== Sys2Proof/Machine/Dram.lean ====
section
/-! DEFINITION. The memory controller (spec/07_dram_controller.md, R148 to R169): training, upkeep, panic levels and tolerances, requests
and command slots, and self-refresh. What a write stores is readable from its acknowledgement on (R159), so the memory map is
changed when a write enters its queue; the queues hold what is still to be scheduled. -/

namespace Sys2Proof.Machine

/-! ### Training (R151) -/

/-- The controller forgets what its queues and tables hold. -/
def dramIdle (s : State) : State :=
  setDramc (fun d => { d with
    chans := [{}, {}, {}, {}]
    stalled := []
    held := List.replicate 12 0
    asleep := false
    entryTol := none }) s

/-- DRAM_CFG.enable went from 0 to 1: the other fields are sampled and training starts, or cfg_error sets (R151, R168). -/
def dramTrain (s : State) : State :=
  let w := (regWord s (F.DRAM_CFG_enable.addr 0)).toNat
  let s := setFld F.DRAM_STAT_train_fail 0 (setDramc (fun d => { d with cfg := w }) s)
  if dramCfgOk s.board.role w then setFlag F.DRAM_STAT_training true (setFlag F.DRAM_STAT_cfg_error false s)
  else raise Src.DRAM_TRAIN_FAIL (setFlag F.DRAM_STAT_cfg_error true s)

/-- The memory is in reset: its contents are lost (R151). -/
def dramLose (s : State) : State := { dramIdle s with dram := [] }

/-- DRAM_CFG.enable went from 1 to 0 (R151). -/
def dramDown (s : State) : State :=
  dramLose (setFld F.DRAM_STAT_size 0 (setFlag F.DRAM_STAT_ready false (setFlag F.DRAM_STAT_training false
    (setFlag F.DRAM_STAT_self_refresh false (setFlag F.DRAM_STAT_cfg_error false s)))))

/-- DRAM_CFG has been written; `was` is its enable before (R151). -/
def dramCfgWritten (was : Bool) (s : State) : State :=
  let now := flag s F.DRAM_CFG_enable
  if now && !was then dramTrain s else if was && !now then dramDown s else s

/-- Training ends: `failed` names the channels that failed, of those fitted (R151). -/
def dramTrained (failed : Nat) (s : State) : State :=
  if !flag s F.DRAM_STAT_training then s
  else
    let bad := failed % 2 ^ cfgChannels s.dramc.cfg
    let s := setFlag F.DRAM_STAT_training false s
    if bad != 0 then raise Src.DRAM_TRAIN_FAIL (setFld F.DRAM_STAT_train_fail bad s)
    else setFlag F.DRAM_STAT_ready true (setFld F.DRAM_STAT_size (cfgUnits s.dramc.cfg) s)

/-! ### Upkeep (R153) -/

/-- Put an upkeep action before the requests of every channel in use. -/
def dueUpkeep (s : State) : State :=
  forEach (List.range (cfgChannels s.dramc.cfg)) (fun c st =>
    setChan c (fun x => { x with due := x.due ++ [.upkeep] }) st) s

/-- MR4 has been read: the refresh rate follows the highest multiplier (R153). -/
def dramMr4 (codes : List Nat) (s : State) : State :=
  if !dramServes s then s
  else
    let m := (codes.take (cfgChannels s.dramc.cfg)).foldl (fun a c => max a (min c 3)) 0
    let was := fld s F.DRAM_STAT_refresh_mult
    let s := setFld F.DRAM_STAT_refresh_mult m (dueUpkeep s)
    if decide (m ≥ 2) && decide (was < 2) then raise Src.DRAM_TEMP_HIGH s else s

/-- The oscillator has been tracked: the result of each channel applies in a refresh gap (R153). -/
def dramOsc (taps : List Nat) (s : State) : State :=
  if !dramServes s then s
  else
    dueUpkeep (forEach (List.range (cfgChannels s.dramc.cfg)) (fun c st =>
      setChan c (fun x => { x with oscDue := some (taps.getD c x.osc) }) st) s)

/-! ### Panic levels and tolerance (R155, R160) -/

/-- Whether port `p` is a real-time port (R154). -/
def realTime (p : Nat) : Bool := decide (1 ≤ p) && decide (p ≤ 3)

/-- Reads of port `p` requested and not yet returned. -/
def outstanding (s : State) (p : Nat) : Nat := ((dramWaiting s).filter (fun r => r.port == p && !r.write)).length

/-- The fill of a real-time port, in granules (R155). -/
def portFill (s : State) (p : Nat) : Nat := s.dramc.held.getD p 0 + outstanding s p

/-- The panic level of port `p` (R155). -/
def panicLevel (s : State) (p : Nat) : Nat :=
  if !realTime p || outstanding s p == 0 then 0
  else
    let fill := portFill s p
    if fill < fldAt s F.DRAM_PORT_QOS_lvl3 p * 16 then 3
    else if fill < fldAt s F.DRAM_PORT_QOS_lvl2 p * 16 then 2
    else if fill < fldAt s F.DRAM_PORT_QOS_lvl1 p * 16 then 1
    else 0

/-- Show the panic level of port `p`; DRAM_PANIC on entering level 3, once per wall frame (R155). -/
def showPanic (p : Nat) (s : State) : State :=
  let l := panicLevel s p
  let was := fldAt s F.DRAM_PORT_STAT_panic p
  let s := setFldAt F.DRAM_PORT_STAT_panic p l s
  let s := setFldAt F.DRAM_PORT_STAT_panic_max p (max l (fldAt s F.DRAM_PORT_STAT_panic_max p)) s
  if l == 3 && was != 3 && s.dramc.panicAt != some (fNow s) then
    raise Src.DRAM_PANIC (setDramc (fun d => { d with panicAt := some (fNow s) }) s)
  else s

/-- Latency tolerance that port `p` advertises, in 10 ns units; none: no limit (R160). A real-time port's fill lasts for its
bytes at the drain rate of its consumer, and after that for what the consumer's schedule guarantees; the two depend on the
frame and the moment and are free values (log 85). A consumer that drains nothing waits for nothing. -/
def tolerance (s : State) (p : Nat) : Option Nat :=
  if realTime p then
    let rate := Config.drainRate p (fNow s)
    if rate == 0 then none else some (portFill s p * 64 / rate + Config.scheduleGap p s.time.mono)
  else if (dramWaiting s).any (fun r => r.port == p) then some 0 else none

/-- The lowest tolerance of the ports that the role uses, and the port that sets it, the lowest among equals (R154, R160). -/
def lowestTolerance (s : State) : Option (Nat × Nat) :=
  ((List.range 12).filter (portUsed s)).foldl (fun acc p => match tolerance s p, acc with
    | none, _ => acc
    | some t, none => some (p, t)
    | some t, some (q, u) => if t < u then some (p, t) else some (q, u)) none

/-- Show panic levels and DRAM_LTA after a change of the queues (R155, R160). -/
def showDram (s : State) : State :=
  let s := forEach [1, 2, 3] showPanic s
  match lowestTolerance s with
  | some (p, t) => setFld F.DRAM_LTA_port p (setFld F.DRAM_LTA_tolerance (min 0xFFFF t) s)
  | none => setFld F.DRAM_LTA_tolerance 0xFFFF s

/-! ### Requests (R154, R157, R159) -/

/-- Granules of a real-time port's read buffer (R154). -/
def bufferSize : Nat := 1024

/-- Whether a request may enter its queue (R157, R159): there is room in the queue, and in the buffer of a real-time port; no
earlier request of its port still stalls; and where its source has an earlier access to the granule, that one has completed,
which a write has with its acknowledgement. -/
def mayEnter (s : State) (stalled : List DramReq) (r : DramReq) : Bool :=
  let c := chanAt s (dramPlace s.dramc.cfg r.granule).1
  let same (x : DramReq) : Bool := x.source == r.source && x.granule == r.granule
  let queued := s.dramc.chans.foldl (fun n x => n + (x.reads.filter (fun q => q.port == r.port)).length) 0
  !stalled.any (fun x => x.port == r.port || same x) &&
    (if r.write then decide (c.writes.length < queueSize) && !c.reads.any same
    else decide (c.reads.length < queueSize)) &&
    (!realTime r.port || decide (s.dramc.held.getD r.port 0 + queued < bufferSize))

/-- A request enters its queue; a write is acknowledged, and every read from then on returns its data (R159). -/
def enterQueue (r : DramReq) (s : State) : State :=
  let c := (dramPlace s.dramc.cfg r.granule).1
  if r.write then
    setMemBytes 1 r.granule r.data (setChan c (fun x => { x with writes := x.writes ++ [r] }) s)
  else setChan c (fun x => { x with reads := x.reads ++ [r] }) s

/-- Stalled requests enter their queues where they may, oldest first. -/
def admitStalled (s : State) : State :=
  if !dramServes s then s
  else
    let (kept, s) := s.dramc.stalled.foldl (fun (p : List DramReq × State) r =>
      if mayEnter p.2 p.1 r then (p.1, enterQueue r p.2) else (p.1 ++ [r], p.2)) ([], s)
    setDramc (fun d => { d with stalled := kept }) s

/-- The consumers of the real-time ports take granules from their buffers at the rate of their own work, to which the spec
gives no numbers: free values (R155; DESIGN CHOICE, log 175). -/
def drainBuffers (s : State) : State :=
  let (k, s) := freshIdx s
  setDramc (fun d => { d with held := updAt (fun h => h - Config.granulesTaken k 3) (updAt (fun h => h - Config.granulesTaken k 2)
    (updAt (fun h => h - Config.granulesTaken k 1) d.held 1) 2) 3 }) s

/-- Whether a request is one that a port can issue, with `size` bytes fitted: the role uses the port, a write carries its whole
granule, and a real-time port only reads (R154, R159). -/
def requestSound (s : State) (size port : Nat) (write : Bool) (offset : Nat) (data : List Byte) : Bool :=
  portUsed s port && decide (offset < size) && (!write || data.length == 64) && !(write && realTime port)

/-- Put a request behind those that stall. -/
def stallRequest (port : Nat) (write : Bool) (source offset : Nat) (data : List Byte) (s : State) : State :=
  let r : DramReq := { port := port, write := write, source := source, granule := offset / 64 * 64, data := data, at_ := s.time.mono }
  setDramc (fun d => { d with stalled := d.stalled ++ [r] }) s

/-- A port issues a request for the granule at an offset under its source's identifier (R159); it takes the memory out of
self-refresh (R162). -/
def dramRequest (port : Nat) (write : Bool) (source offset : Nat) (data : List Byte) (s : State) : State :=
  if flag s F.DRAM_STAT_ready && requestSound s (dramSize s) port write offset data then
    let s := stallRequest port write source offset data (dramWake (drainBuffers s))
    showDram (admitStalled (setDramc (fun d => { d with busyAt := s.time.mono }) s))
  else s

/-! ### Refreshes (R157, R164 to R166) -/

/-- The open row of a bank closes. -/
def closeRow (c bank : Nat) (s : State) : State :=
  setChan c (fun x => { x with rows := x.rows.filter (fun e => e.1 != bank) }) s

/-- The rows that a neighbour refresh of `row` activates and precharges: one or two on each side by the radius in force, those
outside the bank skipped (R164, R166). -/
def neighbourRows (s : State) (row : Nat) : List Nat :=
  let near := if bitsOf s.dramc.rat 17 16 == 2 then [row - 2, row - 1, row + 1, row + 2] else [row - 1, row + 1]
  (near.filter (fun r => r != row && decide (r < cfgRows s.dramc.cfg))).eraseDups

/-- A neighbour refresh is issued: the rows around `row` are activated and precharged, uncounted (R164). -/
def neighbourRefresh (c bank row : Nat) (s : State) : State :=
  let s := forEach (neighbourRows s row) (fun r => emit (.rowRefresh c bank r)) (closeRow c bank s)
  incFld F.DRAM_RAT_TRIG_count s

/-- The bank to which a refresh or a refresh-management command is due in this command slot, if one is: JESD209-5C, the
refresh rate and the memory's mode registers say when, in no numbers of the spec, so it is a free value (R153, R157, R164;
DESIGN CHOICE, log 176). -/
def refreshBank (s : State) (k : Nat) : Option Nat :=
  (Config.refreshDue k).map (fun b => b % (16 * cfgRanks s.dramc.cfg))

/-- A bank sweep ends (R165). -/
def ratSweepEnd (c bank : Nat) (s : State) : State :=
  if (chanAt s c).sweeping.contains bank then
    let s := setChan c (fun x => { x with
      sweeping := x.sweeping.filter (fun b => b != bank)
      tables := x.tables.filter (fun e => e.1 != bank)
      rows := x.rows.filter (fun e => e.1 != bank) }) s
    raise Src.DRAM_RAT_SWEEP (incFld F.DRAM_RAT_SWEEP_count s)
  else s

/-- A window starts: tables and floors clear, and DRAM_RAT_CFG takes effect (R166). -/
def ratWindow (s : State) : State :=
  if !dramServes s then s
  else
    setDramc (fun d => { d with
      rat := (regWord s (F.DRAM_RAT_CFG_enable.addr 0)).toNat
      chans := d.chans.map (fun c => { c with tables := [] }) }) s

/-! ### Command slots (R157) -/

/-- The oldest of a pool. -/
def oldest (l : List DramReq) : Option DramReq :=
  l.foldl (fun b r => match b with
    | none => some r
    | some x => if r.at_ < x.at_ then some r else some x) none

/-- The pick without an aged request: row hit first, then the higher port priority, then the older (R157). -/
def bestOf (s : State) (c : Nat) (l : List DramReq) : Option DramReq :=
  let hit (r : DramReq) : Bool :=
    let (_, b, row) := dramPlace s.dramc.cfg r.granule
    (chanAt s c).rows.any (fun e => e == (b, row))
  let prio (r : DramReq) : Nat := fldAt s F.DRAM_PORT_QOS_priority r.port
  let hits := l.filter hit
  let pool := if hits.isEmpty then l else hits
  let top := pool.foldl (fun m r => max m (prio r)) 0
  oldest (pool.filter (fun r => prio r == top))

/-- The request chosen for the slot (R157). -/
def chooseRequest (s : State) (c : Nat) : Option DramReq :=
  let x := chanAt s c
  let free (r : DramReq) : Bool := !x.sweeping.contains (dramPlace s.dramc.cfg r.granule).2.1
  let all := (x.reads ++ x.writes).filter free
  let l := all.foldl (fun m r => max m (panicLevel s r.port)) 0
  let floorN := max 2 (fld s F.DRAM_SCHED_floor)
  let plain := all.filter (fun r => !realTime r.port)
  if l == 3 && (x.atThree + 1) % floorN == 0 && !plain.isEmpty then oldest plain
  else
    let pool := if l > 0 then all.filter (fun r => panicLevel s r.port == l) else all
    let writes := pool.filter (fun r => r.write)
    let pool := if x.drain && decide (l < 2) && !writes.isEmpty then writes else pool
    let limit := max 1 (fld s F.DRAM_SCHED_age_max) * 20
    let aged := pool.filter (fun r => decide (r.at_ + limit < s.time.mono))
    if aged.isEmpty then bestOf s c pool else oldest aged

/-- Write drain starts at wq_hi entries or when no read is queued, and stops at wq_lo (R157). -/
def drainNow (s : State) (c : Nat) : Bool :=
  let x := chanAt s c
  let hi := fld s F.DRAM_SCHED_wq_hi
  let lo := if fld s F.DRAM_SCHED_wq_lo ≥ hi then hi - 1 else fld s F.DRAM_SCHED_wq_lo
  if decide (hi ≤ x.writes.length) || x.reads.isEmpty then true
  else if x.writes.length ≤ lo then false else x.drain

/-- Bytes moved on channel `c` over the last whole ms, in MB/s (R169). -/
def channelLoad (s : State) (c : Nat) : Nat :=
  let x := chanAt s c
  let ms := s.time.mono / 2000000
  let n := if ms == x.ms then x.load else if ms == x.ms + 1 then x.moved else 0
  min 0xFFFF (roundOpen n 1000).toNat

/-- Issue a request: its row opens if it is not open; a read returns its granule, a write leaves its queue. -/
def issueRequest (c : Nat) (r : DramReq) (s : State) : State :=
  let s := moveGranule r.granule (setDramc (fun d => { d with busyAt := s.time.mono }) s)
  if r.write then setChan c (fun x => { x with writes := x.writes.erase r }) s
  else
    let s := setChan c (fun x => { x with reads := x.reads.erase r }) s
    let s := if realTime r.port then
        setDramc (fun d => { d with held := updAt (fun h => min bufferSize (h + 1)) d.held r.port }) s
      else s
    emit (.granule r.port r.granule (memBytes s 1 r.granule 64)) s

/-- The slot goes to a queued request, if there is one (R157). -/
def requestSlot (c : Nat) (s : State) : State :=
  let s := setChan c (fun x => { x with drain := drainNow s c }) s
  match chooseRequest s c with
  | none => s
  | some r =>
    let three := (chanAt s c).reads.any (fun q => panicLevel s q.port == 3)
    let s := setChan c (fun x => { x with atThree := if three then x.atThree + 1 else 0 }) s
    admitStalled (issueRequest c r s)

/-- The command slot of channel `c`: a neighbour refresh, an upkeep action or a refresh first, else a queued request (R157). -/
def commandSlot (c : Nat) (s : State) : State :=
  if !dramServes s || flag s F.DRAM_STAT_self_refresh || decide (cfgChannels s.dramc.cfg ≤ c) then s
  else
    let s := drainBuffers s
    let (k, s) := freshIdx s
    showDram (match (chanAt s c).due, refreshBank s k with
      | .neighbour b r :: t, _ => neighbourRefresh c b r (setChan c (fun x => { x with due := t }) s)
      | .upkeep :: t, _ => setChan c (fun x => { x with due := t, osc := x.oscDue.getD x.osc, oscDue := none }) s
      | [], some b => emit (.bankRefresh c b) (closeRow c b s)
      | [], none => requestSlot c s)

/-- A consumer asks a real-time port for a granule that has not returned (R156): what the port had returned is taken. -/
def dramUnderrun (p : Nat) (s : State) : State :=
  if realTime p && decide (outstanding s p > 0) then
    let s := incFldAt F.DRAM_PORT_STAT_underruns p s
    let f := fNow s
    let first := s.dramc.underrunAt.getD p none != some f
    let s := setDramc (fun d => { d with
      underrunAt := updAt (fun _ => some f) d.underrunAt p
      held := updAt (fun _ => 0) d.held p }) s
    showDram (if first then raise Src.DRAM_UNDERRUN s else s)
  else s

/-! ### Self-refresh (R161 to R163) -/

/-- Whether R161 lets the memory enter self-refresh at this moment. -/
def mayRefreshItself (s : State) : Bool :=
  flag s F.DRAM_SR_enable && (dramWaiting s).isEmpty && decide (s.dramc.busyAt + fld s F.DRAM_SR_idle * 200 ≤ s.time.mono) &&
    (match lowestTolerance s with
     | none => true
     | some (_, t) => decide (fld s F.DRAM_SR_exit + 60 ≤ t))

/-- The memory enters self-refresh (R161), with the lowest tolerance at this moment (R162). -/
def dramSleep (s : State) : State :=
  if dramServes s && !flag s F.DRAM_STAT_self_refresh && mayRefreshItself s then
    let s := setDramc (fun d => { d with entryTol := (lowestTolerance s).map Prod.snd, entryAt := s.time.mono }) s
    incFld F.DRAM_SR_COUNT_count (setFlag F.DRAM_STAT_self_refresh true s)
  else s

/-- DRAM_SR_ENTRY: the queues have been empty for DRAM_SR.idle (R161). -/
def sleepDue (s : State) : State :=
  let left := s.dramc.busyAt + fld s F.DRAM_SR_idle * 200 - s.time.mono
  if dramServes s && !flag s F.DRAM_STAT_self_refresh && (dramWaiting s).isEmpty then dramSleep (elapse left s) else s

/-- The memory leaves self-refresh: for a request at once, else when the tolerance at entry, counted down since then, reaches
DRAM_SR.exit + 0.5 µs (R162). -/
def sleepEnds (s : State) : State :=
  if !dramServes s || !flag s F.DRAM_STAT_self_refresh then s
  else if !(dramWaiting s).isEmpty then dramWake s
  else match s.dramc.entryTol with
    | none => s
    | some t => dramWake (elapse (s.dramc.entryAt + (t - (fld s F.DRAM_SR_exit + 50)) * 20 - s.time.mono) s)

/-- The controller's answer when the power manager asks PD_12 to stop (R163). -/
def dramAgrees (s : State) : Bool :=
  !flag s F.DRAM_STAT_ready || flag s F.DRAM_STAT_self_refresh || mayRefreshItself s

/-! ### Rows of the opcode table -/

/-- DRAM_TRAIN_DONE (R151). -/
def execDramTrainDone (failed : Nat) (s : State) : Host.Outcome State Fault Refusal := .next (dramTrained failed s)

/-- DRAM_MR4_POLL (R153). -/
def execDramMr4Poll (codes : List Nat) (s : State) : Host.Outcome State Fault Refusal := .next (dramMr4 codes s)

/-- DRAM_ZQ_CAL (R153): a calibration takes its turn before the requests of every channel. -/
def execDramZqCal (s : State) : Host.Outcome State Fault Refusal := .next (if dramServes s then dueUpkeep s else s)

/-- DRAM_OSC_TRACK (R153). -/
def execDramOscTrack (taps : List Nat) (s : State) : Host.Outcome State Fault Refusal := .next (dramOsc taps s)

/-- DRAM_UNDERRUN (R156). -/
def execDramUnderrun (port : Nat) (s : State) : Host.Outcome State Fault Refusal := .next (dramUnderrun port s)

/-- DRAM_RAT_SWEEP_END (R165). -/
def execDramRatSweepEnd (channel bank : Nat) (s : State) : Host.Outcome State Fault Refusal := .next (ratSweepEnd channel bank s)

/-- DRAM_RAT_WINDOW (R166). -/
def execDramRatWindow (s : State) : Host.Outcome State Fault Refusal := .next (ratWindow s)

/-- DRAM_SR_ENTRY (R161). -/
def execDramSrEntry (s : State) : Host.Outcome State Fault Refusal := .next (sleepDue s)

/-- DRAM_SR_EXIT (R162): on a request, or when the tolerance countdown reaches its limit. -/
def execDramSrExit (s : State) : Host.Outcome State Fault Refusal := .next (sleepEnds s)

end Sys2Proof.Machine
end

