-- ==== Sys2Proof/Machine/Calibration.lean ====
section
/-! DEFINITION. The calibration items (spec/17_thermal_and_calibration.md, R386 to R390). The circuits' own measurements are
outside the spec: whether a result lies within its limits is a free value. -/

namespace Sys2Proof.Machine

/-- Change the thermal part of the state. -/
def setTherm (f : ThermState → ThermState) (s : State) : State := { s with therm := f s.therm }

/-- THERM_STAT shows which sensors are bad (R378). -/
def showBad (s : State) : State :=
  setFld F.THERM_STAT_sensor_bad ((s.therm.sensors.zipIdx.map (fun x => b2n x.1.bad * 2 ^ x.2)).sum) s

/-- Calibration item `n`. -/
def calItem (s : State) (n : Nat) : CalItem := s.therm.items.getD n {}

/-- Change calibration item `n`. -/
def setItem (n : Nat) (f : CalItem → CalItem) (s : State) : State :=
  setTherm (fun t => { t with items := updAt f t.items n }) s

/-- Slices of item `n` (R386). -/
def calSlices (n : Nat) : Nat := [4, 2, 16, 2].getD n 0

/-- Sensor of item `n` (R386). -/
def calSensor (n : Nat) : Nat := [5, 2, 8, 10].getD n 0

/-- Whether the role has item `n` (R386). -/
def calExists (s : State) (n : Nat) : Bool := decide (n < 4) && (isTile s || n != 2)

/-- Whether item `n` runs. -/
def calBusy (s : State) (n : Nat) : Bool := bitOf (fld s F.CAL_STAT_busy) n

/-- Set the busy bit of item `n`. -/
def setBusy (n : Nat) (b : Bool) (s : State) : State :=
  setFld F.CAL_STAT_busy (withBits (fld s F.CAL_STAT_busy) n n (b2n b)) s

/-- Trigger item `n`: dropped while it runs; an item on hold is not triggered (R387). -/
def calTrigger (n : Nat) (s : State) : State :=
  if calExists s n && domainOn s 4 && !bitOf (fld s F.CAL_CTRL_hold) n && !calBusy s n then
    setBusy n true (setItem n (fun x => { x with left := calSlices n, ended := false, result := none }) s)
  else s

/-- Trigger every item: PD_04 restarts after a sleep, or the boot ROM hands over (R387). -/
def calTriggerAll (s : State) : State := forEach (List.range 4) calTrigger s

/-- Whether the sensor of item `n` is bad (R378). -/
def calSensorBad (s : State) (n : Nat) : Bool := (s.therm.sensors.getD (calSensor n) {}).bad

/-- The report that item `n` follows: its sensor's, or THERM_JUNC.max while that sensor is bad (R387). -/
def calReport (s : State) (n : Nat) : Nat :=
  if calSensorBad s n then fld s F.THERM_JUNC_max else fldAt s F.THERM_TEMP_temp (calSensor n)

/-- Trigger item `n` if the temperature has moved by more than delta since its last application (R387). -/
def calCheck (n : Nat) (s : State) : State :=
  let d := sgn 16 (calReport s n) - sgn 16 (fldAt s F.CAL_TLAST_temp n)
  if (flagAt s F.THERM_TEMP_valid (calSensor n) || calSensorBad s n) && decide (d.natAbs > max 1 (fld s F.CAL_CFG_delta) * 64) then
    calTrigger n s
  else s

/-- A blanking slice starts: each running item takes it until it has its slices (R388). -/
def calSlice (s : State) : State :=
  forEach (List.range 4) (fun n st =>
    if calBusy st n && decide ((calItem st n).left > 0) then setItem n (fun x => { x with left := x.left - 1 }) st else st)
    (setTherm (fun t => { t with sliceAt := s.time.mono }) s)

/-- The end of the present slice in the model's 0.5 ns: CAL_CFG.slice_us, held to 20–200 µs (R388). -/
def sliceEnd (s : State) : Nat := s.therm.sliceAt + 2000 * clampN 20 200 (fld s F.CAL_CFG_slice_us)

/-- A judged result applies at frame `f`, or is discarded; then the temperature is compared again (R387, R389). -/
def calApply (f n : Nat) (s : State) : State :=
  match (calItem s n).result with
  | none => s
  | some (ok, k) =>
    let rep := (calItem s n).report
    let s := setBusy n false (setItem n (fun x => { x with result := none, ended := false }) s)
    let s :=
      if ok then
        let s := setFldAt F.CAL_TLAST_temp n rep (setFldAt F.CAL_TLAST_frame n f s)
        raise Src.CAL_DONE (incFld F.CAL_STAT_runs (setItem n (fun x => { x with applied := some k }) s))
      else raise Src.CAL_FAIL (setFld F.CAL_STAT_fail (withBits (fld s F.CAL_STAT_fail) n n 1) s)
    calCheck n s

/-- The last slice of item `n` ends and its result is judged; without a valid record it applies at once (R388, R389). -/
def calSliceEnd (n : Nat) (s : State) : State :=
  let x := calItem s n
  if calBusy s n && x.left == 0 && !x.ended then
    let (k, s) := freshIdx (elapse (sliceEnd s - s.time.mono) s)
    let rep := calReport s n
    let s := setItem n (fun y => { y with ended := true, report := rep, result := some (Config.calWithin n k, k) }) s
    if flag s F.WT_STAT_rec_valid then s else calApply (fNow s) n s
  else s

/-- Results apply at a frame boundary (R389). -/
def calBoundary (f : Nat) (s : State) : State := forEach (List.range 4) (calApply f) s

/-- ADC_RANGE for an enabled channel that converts to 000h or FFFh, once per second per channel (R390). -/
def adcRange (chan code : Nat) (s : State) : State :=
  let due := match s.therm.rangeAt.getD chan none with
    | none => true
    | some t => decide (t + 2000000000 ≤ s.time.mono)
  if decide (chan < 8) && (code == 0 || code == 0xFFF) && due then
    raise Src.ADC_RANGE (setTherm (fun t => { t with rangeAt := updAt (fun _ => some s.time.mono) t.rangeAt chan }) s)
  else s

/-! ### Rows of the opcode table -/

/-- CAL_SLICE_TIMER (R388): the 1 ms slice while there is no valid record. -/
def execCalSliceTimer (s : State) : Host.Outcome State Fault Refusal :=
  .next (if flag s F.WT_STAT_rec_valid then s else whenOn 4 calSlice s)

/-- CAL_SLICE_END (R389). -/
def execCalSliceEnd (item : Nat) (s : State) : Host.Outcome State Fault Refusal := .next (whenOn 4 (calSliceEnd item) s)

end Sys2Proof.Machine
end

