-- ==== Sys2Proof/Machine/LampLanes.lean ====
section
/-! DEFINITION. Lamp lanes (spec/10_lamp_lanes.md, R225 to R249): words and messages, bring-up, DIAG, the scan. What a
driver does with them is outside the block. -/

namespace Sys2Proof.Machine

/-! ### Words (R226 to R230) -/

/-- A CRC of `w` bits over bits, most significant first, from 0 (R227). -/
def crcMsb (w poly : Nat) (bits : List Bool) : Nat :=
  bits.foldl (fun c b =>
    let top := bitOf c (w - 1) != b
    if top then Nat.xor (2 * c % 2 ^ w) poly else 2 * c % 2 ^ w) 0

/-- A control word: bits 31:7, then crc7 (R226, R227). -/
def controlWord (v : Nat) : Word := BitVec.ofNat 32 (v * 128 + crcMsb 7 0x09 (msbBits 25 v))

/-- A message header: bits 31:8, then crc8 (R227, R230). -/
def laneHeader (v : Nat) : Word := BitVec.ofNat 32 (v * 256 + crcMsb 8 0x07 (msbBits 24 v))

/-- A message with its check word (R227, R229). -/
def laneMessage (v : Nat) (data : List Word) : List Word :=
  let ws := laneHeader v :: data
  ws ++ [BitVec.ofNat 32 (crc32c (wordsBytes ws))]

/-- GRAY (R230, R234): two values to a word, a last odd one followed by 0000h. -/
def grayMessage (row view parity : Nat) (vals : List Nat) : List Word :=
  let data := (chunks 2 vals).map (fun c => BitVec.ofNat 32 (c.getD 0 0 * 65536 + c.getD 1 0))
  laneMessage (1 * 2 ^ 20 + row * 2 ^ 14 + view * 2 ^ 12 + parity * 2 ^ 11 + data.length * 2) data

/-- GAIN: the same word for each of `d` positions (R230, R236, R253). -/
def gainMessage (parity d : Nat) (gains : List Nat) : List Word :=
  let w := BitVec.ofNat 32 (gains.foldl (fun a g => a * 256 + g % 256) 0)
  laneMessage (2 * 2 ^ 20 + parity * 2 ^ 11 + d * 2) (List.replicate d w)

/-- CFG to position `p`, or to every driver (R230, R237). -/
def cfgMessage (p : Nat) (all : Bool) (index data : Nat) : List Word :=
  laneMessage (3 * 2 ^ 20 + p * 2 ^ 16 + b2n all * 2 ^ 15 + index * 2 ^ 11) [BitVec.ofNat 32 data]

/-- DIAG (R230, R240). -/
def diagMessage (r : DiagReq) : List Word :=
  laneMessage (4 * 2 ^ 20 + r.pos * 2 ^ 16 + r.item * 2 ^ 12 + b2n r.clear * 2 ^ 11) []

/-- BLOTTER_ARM with the mask of 48 channels (R230, R238). -/
def armMessage (p row mask : Nat) : List Word :=
  laneMessage (5 * 2 ^ 20 + p * 2 ^ 16 + row * 2 ^ 9) [BitVec.ofNat 32 (mask / 2 ^ 32 % 2 ^ 16), BitVec.ofNat 32 mask]

/-- ASSIGN with next position 0 (R231). -/
def assignMessage : List Word := laneMessage (6 * 2 ^ 20) []

/-- FILL with all fields 0 (R229). -/
def fillWord : Word := laneHeader 0

/-- ALIGN (R226). -/
def alignWord (start : Bool) : Word := controlWord (b2n start * 2 ^ 22 + 0x2AAAAA)

/-- Change the lamp state. -/
def setLamp (f : LampState → LampState) (s : State) : State := { s with lamp := f s.lamp }

/-- Whether the lanes of the groups in service send words: from the start of bring-up on (R225, R245). -/
def lanesUp (s : State) : Bool := s.lamp.ready || s.lamp.step != 0

/-- The lanes of the groups in service. -/
def lanesOn (s : State) : List Nat := (List.range 128).filter (fun l => s.lamp.groups.getD (l / 8) false)

/-! ### Superframes (R225, R226, R229, R232, R242) -/

/-- The cycle modulo 128 at which control slots end. -/
def slotPhase (s : State) : Nat := Config.superframePhase s.lamp.starts % 128

/-- d of R232 for an action edge. -/
def delayFor (s : State) (edge : Nat) : Nat := (edge + 128 - slotPhase s) % 128

/-- The superframe whose control slot offers that d. -/
def frameFor (s : State) (edge : Nat) : Nat := (edge - 128 - delayFor s edge - slotPhase s) / 128

/-- The cycle at which the control slot of superframe `n` begins. -/
def slotStart (s : State) (n : Nat) : Nat := 128 * n + slotPhase s - 16

/-- The first superframe that has not begun. -/
def frameNow (s : State) : Nat := cdiv (cdiv s.time.counter (5 * nsUnit) + 16 - slotPhase s) 128

/-- The words that wait on a lane. -/
def wireAt (s : State) (l : Nat) : List (Word × Bool) := s.lamp.wire.getD l []

/-- Whether the next message slot of a lane begins a message header: a message waits whole, or FILL follows. -/
def startsHeader (q : List (Word × Bool)) : Bool :=
  match q with
  | [] => true
  | (_, h) :: _ => h

/-- The words of seven message slots. -/
def slotWords (q : List (Word × Bool)) : List Word :=
  ((q.take 7).map Prod.fst) ++ List.replicate (7 - q.length) fillWord

/-- A timed action has start set when the next message slot begins a header on every lane in service, since all of them carry
the same word (R226, R243; DEDUCED, log 181). -/
def commonStart (s : State) : Bool := (lanesOn s).all (fun l => startsHeader (wireAt s l))

/-- The next superframe goes out on every lane in service: with a timed action's word, or with ALIGN, whose start bit is that
of its lane (R225, R226). -/
def sendFrame (act : Option Word) (s : State) : State :=
  let n := s.lamp.sent
  let s := forEach (lanesOn s) (fun l st =>
    let q := wireAt st l
    emit (.superframe l n ((act.getD (alignWord (startsHeader q))) :: slotWords q)) st) s
  setLamp (fun x => { x with sent := n + 1, wire := x.wire.map (List.drop 7) }) s

/-- The superframes before number `n` go out: while nothing waits on any lane they carry ALIGN and FILL. -/
def sendFrames : Nat → Nat → State → State
  | 0, _, s => s
  | k + 1, n, s =>
    if n ≤ s.lamp.sent then s
    else if s.lamp.wire.all List.isEmpty then
      emit (.idleFrames s.lamp.sent (n - s.lamp.sent)) (setLamp (fun x => { x with sent := n }) s)
    else sendFrames k n (sendFrame none s)

/-- The superframes before number `n` go out, whatever waits. -/
def sendUpTo (n : Nat) (s : State) : State :=
  sendFrames (s.lamp.wire.foldl (fun a q => max a q.length) 0 + 1) n s

/-- The lanes have sent what has begun by now; after the counter has stepped back they go on from there. -/
def runLanes (s : State) : State :=
  if !lanesUp s then s
  else if frameNow s + 2 < s.lamp.sent then setLamp (fun x => { x with sent := frameNow s }) s
  else sendUpTo (frameNow s) s

/-- Place a message on a lane, behind those that wait; its words go out from the next superframe on (R229, R242). A lane of a
group that is not in service carries none (R225). -/
def toLane (lane : Nat) (m : List Word) (s : State) : State :=
  if !lanesUp s || !s.lamp.groups.getD (lane / 8) false then s
  else
    let s := runLanes s
    emit (.lamp lane m)
      (setLamp (fun x => { x with wire := updAt (fun q => q ++ m.zipIdx.map (fun w => (w.1, w.2 == 0))) x.wire lane }) s)

/-- Whether a message of `len` words, placed now on a lane, leaves whole before the control slot of superframe `n`. -/
def wholeBefore (s : State) (lane len n : Nat) : Bool :=
  decide ((runLanes s).lamp.sent + cdiv ((wireAt (runLanes s) lane).length + len) 7 ≤ n)

/-- The edges at which the drivers of each group act, by its trim (R232). -/
def groupEdges (s : State) (edge : Nat) : List Nat :=
  (List.range 16).map (fun g => edge + bitsOf (forceWord s (F.LL_GRP_CFG_trim.addr g)).toNat F.LL_GRP_CFG_trim.hi F.LL_GRP_CFG_trim.lo)

/-- A timed action goes out in the one control slot that offers its d (R232, R242 item 4, R243); `word` makes the control word
from the start bit and d. Nothing goes out when that slot has passed or carries another action. -/
def sendAction (word : Bool → Nat → Word) (edge : Nat) (s : State) : State :=
  let n := frameFor s edge
  let s := runLanes (runTo (slotStart s n * 5 * nsUnit) s)
  if n < s.lamp.sent then s
  else
    let s := sendUpTo n s
    let w := word (commonStart s) (delayFor s edge)
    emit (.action w (groupEdges s edge)) (sendFrame (some w) s)

/-- Whether the control slot of an action at an edge is still to come. -/
def slotFree (s : State) (edge : Nat) : Bool := decide ((runLanes s).lamp.sent ≤ frameFor s edge)

/-! ### Configuration messages (R237, R254) -/

/-- The map in force. -/
def mapForce (s : State) : MapSet := mapOf (forceWord s)

/-- The words of CFG indices 0h and 1h. -/
def cfgScan (s : State) : Nat :=
  forceFld s F.LL_SCAN_gclk_div * 2 ^ 28 + forceFld s F.LL_SCAN_s_log2 * 2 ^ 25 + forceFld s F.WT_REC_0_views * 2 ^ 23 +
    forceFld s F.LL_GEOM_mux * 2 ^ 17
@[inherit_doc cfgScan] def cfgWindow (s : State) : Nat :=
  forceFld s F.LL_WIN_window * 2 ^ 16 + forceFld s F.LL_WIN_blank

/-- The word of CFG index 2h for the driver at position `d` of a lane: phase, and row_master on the first
driver of each band's first lane (R237). -/
def cfgMap (s : State) (lane d : Nat) : Nat :=
  let m := mapForce s
  let j := lane % 64 % max 1 m.lb
  let phase := (j * m.cap + d * m.c) % m.n
  (m.n - 1) * 2 ^ 30 + phase * 2 ^ 28 + m.order * 2 ^ 20 + m.c * 2 ^ 14 + b2n (j == 0 && d == 0 && decide (lane % 64 < m.lanesPerHalf)) * 2 ^ 13

/-- CFG indices 0h to 2h on a lane. -/
def sendCfg (lane : Nat) (s : State) : State :=
  let s := toLane lane (cfgMessage 0 true 1 (cfgWindow s)) (toLane lane (cfgMessage 0 true 0 (cfgScan s)) s)
  forEach (List.range (mapForce s).d) (fun d st => toLane lane (cfgMessage d false 2 (cfgMap st lane d)) st) s

/-- CFG index 3h (THRESH) or 4h (IREF), broadcast (R254). -/
def sendDrive (index lane : Nat) (s : State) : State :=
  toLane lane (cfgMessage 0 true index
    (if index == 3 then fld s F.LD_THRESH_v_open * 2 ^ 20 + fld s F.LD_THRESH_v_short * 2 ^ 8
     else (regWord s F.LD_IREF_red.base).toNat)) s

/-- CFG indices 0h to 4h on a lane (R245 step 4). -/
def configureLane (lane : Nat) (s : State) : State := sendDrive 4 lane (sendDrive 3 lane (sendCfg lane s))

/-- New scan settings in force go out as CFG indices 0h to 2h (R333, R335). With one half, groups 08–15 are disabled (R243). -/
def resendScan (s : State) : State :=
  if !s.lamp.ready then s
  else
    let half := forceFld s F.PACK_CFG_halves == 0
    let s := runLanes s
    let s := when half (setLamp (fun x => { x with
      groups := x.groups.take 8 ++ List.replicate 8 false
      wire := x.wire.take 64 ++ List.replicate 64 [] })) s
    forEach (lanesOn s) sendCfg s

/-! ### DIAG requests (R240) -/

/-- Queue a request in its lane's group; a fault sweep's requests go after all others (R256). -/
def askDriver (r : DiagReq) (s : State) : State :=
  let put (l : List DiagReq) : List DiagReq :=
    if r.who == .sweep then l ++ [r]
    else l.filter (fun x => x.who != .sweep) ++ [r] ++ l.filter (fun x => x.who == .sweep)
  setLamp (fun x => { x with queue := updAt put x.queue (r.lane / 8) }) s

/-- The group's DIAG slot is free: its next request is sent. -/
def sendDiag (g : Nat) (s : State) : State :=
  match s.lamp.asked.getD g none, s.lamp.queue.getD g [] with
  | none, r :: rest =>
    toLane r.lane (diagMessage r) (setLamp (fun x => { x with
      asked := updAt (fun _ => some r) x.asked g
      queue := updAt (fun _ => rest) x.queue g }) s)
  | _, _ => s

/-- No request of a kind is outstanding or waiting. -/
def noneAsked (s : State) (w : DiagWho) : Bool :=
  s.lamp.asked.all (fun r => match r with | some x => x.who != w | none => true) &&
    s.lamp.queue.all (fun l => l.all (fun x => x.who != w))

/-- The host's request has its answer: result code and payload (LL_DIAG_RSP, LL_DIAG_BUF). -/
def hostAnswer (result : Nat) (ws : List Word) (s : State) : State :=
  let s := setFld F.LL_DIAG_RSP_words ws.length (setFld F.LL_DIAG_RSP_result result (setFlag F.LL_DIAG_REQ_go false s))
  forEach (List.range 128) (fun i st => setInst F.LL_DIAG_BUF_word i (ws.getD i 0) st) s

/-- A driver that lost its configuration is set up again (R246). -/
def reconfigureLane (lane : Nat) (s : State) : State :=
  raise Src.LL_DRV_RESET (configureLane lane (toLane lane assignMessage s))

/-- Change what the sweep holds of one driver. -/
def setDriver (lane pos : Nat) (f : DriverRead → DriverRead) (s : State) : State :=
  setLamp (fun x => { x with sweep := x.sweep.map (fun l =>
    l.map (fun d => if d.lane == lane && d.pos == pos then f d else d)) }) s

/-- A driver's OPEN read moves to the front of the fault sweep (R256): of the running one while it waits there, else of the next
one. -/
def openFirst (lane pos : Nat) (s : State) : State :=
  let mine (q : DiagReq) : Bool := q.who == .sweep && q.item == 3 && q.lane == lane && q.pos == pos
  let l := s.lamp.queue.getD (lane / 8) []
  if l.any mine then
    setLamp (fun x => { x with queue := updAt (fun l =>
      l.filter (fun q => q.who != .sweep) ++ l.filter mine ++ l.filter (fun q => q.who == .sweep && !mine q)) x.queue (lane / 8) }) s
  else if s.lamp.front.contains (lane, pos) then s
  else setLamp (fun x => { x with front := x.front ++ [(lane, pos)] }) s

/-- A good reply goes to its requester (R240, R245, R246, R256, R260). -/
def giveReply (r : DiagReq) (ws : List Word) (s : State) : State :=
  let w (i : Nat) : Nat := (ws.getD i 0).toNat
  match r.who with
  | .host => hostAnswer 1 ws s
  | .ident =>
    if s.lamp.idents.getD r.lane 0 == r.pos then
      setFldAt F.LL_CHAIN_found r.lane (r.pos + 1)
        (setLamp (fun x => { x with idents := updAt (fun n => n + 1) x.idents r.lane }) s)
    else s
  | .status => if bitOf (w 0) 31 then s else reconfigureLane r.lane s
  | .headroom =>
    let h := bitsOf (w 0) 31 20
    let low := decide (h < fld s F.LD_THRESH_v_open)
    let counts := decide (bitsOf (w 0) 7 0 ≥ 1) && !low
    let s := setLamp (fun x => { x with
      hrLeft := x.hrLeft - 1
      hrSeen := if counts then (h, r.lane, r.pos) :: x.hrSeen else x.hrSeen }) s
    when low (openFirst r.lane r.pos) s
  | .sweep =>
    setDriver r.lane r.pos (fun d =>
      if r.item == 3 then { d with open_ := some ws }
      else if r.item == 4 then { d with short := some ws }
      else { d with judged := some ws }) s

/-- A request has failed: no reply, or a check that failed (R240). A sweep repeats the driver once (R260). -/
def failReply (r : DiagReq) (result : Nat) (s : State) : State :=
  match r.who with
  | .host => hostAnswer result [] s
  | .headroom => setLamp (fun x => { x with hrLeft := x.hrLeft - 1 }) s
  | .sweep =>
    match (s.lamp.sweep.getD []).find? (fun d => d.lane == r.lane && d.pos == r.pos) with
    | none => s
    | some d =>
      if d.retried then setDriver r.lane r.pos (fun d => { d with failed := true }) s
      else
        let s := setLamp (fun x => { x with queue := updAt (fun l =>
          l.filter (fun q => !(q.who == .sweep && q.lane == r.lane && q.pos == r.pos))) x.queue (r.lane / 8) }) s
        let s := setDriver r.lane r.pos (fun d =>
          { d with retried := true, open_ := none, short := none, judged := none }) s
        forEach [3, 4, 5] (fun i st => askDriver { r with item := i } st) s
  | _ => s

/-- The bytes of a reply hold a header of the request, its payload and their check (R240). -/
def replyPayload (r : DiagReq) (bytes : List Byte) : Option (List Word) :=
  let ws := bytesWords bytes
  let h := (ws.getD 0 0).toNat
  let n := bitsOf h 9 0
  if bytes.length % 4 == 0 && ws.length == n + 2 && bitsOf h 31 28 == 6 && bitsOf h 27 24 == r.item && bitsOf h 23 20 == r.pos
      && crc32c (bytes.take (4 * (n + 1))) == (ws.getD (n + 1) 0).toNat then some ((ws.drop 1).take n)
  else none

/-- A reply arrives on a group's LL_RET line. -/
def takeReply (g : Nat) (bytes : List Byte) (s : State) : State :=
  match s.lamp.asked.getD g none with
  | none => s
  | some r =>
    let s := setLamp (fun x => { x with asked := updAt (fun _ => none) x.asked g }) s
    match replyPayload r bytes with
    | some ws => giveReply r ws s
    | none => raise Src.LL_RET_FAIL (failReply r 3 (incFldAt F.LL_GRP_CNT_crc_fail g s))

/-- No reply has begun within 4.0 µs (R240). -/
def replyTimeout (g : Nat) (s : State) : State :=
  match s.lamp.asked.getD g none with
  | none => s
  | some r =>
    let s := setLamp (fun x => { x with asked := updAt (fun _ => none) x.asked g }) s
    raise Src.LL_RET_FAIL (failReply r 2 (incFldAt F.LL_GRP_CNT_no_reply g s))

/-- LL_DIAG_REQ.go (R240, R249): the host's request is queued. While the lanes are off no word of it goes out, and it ends
without a reply. -/
def diagGo (s : State) : State :=
  askDriver { lane := fld s F.LL_DIAG_REQ_lane, pos := fld s F.LL_DIAG_REQ_position, item := fld s F.LL_DIAG_REQ_item,
              clear := flag s F.LL_DIAG_REQ_clear, who := .host } s

/-- The drivers that the map uses, as lane and position. -/
def mapDrivers (s : State) : List (Nat × Nat) :=
  let m := mapForce s
  m.lanes.flatMap (fun l => (List.range m.d).map (fun d => (l, d)))

/-- STATUS polls: one driver per group, in turn (R246). -/
def statusPoll (s : State) : State :=
  if !flag s F.LL_STAT_running then s
  else
    forEach (List.range 16) (fun g st =>
      let ds := (mapDrivers st).filter (fun x => x.1 / 8 == g && st.lamp.groups.getD g false)
      match ds[st.lamp.turn.getD g 0 % max 1 ds.length]? with
      | none => st
      | some x =>
        let st := setLamp (fun y => { y with turn := updAt (fun n => (n + 1) % max 1 ds.length) y.turn g }) st
        askDriver { lane := x.1, pos := x.2, item := 1, clear := false, who := .status } st) s

/-! ### Bring-up (R244, R245) -/

/-- A headroom cycle starts (R256): every driver that the map uses is asked, with clear. -/
def headroomStart (s : State) : State :=
  if s.lamp.hrOpen || !flag s F.LD_CTRL_enable || !flag s F.LL_STAT_running then s
  else
    let ds := mapDrivers s
    let s := setLamp (fun x => { x with hrOpen := true, hrLeft := ds.length, hrSeen := [] }) s
    forEach ds (fun d st => askDriver { lane := d.1, pos := d.2, item := 2, clear := true, who := .headroom } st) s

/-- All requests are dropped; the host's ends without a reply (DEDUCED, log 44). -/
def dropRequests (s : State) : State :=
  let host := !noneAsked s .host
  let s := setLamp (fun x => { x with
    asked := List.replicate 16 none, queue := List.replicate 16 [], hrOpen := false, hrLeft := 0, hrSeen := []
    sweep := none, front := [] }) s
  when host (hostAnswer 2 []) s

/-- LL_CTRL.enable goes to 1, or LL_CTRL.restart (R245): every group that is enabled is brought up; with H = 1 groups 08–15
stay disabled (R243). The lanes begin to send words in the next superframe. -/
def llStart (s : State) : State :=
  let s := dropRequests (runLanes s)
  let half := forceFld s F.PACK_CFG_halves == 0
  let gs := (List.range 16).map (fun g => flagAt s F.LL_GRP_CFG_enable g && !(half && decide (g ≥ 8)))
  let s := setLamp (fun x => { x with
    step := 1, starts := x.starts + 1, ready := false, groups := gs, idents := List.replicate 128 0, grid := none,
    lastAdv := none, wire := List.replicate 128 [] }) s
  let s := setLamp (fun x => { x with sent := frameNow s }) s
  let s := forEach (List.range 128) (fun l st => setFldAt F.LL_CHAIN_found l 0 st) s
  setFlag F.LL_STAT_running false (setFlag F.LL_STAT_bringup true s)

/-- LL_CTRL.enable goes to 0: all lanes and clocks go low. -/
def llStop (s : State) : State :=
  let s := setLamp (fun x => { x with
    step := 0, ready := false, groups := List.replicate 16 false, grid := none, lastAdv := none
    wire := List.replicate 128 [] }) (dropRequests (runLanes s))
  setFlag F.LL_STAT_running false (setFlag F.LL_STAT_bringup false s)

/-- Ask every enabled lane's positions 0–15 for IDENT, lane by lane within each group (R245 step 3). -/
def askIdents (s : State) : State :=
  forEach (lanesOn s) (fun l st => forEach (List.range 16) (fun p st' =>
    askDriver { lane := l, pos := p, item := 0, clear := false, who := .ident } st') st) s

/-- The scan configuration in force is checked at bring-up (R244): a failure sets the reason and raises LL_SCAN_INVALID. -/
def scanChecked (s : State) : State :=
  let r := scanReason s (forceWord s)
  let s := setFld F.LL_STAT_reason r s
  if r == 0 then setLamp (fun x => { x with everScan := true }) s else raise Src.LL_SCAN_INVALID s

/-- Scanning starts at the next frame start (R245 step 5), under the configuration in force, which is the last valid one;
without one the tile stays dark (R244). -/
def startScan (s : State) : State :=
  if !s.lamp.everScan then s
  else headroomStart (setLamp (fun x => { x with grid := some (fCur s + 1, 0, 0) }) (setFlag F.LL_STAT_running true s))

/-- One step of R245. Step 4 waits for the answers of step 3. -/
def bringupStep (s : State) : State :=
  match s.lamp.step with
  | 1 => setLamp (fun x => { x with step := 2 }) (elapse 20000 s)
  | 2 => setLamp (fun x => { x with step := 3 }) (forEach (lanesOn s) (fun l st => toLane l assignMessage st) s)
  | 3 => setLamp (fun x => { x with step := 4 }) (askIdents s)
  | 4 =>
    if !noneAsked s .ident then s
    else
      let m := mapForce s
      let bad := m.lanes.any (fun l => fldAt s F.LL_CHAIN_found l != m.d)
      setLamp (fun x => { x with step := 5 }) (when bad (raise Src.LL_CHAIN_FAULT) s)
  | 5 =>
    let s := setFlag F.LL_STAT_bringup false (setLamp (fun x => { x with step := 0, ready := true }) s)
    startScan (scanChecked (forEach (lanesOn s) configureLane s))
  | _ => s

/-- At a latch point lanes that have come up without a valid configuration start to scan once a class B change has brought one
(R244). -/
def scanLatch (s : State) : State :=
  if isTile s && s.lamp.ready && !flag s F.LL_STAT_running then startScan s else s

/-! ### The scan (R232, R233, R242, R321 to R323, R333) -/

/-- The 200 MHz edge, in 5 ns from time 0, nearest to `a` ns; a tie cannot arise between whole nanoseconds (R322). -/
def nearestEdge (a : Nat) : Nat := (a + 2) / 5

/-- A ROW_ADV control word (R226). -/
def rowAdvWord (row view k : Nat) (start : Bool) (d : Nat) : Word :=
  controlWord (1 * 2 ^ 23 + b2n start * 2 ^ 22 + row * 2 ^ 16 + view * 2 ^ 14 + k * 2 ^ 7 + d)

/-- A BLOTTER control word (R226). -/
def blotterWord (start : Bool) (d : Nat) : Word := controlWord (2 * 2 ^ 23 + b2n start * 2 ^ 22 + d)

/-- The next row time of the grid; a grid that lost its frame starts again at the next one. -/
def gridNow (s : State) : Nat × Nat × Nat :=
  match s.lamp.grid with
  | some (f, g, r) =>
    if f + 1 < fCur s || f > fCur s + 1 || g ≥ viewCount s f * scanS s f || r ≥ scanM s f then (fCur s + 1, 0, 0)
    else (f, g, r)
  | none => (fCur s + 1, 0, 0)

/-- The row time after one. -/
def gridNext (s : State) (f g r : Nat) : Nat × Nat × Nat :=
  if r + 1 < scanM s f then (f, g, r + 1)
  else if g + 1 < viewCount s f * scanS s f then (f, g + 1, 0)
  else (f + 1, 0, 0)

/-- Whether frame `f` is lit (R268): as latched, or as the dry state stands. -/
def frameLit (s : State) (f : Nat) : Bool :=
  match frameLatch s f with
  | some x => x.lit
  | none => fld s F.LD_STAT_dry_state != 2

/-- The cut (R333): from the grid of its first frame a view has no ROW_ADV before its first swap of that frame. -/
def inCut (s : State) (f g : Nat) : Bool :=
  match s.wt.cut, swapFor s f with
  | some c, some x =>
    let v := g / x.s
    let (p, lag) := swapPlace x v
    let first := (c + lag) * (x.views * x.s) + v * x.s + p
    decide (c ≤ f) && decide (f * (x.views * x.s) + g < first)
  | _, _ => false

/-- The control slot of the next action point of the grid comes due: ROW_ADV goes out on every enabled lane (R233, R243,
R321). -/
def rowAdvance (s : State) : State :=
  let (f, g, r) := gridNow s
  let e := nearestEdge (actionPoint s f g r)
  let s' := setLamp (fun x => { x with grid := some (gridNext s f g r), lastAdv := none })
    (runTo (slotStart s (frameFor s e) * 5 * nsUnit) s)
  if !flag s F.LL_STAT_running || !frameLit s f || inCut s f g || !slotFree s' e then s'
  else
    match swapFor s f with
    | none => s'
    | some x =>
      let v := g / x.s
      let k := (g - v * x.s + x.s - (swapPlace x v).1) % x.s
      setLamp (fun y => { y with lastAdv := some (f, g, r) }) (sendAction (rowAdvWord r v k) e s')

/-- When row `r` of view `v` of content frame `f` swaps, in ns (R324). -/
def swapTime (s : State) (f v r : Nat) : Nat :=
  match swapFor s f with
  | some x =>
    let (p, lag) := swapPlace x v
    actionPoint s f (lag * (x.views * x.s) + v * x.s + p) r
  | none => tGrid s f

/-- When the GRAY of a view may leave, in ns (R325). -/
def grayFrom (s : State) (f v : Nat) : Nat :=
  match swapFor s f with
  | some x => tGrid s f + swapReady x v - packTime x.m x.d x.c - x.guard
  | none => tGrid s f

/-- The oldest latched frame for which GRAY is emitted and that still awaits a row of a view (R268). -/
def rowFrame (s : State) (y v : Nat) : Option FrameLatch :=
  s.comp.frames.reverse.find? (fun x => x.lit && decide (v < x.views.length) && !x.done.contains (y, v))

/-- GRAY of a tile row and view (R215, R234, R242): the row's segment is usable and its frame is lit. One message goes on each
lane of the row's band, in both halves; one that cannot leave whole before the swap's ROW_ADV is emitted is dropped. -/
def grayEmit (y v : Nat) (s : State) : State :=
  match rowFrame s y v with
  | none => s
  | some q =>
    match q.map with
    | none => s
    | some m =>
      if y ≥ m.h || !flag s F.LL_STAT_running || !clustersOn s || !segmentUsable s q v y then s
      else
        let row := y % m.m
        let s := runTo (grayFrom s q.frame v * nsUnit) s
        let swap := frameFor s (nearestEdge (swapTime s q.frame v row))
        let lanes := (List.range m.halves).flatMap (fun h => (List.range m.lb).map (fun i => (64 * h + y / m.m * m.lb + i, h, i)))
        let late := lanes.filter (fun p => !wholeBefore s p.1 (cdiv m.cap 2 + 2) swap)
        let s := noteTiles q.frame (rowTiles s q v y) s
        let s := forEach (lanes.filter (fun p => !late.contains p)) (fun p st =>
          toLane p.1 (grayMessage row v (frameTag s q.frame % 2) (laneValues s q m v y p.2.1 p.2.2)) st) s
        let s := addFldAt F.LL_STAT_gray_drop 0 late.length s
        let s := when (!late.isEmpty && !q.grayDrop) (fun st =>
          raise Src.LL_GRAY_DROP (setFrame q.frame (fun x => { x with grayDrop := true }) st)) s
        setFrame q.frame (fun x => { x with done := (y, v) :: x.done }) s

/-- The CFG messages that a write of LD_IREF or LD_THRESH has made due (R254). -/
def sendDue (s : State) : State :=
  setLamp (fun x => { x with cfgDue := [] })
    (forEach s.lamp.cfgDue (fun i st => forEach (lanesOn st) (sendDrive i) st) s)

/-- GAIN of the oldest latched frame that awaits it, after the last swap of the frame before (R242 item 2, R253, R268), then
CFG 3h and 4h if they are due (R254). One that cannot leave before the frame's first swap is not sent (DESIGN CHOICE,
log 182). -/
def gainEmit (s : State) : State :=
  match s.comp.frames.reverse.find? (fun x => !x.gainSent) with
  | none => s
  | some q =>
    if !s.lamp.ready then s
    else
      let f := q.frame
      let last := (List.range (viewCount s (f - 1))).foldl (fun a v => max a (swapTime s (f - 1) v (scanM s (f - 1) - 1))) 0
      let s := if q.both then s else runTo (last * nsUnit) s
      let first := (List.range (viewCount s f)).foldl (fun a v => min a (swapTime s f v 0)) (swapTime s f 0 0)
      let swap := frameFor s (nearestEdge first)
      let pars := if q.both then [0, 1] else [frameTag s f % 2]
      let d := (mapForce s).d
      let s := forEach (lanesOn s) (fun l st =>
        if !q.both && !wholeBefore st l (d + 2) swap then st
        else forEach pars (fun p st' => toLane l (gainMessage p d q.out) st') st) s
      setFrame f (fun x => { x with gainSent := true }) (sendDue s)

/-- LL_CTRL.cnt_clear (R249). -/
def llClear (s : State) : State :=
  setFld F.LL_STAT_gray_drop 0 (forEach (List.range 16) (fun g st =>
    setFldAt F.LL_GRP_CNT_no_reply g 0 (setFldAt F.LL_GRP_CNT_crc_fail g 0 st)) s)

/-! ### Rows of the opcode table -/

/-- LL_BRINGUP_STEP (R245). -/
def execLlBringupStep (s : State) : Host.Outcome State Fault Refusal :=
  .next (if isTile s && domainOn s 5 then bringupStep s else s)

/-- DIAG_SEND (R240). -/
def execDiagSend (group : Nat) (s : State) : Host.Outcome State Fault Refusal :=
  .next (if isTile s && domainOn s 5 then sendDiag group s else s)

/-- LL_RET_REPLY (R240, R472): the bytes of the reply after its start pattern. -/
def execLlRetReply (group : Nat) (bytes : List Byte) (s : State) : Host.Outcome State Fault Refusal :=
  .next (if isTile s && domainOn s 5 then takeReply group bytes s else s)

/-- LL_RET_TIMEOUT (R240). -/
def execLlRetTimeout (group : Nat) (s : State) : Host.Outcome State Fault Refusal :=
  .next (if isTile s && domainOn s 5 then replyTimeout group s else s)

/-- LL_STATUS_POLL (R246). -/
def execLlStatusPoll (s : State) : Host.Outcome State Fault Refusal :=
  .next (if isTile s && domainOn s 5 then statusPoll s else s)

/-- ROW_ADV_ACTION (R321). -/
def execRowAdvAction (s : State) : Host.Outcome State Fault Refusal :=
  .next (if isTile s && domainOn s 5 && s.lamp.ready then rowAdvance s else s)

/-- GRAY_EMIT (R242). -/
def execGrayEmit (row view : Nat) (s : State) : Host.Outcome State Fault Refusal :=
  .next (if isTile s && domainOn s 5 && domainOn s 16 then grayEmit row view s else s)

/-- GAIN_EMIT (R242). -/
def execGainEmit (s : State) : Host.Outcome State Fault Refusal :=
  .next (if isTile s && domainOn s 5 then gainEmit s else s)

end Sys2Proof.Machine
end

