-- ==== Sys2Proof/Machine/LampDrive.lean ====
section
/-! DEFINITION. Lamp drive and diagnosis (spec/11_lamp_drive.md, R250 to R272): hybrid split, VLED set point, fault sweeps,
blotter pulses, containment and drydown. -/

namespace Sys2Proof.Machine

/-- The lamp drive manager runs. -/
def driveOn (s : State) : Bool := isTile s && domainOn s 5 && flag s F.LD_CTRL_enable

/-! ### The VLED set point (R257 to R259) -/

/-- The outer loop's slot: the lowest enabled one that takes h_min (R257, block sample 00h). -/
def outerSlot (s : State) : Option Nat :=
  if domainOn s 4 then
    (List.range 64).find? (fun n => ceEnabled s n && bitsOf (ceWord s n 0) 23 14 == 3 * 64 && bitsOf (ceWord s n 2) 31 22 == 2 * 64)
  else none

/-- The limits of the set point in mV (R257). -/
def vledLimits (s : State) : Nat × Nat :=
  let lo := 25 * fld s F.LD_VLED_LIM_min
  (lo, max lo (25 * fld s F.LD_VLED_LIM_max))

/-- A voltage in mV as the code of a loop slot: 1.0 is 8.0 V (worked example of spec/12; DEDUCED, log 45). -/
def vledCode (mv : Nat) : Int := min 32767 (halfUp ((mv * 32768 : Nat) : Int) 8000)

/-- LD_VLED_SET shows a set point in mV, within LD_VLED_LIM (R257). -/
def showVled (mv : Nat) (s : State) : State :=
  setFld F.LD_VLED_SET_set (clampN (vledLimits s).1 (vledLimits s).2 mv) s

/-- LD_VLED_SET follows an output of the outer slot. -/
def vledOutput (n : Nat) (y : Int) (s : State) : State :=
  if driveOn s && outerSlot s == some n then showVled (clampZ 0 65535 (halfUp (y * 8000) 32768)).toNat s else s

/-- The set point that an output of slot `n` hands to the inner loop: that of the outer slot is held to LD_VLED_LIM (R257). -/
def vledTarget (s : State) (n : Nat) (y : Int) : Int :=
  if driveOn s && outerSlot s == some n then clampZ (vledCode (vledLimits s).1) (vledCode (vledLimits s).2) y else y

/-- The outer loop in FIXED holds LD_VLED_LIM.start (R259): that is its slot's hold output, and evaluations are queued, from
the last sample, until the slot has handed over and its output has come there (R285; DESIGN CHOICE, log 188). -/
def outerSettle (s : State) : State :=
  match outerSlot s with
  | some n =>
    let hold := vledCode (25 * fld s F.LD_VLED_LIM_start)
    let s := setCeWord n 14 (withBits (ceWord s n 14) 31 16 (unsgn 16 hold)) s
    if ceQueued s n || (sgn 16 (ceWord s n 16 % 2 ^ 16) == hold && !bitOf (ceWord s n 19) 31) then s
    else ceEnqueue n (ceInput s n) s
  | none => s

/-- The mode bit of the outer slot's word 0: LOOP for TRACK, HOLD for FIXED (R259). -/
def setOuterMode (track : Bool) (s : State) : State :=
  match outerSlot s with
  | some n =>
    let s := setCeWord n 0 (withBits (ceWord s n 0) 30 30 (b2n track)) s
    if track then s else outerSettle s
  | none => if track then s else showVled (25 * fld s F.LD_VLED_LIM_start) s

/-- LD_STAT.vled_mode changes with its handover (R259). -/
def vledMode (track : Bool) (s : State) : State :=
  if flag s F.LD_STAT_vled_mode == track then s else setOuterMode track (setFlag F.LD_STAT_vled_mode track s)

/-- One safe-side step of the set point (R258): a step of the outer slot, or of the set point itself without one. -/
def vledStep (s : State) : State :=
  let mv := 25 * fld s F.LD_VLED_LIM_step
  match outerSlot s with
  | some n => ceWrite n 15 0xFFFF (BitVec.ofInt 32 (vledCode mv)) s
  | none => showVled (fld s F.LD_VLED_SET_set + mv) s

/-- A headroom cycle ends (R256 to R259): h_min is formed and goes to the outer loop, and the next cycle starts. -/
def headroomEnd (s : State) : State :=
  if !s.lamp.hrOpen || s.lamp.hrLeft != 0 then headroomStart s
  else
    let best := s.lamp.hrSeen.foldl (fun (b : Option (Nat × Nat × Nat)) x =>
      match b with | some y => if x.1 ≤ y.1 then some x else b | none => some x) none
    let s := setLamp (fun x => { x with hrOpen := false, hrSeen := [] }) s
    let s :=
      match best with
      | none =>
        let s := setFlag F.LD_HR_STAT_valid false s
        if flag s F.LD_STAT_vled_mode then s else outerSettle s
      | some (h, lane, pos) =>
        let s := setFld F.LD_HR_STAT_h_min h (setFlag F.LD_HR_STAT_valid true s)
        let s := setFld F.LD_HR_STAT_lane lane (setFld F.LD_HR_STAT_position pos s)
        let s := vledMode (fld s F.LD_STAT_dry_state != 2) s
        let s := match outerSlot s with
          | some n => setCeWord n 11 (withBits (ceWord s n 11) 31 16 (8 * fld s F.LD_HR_CFG_target)) s
          | none => s
        let s := ceBlockSample 0 (sgn 16 (8 * h)) s
        if h < fld s F.LD_HR_CFG_floor then
          let top := decide (fld s F.LD_VLED_SET_set ≥ 25 * fld s F.LD_VLED_LIM_max)
          let s := raise Src.LD_HEADROOM_LOW (vledStep s)
          when top (raise Src.LD_VLED_LIMIT) s
        else s
    headroomStart s

/-! ### Brightness and the hybrid split (R250 to R253, R381) -/

/-- The brightness level of the demands (R250, R381). -/
def brightLevel (s : State) : Nat :=
  let l := min 0x8000 (fld s F.LD_BRIGHT_level)
  if flag s F.THERM_STAT_throttle then min l (fld s F.THERM_BRIGHT_cap) else l

/-- The demand of a slot before clipping (R250). -/
def rawDemand (s : State) (c : Nat) : Nat :=
  if flag s F.TCOMP_CFG_target then (brightLevel s * fldAt s F.TCOMP_GAIN_gain c * 2 + 2 ^ 14) / 2 ^ 15 else brightLevel s

/-- Slot `c` is in PWM mode (R251). -/
def pwmMode (s : State) (c : Nat) : Bool := bitOf (fld s F.LD_STAT_split) c

/-- X_lo and X_hi (R251); how they are rounded to whole codes is not stated. -/
def crossover (s : State) : Nat × Nat :=
  let lo := (roundOpen ((fld s F.LD_SPLIT_x : Nat) : Int) 2).toNat
  (lo, (roundOpen ((lo * (256 + fld s F.LD_SPLIT_hyst) : Nat) : Int) 256).toNat)

/-- The mode of a slot for a demand (R251). -/
def splitMode (x : Nat × Nat) (pwm : Bool) (d : Nat) : Bool :=
  if !pwm && d < x.1 then true else if pwm && d > x.2 then false else pwm

/-- The driver gain of a slot (R251). -/
def splitGain (x : Nat × Nat) (pwm : Bool) (d : Nat) : Nat :=
  min 255 (cdiv (255 * (if pwm then x.2 else d)) 32768)

/-- The dimming scale of a slot (R251). -/
def splitScale (d g : Nat) : Nat := if d == 0 || g == 0 then 0 else min 0x8000 ((2 * d * 255 + g) / (2 * g))

/-- The split of one slot: its gain and scale, with the mode kept in LD_STAT.split (R250 to R252). -/
def splitSlot (c : Nat) (s : State) : (Nat × Nat) × State :=
  let d := min 0x8000 (rawDemand s c)
  let x := crossover s
  let pwm := splitMode x (pwmMode s c) d
  let s := setFld F.LD_STAT_split (withBits (fld s F.LD_STAT_split) c c (b2n pwm)) s
  let g := if pwm || flag s F.LD_CTRL_hybrid_en then splitGain x pwm d else 255
  ((g, splitScale d (splitGain x pwm d)), s)

/-- The splits of slots 0 to 3. -/
def splitSlots : List Nat → State → List (Nat × Nat) × State
  | [], s => ([], s)
  | c :: t, s =>
    let (a, s) := splitSlot c s
    let (l, s) := splitSlots t s
    (a :: l, s)

/-- Demands that are clipped (R250). -/
def countClips (s : State) : State :=
  let n := ((List.range 4).filter (fun c => decide (rawDemand s c > 0x8000))).length
  if n == 0 then s else raise Src.LD_TCOMP_CLIP (addFldAt F.LD_STAT_CLIP_count 0 n s)

/-! ### Drydown (R268) -/

/-- The drydown state at latch point F (R268): the new state code, whether the frame is step 1 or 2 of a fade, and the event
raised. -/
def dryNext (s : State) (f : Nat) : Nat × Bool × Option Nat :=
  let dark := fld s F.LD_STAT_dry_causes != 0
  match fld s F.LD_STAT_dry_state with
  | 0 => if dark then (1, true, some Src.LD_DRYDOWN) else (0, false, none)
  | 1 => if !dark then (3, false, none) else if f ≤ s.lamp.dryFrom + 1 then (1, false, none) else (2, false, none)
  | 2 => if dark then (2, false, none) else (3, false, none)
  | _ => if dark then (1, true, some Src.LD_DRYDOWN) else (0, false, some Src.LD_DRYDOWN_END)

/-- What a frame is shown with: driver gains, whether GAIN goes out for both parities, scales, and whether it is lit. -/
structure DriveFrame where
  out : List Nat
  both : Bool
  dims : List Nat
  lit : Bool
  deriving DecidableEq, Repr

/-- The drive part of latch point F (R250 to R253, R258, R268). -/
def latchDrive (f : Nat) (s : State) : DriveFrame × State :=
  let hostDims := (List.range 4).map (fun c => min 0x8000 (fldAt s F.PIPE_DIM_k c))
  if !driveOn s then
    ({ out := s.lamp.gains, both := false, dims := hostDims, lit := fld s F.LD_STAT_dry_state != 2 }, s)
  else
    let s := countClips s
    let (gk, s) := splitSlots [0, 1, 2, 3] s
    let g := gk.map Prod.fst
    let rises := (List.zip g s.lamp.gains).any (fun x => decide (x.1 > x.2 + 32))
    let s := when rises vledStep s
    let was := fld s F.LD_STAT_dry_state
    let (st, first, ev) := dryNext s f
    let s := setLamp (fun x => { x with gains := g, dryFrom := if first then f else x.dryFrom }) s
    let s := setFld F.LD_GAIN_OUT_gains (g.foldl (fun a v => a * 256 + v) 0) (setFld F.LD_STAT_dry_state st s)
    let s := match ev with | some e => raise e s | none => s
    let black := st == 1 && !first
    let out := g.map (fun v =>
      if st == 1 then (if first then (if was == 3 then v / 2 / 2 else v / 2) else 0)
      else if st == 2 then 0 else if st == 3 then v / 2 else v)
    let dims := if black then [0, 0, 0, 0] else if flag s F.LD_CTRL_hybrid_en then gk.map Prod.snd else hostDims
    let s := when (flag s F.LD_CTRL_hybrid_en) (fun x =>
      forEach (List.range 4) (fun c y => setFldAt F.PIPE_DIM_k c (dims.getD c 0) y) x) s
    let s := when (st == 2) (vledMode false) s
    ({ out := out, both := st == 1, dims := dims, lit := st != 2 }, s)

/-- LD_CTRL.enable goes to 1 (R251): every slot starts in current mode; the loop is in FIXED until a valid cycle (R259). -/
def driveStart (s : State) : State :=
  headroomStart (setOuterMode false (setFlag F.LD_STAT_vled_mode false (setFld F.LD_STAT_split 0 s)))

/-- LD_CTRL.enable goes to 0: cycles and sweeps stop. -/
def driveStop (s : State) : State :=
  setLamp (fun x => { x with
    hrOpen := false, hrLeft := 0, hrSeen := [], sweep := none, front := []
    queue := x.queue.map (fun l => l.filter (fun r => r.who != .headroom && r.who != .sweep)) }) s

/-! ### Lamps (R262) -/

/-- Offset in the store of a lamp's byte in the lamp state table. -/
def lampAt (s : State) (k : Nat) : Nat := 256 * fld s F.LD_LAMP_BASE_offset + k

/-- The state byte of a lamp, by its offset in the table. -/
def lampByte (s : State) (k : Nat) : Nat := (storeByte s (lampAt s k)).toNat

/-- Set the state byte of a lamp. -/
def setLampByte (k v : Nat) (s : State) : State :=
  if lampAt s k < storeSize then setStoreByte (lampAt s k) (BitVec.ofNat 8 v) s else s

/-- The lamp on a driver channel and row, as its offset in the table and its slot (R213 inverted). -/
def lampOf (m : MapSet) (lane pos ch row : Nat) : Option (Nat × Nat) :=
  let band := lane % 64 / max 1 m.lb
  let c := lane % 64 % max 1 m.lb * m.cap + pos * m.c + ch
  let xl := c / max 1 m.n
  let y := band * m.m + row
  let slot := m.slotAt (c % max 1 m.n)
  if xl < m.wh && y < m.h then some (lampOffset m (lane / 64 * m.wh + xl) y slot, slot) else none

/-- The lamps of a driver, each with its slot, channel and row. -/
def driverLamps (m : MapSet) (lane pos : Nat) : List (Nat × Nat × Nat × Nat) :=
  (List.range m.m).flatMap (fun r => (List.range m.c).filterMap (fun ch =>
    (lampOf m lane pos ch r).map (fun x => (x.1, x.2, ch, r))))

/-- Offsets of the lamps that are masked (R266), as the lamp state table has them. -/
def maskedLamps (s : State) (m : MapSet) : List Nat :=
  let b := lampAt s 0
  (s.store.filter (fun e => decide (b ≤ e.1) && decide (e.1 < b + 4 * m.w * m.h) && decide (e.2.toNat ≥ 128))).map
    (fun e => e.1 - b)

/-! ### Fault sweeps (R260 to R264, R266) -/

/-- A fault sweep starts (R260): every driver that the map uses is read, those with low headroom first (R256). -/
def sweepStart (s : State) : State :=
  if !driveOn s || !flag s F.LL_STAT_running || s.lamp.sweep.isSome || fld s F.LD_STAT_dry_state == 2 then s
  else
    let s := match s.lamp.sweepAt with
      | some t => elapse (t + 2000000 * max 1 (fld s F.LD_DIAG_CFG_sweep_ms) - s.time.mono) s
      | none => s
    let ds := mapDrivers s
    let first := s.lamp.front.filter (fun d => ds.contains d)
    let order := first ++ ds.filter (fun d => !first.contains d)
    let s := setLamp (fun x => { x with
      sweep := some (order.map (fun d => { lane := d.1, pos := d.2 })), sweepAt := some s.time.mono, front := [] }) s
    forEach order (fun d st => forEach [3, 4, 5] (fun i st' =>
      askDriver { lane := d.1, pos := d.2, item := i, clear := true, who := .sweep } st') st) s

/-- A bit of an OPEN, SHORT or JUDGED payload (R241). -/
def faultBit (ws : Option (List Word)) (row ch : Nat) : Bool :=
  match ws with
  | none => false
  | some l =>
    if ch ≥ 32 then bitOf (l.getD (2 * row) 0).toNat (ch - 32) else bitOf (l.getD (2 * row + 1) 0).toNat ch

/-- Wall frames in one sweep, rounded down and at least 1 (R264). -/
def sweepFrames (s : State) : Nat :=
  match rateNow s with
  | some (n, d) => max 1 (max 1 (fld s F.LD_DIAG_CFG_sweep_ms) * n / (1000 * d))
  | none => 1

/-- Mask a lamp in the table. -/
def maskLamp (k : Nat) (s : State) : State := setLampByte k (withBits (lampByte s k) 7 7 1 / 16 * 16) s

/-- Write a fault record, or note that the table is full (R263). -/
def writeRecord (o sh masked : Bool) (slot lane pos ch row : Nat) (s : State) : State :=
  let n := fld s F.LD_FAULT_STAT_records
  if n < 4096 then
    let w := b2n o * 2 ^ 31 + b2n sh * 2 ^ 30 + b2n masked * 2 ^ 29 + slot * 2 ^ 27 + lane * 2 ^ 20 + pos * 2 ^ 16 +
      ch * 2 ^ 10 + row * 2 ^ 4
    setFld F.LD_FAULT_STAT_records (n + 1) (setFldAt F.LD_FAULT_REC_word n w s)
  else if flag s F.LD_FAULT_STAT_overflow then s
  else raise Src.LD_FAULT_OVF (setFlag F.LD_FAULT_STAT_overflow true s)

/-- A lamp is masked, and gives fill to its neighbours or not (R266). -/
def containLamp (fill : Bool) (k : Nat) (s : State) : State :=
  maskLamp k (setLamp (fun x => { x with
    noFill := (if fill then [] else [k]) ++ x.noFill.filter (fun y => y != k) }) s)

/-- A fault is confirmed (R261, R266). -/
def confirmFault (m : MapSet) (lane pos k slot ch row : Nat) (o sh : Bool) (s : State) : State :=
  let scope := fld s F.LD_CONTAIN_scope
  let s := writeRecord o sh (scope != 2) slot lane pos ch row s
  let s := incFldAt F.LD_GRP_STAT_faults (lane / 8) s
  let s :=
    if scope == 1 then forEach (driverLamps m lane pos) (fun x st => containLamp false x.1 st) s
    else if scope == 2 then
      raise Src.LD_TILE_BLANK (setFld F.LD_STAT_dry_causes (withBits (fld s F.LD_STAT_dry_causes) 3 3 1) s)
    else containLamp true k s
  let s := setLamp (fun x => { x with confirmed := k :: x.confirmed }) s
  let s := when o (fun st => raise Src.LD_LAMP_OPEN (incFld F.LD_COUNT_opens st)) s
  when sh (fun st => raise Src.LD_LAMP_SHORT (incFld F.LD_COUNT_shorts st)) s

/-- A lamp's run of flagged sweeps ends. -/
def endRun (k : Nat) (s : State) : State :=
  setLamp (fun x => { x with flags := smPut (fun _ => 0) x.flags k 0, confirmed := x.confirmed.filter (fun y => y != k) }) s

/-- One lamp at the end of a sweep (R261, R262, R264). A lamp that is neither flagged nor judged keeps its pending bits and its
run (DEDUCED, log 183). -/
def sweepLamp (m : MapSet) (d : DriverRead) (x : Nat × Nat × Nat × Nat) (s : State) : State :=
  let (k, slot, ch, row) := x
  let b := lampByte s k
  if b ≥ 128 then s
  else
    let o := !d.failed && faultBit d.open_ row ch
    let sh := !d.failed && faultBit d.short row ch
    let j := !d.failed && faultBit d.judged row ch
    let age := if j then 0 else min 15 (b % 16 + 1)
    if o || sh then
      let run := smGet (fun _ => 0) s.lamp.flags k + 1
      let s := setLampByte k (b2n o * 64 + b2n sh * 32 + age) (setLamp (fun y => { y with flags := smPut (fun _ => 0) y.flags k run }) s)
      if max 1 (fld s F.LD_DIAG_CFG_confirm) ≤ run && !s.lamp.confirmed.contains k then
        confirmFault m d.lane d.pos k slot ch row o sh s
      else s
    else if j then setLampByte k age (endRun k s)
    else setLampByte k (b / 32 % 4 * 32 + age) s

/-- age × P of a lamp has reached the limit for a pulse, or twice that (R264, R265). -/
def lampDue (s : State) (k : Nat) : Bool :=
  lampByte s k < 128 && decide (lampByte s k % 16 * sweepFrames s ≥ max 1 (fld s F.LD_BLOT_CFG_age))
@[inherit_doc lampDue] def lampOverdue (s : State) (k : Nat) : Bool :=
  lampByte s k < 128 && decide (lampByte s k % 16 * sweepFrames s ≥ 2 * max 1 (fld s F.LD_BLOT_CFG_age))

/-- The dead time after an on-window holds a blotter pulse (R244 check 2h). -/
def pulseRoom (s : State) : Bool :=
  let m := mapForce s
  let x := scanOf (forceWord s)
  match x.rate with
  | some (n, d) => decide (n * x.views * x.s * m.m * ((x.blank + x.window) * 5 * (x.div + 1) + 80) ≤ d * 10 ^ 9)
  | none => false

/-- Lamps of a lane group. -/
def groupLamps (m : MapSet) (g : Nat) : List Nat :=
  (m.lanes.filter (fun l => l / 8 == g)).flatMap (fun l =>
    (List.range m.d).flatMap (fun p => (driverLamps m l p).map (fun x => x.1)))

/-- Whether a group holds a lamp that makes it unverified (R265). -/
def groupUnverified (m : MapSet) (s : State) (g : Nat) : Bool :=
  let pulses := flag s F.LD_CTRL_blot_en && pulseRoom s
  (groupLamps m g).any (fun k => lampOverdue s k || (!pulses && lampDue s k))

/-- LD_GRP_STAT.unverified sets where a group has become unverified, with LD_UNVERIFIED once on entry; at the end of a sweep it
clears where no lamp makes it so (R265). -/
def judgeGroups (sweep : Bool) (s : State) : State :=
  let m := mapForce s
  forEach (List.range 16) (fun g st =>
    let bad := groupUnverified m st g
    let was := flagAt st F.LD_GRP_STAT_unverified g
    if bad && !was then raise Src.LD_UNVERIFIED (setFlagAt F.LD_GRP_STAT_unverified g true st)
    else if sweep && !bad then setFlagAt F.LD_GRP_STAT_unverified g false st else st) s

/-- A setting that the due lamps or their pulses depend on has changed. -/
def judgeNow (s : State) : State := if driveOn s then judgeGroups false s else s

/-- A sweep ends once every driver has been read or has failed twice (R261 to R265); in the dark it is dropped (R268). -/
def sweepEnd (s : State) : State :=
  match s.lamp.sweep with
  | none => s
  | some ds =>
    if !noneAsked s .sweep then s
    else if fld s F.LD_STAT_dry_state == 2 then setLamp (fun x => { x with sweep := none }) s
    else
      let m := mapForce s
      let s := setLamp (fun x => { x with sweep := none, pulsed := [] }) s
      let s := forEach ds (fun d st =>
        let whole := d.open_.isSome && d.short.isSome && d.judged.isSome
        forEach (driverLamps m d.lane d.pos) (fun x st' => sweepLamp m { d with failed := d.failed || !whole } x st') st) s
      judgeGroups true s

/-! ### Blotter pulses (R265) -/

/-- The mask of the due lamps of a driver in a row. -/
def dueMask (s : State) (m : MapSet) (lane pos row : Nat) : Nat :=
  (List.range m.c).foldl (fun a ch =>
    match lampOf m lane pos ch row with
    | some x => if lampDue s x.1 && !s.lamp.pulsed.contains x.1 then a + 2 ^ ch else a
    | none => a) 0

/-- Words of a BLOTTER_ARM message. -/
def armWords : Nat := 4

/-- The arm messages of a row that leave whole before superframe `n`, behind all that waits on their lanes (R265). -/
def armsInTime (s : State) (n : Nat) (masks : List (Nat × Nat × Nat)) : List (Nat × Nat × Nat) :=
  masks.filter (fun k =>
    wholeBefore s k.1 (armWords * ((masks.filter (fun x => x.1 == k.1 && decide (x.2.1 ≤ k.2.1))).length)) n)

/-- Due lamps of scan row `row` get a pulse in the dead time after the row's on-window, which must have taken place and have had
no pulse yet (R238, R243, R265). -/
def blotter (row : Nat) (s : State) : State :=
  let m := mapForce s
  match s.lamp.lastAdv with
  | none => s
  | some (f, g, r) =>
    let x := scanOf (forceWord s)
    let e := nearestEdge (actionPoint s f g r) + (x.blank + x.window) * (x.div + 1)
    let masks := armsInTime s (frameFor s e) ((mapDrivers s).filterMap (fun d =>
      let k := dueMask s m d.1 d.2 row
      if k == 0 || !s.lamp.groups.getD (d.1 / 8) false then none else some (d.1, d.2, k)))
    if !driveOn s || !flag s F.LD_CTRL_blot_en || !flag s F.LL_STAT_running || !pulseRoom s || r != row
        || gridNow s != gridNext s f g r || masks.isEmpty || !slotFree s e then s
    else
      let hit := masks.flatMap (fun k => ((driverLamps m k.1 k.2.1).filter (fun y =>
        y.2.2.2 == row && bitOf k.2.2 y.2.2.1)).map (fun y => y.1))
      let s := forEach masks (fun k st => toLane k.1 (armMessage k.2.1 row k.2.2) st) s
      incFld F.LD_BLOT_COUNT_count (setLamp (fun y => { y with pulsed := hit ++ y.pulsed, lastAdv := none })
        (sendAction blotterWord e s))

/-! ### Writes and commands -/

/-- LD_CTRL.resume clears the tile_blank cause (R266). -/
def driveResume (s : State) : State :=
  setFld F.LD_STAT_dry_causes (withBits (fld s F.LD_STAT_dry_causes) 3 3 0) s

/-- LD_CTRL.cnt_clear (R272). -/
def driveClear (s : State) : State :=
  setFld F.LD_COUNT_opens 0 (setFld F.LD_COUNT_shorts 0 (setFld F.LD_BLOT_COUNT_count 0 (setFld F.LD_STAT_CLIP_count 0 s)))

/-- LD_IREF or LD_THRESH has been written: the CFG index goes out after the next GAIN (R254). -/
def driveCfg (index : Nat) (s : State) : State :=
  setLamp (fun x => { x with cfgDue := if x.cfgDue.contains index then x.cfgDue else x.cfgDue ++ [index] }) s

/-- The fault records held, in table order. -/
def faultRecords (s : State) : List Nat :=
  (List.range (fld s F.LD_FAULT_STAT_records)).map (fun i => fldAt s F.LD_FAULT_REC_word i)

/-- Lane group of a record. -/
def recordGroup (w : Nat) : Nat := bitsOf w 26 20 / 8

/-- The reply words of DIAG_READ for a group (R269). -/
def diagRead (s : State) (g start count : Nat) : List Word :=
  let mine := (faultRecords s).filter (fun w => recordGroup w == g)
  let out := (mine.drop start).take count
  let due := min 0xFFFF ((groupLamps (mapForce s) g).filter (lampDue s)).length
  [BitVec.ofNat 32 (mine.length * 65536 + out.length),
   BitVec.ofNat 32 (b2n (flagAt s F.LD_GRP_STAT_unverified g) * 2 ^ 31 + due)] ++ out.map (BitVec.ofNat 32)

/-- DIAG_CLEAR of the groups named (R270). A lamp that is still flagged goes on in its run, and is confirmed again. -/
def diagClear (gs : List Nat) (s : State) : State :=
  let keep := (faultRecords s).filter (fun w => !gs.contains (recordGroup w))
  let s := forEach (List.range (fld s F.LD_FAULT_STAT_records)) (fun i st =>
    setFldAt F.LD_FAULT_REC_word i (keep.getD i 0) st) s
  let s := setFld F.LD_FAULT_STAT_records keep.length s
  let s := when (gs.length == 16) (setFlag F.LD_FAULT_STAT_overflow false) s
  let s := forEach gs (fun g st => setFldAt F.LD_GRP_STAT_faults g 0 st) s
  let lamps := gs.flatMap (groupLamps (mapForce s))
  forEach lamps (fun k st =>
    setLampByte k 0 (setLamp (fun x => { x with
      confirmed := x.confirmed.filter (fun y => y != k), noFill := x.noFill.filter (fun y => y != k) }) st)) s

/-! ### Rows of the opcode table -/

/-- HEADROOM_CYCLE_END (R256). -/
def execHeadroomCycleEnd (s : State) : Host.Outcome State Fault Refusal :=
  .next (if driveOn s then headroomEnd s else s)

/-- FAULT_SWEEP_START (R260). -/
def execFaultSweepStart (s : State) : Host.Outcome State Fault Refusal :=
  .next (sweepStart s)

/-- FAULT_SWEEP_END (R261). -/
def execFaultSweepEnd (s : State) : Host.Outcome State Fault Refusal :=
  .next (if driveOn s then sweepEnd s else s)

/-- BLOTTER_ACTION (R265). -/
def execBlotterAction (row : Nat) (s : State) : Host.Outcome State Fault Refusal :=
  .next (blotter row s)

end Sys2Proof.Machine
end

