-- ==== Sys2Proof/Machine/Power.lean ====
section
/-! DEFINITION. The power manager (spec/18_power_states.md, R393 to R412; R14): domain states, gating, sleep entry and its
refusals, waking, keep records, and what a domain loses when it stops. -/

namespace Sys2Proof.Machine

/-- Change the power manager's part of the state. -/
def setPwr (f : PwrState → PwrState) (s : State) : State := { s with pwr := f s.pwr }

/-! ### Domains (R14, R393) -/

/-- The switched domains in the order of the wake-order table, from position 1 upward (R406). -/
def stopOrder : List Nat :=
  (List.range 16).map (fun k => 32 - k) ++ [16, 5, 10, 9, 8, 7, 6, 11, 12, 13, 15, 14, 4, 2, 3, 1]

/-- Whether the role allows domain `d` (R14). -/
def domainAllowed (s : State) (d : Nat) : Bool :=
  if isSender s then d != 5
  else !(d == 8 || d == 9 || d == 10) && (!(d == 12 || d == 13) || s.board.dramDeclared)

/-- State code of domain `d`: 0 off, 1 on, 2 retain, 3 changing (R393). -/
def pdState (s : State) (d : Nat) : Nat := fldAt s F.PD_CTRL_state d

/-- Set the state code of domain `d`. -/
def setPdState (d v : Nat) (s : State) : State := setFldAt F.PD_CTRL_state d v s

/-- Whether domain `d` is allowed, enabled and not dead. -/
def domainUsable (s : State) (d : Nat) : Bool :=
  domainAllowed s d && flagAt s F.PD_CTRL_enable d && !flagAt s F.PD_CTRL_dead d

/-- Whether the trip latch is set (R383). -/
def tripped (s : State) : Bool := flag s F.THERM_TRIP_LOG_tripped

/-- How an access to a domain is served (R393). -/
inductive Serve where
  | now
  | zero
  | waits
  deriving DecidableEq, Repr

/-- How an access to domain `d` is served (R393): at once, with zeros, or once the domain is ready. -/
def serve (s : State) (d : Nat) : Serve :=
  if domainOn s d then .now
  else if !domainUsable s d || tripped s then .zero
  else if s.pwr.restarts.contains d || s.pwr.gated.contains d then .waits
  else .zero

/-! ### Chip states (R395, R396) -/

/-- Present chip state. -/
def chipState (s : State) : Nat := fld s F.PWR_STAT_state

/-- The target state; other values act as RUN (R411). -/
def chipTarget (s : State) : Nat :=
  let t := fld s F.PWR_CTRL_target
  if t ≤ 4 then t else 0

/-- Phase of an attempt: 0 none, 1 quiesce, 2 stop, 3 restart. -/
def pwrPhase (s : State) : Nat := fld s F.PWR_STAT_phase

/-- Set the phase. -/
def setPhase (v : Nat) (s : State) : State := setFld F.PWR_STAT_phase v s

/-- The state code that domain `d` takes in sleep state `t` (R395, R396). -/
def sleepCode (s : State) (t d : Nat) : Nat :=
  match t with
  | 2 => if d == 1 || d == 3 || d == 4 then 1 else if d == 14 || d == 15 then 2 else 0
  | 3 => if (d == 14 || d == 15) && bitOf (fld s F.PWR_KEEP_hush_store) (d - 14) then 2 else 0
  | 4 => 0
  | _ => 1

/-- The stop set of an entry into `t`, in table order (R400). -/
def stopSet (s : State) (t : Nat) : List Nat := stopOrder.filter (fun d => pdState s d == 1 && sleepCode s t d != 1)

/-- Whether domain `d` answers ready for an entry into `t` (R401); `asking` is phase 1, in which PD_13 follows PD_12. -/
def domainReady (s : State) (t : Nat) (asking : Bool) (d : Nat) : Bool :=
  match d with
  | 1 => s.cmd.queue.all (fun c => c.phase == .answered)
  | 2 => !flashBusy s
  | 3 => (List.range 8).all (fun n => !flagAt s F.EVT_OUT_CTRL_enable n && !flagAt s F.EVT_IN_CFG_enable n)
  | 4 => !flag s F.CE_PWM_CFG_enable
  | 5 => fld s F.LD_STAT_dry_state == 2 || !flag s F.LD_CTRL_enable
  | 6 | 7 | 8 | 9 => (List.range 4).all (fun k => idleLane s (4 * (d - 6) + k))
  | 10 => (List.range 8).all (fun p => !flagAt s F.ETH_PORT_STAT_link_up p)
  | 11 => (List.range 8).all (fun p => !flagAt s F.PORT_CFG_enable p || (portLanes s p).all (idleLane s))
  | 12 => dramAgrees s
  | 13 => pdState s 12 == 0 || (asking && sleepCode s t 12 != 1 && dramAgrees s)
  | 14 | 15 => true
  | 16 => if isTile s then !flag s F.LL_STAT_running else (List.range 8).all (fun p => fldAt s F.ADMIT_USE_flits p == 0)
  | _ => !bitOf (fld s F.PIPE_PE_STAT_in_use) (d - 17)
where
  /-- A lane that is DISABLED or in EIDLE. -/
  idleLane (s : State) (l : Nat) : Bool := laneState s l == 0 || laneState s l == 8

/-! ### Keep records and what a stopped domain loses (R407) -/

/-- Whether a register table is a register array, which no keep record holds (R407); the transfer tables stand apart. -/
def isArray (d : RegDesc) : Bool :=
  [F.CE_DESC_word, F.COMP_COEF_word, F.ACCORD_WORD_word, F.TMAP_HI_x0, F.TMAP_LO_w, F.GAMUT_0_word, F.TGAIN_0_word,
    F.GAMUT_1_word, F.TGAIN_1_word, F.LL_DIAG_BUF_word, F.LD_FAULT_REC_word].any (fun f => f.base == d.base)

/-- Bits of a register word that a keep record holds: its RW and RWL fields; all of TOPO_TILE, TOPO_TILE_LOC and of
LANE_STAT, whose electrical idle survives; FLACON_STAT.state; no register array. -/
def keepMask (s : State) (a : Nat) : Nat :=
  match findReg a with
  | none => 0
  | some (d, i) =>
    if d.base == F.TOPO_TILE_address.base || d.base == F.TOPO_TILE_LOC_pair.base then 0xFFFFFFFF
    else if d.base == F.LANE_STAT_state.base then (if laneState s i == 8 then 0xFFFFFFFF else 0)
    else if d.base == F.FLACON_STAT_state.base then 0xF0000000
    else if isArray d then 0
    else d.fields.foldl (fun m f =>
      if f.acc == .rw || f.acc == .rwl || (f.acc == .rwSender && isSender s) then
        m + (2 ^ (f.fld.hi + 1) - 2 ^ f.fld.lo) else m) 0

/-- The kept word of a register: its kept bits, and its reset word elsewhere. -/
def keptWord (s : State) (a : Nat) (w : Word) : Word :=
  let m := BitVec.ofNat 32 (keepMask s a)
  (w &&& m) ||| (resetWord a &&& ~~~m)

/-- The keep record of domain `d` (R407). -/
def keepRecord (s : State) (d : Nat) : List (Nat × Word) :=
  (s.regs.filter (fun e => regDomain e.1 == d)).map (fun e => (e.1, keptWord s e.1 e.2))

/-- Every register of domain `d` returns to its reset word. -/
def resetRegs (d : Nat) (s : State) : State := { s with regs := s.regs.filter (fun e => regDomain e.1 != d) }

/-- Bytes of the store in the banks of PD_14 (0–3) or PD_15 (4–7) are lost (R436), and with them the firmware's copies. -/
def loseStore (d : Nat) (s : State) : State :=
  { s with
    store := s.store.filter (fun e => if d == 14 then decide (0xC00000 ≤ e.1) else decide (e.1 < 0xC00000))
    pwr := { s.pwr with copies := [], tableCopy := none } }

/-- The firmware's copy of the register arrays of domain `d` (R407). -/
def copyArrays (d : Nat) (s : State) : State :=
  let l := s.regs.filter (fun e => regDomain e.1 == d && (match findReg e.1 with
    | some (r, _) => isArray r
    | none => false))
  setPwr (fun p => { p with
    copies := assocPut d l p.copies
    tableCopy := if d == 16 then some (s.pipe.fills, s.pipe.tables) else p.tableCopy }) s

/-- The firmware restores the register arrays of domain `d`; without a copy it fills the transfer tables as at its start
(R204, R407). -/
def restoreArrays (d : Nat) (s : State) : State :=
  if s.boot.mode != .firmware then s
  else
    let s := forEach (assoc [] s.pwr.copies d) (fun e st => setRegWord e.1 e.2 st) s
    let s := setPwr (fun p => { p with copies := p.copies.filter (fun e => e.1 != d) }) s
    if d != 16 then s
    else match s.pwr.tableCopy with
      | some (f, t) => { s with
          pipe := { s.pipe with fills := f, tables := t }
          pwr := { s.pwr with tableCopy := none } }
      | none => tfFillBank 0 (tfParams State.reset) (tfFillBank 1 (tfParams State.reset) s)

/-- What domain `d` holds beside its registers is lost when it is switched off. -/
def domainLost (d : Nat) (s : State) : State :=
  match d with
  | 1 => { s with cmd := {}, red := {}, evt := { s.evt with notes := [] } }
  | 2 => setBoot (fun b => { b with session := none, places := [], armed := none, emission := none }) s
  | 3 => setTime (fun t => { t with
      adjDelta := 0
      adjCount := 0
      timeOk := false
      shadows := List.replicate 5 0
      good := 0
      bad := 0
      dirs := [none, none]
      disagreeAt := none
      outs := List.replicate 8 {}
      ins := List.replicate 8 {} }) s
  | 4 => { s with
      ce := {}
      therm := { sensors := { (s.therm.sensors.headD {}) with rising := false } :: List.replicate 11 {} } }
  | 5 => { s with lamp := {} }
  | 10 => { s with eth := {} }
  | 6 | 7 | 8 | 9 => forEach (List.range 4) (fun k st => setLane (4 * (d - 6) + k) (fun x =>
      { x with rx := [], looped := [], corrSum := 0, corrRaised := false, scrambler := 0x7FFFFFFF }) st) s
  | 11 => forEach (List.range 8) (fun n st => setPort n (fun p => { widthEff := p.widthEff, running := p.running }) st)
      { s with pkt := {}, enumr := {} }
  | 14 | 15 => loseStore d s
  | 16 => { s with comp := {}, pipe := {}, flac := {} }
  | _ => s

/-- The memory when PD_12 stops (R163, R396): it goes into self-refresh and stays there, or is put in reset first. -/
def stopMemory (keep : Bool) (s : State) : State :=
  if flag s F.DRAM_STAT_ready && keep then setDramc (fun d => { d with asleep := true }) (dramSleep s) else dramLose s

/-- Switch domain `d` off, or into retain: it saves its keep record and loses the rest (R400, R407). -/
def switchOff (d : Nat) (retain keepDram : Bool) (s : State) : State :=
  let rec_ := keepRecord s d
  let s := copyArrays d s
  let s := when (d == 12) (stopMemory keepDram) s
  let s := when (d == 3) (fun x => setTime (fun t => { t with tailIncr := some (incrActing x) }) x) s
  let s := setPwr (fun p => { p with keep := assocPut d rec_ p.keep, recorded := true, written := [] }) (resetRegs d s)
  if retain then setPdState d 2 s else setPdState d 0 (domainLost d s)

/-! ### Restarts (R399, R405, R406, R408) -/

/-- The delay of domain `d` from the start of its restart until it is ready, in µs (R406). -/
def restartDelay (d : Nat) : Nat := [0, 30, 15, 5, 25, 10, 60, 60, 60, 60, 40, 5, 20, 45, 8, 8, 10].getD d 12

/-- The first domain that restarts starts to change. -/
def startHead (s : State) : State :=
  match s.pwr.restarts with
  | [] => s
  | d :: _ => setPdState d 3 (setPwr (fun p => { p with startedAt := s.time.mono }) s)

/-- `n` delays of the restarting domain have passed since its start. -/
def passDelay (n d : Nat) (s : State) : State := elapse (s.pwr.startedAt + n * restartDelay d * 2000 - s.time.mono) s

/-- Queue domains for restart, one after the other. -/
def queueRestarts (l : List Nat) (s : State) : State :=
  let was := s.pwr.restarts.isEmpty
  let s := setPwr (fun p => { p with restarts := p.restarts ++ l.filter (fun d => !p.restarts.contains d) }) s
  if was then startHead (setPwr (fun p => { p with again := false }) s) else s

/-- The keep record of domain `d` is written back, or fails its check (R407, R408). -/
def restoreKeep (d : Nat) (crcOk : Bool) (s : State) : State :=
  match s.pwr.keep.find? (fun e => e.1 == d) with
  | none => s
  | some (_, l) =>
    let s := setPwr (fun p => { p with keep := p.keep.filter (fun e => e.1 != d) }) s
    if crcOk then forEach l (fun e st => setRegWord e.1 e.2 st) s
    else if d ≤ 26 then
      raise Src.PWR_RETAIN_FAIL (setFld F.PWR_STAT_retain_fail
        (withBits (fld s F.PWR_STAT_retain_fail) (d - 1) (d - 1) 1) s)
    else s

/-- The lanes of a quad whose domain has restarted: those in EIDLE wake, the others begin to train (R57, R403). -/
def quadUp (d : Nat) (s : State) : State :=
  forEach (List.range 4) (fun k st =>
    let l := 4 * (d - 6) + k
    if laneState st l == 8 then eidleStop l st else lanePortDetect l st) s

/-- What a domain does when it is ready again. -/
def domainUp (d : Nat) (s : State) : State :=
  match d with
  | 1 => setPwr (fun p => { p with kicked := s.time.mono }) (if flag s F.RED_CFG_enable then redCfgWritten false s else s)
  | 2 => showBoot s
  | 3 => syncTiming (setTime (fun t => { t with tailIncr := none }) (showRecord (adoptFrom (fCur s) ((classBDiff s).map Prod.fst) s)))
  | 4 => let s := showBad s; if s.pwr.why == .reset then s else calTriggerAll s
  | 5 => syncDry (if flag s F.LL_CTRL_enable then llStart s else s)
  | 6 | 7 | 8 | 9 => quadUp d s
  | 10 => admitFlows s
  | 12 => if s.dramc.asleep then memoryUp s else s
  | _ => s
where
  /-- rec_valid of a sender follows its record words, which are valid at reset (R319, R340). -/
  showRecord (s : State) : State :=
    when (isSender s) (setFlag F.WT_STAT_rec_valid
      (recordValid (regWord s F.WT_REC_0_rate.base).toNat (regWord s F.WT_REC_1_offset.base).toNat)) s
  /-- BOOT_INFO and OTP_SVN show the strap and the OTP cells; a trial goes on (R418, R421, R431, R432). -/
  showBoot (s : State) : State :=
    let s := setFld F.BOOT_INFO_boot_sel s.board.bootSel s
    let s := setFlag F.OTP_SVN_lock s.boot.otpLock (setFld F.OTP_SVN_used s.boot.otpSvn.length
      (setFld F.OTP_SVN_svn (otpVersion s) s))
    if s.boot.trial.isSome then setUpdState 5 s else s
  /-- The controller serves the memory again, which is still in self-refresh (R163, R407). -/
  memoryUp (s : State) : State :=
    let s := setFlag F.DRAM_STAT_self_refresh true (setFlag F.DRAM_STAT_ready true
      (setFld F.DRAM_STAT_size (cfgUnits s.dramc.cfg) s))
    setDramc (fun d => { d with asleep := false }) s

/-- Present base idle time in ms: 0 acts as 1 (R411). -/
def baseMs (s : State) : Nat := max 1 (fld s F.PWR_IDLE_CFG_base_ms)

/-- The entry timer restarts after a refusal; only a domain's refusal doubles the backoff (R402, R404). -/
def restartTimer (s : State) : State :=
  let s := setPwr (fun p => { p with timer := true, due := false }) s
  if fld s F.PWR_REFUSE_domain == 0xFF then s
  else setFld F.PWR_IDLE_CFG_backoff (min 0xFFFF (min (2 * fld s F.PWR_IDLE_CFG_backoff) (8 * baseMs s))) s

/-- The backoff returns to the base time, and no attempt is under way. -/
def baseBackoff (s : State) : State :=
  setPwr (fun p => { p with timer := false, due := false }) (setFld F.PWR_IDLE_CFG_backoff (baseMs s) s)

/-- The last domain of a run of restarts is ready (R403, R405, R409). -/
def restartsDone (s : State) : State :=
  let why := s.pwr.why
  let s := setPwr (fun p => { p with why := .none, again := false }) s
  match why with
  | .none => s
  | .refused => restartTimer (raise Src.PWR_SLEEP_REFUSED (setPhase 0 s))
  | .wake =>
    let s := setFld F.PWR_STAT_state (fld s F.PWR_CTRL_awake) (setPhase 0 (setPwr (fun p => { p with asleep := [] }) s))
    raise Src.PWR_WAKE (baseBackoff s)
  | .reset => s

/-- The next domain of a run of restarts starts, or the run ends. -/
def nextRestart (s : State) : State :=
  let s := setPwr (fun p => { p with restarts := p.restarts.drop 1, again := false }) s
  if s.pwr.restarts.isEmpty then restartsDone s else startHead s

/-- The restarting domain becomes ready (R406): its record is written back, and the next domain starts. -/
def restartReady (crcOk : Bool) (s : State) : State :=
  match s.pwr.restarts with
  | [] => s
  | d :: _ => nextRestart (domainUp d (restoreArrays d (restoreKeep d crcOk (setPdState d 1 (passDelay 1 d s)))))

/-- Whether an address lies in the store window. -/
def inStore (a : Nat) : Bool := decide (0x10000000 ≤ a) && decide (a < 0x11800000)

/-- Whether an address lies in the DRAM window. -/
def inDram (a : Nat) : Bool := decide (0x80000000 ≤ a) && decide (a < 0x100000000)

/-- The domain that gates an address (R436). -/
def placeDomain (a : Nat) : Nat :=
  if inStore a then (if a < 0x10C00000 then 14 else 15) else if inDram a then 12 else regDomain a

/-- Domain `d` will not come: what waits for it reads 0 and writes nothing (R393, R406). -/
def dropWaits (d : Nat) (s : State) : State :=
  let here (w : WaitingAccess) : Bool := placeDomain w.addr == d
  let l := s.pwr.waits.filter here
  let s := setPwr (fun p => { p with waits := p.waits.filter (fun w => !here w) }) s
  forEach (l.filter (fun w => w.kind == .read)) (fun w => emit (.value w.addr 0)) s

/-- The restarting domain is not ready within 4 times its delay (R406). -/
def restartLate (s : State) : State :=
  match s.pwr.restarts with
  | [] => s
  | d :: _ =>
    let s := passDelay 4 d s
    if s.pwr.again then
      let s := setFlagAt F.PD_CTRL_dead d true (setPdState d 0 s)
      nextRestart (raise Src.PWR_DOMAIN_TIMEOUT (dropWaits d s))
    else setPwr (fun p => { p with again := true, startedAt := s.time.mono }) s

/-! ### Gating (R398, R399) -/

/-- A demand restarts a gated domain; PD_13 restarts right before PD_12. It restores the base idle length (R398). -/
def demand (d : Nat) (s : State) : State :=
  if s.pwr.gated.contains d then
    let l := if d == 12 || d == 13 then [13, 12].filter (s.pwr.gated.contains ·) else [d]
    let s := setPwr (fun p => { p with
      gated := p.gated.filter (fun x => !l.contains x)
      lengths := l.foldl (fun m x => smPut (fun _ => 0) m x 0) p.lengths }) s
    queueRestarts l s
  else setPwr (fun p => { p with lengths := smPut (fun _ => 0) p.lengths d 0 }) s

/-- The base idle length of domain `d` in µs; 0 acts as 1. -/
def idleBase (s : State) (d : Nat) : Nat := max 1 (fldAt s F.PD_CTRL_idle_us d)

/-- The idle length in force (R398). -/
def idleLength (s : State) (d : Nat) : Nat :=
  let n := smGet (fun _ => 0) s.pwr.lengths d
  if n == 0 then idleBase s d else n

/-- Set the idle length in force; 0 stands for the base length. -/
def setLength (d n : Nat) (s : State) : State :=
  setPwr (fun p => { p with lengths := smPut (fun _ => 0) p.lengths d n }) s

/-- A domain with auto set has had no demand for its idle length in IDLE (R398). -/
def idleGate (d : Nat) (s : State) : State :=
  let may := chipState s == 1 && pwrPhase s == 0 && (d == 2 || d == 12 || (decide (17 ≤ d) && decide (d ≤ 32))) &&
    flagAt s F.PD_CTRL_auto d && pdState s d == 1
  if !may || (decide (17 ≤ d) && bitOf (fld s F.PIPE_PE_STAT_in_use) (d - 17)) then s
  else if domainReady s 4 true d then
    let s := setLength d 0 (switchOff d false true s)
    let s := setPwr (fun p => { p with gated := d :: p.gated }) s
    if d == 12 && pdState s 13 == 1 then setPwr (fun p => { p with gated := 13 :: p.gated }) (switchOff 13 false true s) else s
  else setLength d (min (2 * idleLength s d) (8 * idleBase s d)) s

/-! ### Refusals (R403, R404) -/

/-- Record a refusal (R403). -/
def recordRefusal (d phase target : Nat) (s : State) : State :=
  incFld F.PWR_REFUSE_count (setFld F.PWR_REFUSE_domain d (setFld F.PWR_REFUSE_phase phase
    (setFld F.PWR_REFUSE_state target s)))

/-- Lanes that the attempt has asked into electrical idle, and whose quad runs, take their work up again (R403). -/
def lanesResume (s : State) : State :=
  forEach (List.range 16) (fun l st =>
    if domainOn st 11 && domainOn st (6 + l / 4) && flagAt st F.LANE_CTRL_eidle_req l then eidleStop l st else st) s

/-- An attempt ends as a refusal (R403): in phase 1 every domain resumes work, in phase 2 those stopped restart in reverse
order. -/
def refuseAttempt (d target : Nat) (s : State) : State :=
  let p := pwrPhase s
  let s := lanesResume (recordRefusal d p target s)
  let l := s.pwr.stopped
  let s := setPwr (fun q => { q with todo := [], stopped := [], why := .refused }) s
  if l.isEmpty then restartsDone s else queueRestarts l (setPhase 3 s)

/-! ### Entering a sleep state (R400, R402) -/

/-- Whether `t` is a sleep state. -/
def isSleep (t : Nat) : Bool := decide (2 ≤ t) && decide (t ≤ 4)

/-- The ACTIVE ports request electrical idle on their lanes of the given quads, as R401 has it in phase 1. -/
def askQuads (quads : List Nat) (s : State) : State :=
  forEach ((List.range 8).filter (portActive s)) (fun p st =>
    forEach ((portLanes st p).filter (fun l => quads.contains (6 + l / 4))) eidleAsk st) s

/-- A sleep attempt starts phase 1: ACTIVE ports request electrical idle. -/
def attemptStart (s : State) : State :=
  let t := chipTarget s
  if !s.pwr.due || pwrPhase s != 0 || !isSleep t || chipState s == t || tripped s then s
  else
    let quads := (stopSet s t).filter (fun d => decide (6 ≤ d) && decide (d ≤ 9))
    askQuads quads (setPhase 1 (setPwr (fun p => { p with due := false, timer := false, todo := [], stopped := [] }) s))

/-- The chip is in its target state (R400). -/
def enterState (s : State) : State :=
  let t := chipTarget s
  let lost := [15, 14].filter (fun d => pdState s d == 2 && sleepCode s t d == 0)
  let s := forEach lost (fun d st => setPdState d 0 (domainLost d st)) s
  let s := setPwr (fun p => { p with asleep := p.stopped ++ p.asleep ++ p.gated, gated := [], stopped := [], todo := [] }) s
  let s := setRetBytes 0 (leBytes 4 0x5245544E ++ leBytes 4 t ++ leBytes 4 s.pwr.keep.length) s
  raise Src.PWR_STATE (baseBackoff (setFld F.PWR_STAT_state t (setPhase 0 s)))

/-- Every domain of the stop set has answered ready, and phase 2 starts (R400). The memory controller has entered self-refresh
before it answered (R163). -/
def quiesceDone (s : State) : State :=
  let t := chipTarget s
  let l := stopSet s t
  if pwrPhase s == 1 && l.all (domainReady s t true) then
    let s := setPwr (fun p => { p with todo := l, stopped := [] }) (setPhase 2 (when (l.contains 12) dramSleep s))
    if l.isEmpty then enterState s else s
  else s

/-- Some domain has not answered ready in time: the first of them in table order refuses in phase 1 (R400). -/
def quiesceLate (s : State) : State :=
  if pwrPhase s != 1 then s
  else
    let t := chipTarget s
    match (stopSet s t).find? (fun d => !domainReady s t true d) with
    | some d => refuseAttempt d t s
    | none => s

/-- The next domain of the stop set is asked again and stops, or refuses in phase 2 (R400, R403). -/
def stopNext (s : State) : State :=
  if pwrPhase s != 2 then s
  else match s.pwr.todo with
    | [] => s
    | d :: rest =>
      let t := chipTarget s
      if domainReady s t false d then
        let s := switchOff d (sleepCode s t d == 2) (flag s F.PWR_KEEP_dram_sr) s
        let s := setPwr (fun p => { p with todo := rest, stopped := d :: p.stopped }) s
        if rest.isEmpty then enterState s else s
      else refuseAttempt d t s

/-! ### Waking and targets (R402, R405, R410) -/

/-- Whether wake source `b` acts in sleep state `t` (R405). -/
def wakeActs (b t : Nat) : Bool :=
  match b with
  | 0 | 1 | 4 => isSleep t
  | 2 => t == 2 || t == 3
  | 3 => t == 3 || t == 4
  | _ => t == 2

/-- The chip wakes: the domains that the sleep state stopped restart from the highest position downward (R405). -/
def chipWake (b : Nat) (s : State) : State :=
  let s := setFld F.PWR_WAKE_SRC_sources (withBits (fld s F.PWR_WAKE_SRC_sources) b b 1) s
  let s := setFld F.PWR_CTRL_target (fld s F.PWR_CTRL_awake) (setPhase 3 s)
  let l := stopOrder.reverse.filter (fun d => s.pwr.asleep.contains d && domainUsable s d)
  let s := setPwr (fun p => { p with why := .wake, due := false, timer := false }) s
  if l.isEmpty then restartsDone s else queueRestarts l s

/-- Wake source `b` is asserted: it ends an attempt as a refusal, or wakes a sleeping chip (R404, R405). -/
def wakeSource (b : Nat) (s : State) : State :=
  if !bitOf (fld s F.PWR_WAKE_EN_sources) b || tripped s then s
  else if pwrPhase s == 1 || pwrPhase s == 2 then
    (if wakeActs b (chipTarget s) then refuseAttempt 0xFF (chipTarget s) s else s)
  else if pwrPhase s == 0 && isSleep (chipState s) && wakeActs b (chipState s) then chipWake b s
  else s

/-- In RUN no domain is gated: those that automatic gating has stopped restart (R395). -/
def ungate (s : State) : State :=
  let l := stopOrder.reverse.filter (s.pwr.gated.contains ·)
  queueRestarts l (setPwr (fun p => { p with gated := [], lengths := [] }) s)

/-- PWR_CTRL.target has been set, from `was` (R402, R403, R405). -/
def targetSet (was : Nat) (s : State) : State :=
  let t := chipTarget s
  let s := setFld F.PWR_IDLE_CFG_backoff (baseMs s) s
  if isSleep t then
    let s := setPwr (fun p => { p with due := pwrPhase s != 1 && pwrPhase s != 2, timer := false }) s
    if pwrPhase s == 2 then
      let s := setPwr (fun p => { p with todo := stopSet s t }) s
      if s.pwr.todo.isEmpty then enterState s else s
    else s
  else if pwrPhase s == 1 || pwrPhase s == 2 then
    setPwr (fun p => { p with timer := false }) (refuseAttempt 0xFF was s)
  else if isSleep (chipState s) then wakeSource 6 (setPwr (fun p => { p with due := false, timer := false }) s)
  else
    let s := setFld F.PWR_STAT_state t (setPwr (fun p => { p with due := false, timer := false }) s)
    if t == 0 then ungate s else s

/-- Set the target state (R410). -/
def setTarget (t : Nat) (s : State) : State := targetSet (chipTarget s) (setFld F.PWR_CTRL_target t s)

/-- Whether the chip is idle (R402). -/
def chipIdle (s : State) : Bool :=
  s.cmd.queue.isEmpty && !reacting s &&
    (if isTile s then fld s F.LD_STAT_dry_state == 2 else (List.range 16).all (fun n => fldAt s F.FLOW_STAT_state n != 2))

/-- An awake chip has been idle for base_ms with auto_state set (R402). -/
def autoIdle (s : State) : State :=
  let a := fld s F.PWR_CTRL_auto_state
  if (a == 2 || a == 3) && decide (chipState s ≤ 1) && !isSleep (chipTarget s) && pwrPhase s == 0 && chipIdle s then
    setTarget a s
  else s

/-- The entry timer expires (R402). -/
def timerExpires (s : State) : State :=
  if s.pwr.timer && isSleep (chipTarget s) then setPwr (fun p => { p with timer := false, due := true }) s else s

/-! ### PD_CTRL.enable (R394) -/

/-- Domain `d` has answered ready to a write of enable = 0: it stops (R394, R400). -/
def closeDomain (d : Nat) (s : State) : State := setFlagAt F.PD_CTRL_enable d false (switchOff d false true s)

/-- Domains that enable = 0 has asked and that are ready now stop (R394). -/
def closeReady (s : State) : State :=
  let l := s.pwr.closing.filter (fun d => pdState s d == 1 && domainReady s 4 false d)
  forEach l closeDomain (setPwr (fun p => { p with closing := p.closing.filter (fun d => !l.contains d) }) s)

/-- Domains that enable = 0 has asked and that have not answered within quiesce_ms refuse (R394, R400, R403). -/
def closeLate (s : State) : State :=
  forEach (s.pwr.closing.filter (fun d => pdState s d == 1)) (fun d st => raise Src.PWR_SLEEP_REFUSED (lanesResume (recordRefusal d 1 (chipTarget st) st)))
    (setPwr (fun p => { p with closing := [] }) s)

/-- PD_CTRL_nn.enable is written (R14, R394). -/
def enableWritten (d : Nat) (on : Bool) (s : State) : State :=
  if d == 0 || d > 32 || !domainAllowed s d then s
  else if on then
    let asked := s.pwr.closing.contains d
    let s := setFlagAt F.PD_CTRL_enable d true (setPwr (fun p => { p with closing := p.closing.filter (fun x => x != d) }) s)
    let s := if asked then lanesResume s else s
    if pdState s d == 1 || s.pwr.restarts.contains d || s.pwr.gated.contains d || s.pwr.asleep.contains d || tripped s then s
    else if isSleep (chipState s) && sleepCode s (chipState s) d != 1 then
      setPwr (fun p => { p with asleep := d :: p.asleep }) s
    else queueRestarts [d] (setFlagAt F.PD_CTRL_dead d false s)
  else if pdState s d == 1 then
    (if domainReady s 4 false d then closeDomain d s
     else if s.pwr.closing.contains d then s
     else askQuads [d] (setPwr (fun p => { p with closing := p.closing ++ [d] }) s))
  else
    let s := setFlagAt F.PD_CTRL_enable d false s
    let head := s.pwr.restarts.head? == some d
    let s := setPwr (fun p => { p with
      gated := p.gated.filter (fun x => x != d)
      asleep := p.asleep.filter (fun x => x != d) }) (dropWaits d s)
    let s := if pdState s d == 2 then domainLost d s else s
    let s := setPdState d 0 s
    if head then nextRestart s else setPwr (fun p => { p with restarts := p.restarts.filter (fun x => x != d) }) s

/-! ### Resets (R408, R409, R457 to R460) -/

/-- Every domain but PD_00 returns to reset, with its cause (R460): the retention header clears, the firmware area and the
trip latch stay, a flash operation is cut off. -/
def resetChip (cause : Nat) (s : State) : State :=
  let keep := s.regs.filter (fun e => regDomain e.1 == 0 && decide (0x10000 ≤ e.1))
  let mono := s.time.mono
  let s := { s with
    regs := keep
    store := []
    dram := []
    eth := {}
    flac := {}
    evt := { s.evt with notes := [] }
    lanes := List.replicate 16 {}
    ports := List.replicate 8 {}
    time := { mono := mono }
    wt := {}
    ce := {}
    enumr := {}
    cmd := {}
    pkt := {}
    comp := {}
    pipe := {}
    lamp := {}
    dramc := {}
    pwr := { retention := s.pwr.retention, recorded := s.pwr.recorded, written := s.pwr.written, kicked := mono }
    therm := {}
    boot := { flash := s.boot.flash, flashBytes := s.boot.flashBytes, otpSvn := s.boot.otpSvn, otpLock := s.boot.otpLock }
    red := {}
    board := { s.board with dramDeclared := false } }
  let s := forEach ((List.range 32).map (· + 1)) (fun d st => setPdState d 0 st) s
  let s := setPhase 0 (setFld F.PWR_STAT_state 0 (setFld F.PWR_RESET_CAUSE_cause cause s))
  setRetBytes 0 (List.replicate 256 0) s

/-- The reset ends, SYS_RESET is raised (R409), and the reset sequence starts: once the PLLs have locked, 20 µs later, PD_01,
PD_02 and PD_04 restart, or PD_01 alone with the trip latch set (R420, R460). -/
def resetSequence (s : State) : State :=
  let s := queueRestarts (if tripped s then [1] else [1, 2, 4])
    (setPwr (fun p => { p with why := .reset }) (raise Src.SYS_RESET s))
  setPwr (fun p => { p with startedAt := s.time.mono + 40000 }) s

/-- A reset that comes from inside, as by RESET_N, with its cause: the RESET command has its own (R95, R411, R422, R425). -/
def resetInside (cause : Nat) (s : State) : State := resetSequence (resetChip cause s)

/-- The watchdog expires (R409): PD_01 stops without negotiation and restarts, and the ROM runs. -/
def watchdog (s : State) : State :=
  let n := fld s F.HK_WDOG_timeout_ms
  if n == 0 || !domainOn s 1 then s
  else
    let s := elapse (s.pwr.kicked + n * 2000000 - s.time.mono) s
    let s := setBoot (fun b => { b with mode := .rom, startDue := false }) (switchOff 1 false true s)
    raise Src.SYS_HK_WDOG (queueRestarts [1] s)

/-! ### Rows of the opcode table -/

/-- DOMAIN_DEMAND (R399). -/
def execDomainDemand (_ : Master) (domain : Nat) (s : State) : Host.Outcome State Fault Refusal := .next (demand domain s)

/-- DOMAIN_IDLE_GATE (R398). -/
def execDomainIdleGate (domain : Nat) (s : State) : Host.Outcome State Fault Refusal := .next (idleGate domain s)

/-- AUTO_STATE_IDLE (R402). -/
def execAutoStateIdle (s : State) : Host.Outcome State Fault Refusal := .next (autoIdle s)

/-- ENTRY_TIMER_EXPIRE (R402). -/
def execEntryTimerExpire (s : State) : Host.Outcome State Fault Refusal := .next (timerExpires s)

/-- SLEEP_ATTEMPT (R400). -/
def execSleepAttempt (s : State) : Host.Outcome State Fault Refusal := .next (attemptStart s)

/-- QUIESCE_DONE (R394, R400): for an attempt, or for domains that enable = 0 has asked. -/
def execQuiesceDone (s : State) : Host.Outcome State Fault Refusal :=
  .next (if pwrPhase s == 1 then quiesceDone s else closeReady s)

/-- QUIESCE_TIMEOUT (R394, R400, R403). -/
def execQuiesceTimeout (s : State) : Host.Outcome State Fault Refusal :=
  .next (if pwrPhase s == 1 then quiesceLate s else closeLate s)

/-- DOMAIN_STOP (R400, R403). -/
def execDomainStop (s : State) : Host.Outcome State Fault Refusal := .next (stopNext s)

/-- WAKE_N_ASSERT (R404, R405). -/
def execWakeNAssert (s : State) : Host.Outcome State Fault Refusal := .next (wakeSource 0 s)

/-- AON_ALARM_EXPIRE (R405): the edges count from the entry. -/
def execAonAlarmExpire (s : State) : Host.Outcome State Fault Refusal :=
  .next (if fld s F.PWR_ALARM_count != 0 && isSleep (chipState s) then wakeSource 1 s else s)

/-- HSPI_CS_WAKE (R405): the transaction itself is not received. -/
def execHspiCsWake (s : State) : Host.Outcome State Fault Refusal := .next (wakeSource 3 s)

/-- WAKE_BURST_DETECT (R57, R405). -/
def execWakeBurstDetect (lane : Nat) (s : State) : Host.Outcome State Fault Refusal :=
  let listens := (laneAt s lane).byHandshake && chipState s != 4 && decide (lane < 16)
  let s := if domainOn s 11 && domainOn s (6 + lane / 4) then burstSeen lane s
    else if listens then raise Src.LANE_WAKE s else s
  .next (if listens && bitOf (fld s F.PWR_WAKE_EN_lanes) lane then wakeSource 2 s else s)

/-- EVT_IN_EDGE (R311, R405): a stamped edge is a wake source. -/
def execEvtInEdge (n : Nat) (rising : Bool) (s : State) : Host.Outcome State Fault Refusal :=
  .next (whenOn 3 (fun st =>
    let t := inEdge n rising st
    if (inPin t n).last != (inPin st n).last then wakeSource 5 t else t) s)

/-- HK_WDOG_EXPIRE (R409). -/
def execHkWdogExpire (s : State) : Host.Outcome State Fault Refusal := .next (watchdog s)

/-- RESET_N_ASSERT (R460). -/
def execResetNAssert (s : State) : Host.Outcome State Fault Refusal :=
  let s := resetChip 1 s
  .next { s with board := { s.board with resetHigh := false, strapsDue := false } }

/-- RESET_N_RISE (R457, R460). -/
def execResetNRise (s : State) : Host.Outcome State Fault Refusal :=
  .next (if s.board.resetHigh then s
    else resetSequence { s with board := { s.board with resetHigh := true, strapsDue := true } })

/-- POWER_ON_RESET (R459): everything in the device but the flash and the OTP cells; with RESET_N high the release counts as
its rising edge (R460). -/
def execPowerOnReset (resetNHigh : Bool) (s : State) : Host.Outcome State Fault Refusal :=
  let t : State := { State.reset with
    pending := s.pending
    time := { mono := s.time.mono }
    boot := { flash := s.boot.flash, flashBytes := s.boot.flashBytes, otpSvn := s.boot.otpSvn, otpLock := s.boot.otpLock }
    freeCnt := s.freeCnt
    emitted := s.emitted }
  let t := resetChip 0 t
  .next (if resetNHigh then resetSequence { t with board := { t.board with resetHigh := true, strapsDue := true } }
    else { t with board := { t.board with resetHigh := false } })

/-- STRAP_SAMPLE (R13, R418, R457): 5 µs after the rising edge, which is 15 µs before the first domain restarts. -/
def execStrapSample (roleSel : Bool) (bootSel : Nat) (s : State) : Host.Outcome State Fault Refusal :=
  .next (if s.board.strapsDue then
      let s := elapse (s.pwr.startedAt - 30000 - s.time.mono) s
      { s with board := { s.board with
          role := if roleSel then .sender else .tile
          bootSel := bootSel % 4
          strapsDue := false } }
    else s)

end Sys2Proof.Machine
end

