-- ==== Sys2Proof/Machine/Thermal.lean ====
section
/-! DEFINITION. Sensors, thresholds, the trip latch and the write windows (spec/17_thermal_and_calibration.md, R377 to R385). -/

namespace Sys2Proof.Machine

/-- Sensor `n`. -/
def sensorAt (s : State) (n : Nat) : Sensor := s.therm.sensors.getD n {}

/-- Change sensor `n`. -/
def setSensor (n : Nat) (f : Sensor → Sensor) (s : State) : State :=
  setTherm (fun t => { t with sensors := updAt f t.sensors n }) s

/-- Report of sensor `n` in 1/128 °C. -/
def sensorTemp (s : State) (n : Nat) : Int := sgn 16 (fldAt s F.THERM_TEMP_temp n)

/-- Sensors that run: TS_00 always, the others with PD_04 (R377). -/
def sensorsOn (s : State) : List Nat := if domainOn s 4 then List.range 12 else [0]

/-- Valid sensors among those that run (R378). -/
def validSensors (s : State) : List Nat := (sensorsOn s).filter (fun n => flagAt s F.THERM_TEMP_valid n)

/-- Twice the median of a list of numbers: the middle one, or the mean of the middle two. -/
def medianTwice (l : List Int) : Int :=
  let l := l.mergeSort (fun a b => decide (a ≤ b))
  let n := l.length
  l.getD ((n - 1) / 2) 0 + l.getD (n / 2) 0

/-- Whether a report of sensor `n` is good (R378): in range, and within 15 °C of the median of the other running sensors that
have reported. -/
def reportGood (s : State) (n : Nat) (r : Int) : Bool :=
  let others := (sensorsOn s).filter (fun m => m != n && !(sensorAt s m).hist.isEmpty)
  decide (-50 * 128 ≤ r) && decide (r ≤ 150 * 128) &&
    (others.isEmpty || decide ((2 * r - medianTwice (others.map (sensorTemp s))).natAbs ≤ 2 * 15 * 128))

/-- Sensor `n` is bad or good, and THERM_STAT shows it while PD_04 is on. -/
def setBad (n : Nat) (b : Bool) (s : State) : State := whenOn 4 showBad (setSensor n (fun x => { x with good := 0, bad := b }) s)

/-- Validity of sensor `n` after a report (R378). -/
def judgeSensor (n : Nat) (ok : Bool) (s : State) : State :=
  let x := sensorAt s n
  if !ok then
    let s := setBad n true (setFlagAt F.THERM_TEMP_valid n false s)
    if x.bad then s else raise Src.THERM_SENSOR s
  else if x.bad then
    (if 100 ≤ x.good + 1 then setBad n false (setFlagAt F.THERM_TEMP_valid n true s)
     else setSensor n (fun y => { y with good := y.good + 1 }) s)
  else setFlagAt F.THERM_TEMP_valid n true s

/-- THERM_JUNC shows the highest and the lowest valid report (R378). -/
def showJunction (s : State) : State :=
  match (validSensors s).map (sensorTemp s) with
  | [] => s
  | x :: t => setFld F.THERM_JUNC_max (unsgn 16 (t.foldl max x)) (setFld F.THERM_JUNC_min (unsgn 16 (t.foldl min x)) s)

/-- THERM_CFG, also while PD_04 is off, from its keep record. -/
def thermCfg (s : State) : Nat :=
  let a := F.THERM_CFG_warn.addr 0
  if domainOn s 4 then (regWord s a).toNat
  else (smGet resetWord (assoc [] s.pwr.keep 4) a).toNat

/-- A threshold of THERM_CFG in °C; above 125 °C it acts as 125 °C (R380). -/
def threshold (s : State) (hi lo : Nat) : Nat := min 125 (bitsOf (thermCfg s) hi lo)

/-- One threshold condition with its hysteresis: its level source is raised when it becomes true (R365, R380). -/
def thresholdStep (f : Fld) (src hi lo : Nat) (s : State) : State :=
  let t := sgn 16 (fld s F.THERM_JUNC_max)
  let on : Int := threshold s hi lo * 128
  let was := flag s f
  let now := decide (on ≤ t) || (was && decide (on - fld s F.THERM_CFG_hyst * 128 ≤ t))
  let s := setFlag f now s
  if now && !was then raise src s else s

/-- The three thresholds (R380). -/
def thresholds (s : State) : State :=
  thresholdStep F.THERM_STAT_critical Src.THERM_CRITICAL 15 8
    (thresholdStep F.THERM_STAT_throttle Src.THERM_THROTTLE 23 16
      (thresholdStep F.THERM_STAT_warn Src.THERM_WARN 31 24 s))

/-- Whether sensor `n` rises faster than the limit over the window (R382). -/
def risesFast (s : State) (n : Nat) : Bool :=
  let x := sensorAt s n
  let w := clampN 1 100 (fld s F.THERM_RATE_CFG_window)
  let rate := max 1 (fld s F.THERM_RATE_CFG_rate)
  match x.hist.find? (fun e => decide (e.1 + 10 * w ≤ x.now)) with
  | none => false
  | some (_, old) => decide ((64 * rate * w : Nat) < 100 * (sensorTemp s n - sgn 16 old))

/-- The rate of rise after a report of sensor `n` (R382). -/
def rateStep (n : Nat) (s : State) : State :=
  let s := setSensor n (fun x => { x with rising := flagAt s F.THERM_TEMP_valid n && risesFast s n }) s
  let any := s.therm.sensors.any (fun x => x.rising)
  let was := flag s F.THERM_STAT_rate
  let s := setFlag F.THERM_STAT_rate any s
  if any && !was then raise Src.THERM_RATE s else s

/-- The write windows (R385). -/
def windows (s : State) : State :=
  let l := (validSensors s).map (sensorTemp s)
  let holds (lo hi : Int) : Bool :=
    decide (2 ≤ l.length) && !tripped s && l.all (fun t => decide (lo * 128 ≤ t) && decide (t ≤ hi * 128))
  setFlag F.THERM_STAT_flash_ok (holds 0 100) (setFlag F.THERM_STAT_otp_ok (holds 10 60) s)

/-- A domain stops because of the trip: nothing of it is kept (R383). -/
def tripStop (d : Nat) (s : State) : State :=
  if d == 1 || pdState s d == 0 then s
  else setPdState d 0 (domainLost d (resetRegs d (when (d == 12) dramLose s)))

/-- The trip latch sets (R383). -/
def trip (sensor temp : Nat) (s : State) : State :=
  if tripped s then s
  else
    let s := setFlag F.THERM_TRIP_LOG_tripped true (setFld F.THERM_TRIP_LOG_sensor sensor (setFld F.THERM_TRIP_LOG_temp temp s))
    let s := forEach stopOrder tripStop s
    let one := s.pwr.restarts.filter (fun d => d == 1)
    let s := setPwr (fun p => { p with
      restarts := one
      todo := []
      stopped := []
      closing := []
      gated := []
      due := false
      timer := false
      keep := []
      waits := []
      why := if one.isEmpty then .none else p.why }) s
    let s := if one.isEmpty then s else startHead s
    let s := { setPhase 0 s with board := { s.board with tripPadLow := true } }
    raise Src.THERM_TRIP s

/-- Calibration items that follow sensor `n` compare their temperature (R387). -/
def calFollow (n : Nat) (s : State) : State :=
  forEach (List.range 4) (fun i st =>
    if calSensor i == n || calSensorBad st i then calCheck i st else st) s

/-- Sensor `n` reports (R377 to R387). With PD_04 off TS_00 alone reports, and nothing of the block runs but its comparison
with the trip and the warn threshold. -/
def sensorReport (n r : Nat) (s : State) : State :=
  let on := domainOn s 4
  let z := sgn 16 r
  if !(sensorsOn s).contains n then s
  else
    let ok := reportGood s n z
    let s := setSensor n (fun x =>
      let t := x.now + (if on then 1 else 10)
      { x with now := t, hist := ((t, r % 2 ^ 16) :: x.hist).take 1001 }) (setFldAt F.THERM_TEMP_temp n r s)
    let s := judgeSensor n ok s
    let s := if on then calFollow n (rateStep n (thresholds (showJunction (ceBlockSample (0x10 + n) z s)))) else s
    let s := if flagAt s F.THERM_TEMP_valid n && decide (125 * 128 ≤ z) then trip n r s else s
    let s := if domainOn s 4 then windows s else s
    if n == 0 && decide ((threshold s 31 24 * 128 : Nat) ≤ z) then wakeSource 4 s else s

/-! ### Rows of the opcode table -/

/-- SENSOR_REPORT (R377). -/
def execSensorReport (sensor report : Nat) (s : State) : Host.Outcome State Fault Refusal :=
  .next (sensorReport sensor report s)

/-- TRIP_COMPARATOR (R383): TS_00's analog comparator. -/
def execTripComparator (s : State) : Host.Outcome State Fault Refusal :=
  .next (trip 0xF (fldAt s F.THERM_TEMP_temp 0) s)

end Sys2Proof.Machine
end

