-- ==== Sys2Proof/Machine/Rom.lean ====
section
/-! DEFINITION. ROM boot, hand-over, recovery, firmware start and activation (spec/19_boot_and_update.md, R418 to R433). -/

namespace Sys2Proof.Machine

/-- What the ROM decides from the record and the handover request: the slot it tries first, the request it leaves and the note;
none where it enters recovery (R420). -/
def bootChoice (s : State) : Option (Nat × (Nat × Nat) × Nat) :=
  match bootRecord s with
  | none => none
  | some (_, w) =>
    let (req, slot) := handover s
    if s.board.bootSel == 2 || req == 3 then none
    else
      let a := w.getD 2 0 / 2 ^ 31
      let armed := bitsOf (w.getD 2 0) 30 29 == 1
      if armed && req == 1 && slot == 1 - a then some (1 - a, (2, 1 - a), 3)
      else if armed && req == 2 && slot == 1 - a then some (a, (0, 0), 1)
      else some (a, (0, 0), 0)

/-- The recovery domains are powered; in tile role the ring ports train unless BOOT_SEL is 01b (R433). -/
def recoveryPower (s : State) : State :=
  let s := enableWritten 14 true s
  if isTile s && s.board.bootSel != 1 then
    let s := forEach [11, 7, 6] (fun d st => enableWritten d true st) s
    portEnable 1 true (portEnable 0 true s)
  else s

/-- Enter recovery; `failed` is the slot that a download goes to (R433). -/
def enterRecovery (failed : Nat) (s : State) : State :=
  let s := setBoot (fun b => { b with mode := .recovery, failed := failed, session := none, trial := none, armed := none }) s
  let s := setFlag F.BOOT_INFO_recovery true (setUpdState 6 s)
  recoveryPower (raise Src.UPD_RECOVERY s)

/-- The hand-over to the image in `slot` (R420, R427): hold-up parameters, BOOT_INFO, the image's version words, and the
deadline of a trial. -/
def handOver (slot note : Nat) (s : State) : State :=
  let w := recordWords s
  let h := (List.range 6).map (headerWord s slot)
  let put (f : Fld) (k : Nat) (s : State) : State := setInst f 0 (BitVec.ofNat 32 (w.getD k 0)) s
  let s := put F.HOLDUP_CFG_0_cap_uf 4 (put F.HOLDUP_CFG_1_load_mw 5 s)
  let s := setFld F.HOLDUP_CFG_2_ratio (w.getD 6 0) s
  let s := setFld F.BOOT_INFO_slot slot (setFld F.BOOT_INFO_note note (setFlag F.BOOT_INFO_recovery false s))
  let s := setFld F.UPD_IMAGE_image_version (h.getD 2 0) s
  let s := setFld F.UPD_VERSION_svn (h.getD 1 0) (setFld F.UPD_VERSION_settings_version (h.getD 4 0) s)
  let trial := note == 3
  let s := setBoot (fun b => { b with
    mode := .firmware
    startDue := true
    header := h
    running := slot
    trial := if trial then some (slot, s.time.mono) else none
    deadline := w.getD 2 0 % 2 ^ 16
    deadlinePast := false
    rewriteDue := bitsOf (w.getD 2 0) 30 29 == 1 && !trial }) s
  calTriggerAll (setUpdState (if trial then 5 else 0) s)

/-- Verify a slot at boot; a bad signature raises UPD_SIG_FAIL (R420). -/
def bootVerify (slot : Nat) (s : State) : Bool × State :=
  match verifySlot s slot with
  | .good => (true, s)
  | .signature => (false, raise Src.UPD_SIG_FAIL s)
  | _ => (false, s)

/-- The ROM runs (R384, R420). -/
def romBoot (s : State) : State :=
  if s.boot.mode != .rom || !s.pwr.restarts.isEmpty || !domainOn s 1 then s
  else if tripped s then setBoot (fun b => { b with mode := .tripped }) s
  else if !domainOn s 2 || !domainOn s 4 then s
  else match bootChoice s with
    | none =>
      let failed := match bootRecord s with
        | some (_, w) => 1 - w.getD 2 0 / 2 ^ 31
        | none => 0
      enterRecovery failed s
    | some (slot, (req, rslot), note) =>
      let s := if (handover s).1 == req then s else setHandover req rslot s
      let (ok, s) := bootVerify slot s
      if ok then handOver slot note s
      else
        let (ok, s) := bootVerify (1 - slot) s
        if ok then handOver (1 - slot) 2 s else enterRecovery slot s

/-- ETH_CFG.mode, from the keep record of PD_10 while that domain is off (R407). -/
def ethModeKept (s : State) : Nat :=
  if domainOn s 10 then fld s F.ETH_CFG_mode
  else bitsOf (assoc 0 (assoc [] s.pwr.keep 10) F.ETH_CFG_mode.base).toNat F.ETH_CFG_mode.hi F.ETH_CFG_mode.lo

/-- Whether the Ethernet configuration of a sender leaves all of quad 1 unused (R14, R111): no port, or a reserved mode. -/
def quadUnused (s : State) : Bool := isSender s && (ethModeKept s == 0 || decide (ethModeKept s ≥ 7))

/-- The handed-over image starts (R204, R420, R426, R430, R460): it says how it came to run, migrates the settings of a trial,
and powers the domains whose enable is 1, but PD_07 where the Ethernet configuration leaves quad 1 unused (R14). -/
def firmwareStart (s : State) : State :=
  if s.boot.mode != .firmware || !s.boot.startDue then s
  else
    let s := setBoot (fun b => { b with startDue := false }) s
    let note := fld s F.BOOT_INFO_note
    let slot := s.boot.running
    let v := s.boot.header.getD 4 0 % 2 ^ 16
    let s := if note == 3 then raise Src.UPD_ACTIVATED s else if note == 0 then s else raise Src.UPD_FALLBACK s
    let s := if note == 3 then settingsTry (setBoot (fun b => { b with settingsDue := some (migrate s (1 - slot) v) }) s) else s
    let data := match s.boot.settingsDue, settingsOf s slot with
      | some (_, d), _ => d
      | none, some (_, _, d, _) => d
      | none, none => Config.defaultSettings v
    let s := { s with board := { s.board with dramDeclared := Config.declaresDram data } }
    let l := stopOrder.reverse.filter (fun d => pdState s d == 0 && domainUsable s d && !(d == 7 && quadUnused s) &&
      !(isSleep (chipState s) && sleepCode s (chipState s) d != 1))
    let s := if domainOn s 16 then restoreArrays 16 s else s
    queueRestarts l s

/-- The handover request is written and the chip resets as by RESET_N (R422, R425). -/
def resetWith (request slot : Nat) (s : State) : State := resetInside 1 (setHandover request slot s)

/-- Whether the reply to a command of an opcode has not left yet, to its last byte (R95, R97). -/
def replyWaiting (s : State) (op : Nat) : Bool :=
  s.cmd.queue.any (fun c => beAt c.raw 4 2 == op && c.phase == .answered)

/-- Activation at the armed epoch, or 100 µs after the reply when F = 0 (R425). -/
def activation (s : State) : State :=
  match s.boot.armed, s.boot.session with
  | some f, some x =>
    if updState s != 4 then s
    else if f == 0 then (if replyWaiting s 0x0903 then s else resetWith 1 x.slot (elapse 200000 s))
    else if f ≤ frameTag s s.wt.boundary then resetWith 1 x.slot s
    else s
  | _, _ => s

/-! ### Rows of the opcode table -/

/-- ROM_BOOT (R420). -/
def execRomBoot (s : State) : Host.Outcome State Fault Refusal := .next (romBoot s)

/-- FIRMWARE_START (R430). -/
def execFirmwareStart (s : State) : Host.Outcome State Fault Refusal := .next (whenOn 2 firmwareStart s)

/-- UPD_ACTIVATION (R425): at the frame boundary of the armed epoch, or a later one, once WALL_FRAME_BOUNDARY has applied the
boundary's stages. -/
def execUpdActivation (s : State) : Host.Outcome State Fault Refusal := .next (whenOn 2 activation s)

/-- UPD_RECOVER_RESET (R422). -/
def execUpdRecoverReset (s : State) : Host.Outcome State Fault Refusal :=
  .next (if s.boot.recoverDue && !replyWaiting s 0x0906 then resetWith 3 0 (elapse 200000 s) else s)

/-- RESET_CMD_EXPIRE (R95): 100 µs after the reply to RESET. -/
def execResetCmdExpire (s : State) : Host.Outcome State Fault Refusal :=
  .next (if s.cmd.resetDue && !replyWaiting s 0x0002 then resetInside 2 (elapse 200000 s) else s)

end Sys2Proof.Machine
end

