-- ==== Sys2Proof/Machine/Bus.lean ====
section
/-! DEFINITION. The bus: what a master reads and writes at an address (spec/20_register_map.md, R436 to R443; R3, R10, R11,
R98, R150, R393), with the effects that the chapters give the reads and writes of their registers. -/

namespace Sys2Proof.Machine

/-! ### The address map (R436) -/

/-- The spans of the address map, as first address and bytes; each is one region. -/
def spans : List (Nat × Nat) :=
  [(0x0, 0x10000), (0x10000, 0x10000), (0x20000, 0x10000), (0x30000, 0x10000), (0x40000, 0x10000), (0x50000, 0x10000),
   (0x80000, 0x40000), (0xC0000, 0x40000), (0x100000, 0x40000), (0x140000, 0x40000), (0x180000, 0x80000),
   (0x200000, 0x40000), (0x240000, 0x40000), (0x280000, 0x40000), (0x2C0000, 0x40000), (0x300000, 0x40000),
   (0x10000000, 0x1800000), (0x80000000, 0x80000000)]

/-- The span in which an address lies. -/
def spanOf (a : Nat) : Option (Nat × Nat) := spans.find? (fun r => decide (r.1 ≤ a) && decide (a < r.1 + r.2))

/-- DRAM offset of window address `a` for a master (R150). -/
def dramOffset (s : State) (m : Master) (a : Nat) : Nat :=
  let page := match m with
    | .hspi => fld s F.DRAM_WIN_cmd_page
    | .udp _ _ => fld s F.DRAM_WIN_cmd_page
    | .ring => fld s F.DRAM_WIN_cmd_page
    | .hk0 => fld s F.DRAM_WIN_hk0_page
    | .hk1 => fld s F.DRAM_WIN_hk1_page
    | .ce => fld s F.DRAM_WIN_ctrl_page
  page * 2 ^ 31 + (a - 0x80000000)

/-- Bytes of external memory that a window access can reach. While PD_12 is gated an access waits and then reaches the memory
in its self-refresh (R150, R393, R399). -/
def windowSize (s : State) : Nat :=
  if serve s 12 == .waits && s.dramc.asleep then cfgUnits s.dramc.cfg * 2 ^ 28 else dramSize s

/-- Whether `n` words from `a` may be accessed by a command (R98, R150): aligned, inside one region, and present. -/
def rangeOk (s : State) (m : Master) (a n : Nat) : Bool :=
  a % 4 == 0 && (match spanOf a with
    | none => false
    | some (b, len) => decide (a + 4 * n ≤ b + len) &&
        (!inDram a || decide (dramOffset s m a + 4 * max 1 n ≤ windowSize s)))

/-! ### What a register reads -/

/-- ID_CHECK (R442). -/
def idCheck (s : State) : Nat :=
  crc32c ((List.range 7).flatMap (fun k => beBytes 4 (idWord s k)))
where
  /-- Identity word `k`; ID_STRAP shows the straps. -/
  idWord (s : State) (k : Nat) : Nat :=
    let w := (regWord s (4 * k)).toNat
    if k == 3 then withBits (withBits w 31 31 (b2n (isSender s))) 30 29 s.board.bootSel else w

/-- Words of the command buffer (R93). -/
def bufferWords (s : State) : Nat := if isSender s then 0x4000 else 0x400

/-- Entries of the staging area (R104). -/
def stagingRoom (s : State) : Nat := if isSender s then 0x2000 else 0x400

/-- Buffer words not reserved (R97). -/
def bufferFree (s : State) : Nat := bufferWords s - (s.cmd.queue.map QCmd.reserve).sum

/-- Staged entries held. -/
def stagedEntries (s : State) : Nat := (s.cmd.stages.map (fun x => (x.pieces.map (fun p => p.2.length)).sum)).sum

/-- Reserved bits inside the words of the register arrays, which read 0 (R10): slot descriptors (R278), accord headers and
layers (R175, R176), TIME_STEP_SEC_HI and EVT_OUT_WIDTH (R317), gamut matrices (R218). -/
def arrayReserved (d : RegDesc) (i : Nat) : Nat :=
  if d.base == F.CE_DESC_word.base then
    [0x03003FFF, 0xFF000000, 0x003F0000, 0xFFF, 0x7F, 0, 0, 0xFFF, 0xFFF, 0xFFF, 0xFFFF, 0, 0, 0, 0, 0, 0, 0, 0,
     0x7F000000].getD (i % 32) 0xFFFFFFFF
  else if d.base == F.ACCORD_WORD_word.base then
    (if i % 256 < 16 then [0xFFFFF, 0xFFF00000, 0xFFF00000, 0xFFF00000].getD (i % 256) 0xFFFFFFFF
     else [0x700FF, 0xFFFF, 0, 0, 0, 0, 0xF000F000, 0xF000F000, 0, 0, 0x3FFFFF, 0xFFF00000, 0xFFF00000,
      0xFFF00000].getD (i % 16) 0xFFFFFFFF)
  else if d.base == F.TIME_STEP_SEC_HI_value.base then 0xFFFF0000
  else if d.base == F.EVT_OUT_WIDTH_value.base then 0xFF000000
  else if d.base == F.GAMUT_0_word.base || d.base == F.GAMUT_1_word.base then 0xFFFF0000
  else 0

/-- Whether the role excludes instance `i` of a register: it reads 0, and writes have no effect (R224, R441 and the rules of
each block). -/
def roleAbsent (s : State) (d : RegDesc) (i : Nat) : Bool :=
  let (lo, hi) := d.bounds s.board.role
  !(decide (lo ≤ i) && decide (i < hi)) ||
    (isSender s && decide (0x200000 ≤ d.base) && decide (d.base < 0x240000) &&
      !([F.PIPE_BANK_tf.base, F.TF_CFG_bank.base, F.TF_LEVEL_sdr_white.base, F.GAMUT_0_word.base,
        F.GAMUT_1_word.base].contains d.base)) ||
    (isTile s && d.base == F.ACCORD_WORD_word.base && decide (128 ≤ i % 256)) ||
    (d.base == F.TMAP_HI_x0.base && (i % 256 == 0 || i % 256 == 255)) ||
    (d.base == F.TMAP_LO_w.base && (i % 256 == 0 || i % 256 == 255))

/-- Bits that the role or the source table leaves without function: they read 0 and ignore writes (R169, R224, R367, R386,
R411). -/
def absentBits (s : State) (d : RegDesc) (i : Nat) : Nat :=
  if d.base == F.PIPE_BANK_tf.base && isSender s then 0xC
  else if d.base == F.PWR_CTRL_target.base && isTile s then 0xFF0000
  else if d.base == F.EVT_STAT_sticky.base || d.base == F.EVT_MASK_mask.base then 0xFFFFFFFF - groupMask i
  else if d.base == F.EVT_CLASS_class.base then 0xFFFFFFFF - classMask i
  else if d.base == F.PD_CTRL_enable.addr 1 && !domainAllowed s (i + 1) then 0x80000000
  else if d.base == F.CAL_CTRL_start.base && isSender s then 0x40004
  else if d.base == F.DRAM_PORT_QOS_lvl1.base && !realTime i then 0x3FFFF
  else 0

/-- What a register word reads to a master, without the effects of the read. -/
def viewReg (m : Master) (s : State) (d : RegDesc) (i : Nat) : Word :=
  let a := d.base + d.stride * i
  let w := regWord s a
  let n (x : Nat) : Word := BitVec.ofNat 32 x
  if roleAbsent s d i then 0
  else if a == 0xC then n (idCheck.idWord s 3)
  else if a == 0x1C then n (idCheck s)
  else if d.base == F.CMD_STAT_queue_used.base then n (s.cmd.queue.length * 65536 + bufferFree s)
  else if d.base == F.STAGE_STAT_stages.base then n (s.cmd.stages.length * 65536 + (stagingRoom s - stagedEntries s))
  else if a == F.TIME_NOW_SEC_HI_value.base then n (secOf (shadowAt s m) / 2 ^ 32 % 2 ^ 16)
  else if a == F.TIME_NOW_SEC_LO_value.base then n (secOf (shadowAt s m))
  else if a == F.TIME_NOW_NS_value.base then n (nsOf (shadowAt s m))
  else if a == F.TIME_NOW_FRAC_value.base then n (fracOf (shadowAt s m))
  else if a == F.WT_FRAME_HI_frame.base then n (fNow s / 2 ^ 32)
  else if a == F.TIME_RES_cw.base then n (timeResWord s)
  else if a == F.TIME_AON_MEAS_period.base then n (aonMeasured s)
  else if d.base == F.ACCORD_STAT_layers.base then n (withBits w.toNat 3 0 (slotLayers (isTile s) (regWord s) i).length)
  else if d.base == F.DRAM_BW_load.base then n (channelLoad s i)
  else if d.base == F.PORT_CFG_enable.base && isSender s then w ||| 0x40000000
  else if d.base == F.UPD_STAT_state.base then n (withBits w.toNat 15 0 (confirmLeft s))
  else w &&& ~~~ n (absentBits s d i)

/-- A store word: four bytes, the first of them lowest (R7). -/
def storeWord (s : State) (o : Nat) : Word := BitVec.ofNat 32 (leNat (storeBytes s o 4))

/-- A retention window word: half PWR_RET_WIN.half of the retention SRAM (R411). -/
def retWindow (s : State) (a : Nat) : Nat := fld s F.PWR_RET_WIN_half * 0x8000 + (a - 0x28000)

/-- What an address inside a span reads where no register table covers it: the retention window, the transfer tables, and 0
elsewhere (R218, R411, R437). -/
def viewUncovered (s : State) (a : Nat) : Word :=
  if 0x28000 ≤ a && a < 0x30000 then BitVec.ofNat 32 (retWord s (retWindow s a))
  else match tfPlace a with
    | some (_, t, _) => if t ≥ 6 && isTile s then 0 else tfWord s a
    | none => 0

/-! ### Reading -/

/-- Bits of the RC fields of a register table. -/
def rcMask (d : RegDesc) : Word :=
  d.fields.foldl (fun m f => if f.acc == .rc then m ||| fieldBits f.fld else m) 0
where
  /-- The bits of a field. -/
  fieldBits (f : Fld) : Word := BitVec.ofNat 32 (2 ^ (f.hi + 1) - 2 ^ f.lo)

/-- The RC fields of a register clear because the word has been read (R440); EVT_IN_FRAC removes the head entry (R311). -/
def readClears (d : RegDesc) (i : Nat) (s : State) : State :=
  if roleAbsent s d i then s
  else if d.base == F.EVT_IN_FRAC_valid.base then inPop i s
  else
    let a := d.base + d.stride * i
    if rcMask d == 0 then s else setRegWord a (regWord s a &&& ~~~ rcMask d) s

/-- What a read does beside RC fields: the shadow of R293 and WT_FRAME_LO. The flacon table shows the fences of the moment
(R142). -/
def readEffect (m : Master) (a : Nat) (s : State) : State :=
  if a == F.TIME_NOW_SEC_HI_value.base then takeShadow m s
  else if a == F.WT_FRAME_HI_frame.base then latchFrame s
  else if 0x140000 ≤ a && a < 0x142000 then settleFences s
  else s

/-- Whether a heart packet that this tile takes in is arriving on a port: its data is pending (R79). -/
def heartPending (s : State) (p : Nat) : Bool :=
  match (portStream s p).dropWhile (fun f => f.bytes == idleFlit) with
  | f :: _ => hClass f.bytes == 1 && !f.bad && hcheckOk f.bytes && takenHere s f.bytes
  | [] => false

/-- Whether `a` lies in the line-buffer pool, and lines have gone into the pool since reset (R81, R181). The pool's layout is
not stated: its words are free values then (DESIGN CHOICE, log 107). -/
def inPool (s : State) (a : Nat) : Bool :=
  let base := fld s F.COMP_LB_base * 256
  let size := linePool (isTile s) (regWord s)
  domainOn s 16 && (s.pkt.poolUsed || heartPending s 0 || heartPending s 1) &&
    decide (base ≤ a - 0x10000000) && decide (a - 0x10000000 < base + size)

/-- Whether a read of a word of the pool finds bytes that are pending or were discarded (R81): there are some in the pool,
and, a free value, the word holds one of them. -/
def poolUnconfirmed (s : State) (a : Nat) : Bool :=
  inPool s a && isTile s && (s.pkt.poolStale || heartPending s 0 || heartPending s 1) && Config.poolPending s.freeCnt a

/-- Whether `a` lies in the ingest buffer of a sender that packets have gone into (R125). How they lie there is not stated: its
words are free values then (DESIGN CHOICE, log 169). -/
def inIngest (s : State) (a : Nat) : Bool :=
  let base := 0x10000000 + s.eth.area * 256
  isSender s && s.eth.bufUsed && decide (base ≤ a) && decide (a < base + ingestBytes)

/-- Bytes of RED_BUF. -/
def redBuffer (s : State) : Nat := fld s F.RED_BUF_SIZE_size * 0x10000

/-- Whether byte `o` of a region lies in a sender's RED_BUF that snapshots or journal entries have gone into (R357, R358). How
they lie there is not stated: its words are free values then (DESIGN CHOICE, log 80). -/
def inRedBuf (s : State) (r o : Nat) : Bool :=
  let base := fld s F.RED_BUF_offset * 256
  isSender s && s.red.bufUsed && fld s F.RED_BUF_region == r && decide (base ≤ o) && decide (o < base + redBuffer s)

/-- A read of a store word; in the line-buffer pool it finds what the lines have left there (R81). -/
def readStore (a : Nat) (s : State) : Word × State :=
  if inPool s a then
    let un := poolUnconfirmed s a
    let (k, s) := freshIdx s
    (Config.poolWord k a, when un (setFlag F.PKT_DBG_STAT_unconfirmed true) s)
  else if inIngest s a then
    let (k, s) := freshIdx s
    (Config.ingestWord k a, s)
  else if inRedBuf s 0 (a - 0x10000000) then
    let (k, s) := freshIdx s
    (Config.snapshotWord k a, s)
  else (storeWord s (a - 0x10000000), s)

/-- Whether an address of the retention window shows what hardware has recorded: the time account, keep records and training
results, from offset 0100h to 6FFFh (R407; DESIGN CHOICE, log 48). -/
def inRecords (s : State) (a : Nat) : Bool :=
  let o := retWindow s a
  s.pwr.recorded && decide (0x28000 ≤ a) && decide (a < 0x30000) && decide (0x100 ≤ o) && decide (o < 0x7000) &&
    !s.pwr.written.contains o

/-- A read inside a span where no register table covers the address. -/
def readUncovered (a : Nat) (s : State) : Word × State :=
  if inRecords s a then
    let (k, t) := freshIdx s
    (Config.retainedWord k (retWindow s a), t)
  else (viewUncovered s a, s)

/-- The port of a master's accesses to the DRAM window (R154). -/
def windowPort (m : Master) : Nat :=
  match m with
  | .hk0 => 6
  | .hk1 => 7
  | .ce => 9
  | .hspi => 8
  | .udp _ _ => 8
  | .ring => 8

/-- A read of the DRAM word at an offset. -/
def readDram (o : Nat) (s : State) : Word × State :=
  if inRedBuf s 1 o then
    let (k, s) := freshIdx s
    (Config.snapshotWord k o, s)
  else (BitVec.ofNat 32 (leNat ((List.range 4).map (fun k => dramByte s (o + k)))), s)

/-- A master reads the word of the DRAM window at an offset (R150). -/
def windowRead (m : Master) (o : Nat) (s : State) : Word × State :=
  if o + 4 ≤ dramSize s then readDram o (portTraffic (windowPort m) 1 o 4 s) else (0, s)

/-- A master reads the word at an address of a domain that serves (R437, R440): its value, and what the read changes. -/
def busRead (m : Master) (a : Nat) (s : State) : Word × State :=
  if !domainOn s (placeDomain a) then (0, s)
  else if inStore a then readStore a s
  else if inDram a then windowRead m (dramOffset s m a) s
  else match findReg a with
    | some (d, i) =>
      let s := readEffect m a s
      let w := viewReg m s d i
      (w, readClears d i s)
    | none => readUncovered a s

/-! ### Writing -/

/-- Whether an access code lets a master's write set the bits (R340, R440). -/
def Access.writes (s : State) (acc : Access) : Bool :=
  match acc with
  | .rw => true
  | .rwl => !flag s F.GLB_BOARD_locked
  | .rwSender => isSender s
  | _ => false

/-- Bits of the fields of a register table that satisfy `p`. -/
def bitsWhere (d : RegDesc) (p : Access → Bool) : Word :=
  d.fields.foldl (fun m f => if p f.acc then m ||| rcMask.fieldBits f.fld else m) 0

/-- The word that a write leaves in a register by its access codes (R440): bits outside the mask are not written. -/
def writtenWord (s : State) (d : RegDesc) (i : Nat) (old mask v : Word) : Word :=
  let on := mask &&& ~~~ BitVec.ofNat 32 (absentBits s d i) &&& ~~~ BitVec.ofNat 32 (arrayReserved d i)
  let set := on &&& bitsWhere d (Access.writes s)
  let w := (old &&& ~~~ set) ||| (v &&& set)
  let w := w &&& ~~~ (v &&& on &&& bitsWhere d (fun x => x == .w1c))
  w ||| (v &&& on &&& bitsWhere d (fun x => x == .w1s))

/-- Whether a write to a register is an ignored write (R441): a 1 in a reserved bit, or another value for an RO or locked
field. `view` is what the register reads. -/
def ignoredWrite (s : State) (d : RegDesc) (i : Nat) (view mask v : Word) : Bool :=
  let absent := BitVec.ofNat 32 (absentBits s d i)
  let fields := bitsWhere d (fun _ => true) &&& ~~~ BitVec.ofNat 32 (arrayReserved d i)
  let fixed := bitsWhere d (fun x => x == .ro || (x == .rwl && !x.writes s) || (x == .rwSender && !x.writes s))
  let on := mask &&& ~~~ absent
  (v &&& on &&& ~~~ fields) != 0 || ((v ^^^ view) &&& on &&& fixed) != 0

/-- Record an ignored write (R441). -/
def countIgnored (a : Nat) (s : State) : State :=
  incFld F.GLB_IGN_COUNT_count (setFld F.GLB_IGN_ADDR_address a s)

/-- Registers that an effect writes itself: the generic write leaves these bits (PD_CTRL.enable R394, PORT_CFG R45 and R47,
LANE_CTRL.eidle_req R56, the slot descriptors R286). -/
def ownBits (d : RegDesc) : Word :=
  if d.base == F.PD_CTRL_enable.addr 1 then 0x80000000
  else if d.base == F.PORT_CFG_enable.base then 0x301
  else if d.base == F.LANE_CTRL_eidle_req.base then 0x20
  else if d.base == F.CE_DESC_word.base then 0xFFFFFFFF
  else 0

/-- Effects in the events and power blocks and on GLB_BOARD (R367, R371 to R374, R393 to R411, R443). -/
def effectAon (b i : Nat) (mask v : Word) (old : State) (s : State) : State :=
  let n := (v &&& mask).toNat
  let touches (k : Nat) : Bool := bitOf mask.toNat k
  if b == F.GLB_BOARD_board.base then (if bitOf n 30 then setFlag F.GLB_BOARD_locked true s else s)
  else if b == F.EVT_CTRL_ack.base then (if bitOf n 0 then ackReaction s else s)
  else if b == F.EVT_REACT_class1.base then reactChanged (bitOf (reactBits old (fld old F.EVT_CAUSE_class)) 3) s
  else if b == F.EVT_STAT_sticky.base then clearSticky i n (setFldAt F.EVT_STAT_sticky i (fldAt old F.EVT_STAT_sticky i) s)
  else if b == F.EVT_TEST_source.base then (if bitOf n 31 && srcExists (fld s F.EVT_TEST_source) then raise (fld s F.EVT_TEST_source) s else s)
  else if b == F.PWR_CTRL_target.base then (if mask.toNat % 16 != 0 then targetSet (chipTarget old) s else s)
  else if b == F.HK_WDOG_kick.base then (if bitOf n 31 then setPwr (fun p => { p with kicked := s.time.mono }) s else s)
  else if b == F.PD_CTRL_enable.addr 1 then (if touches 31 then enableWritten (i + 1) (bitOf n 31) s else s)
  else s

/-- Effects in the thermal, time and control engine blocks (R278, R286, R290, R294, R305, R309, R331, R388). -/
def effectTime (d : RegDesc) (i : Nat) (mask v : Word) (old s : State) : State :=
  let b := d.base
  let n := (v &&& mask).toNat
  if b == F.CAL_CTRL_start.base then forEach ((List.range 4).filter (bitOf n)) calTrigger s
  else if b == F.TIME_CTRL_step_go.base then timeCtrlWritten (v &&& mask) s
  else if b == F.TIME_ADJ_CNT_count.base then (if bitOf n 31 then adjustGo s else s)
  else if b == F.TIME_ERR_offset.base then timeErrWritten s
  else if b == F.EVT_OUT_CTRL_enable.base then outWritten i s
  else if b == F.WT_REC_0_rate.base || b == F.WT_REC_1_offset.base then recordWritten s
  else if b == F.WT_PEND_F_LO_value.base then pendWritten s
  else if b == F.CE_CTRL_enable.base then
    let s := if bitOf n 1 then ceClearCounts s else s
    if bitOf mask.toNat 0 then pwmSync (when (ceRuns s && !ceRuns old) ceResume s) else s
  else if b == F.CE_PWM_CFG_enable.base then pwmSync s
  else if b == F.CE_DESC_word.base then
    pwmSync (ceWrite (i / 32) (i % 32) (mask &&& ~~~ BitVec.ofNat 32 (arrayReserved d i)) v s)
  else s

/-- Clear the counters of the packet layer (R87, R193). -/
def pktClearCounts (s : State) : State :=
  let s := forEach (List.range 8) (fun p st =>
    forEach [F.PKT_OK_count, F.PKT_FAIL_LOCAL_count, F.PKT_FAIL_BLOCK_count, F.PKT_FAIL_UPSTREAM_count, F.PKT_CUT_count,
      F.PKT_OVERSIZE_count, F.PKT_FRAMING_count, F.PKT_DUP_count, F.PKT_STALE_count, F.PKT_LATE_count,
      F.PKT_MSG_DROP_count, F.NOTE_STAT_top_over, F.NOTE_STAT_heart_late] (fun f => setFldAt f p 0) st) s
  setFld F.LATE_LINE_count 0 (setFld F.ADMIT_REFUSED_count 0 (setFld F.COMP_STRAY_count 0 s))

/-- Effects in the Coushlink block (R26, R32, R47, R56, R58, R60, R87). -/
def effectLink (b i : Nat) (mask v : Word) (s : State) : State :=
  let n := (v &&& mask).toNat
  let touches (k : Nat) : Bool := bitOf mask.toNat k
  if b == F.PORT_CFG_enable.base then
    let w := withMask (fldAt s F.PORT_CFG_width i) (bitsOf mask.toNat 9 8) (bitsOf v.toNat 9 8)
    let s := if bitsOf mask.toNat 9 8 != 0 then portWidth i w s else s
    if touches 0 then ringPortWritten (portEnable i (bitOf n 0) s) else s
  else if b == F.LANE_CTRL_eidle_req.base then
    let s := if touches 5 then (if bitOf n 5 then eidleAsk i s else eidleStop i s) else s
    let s := if bitOf n 7 then laneClearCounts i s else s
    if bitOf n 6 then laneRetrain i s else s
  else if b == F.PKT_CTRL_dup_discard.base then (if bitOf n 1 then pktClearCounts s else s)
  else if b == F.TOPO_TILE_address.base then
    (if mask.toNat % 256 != 0 then syncDry (setFlag F.TOPO_TILE_held (fld s F.TOPO_TILE_address != 0) s) else s)
  else if b == F.TOPO_ENUM_start.base then forEach ((List.range 7).filter (bitOf n)) (fun p => enumTrigger p (bitOf n 8)) s
  else s
where
  /-- A field of which only the masked bits are written. -/
  withMask (old m v : Nat) : Nat := Nat.land v m + (old - Nat.land old m)

/-- Effects in the blocks from Ethernet ingest to the pipeline (R127, R151, R204, R210, R224). -/
def effectPixels (b i : Nat) (mask v : Word) (old : State) (s : State) : State :=
  let n := (v &&& mask).toNat
  if b == F.ETH_CFG_mode.base then
    let s := if bitOf n 6 then ethClear s else s
    if mask.toNat % 16 != 0 then ethModeWritten s else s
  else if 0xC1000 ≤ b && b < 0xC1024 then
    let s := if b == F.FLOW_CTRL_enable.base && mask.toNat == 0x10000 then s else flowWritten (memberships old) s
    if b == F.FLOW_CTRL_enable.base && bitOf n 16 then flowClear i s else s
  else if b == F.DRAM_CFG_enable.base then dramCfgWritten (flag old F.DRAM_CFG_enable) s
  else if b == F.DRAM_PORT_QOS_lvl1.base then showDram s
  else if b == F.TF_CFG_bank.base then (if bitOf n 31 then tfRegen s else s)
  else if b == F.PIPE_CFG_dither_en.base then (if bitOf n 1 then pipeClear s else s)
  else if b == F.TCOMP_TEMP_temp.base then tempWritten s
  else s

/-- Effects in the lamp, redundancy and boot blocks (R245, R249, R254, R266, R272, R363, R432). -/
def effectLamps (b : Nat) (mask v : Word) (old : State) (s : State) : State :=
  let n := (v &&& mask).toNat
  if b == F.LL_CTRL_enable.base then
    let was := flag old F.LL_CTRL_enable
    let now := flag s F.LL_CTRL_enable
    let s := if bitOf n 2 then llClear s else s
    if now && (!was || bitOf n 1) then llStart s else if was && !now then llStop s else s
  else if b == F.LL_DIAG_REQ_go.base then (if bitOf n 31 && !flag old F.LL_DIAG_REQ_go then diagGo s else s)
  else if b == F.LD_CTRL_enable.base then
    let was := flag old F.LD_CTRL_enable
    let now := flag s F.LD_CTRL_enable
    let s := if bitOf n 5 then driveClear s else s
    let s := if bitOf n 4 then driveResume s else s
    let s := if now && !was then driveStart s else if was && !now then driveStop s else s
    if mask.toNat % 16 != 0 then judgeNow (syncDry s) else s
  else if b == F.LD_IREF_red.base then driveCfg 4 s
  else if b == F.LD_THRESH_v_open.base then driveCfg 3 s
  else if b == F.LD_BLOT_CFG_age.base || b == F.LD_DIAG_CFG_confirm.base then judgeNow s
  else if b == F.RED_CFG_enable.base then redCfgWritten (flag old F.RED_CFG_enable) s
  else if b == F.OTP_PROG_go.base then otpProgram (bitOf n 31) (n % 65536) s
  else s

/-- What the write of a register does beside its value. `old` is the state before the write. -/
def writeEffect (d : RegDesc) (i : Nat) (mask v : Word) (old : State) (s : State) : State :=
  let b := d.base
  if b < 0x30000 then effectAon b i mask v old s
  else if b < 0x80000 then effectTime d i mask v old s
  else if b < 0xC0000 then effectLink b i mask v s
  else if b < 0x240000 then effectPixels b i mask v old s
  else effectLamps b mask v old s

/-- A master writes a register under a mask (R440, R441). -/
def writeReg (m : Master) (d : RegDesc) (i : Nat) (mask v : Word) (s : State) : State :=
  if roleAbsent s d i then s
  else
    let a := d.base + d.stride * i
    let t := if ignoredWrite s d i (viewReg m s d i) mask v then countIgnored a s else s
    let keep := ownBits d
    let w := (writtenWord t d i (regWord t a) mask v &&& ~~~ keep) ||| (regWord t a &&& keep)
    writeEffect d i mask v s (setRegWord a w t)

/-- A write inside a span where no register table covers the address (R218, R411, R437, R441). -/
def writeUncovered (a : Nat) (mask v : Word) (s : State) : State :=
  if 0x28000 ≤ a && a < 0x30000 then
    let o := retWindow s a
    let w := (BitVec.ofNat 32 (retWord s o) &&& ~~~ mask) ||| (v &&& mask)
    let whole := if mask == 0xFFFFFFFF then (o :: s.pwr.written).eraseDups else s.pwr.written
    setRetBytes o (leBytes 4 w.toNat) { s with pwr := { s.pwr with written := whole } }
  else match tfPlace a with
    | some (_, t, _) =>
      if t ≥ 6 && isTile s then s
      else
        let s := if (v &&& mask &&& ~~~ tfBits t) != 0 then countIgnored a s else s
        setTfWord a (((tfWord s a &&& ~~~ mask) ||| (v &&& mask)) &&& tfBits t) s
    | none => if (v &&& mask) != 0 then countIgnored a s else s

/-- A master writes the word at an address of a domain that serves, under a mask. -/
def busWrite (m : Master) (a : Nat) (mask v : Word) (s : State) : State :=
  if !domainOn s (placeDomain a) then s
  else if inStore a then
    let o := a - 0x10000000
    setStoreBytes o (leBytes 4 ((storeWord s o &&& ~~~ mask) ||| (v &&& mask)).toNat) s
  else if inDram a then
    let o := dramOffset s m a
    if o + 4 ≤ dramSize s then
      let w : Word := BitVec.ofNat 32 (leNat ((List.range 4).map (fun k => dramByte s (o + k))))
      portWrite (windowPort m) 1 o (leBytes 4 ((w &&& ~~~ mask) ||| (v &&& mask)).toNat) s
    else s
  else match findReg a with
    | some (d, i) => writeReg m d i mask v s
    | none => if (spanOf a).isSome then writeUncovered a mask v s else s

/-- MODIFY: the word is read whole, with its RC fields, and the masked bits are written in one access (R98 items 4 and 5). -/
def busModify (m : Master) (a : Nat) (mask v : Word) (s : State) : Word × State :=
  let (w, s) := busRead m a s
  (w, busWrite m a mask v s)

/-! ### Accesses that wait (R393, R399) -/

/-- How an access is served: by its domain, and in the DRAM window also by the queue it goes to (R158, R393). -/
def accessServe (s : State) (w : WaitingAccess) : Serve :=
  if inDram w.addr && queueFull s (w.kind != .read) (dramOffset s w.master w.addr) 4 then .waits
  else serve s (placeDomain w.addr)

/-- Whether an access of master `m` to address `a` waits for its turn: an earlier access of the same master waits (R4), or a
stage that is being applied names the address (R107). -/
def accessBehind (s : State) (m : Master) (a : Nat) : Bool :=
  s.pwr.waits.any (fun w => w.master == m && w.stage.isNone) ||
    s.cmd.stages.any (fun x => x.applying && x.pieces.any (fun p => p.2.any (fun e => e.addr == a)))

/-- Whether an access waits for its turn; the entries of stages come in the order of their stages (R107). -/
def behind (s : State) (w : WaitingAccess) : Bool :=
  if w.stage.isSome then s.pwr.waits.any (fun x => x.stage.isSome) else accessBehind s w.master w.addr

/-- An access takes effect; the value of a read leaves in the model's record. -/
def performAccess (w : WaitingAccess) (s : State) : State :=
  match w.kind with
  | .read =>
    let (v, s) := busRead w.master w.addr s
    emit (.value w.addr v) s
  | .write => busWrite w.master w.addr w.mask w.value s
  | .modify => (busModify w.master w.addr w.mask w.value s).2

/-- An access that is no command's: it takes effect at once, waits for its turn, or waits for its domain as a demand. One to a
unit that is off reads 0 and writes nothing (R4, R393). -/
def access (w : WaitingAccess) (s : State) : State :=
  let queued (s : State) : State := setPwr (fun p => { p with waits := p.waits ++ [w] }) s
  if behind s w then queued s
  else match accessServe s w with
    | .waits => demand (placeDomain w.addr) (queued s)
    | _ => performAccess w s

/-- A write by a master that is no command. -/
def masterWrite (m : Master) (a : Nat) (mask v : Word) (s : State) : State :=
  access { kind := .write, master := m, addr := a, mask := mask, value := v } s

/-- A read by a master that is no command. -/
def masterRead (m : Master) (a : Nat) (s : State) : State := access { kind := .read, master := m, addr := a } s

/-- The stages whose apply has no entry waiting any more are freed, and STAGE_APPLIED is raised for each (R107). -/
def endApplies (s : State) : State :=
  let done (x : Stage) : Bool := x.applying && !s.pwr.waits.any (fun w => w.stage == some x.id)
  let n := (s.cmd.stages.filter done).length
  let s := { s with cmd := { s.cmd with stages := s.cmd.stages.filter (fun x => !done x) } }
  forEach (List.range n) (fun _ => raise Src.STAGE_APPLIED) s

/-- The accesses that have waited go on in their order: those that are served now take effect, the others wait on (R4, R158,
R393, R406). -/
def completeWaits (s : State) : State :=
  let l := s.pwr.waits
  let byMasters := l.filter (fun w => w.stage.isNone)
  let s := setPwr (fun p => { p with waits := [] }) s
  let s := forEach (l.filter (fun w => w.stage.isSome)) access s
  forEach byMasters access (endApplies s)

/-- Whether a word holds PD_CTRL.enable: a write of it may end a wait (R394). -/
def pdCtrlWord (a : Nat) : Bool := decide (F.PD_CTRL_enable.addr 1 ≤ a) && decide (a ≤ F.PD_CTRL_enable.addr 32)

end Sys2Proof.Machine
end

