-- ==== Sys2Proof/Machine/CmdFormat.lean ====
section
/-! DEFINITION. The command packet: header fields, trailer, reply, opcodes, reply bounds and expected targets
(spec/04_command_packets.md, R90 to R97, R100 to R102). -/

namespace Sys2Proof.Machine

/-! ### Header fields (R90) -/

/-- Opcode of a header. -/
def cOpcode (h : List Byte) : Nat := beAt h 4 2
/-- Tag. -/
def cTag (h : List Byte) : Nat := beAt h 6 2
/-- no_reply. -/
def cNoReply (h : List Byte) : Bool := bitOf (byteAt h 3) 6
/-- ring_port. -/
def cRing (h : List Byte) : Nat := byteAt h 8 / 16
/-- Fan-out mode (R100). -/
def cMode (h : List Byte) : Nat := bitsOf (byteAt h 8) 3 2
/-- Address. -/
def cAddr (h : List Byte) : Nat := byteAt h 9
/-- Payload length in words. -/
def cLength (h : List Byte) : Nat := beAt h 10 2

/-- A packet's bytes with the trailer over them (R90, R63). -/
def withTrailer (b : List Byte) : List Byte := b ++ beBytes 4 (crc32c b)

/-- Whether the trailer, the last 4 bytes received, matches (R90, R91). -/
def trailerOk (b : List Byte) : Bool := beAt b (b.length - 4) 4 == crc32c (b.take (b.length - 4))

/-- The reply packet to a command header (R90): version 01h, no_reply, opcode, tag and bytes 8 and 9 copied. -/
def replyPacket (h : List Byte) (a : Answer) : List Byte :=
  let h := padTo 16 (h.take 16)
  withTrailer ([0x4C, 0x4A, 0x01, BitVec.ofNat 8 (0x80 + b2n (cNoReply h) * 0x40)] ++ (h.drop 4).take 4 ++
    [BitVec.ofNat 8 (byteAt h 8 / 4 * 4), BitVec.ofNat 8 (cAddr h)] ++ beBytes 2 a.words.length ++
    [BitVec.ofNat 8 a.status, 0] ++ beBytes 2 a.retry ++ wordsBytes a.words)

/-- A command packet of the device's own: mode, ring_port and address 0 (R328, R331). -/
def ownCommand (opcode tag : Nat) (ws : List Word) : List Byte :=
  withTrailer ([0x4C, 0x4A, 0x01, 0x00] ++ beBytes 2 opcode ++ beBytes 2 tag ++ [0, 0] ++ beBytes 2 ws.length ++
    [0, 0, 0, 0] ++ wordsBytes ws)

/-! ### Opcodes (R95) -/

def Op.nop : Nat := 0x0000
def Op.ident : Nat := 0x0001
def Op.reset : Nat := 0x0002
def Op.ping : Nat := 0x0003
def Op.read : Nat := 0x0100
def Op.write : Nat := 0x0101
def Op.modify : Nat := 0x0102
def Op.blockRead : Nat := 0x0103
def Op.blockWrite : Nat := 0x0104
def Op.stage : Nat := 0x0200
def Op.commitAt : Nat := 0x0201
def Op.discard : Nat := 0x0202
def Op.stageQuery : Nat := 0x0203
def Op.flaconBind : Nat := 0x0300
def Op.flaconRelease : Nat := 0x0301
def Op.fenceQuery : Nat := 0x0302
def Op.accordLoad : Nat := 0x0400
def Op.accordQuery : Nat := 0x0401
def Op.tableLoad : Nat := 0x0500
def Op.tableQuery : Nat := 0x0501
def Op.epochReserve : Nat := 0x0600
def Op.timeQuery : Nat := 0x0601
def Op.diagRead : Nat := 0x0700
def Op.diagClear : Nat := 0x0701
def Op.redStatus : Nat := 0x0800
def Op.redSwap : Nat := 0x0801
def Op.redSnapshot : Nat := 0x0802
def Op.updBegin : Nat := 0x0900
def Op.updBlock : Nat := 0x0901
def Op.updSeal : Nat := 0x0902
def Op.updSchedule : Nat := 0x0903
def Op.updConfirm : Nat := 0x0904
def Op.updAbort : Nat := 0x0905
def Op.updRecover : Nat := 0x0906
def Op.pwrState : Nat := 0x0A00
def Op.pwrQuery : Nat := 0x0A01
def Op.evtRead : Nat := 0x0B00
def Op.evtClear : Nat := 0x0B01
def Op.evtConfig : Nat := 0x0B02

/-- Opcodes that both roles serve. -/
def bothOpcodes : List Nat :=
  [0x0000, 0x0001, 0x0002, 0x0003, 0x0100, 0x0101, 0x0102, 0x0103, 0x0104, 0x0200, 0x0201, 0x0202, 0x0203, 0x0300, 0x0301,
   0x0302, 0x0400, 0x0401, 0x0500, 0x0501, 0x0601, 0x0900, 0x0901, 0x0902, 0x0903, 0x0904, 0x0905, 0x0906, 0x0A00, 0x0A01,
   0x0B00, 0x0B01, 0x0B02]

/-- Opcodes that only a sender serves. -/
def senderOpcodes : List Nat := [0x0600, 0x0800, 0x0801, 0x0802]

/-- Opcodes that only a tile serves. -/
def tileOpcodes : List Nat := [0x0700, 0x0701]

/-- Whether a role serves an opcode (R95). -/
def roleServes (sender : Bool) (op : Nat) : Bool :=
  bothOpcodes.contains op || (if sender then senderOpcodes.contains op else tileOpcodes.contains op)

/-- Opcodes that are served while the trip latch is set (R384). -/
def trippedOpcodes : List Nat := [0x0001, 0x0003, 0x0100, 0x0103, 0x0B00]

/-- Opcodes that the ROM serves in recovery (R433). -/
def recoveryOpcodes : List Nat :=
  [0x0000, 0x0001, 0x0002, 0x0003, 0x0100, 0x0103, 0x0B00, 0x0900, 0x0901, 0x0902, 0x0903, 0x0905]

/-! ### Reply bounds (R97, R102) -/

/-- Word `i` of a payload as a number; 0 past its end. -/
def pw (ws : List Word) (i : Nat) : Nat := (ws.getD i 0).toNat

/-- The largest reply payload that an opcode can produce for a payload (R97). -/
def replyBound (op : Nat) (ws : List Word) : Nat :=
  if op == Op.ident then 10
  else if op == Op.ping then ws.length
  else if op == Op.read || op == Op.modify then 1
  else if op == Op.blockRead then (if ws.length == 2 then pw ws 1 else 0)
  else if op == Op.stageQuery then 5
  else if op == Op.fenceQuery then 3
  else if op == Op.accordQuery then (if ws.length == 2 then pw ws 1 / 2 ^ 16 else 0)
  else if op == Op.tableQuery || op == Op.epochReserve || op == Op.redSnapshot || op == Op.updBegin then 2
  else if op == Op.timeQuery then 7
  else if op == Op.diagRead then (if ws.length == 2 then 2 + pw ws 1 % 2 ^ 16 else 2)
  else if op == Op.redStatus then 8
  else if op == Op.updSeal then 17
  else if op == Op.pwrQuery then 4
  else if op == Op.evtRead then 6
  else 0

/-- The answer to a command whose reservation is larger than the command buffer (R97): the opcode's own rule refuses it. -/
def oversizeStatus (op : Nat) (ws : List Word) : Nat :=
  if op == Op.accordQuery then
    (if pw ws 0 / 2 ^ 16 != 0 || pw ws 1 % 2 ^ 16 != 0 then Code.opcode else Code.address)
  else if op == Op.diagRead && pw ws 0 > 15 then Code.address
  else Code.length

/-! ### Targets (R100, R101) -/

/-- Whether a command that did not come from the ring is bound for tiles (R100). -/
def tileBound (s : State) (m : Master) (h : List Byte) : Bool :=
  isSender s && m != .ring && (cMode h != 0 || cAddr h != 0)

/-- The ring ports a tile-bound command is relayed on, ascending: the named one, or every ACTIVE one (R100, R101). -/
def targetPorts (s : State) (h : List Byte) : List Nat :=
  if cMode h == 2 then (List.range 7).filter (portActive s) else [cRing h]

/-- The expected tiles of ring port `n` (R101). -/
def expectedOn (s : State) (n : Nat) : List (Nat × Nat) :=
  let len := if flagAt s F.TOPO_RING_done n then fldAt s F.TOPO_RING_len_seen n else fldAt s F.TOPO_RING_len_expected n
  (List.range (min 254 len)).map (fun i => (n, i + 1))

/-- The expected targets of a tile-bound command, in ascending ring port and address order (R101). -/
def expectedTargets (s : State) (h : List Byte) : List (Nat × Nat) :=
  if cMode h == 0 then [(cRing h, cAddr h)] else (targetPorts s h).flatMap (expectedOn s)

/-- Whether a command is one that this tile answers as a tile without an address: a NOP or a PING from the ring, whose reply
also carries what IDENT's carries (R33; DESIGN CHOICE, log 120). -/
def namelessReply (s : State) (m : Master) (op : Nat) : Bool :=
  m == .ring && isTile s && fld s F.TOPO_TILE_address == 0 && (op == Op.nop || op == Op.ping)

/-- The reply bound of a command as received (R97, R102). -/
def commandBound (s : State) (m : Master) (h : List Byte) (ws : List Word) : Nat :=
  let b := replyBound (cOpcode h) ws
  if tileBound s m h && cMode h != 0 then 1 + (expectedTargets s h).length * (2 + b)
  else if namelessReply s m (cOpcode h) then min 1019 (b + 10)
  else b

end Sys2Proof.Machine
end

