-- ==== Sys2Proof/Machine/Commands.lean ====
section
/-! DEFINITION. The command engine: the checks of a packet, queue entries and reservations, replies and their paths, and the
turn of each master's commands (spec/04_command_packets.md, R88 to R100; R33, R384, R433). -/

namespace Sys2Proof.Machine

/-- Change the command engine. -/
def setCmd (f : CmdState → CmdState) (s : State) : State := { s with cmd := f s.cmd }

/-! ### Replies (R89, R97, R99) -/

/-- A LENGTH, CHECK or BUSY answer is counted (R91, R109). -/
def countStatus (c : Nat) (s : State) : State :=
  if c == Code.length then incFld F.CMD_COUNT_length s
  else if c == Code.check then incFld F.CMD_COUNT_check_fail s
  else if c == Code.busy then incFld F.CMD_COUNT_busy s
  else s

/-- A command's queue entry and reservation are freed (R97). -/
def freeCommand (id : Nat) (s : State) : State :=
  setCmd (fun c => { c with queue := c.queue.filter (fun x => x.id != id) }) s

/-- A command has completed, and `n` packets of its reply are still to leave; with none it is freed (R97). -/
def awaitReply (id n : Nat) (s : State) : State :=
  if n == 0 then freeCommand id s
  else setCmd (fun c => { c with queue := c.queue.map (fun x =>
    if x.id == id then { x with phase := .answered, copies := n } else x) }) s

/-- Send the reply to the command `id` (0: it holds no entry) with header `h` over its path (R88, R89, R101, R123). -/
def sendReply (m : Master) (ethPort id : Nat) (h : List Byte) (a : Answer) (s : State) : State :=
  let b := replyPacket h a
  match m with
  | .hspi => awaitReply id 1 (setCmd (fun c => { c with hspiReplies := c.hspiReplies ++ [(id, b)] }) s)
  | .udp ip port => freeCommand id (sendUdp ethPort (fld s F.CMDP_CFG_udp_port) ip port b s)
  | .ring =>
    let ps := [0, 1].filter (portActive s)
    forEach ps (fun p st => sendBaseOwn p 0x02 0 id b st) (awaitReply id ps.length s)
  | _ => freeCommand id s

/-- Answer a command: no reply is sent to one with no_reply whose status is OK (R90). -/
def answerCommand (m : Master) (ethPort id : Nat) (h : List Byte) (a : Answer) (s : State) : State :=
  let s := countStatus a.status s
  if a.status == Code.ok && cNoReply h then freeCommand id s else sendReply m ethPort id h a s

/-- A queued command completes with an answer. -/
def finish (c : QCmd) (a : Answer) (s : State) : State := answerCommand c.master c.ethPort c.id c.raw a s

/-! ### The checks of a packet (R91) -/

/-- Check 5: header fields, then mode, ring_port and address, then the opcode, then what the unaddressed tile, the trip latch
and recovery do not serve (R33, R100, R360, R384, R433, R477). -/
def headerStatus (m : Master) (broadcast : Bool) (h : List Byte) (s : State) : Option Nat :=
  let op := cOpcode h
  let bound := tileBound s m h
  if byteAt h 3 % 64 != 0 || byteAt h 8 % 4 != 0 || beAt h 12 4 != 0 then some Code.opcode
  else if cMode h == 3 then some Code.opcode
  else if m != .ring && isTile s && (cMode h != 0 || cAddr h != 0) then some Code.state
  else if m != .ring && ((cMode h != 2 && decide (cRing h > 6)) || (cMode h == 2 && cRing h != 0)) then some Code.opcode
  else if m != .ring && ((cMode h == 0) == (cAddr h == 0xFF)) then some Code.opcode
  else if bound && (!servesTiles s || swapNear) then some Code.state
  else if bound && cMode h == 1 && !portActive s (cRing h) then some Code.state
  else if !(if bound then roleServes true op || roleServes false op else roleServes (isSender s) op) then some Code.opcode
  else if m == .ring && broadcast && fld s F.TOPO_TILE_address == 0 && decide (op > Op.ping) then some Code.state
  else if s.boot.mode == .tripped && !trippedOpcodes.contains op then some Code.thermal
  else if s.boot.mode == .recovery && !recoveryOpcodes.contains op then some Code.state
  else none
where
  /-- The last millisecond before a pending role swap of the active member, and the time after it (R360). -/
  swapNear : Bool := redState s == 2 && flag s F.RED_STAT_swap_pending &&
    decide ((tEpoch s (frameLabel s (pairAt s F.RED_SWAP_F_HI_frame F.RED_SWAP_F_LO_frame)) - 1000000) * nsUnit ≤ s.time.counter)

/-- Accept a command: it takes an entry and its reservation (R97). -/
def acceptCommand (m : Master) (ethPort reserve : Nat) (h : List Byte) (ws : List Word) (s : State) : State :=
  let f := fNow s
  setCmd (fun c => { c with
    nextId := c.nextId + 1
    queue := c.queue ++ [{
      id := c.nextId, master := m, raw := h, payload := ws, reserve := reserve, phase := .waiting, frame := f,
      ethPort := ethPort, targets := if tileBound s m h then expectedTargets s h else [] }] }) s

/-- The answer BUSY with the chip's estimate (R97). -/
def busyAnswer (s : State) : Answer × State :=
  let (k, s) := freshIdx s
  ({ status := Code.busy, retry := clampN 1 65535 (Config.retryEstimate k) }, s)

/-- Check 6: entry and buffer space. A reservation larger than the whole buffer is answered by the opcode's own rule (R97,
R102, R123). -/
def reserveCommand (m : Master) (ethPort : Nat) (h : List Byte) (ws : List Word) (s : State) : State :=
  let b := commandBound s m h ws
  let r := 5 + max ws.length b
  let refuse (c : Nat) (s : State) : State := answerCommand m ethPort 0 h { status := c } s
  let udp := match m with
    | .udp _ _ => true
    | _ => false
  if r > bufferWords s then
    refuse (if tileBound s m h && cMode h != 0 then Code.capacity else oversizeStatus (cOpcode h) ws) s
  else if udp && decide (b > 16371) then refuse Code.capacity s
  else if s.cmd.queue.length ≥ 32 || r > bufferFree s then
    let (a, s) := busyAnswer s
    raise Src.CMD_BUSY (answerCommand m ethPort 0 h a s)
  else acceptCommand m ethPort r h ws s

/-- A packet arrives: checks 1 to 6 of R91, then its queue entry or its answer. A sender holds a command that it is to relay
to the tile limit (R93); one that fails check 5 is never relayed. -/
def intake (m : Master) (ethPort : Nat) (bytes : List Byte) (broadcast : Bool) (s : State) : State :=
  let n := bytes.length
  let h := padTo 16 (bytes.take 16)
  let refuse (c : Nat) (s : State) : State := answerCommand m ethPort 0 h { status := c } s
  if n < 4 || beAt bytes 0 2 != 0x4C4A || bitOf (byteAt bytes 3) 7 then
    raise Src.CMD_BAD_MAGIC (incFld F.CMD_COUNT_bad_magic s)
  else if n < 20 then refuse Code.length s
  else if !trailerOk bytes then raise Src.CMD_CHECK_FAIL (refuse Code.check s)
  else if byteAt h 2 != 1 then refuse Code.version s
  else if cLength h > bufferWords s - 5 || n != 20 + 4 * cLength h then refuse Code.length s
  else match headerStatus m broadcast h s with
    | some c => refuse c s
    | none =>
      if tileBound s m h && decide (cLength h > 1019) then refuse Code.length s
      else reserveCommand m ethPort h (bytesWords ((bytes.drop 16).take (4 * cLength h))) s

/-! ### Whose turn it is (R99) -/

/-- The oldest command of a master that has not completed. -/
def nextOf (s : State) (m : Master) : Option QCmd :=
  s.cmd.queue.find? (fun c => c.master == m && c.phase != .answered)

/-- Change the phase of a command. -/
def setPhaseOf (id : Nat) (p : CmdPhase) (s : State) : State :=
  setCmd (fun c => { c with queue := c.queue.map (fun x => if x.id == id then { x with phase := p } else x) }) s

/-- The command as it was accepted, trailer included (R354). -/
def acceptedPacket (c : QCmd) : List Byte := withTrailer (c.raw ++ wordsBytes c.payload)

/-! ### HSPI (R89) -/

/-- HSPI_STATUS bits: reply_ready and queue_full. -/
def hspiStatusByte (s : State) : Nat :=
  b2n (!s.cmd.hspiReplies.isEmpty) + 2 * b2n (decide (s.cmd.queue.length ≥ 32))

/-- RPL_READ of `n` bytes: the oldest waiting reply from its byte 0, or 00h bytes; a reply read to its last trailer byte
leaves the queue. -/
def readReply (n : Nat) (s : State) : State :=
  match s.cmd.hspiReplies with
  | [] => emit (.hspi (List.replicate n 0)) s
  | (id, b) :: t =>
    let s := emit (.hspi (b.take n)) s
    if n ≥ b.length then freeCommand id (setCmd (fun c => { c with hspiReplies := t }) s) else s

/-- A tile takes a delivered COMMAND message; a sender absorbs it (R88). -/
def ringCommand (s : State) : State :=
  match takeInbox (isBase 0x01) s with
  | none => s
  | some (d, s) => if isTile s then intake .ring 0 d.body (hDst d.hdr == 0xFF) s else s

/-! ### Rows of the opcode table -/

/-- HSPI_CMD_WRITE (R89, R91): the bytes from after the instruction byte to HSPI_CS_N rising. -/
def execHspiCmdWrite (bytes : List Byte) (s : State) : Host.Outcome State Fault Refusal :=
  .next (whenOn 1 (intake .hspi 0 bytes false) s)

/-- RPL_READ (R89). -/
def execRplRead (count : Nat) (s : State) : Host.Outcome State Fault Refusal :=
  .next (whenOn 1 (readReply count) s)

/-- HSPI_STATUS (R89). -/
def execHspiStatus (s : State) : Host.Outcome State Fault Refusal :=
  .next (whenOn 1 (fun st => emit (.hspi [BitVec.ofNat 8 (hspiStatusByte st)]) st) s)

/-- HSPI_UNKNOWN_INSTRUCTION (R89): ignored until HSPI_CS_N rises. -/
def execHspiUnknownInstruction (_code : Byte) (s : State) : Host.Outcome State Fault Refusal := .next s

/-- RING_COMMAND (R88, R91). -/
def execRingCommand (s : State) : Host.Outcome State Fault Refusal := .next (whenOn 1 ringCommand s)

end Sys2Proof.Machine
end

