-- ==== Sys2Proof/Machine/ControlLoop.lean ====
section
/-! DEFINITION. Evaluations of the control engine (spec/12_control_engine.md, R273, R276, R280 to R285, R288). -/

namespace Sys2Proof.Machine

/-! ### Numbers of a stage (R281) -/

/-- A term of a stage's sum: `num` × 2^(`exp` − 30). -/
structure CeTerm where
  num : Int
  exp : Int
  deriving DecidableEq, Repr

/-- A stage value: mantissa and exponent, m × 2^(k − 15); in Q1.15 format the exponent is 0. -/
structure CeVal where
  m : Int
  k : Int
  deriving DecidableEq, Repr

/-- A number times a power of two, rounded half up. -/
def scaleHalfUp (z e : Int) : Int := if e ≥ 0 then z * 2 ^ e.toNat else halfUp z (2 ^ (-e).toNat)

/-- A Q1.15 code as a term. -/
def codeTerm (z : Int) : CeTerm := ⟨z * 2 ^ 15, 0⟩

/-- A stage value as a term. -/
def CeVal.term (v : CeVal) : CeTerm := ⟨v.m * 2 ^ 15, v.k⟩

/-- The negated term. -/
def CeTerm.neg (t : CeTerm) : CeTerm := ⟨-t.num, t.exp⟩

/-- A stage value times a gain. In Q1.15 format the product is shifted left by the gain's shift; in block-floating format the
shift goes into the exponent. -/
def gainTerm (bf : Bool) (mant shift : Int) (v : CeVal) : CeTerm :=
  if bf then ⟨mant * v.m, v.k + shift⟩ else ⟨mant * v.m * 2 ^ shift.toNat, 0⟩

/-- Limits of the 40-bit accumulator. -/
def satAcc (z : Int) : Int := clampZ (-(2 ^ 39)) (2 ^ 39 - 1) z

/-- The sum of a stage's terms, aligned to the largest exponent among them. -/
def sumTerms (l : List CeTerm) : CeTerm :=
  match l with
  | [] => ⟨0, -32⟩
  | t :: rest =>
    let k := rest.foldl (fun a x => max a x.exp) t.exp
    ⟨satAcc ((l.map (fun x => scaleHalfUp x.num (x.exp - k))).sum), k⟩

/-- Saturate to 16 bits, with whether that changed the number. -/
def sat16 (z : Int) : Int × Bool := let y := clampZ (-32768) 32767 z; (y, y != z)

/-- The end of a stage (R281): rounded half up to a 16-bit mantissa, in block-floating format at the smallest exponent at which
it fits. The value is `num` × 2^(`exp` − `frac`). -/
def endStage (bf : Bool) (num exp : Int) (frac : Int) : CeVal × Bool :=
  if !bf then let (m, o) := sat16 (scaleHalfUp num (exp + 15 - frac)); (⟨m, 0⟩, o)
  else if num == 0 then (⟨0, -32⟩, false)
  else
    let mant (k : Int) : Int := scaleHalfUp num (exp - frac + 15 - k)
    let fits (k : Int) : Bool := !(sat16 (mant k)).2
    match ((List.range 64).map (fun (i : Nat) => (i : Int) - 32)).find? fits with
    | some k => (⟨mant k, k⟩, false)
    | none => (⟨(sat16 (mant 31)).1, 31⟩, true)

/-- A term of a stage (R281): in Q1.15 format it is rounded and saturated by itself. -/
def endTerm (bf : Bool) (t : CeTerm) : CeTerm × Bool :=
  if bf then (t, false)
  else
    let (v, o) := endStage false t.num t.exp 30
    (v.term, o)

/-- The end of a stage whose result is held between two Q1.15 limits. -/
def endClamped (bf : Bool) (t : CeTerm) (lo hi : Int) : CeVal × Bool :=
  let z := t.num * 2 ^ (t.exp + 64).toNat
  let at_ (c : Int) : Int := c * 2 ^ 15 * 2 ^ 64
  if z > at_ hi && at_ hi ≥ at_ lo then endStage bf (hi * 2 ^ 15) 0 30
  else if z < at_ lo then endStage bf (lo * 2 ^ 15) 0 30
  else
    let (v, o) := endStage bf t.num t.exp 30
    if bf then (v, o) else (⟨clampZ lo hi v.m, 0⟩, o)

/-! ### A slot's words (R278) -/

/-- Bits `hi` to `lo` of word `w`. -/
def ceBits (s : State) (n w hi lo : Nat) : Nat := bitsOf (ceWord s n w) hi lo

/-- The signed code in the high half of a word. -/
def ceHigh (s : State) (n w : Nat) : Int := sgn 16 (ceBits s n w 31 16)

/-- The signed code in the low half of a word. -/
def ceLow (s : State) (n w : Nat) : Int := sgn 16 (ceBits s n w 15 0)

/-- A stage value of the slot's state: its mantissa and its exponent in word 19; 0 in Q1.15 format. -/
def ceVal (s : State) (n : Nat) (bf : Bool) (m : Int) (hi lo : Nat) : CeVal :=
  ⟨m, if bf then sgn 6 (ceBits s n 19 hi lo) else 0⟩

/-- Write a slot's word from its two halves. -/
def setHalves (n w : Nat) (hi lo : Int) (s : State) : State :=
  setCeWord n w (unsgn 16 hi * 65536 + unsgn 16 lo) s

/-- A gain of the slot times a value. -/
def slotGain (s : State) (n w : Nat) (bf : Bool) (v : CeVal) : CeTerm :=
  gainTerm bf (ceHigh s n w) (ceBits s n w 15 12) v

/-! ### Delivery (R280) -/

/-- A register sink: the field takes out_base + (Y << out_scale); an address that R98 refuses is not written, and CE_CONFIG is
raised once. -/
def sinkWrite (n : Nat) (y : Int) (s : State) : State :=
  let a := ceWord s n 5
  let w := ceBits s n 4 16 12 + 1
  let lsb := ceBits s n 4 21 17
  let scale := min 16 (ceBits s n 4 11 7)
  if rangeOk s .ce a 1 || (a % 4 == 0 && (spanOf a).isSome && serve s (placeDomain a) != .now) then
    let v := unsgn w ((ceWord s n 6 : Int) + y * 2 ^ scale)
    let mask := BitVec.ofNat 32 ((2 ^ w - 1) * 2 ^ lsb)
    let val := BitVec.ofNat 32 (v * 2 ^ lsb)
    access { kind := .modify, master := .ce, addr := a, mask := mask, value := val } s
  else if s.ce.refused.contains n then s
  else raise Src.CE_CONFIG (setCe (fun c => { c with refused := n :: c.refused }) s)

/-- Deliver output `y` of slot `n`: to its sink, to the set point that follows the outer loop, and to chained slots. -/
def ceDeliver (n : Nat) (y : Int) (s : State) : State :=
  let s := match ceSink s n with
    | some (1, _) => setCe (fun c => { c with duty := some y }) s
    | some (2, k) => setCeWord k 11 (withBits (ceWord s k 11) 31 16 (unsgn 16 (vledTarget s n y))) s
    | some (3, _) => sinkWrite n y s
    | _ => s
  ceTriggerAll 2 n (vledOutput n y s)

/-- The count of evaluations in a row at an output limit (R282). -/
def ceAtLimit (n : Nat) (y : Int) (s : State) : State :=
  if y == ceHigh s n 12 || y == ceLow s n 12 then
    let k := smGet (fun _ => 0) s.ce.atLimit n + 1
    let s := setCe (fun c => { c with atLimit := smPut (fun _ => 0) c.atLimit n (min 64 k) }) s
    if k ≥ 64 && !flagAt s F.CE_SLOT_STAT_out_limit n then raise Src.CE_OUT_LIMIT (setFlagAt F.CE_SLOT_STAT_out_limit n true s)
    else s
  else
    setFlagAt F.CE_SLOT_STAT_out_limit n false (setCe (fun c => { c with atLimit := smPut (fun _ => 0) c.atLimit n 0 }) s)

/-- The slot's done bit sets (R283). -/
def ceDone (n : Nat) (s : State) : State :=
  let f := if n < 32 then F.CE_DONE_LO_done else F.CE_DONE_HI_done
  setFld f (withBits (fld s f) (n % 32) (n % 32) 1) s

/-! ### One evaluation (R282, R283, R285) -/

/-- The result of the arithmetic of an evaluation, before it is delivered and written back. -/
structure CeResult where
  r : Int
  y : Int
  i : CeVal
  e : CeVal
  d : CeVal
  x : CeVal
  sat : Bool
  safe : Bool
  deriving DecidableEq, Repr

/-- The internal reference after its slew (R283). -/
def ceReference (s : State) (n : Nat) : Int :=
  let slew : Int := ceBits s n 11 14 0
  let target := ceHigh s n 11
  let r := ceHigh s n 16
  if slew == 0 then target else r + clampZ (-slew) slew (target - r)

/-- The derivative stage: dstate + kf × (kd × (e − prev_e) − dstate). -/
def ceDerivative (s : State) (n : Nat) (bf : Bool) (e prev d : CeVal) : CeVal × Bool :=
  let kf : Int := if ceBits s n 10 31 16 == 0 then 65536 else ceBits s n 10 31 16
  let inner := sumTerms [slotGain s n 9 bf e, (slotGain s n 9 bf prev).neg, d.term.neg]
  let part := if bf then halfUp (kf * inner.num) 65536 * 65536 else kf * inner.num
  endStage bf (scaleHalfUp d.term.num (d.k - inner.exp) * 65536 + part) inner.exp 46

/-- The arithmetic of an evaluation with a sample. -/
def ceCompute (s : State) (n : Nat) (sample : Int) : CeResult :=
  let bf := ceBits s n 0 29 29 == 1
  let loop := ceBits s n 0 30 30 == 1
  let changed := ceBits s n 0 30 30 != ceBits s n 19 31 31
  let (x, o1) := endStage bf (gainTerm bf (ceHigh s n 3) (ceBits s n 3 15 12) ⟨sample - ceLow s n 2, 0⟩).num
    (if bf then ceBits s n 3 15 12 else 0) 30
  let r := ceReference s n
  let et := sumTerms [codeTerm r, x.term.neg]
  let (e, o2) := endStage bf et.num et.exp 30
  let integ := ceVal s n bf (ceHigh s n 17) 11 6
  let prev := ceVal s n bf (ceLow s n 17) 17 12
  let (pq, o3) := endTerm bf (slotGain s n 7 bf e)
  let (iq, o5) := endTerm bf (slotGain s n 8 bf e)
  let (d, o4) := ceDerivative s n bf e prev (ceVal s n bf (ceHigh s n 18) 5 0)
  let lo := ceHigh s n 13
  let hi := ceLow s n 13
  let omin := ceHigh s n 12
  let omax := ceLow s n 12
  let out := ceLow s n 16
  let bound : Int := ceBits s n 14 14 0
  let hold := ceHigh s n 14
  let better (v : Int) : Bool :=
    decide ((v - out).natAbs > bound.toNat) && (if ceBits s n 0 28 28 == 1 then decide (v > out) else decide (v < out))
  let code (t : CeTerm) : Int := scaleHalfUp t.num (t.exp - 15)
  let demand := code (sumTerms [pq, integ.term, d.term])
  let safe := changed && (if loop then better demand else better hold)
  let start := if changed && loop && !safe then
      (endClamped bf (sumTerms [codeTerm out, pq.neg, d.term.neg]) lo hi).1 else integ
  let i := if loop then (endClamped bf (sumTerms [start.term, iq]) lo hi).1 else integ
  let (u, o6) := if loop then sat16 (code (sumTerms [pq, i.term, d.term])) else (hold, false)
  let slew : Int := ceBits s n 15 30 16
  let y := if safe then (if loop then demand else hold)
    else if slew != 0 then clampZ (out - slew) (out + slew) u else u
  let y := clampZ omin omax y
  let i := if loop && y != u then (endClamped bf (sumTerms [i.term, codeTerm (-(u - y))]) lo hi).1 else i
  { r := r, y := y, i := i, e := e, d := d, x := x, sat := o1 || o2 || o3 || o4 || o5 || o6, safe := safe }

/-- Write an evaluation's results back (R282). -/
def ceWriteBack (n : Nat) (q : CeResult) (s : State) : State :=
  let bf := ceBits s n 0 29 29 == 1
  let ex (v : CeVal) : Nat := if bf then unsgn 6 v.k else 0
  let s := setHalves n 16 q.r q.y s
  let s := setHalves n 17 q.i.m q.e.m s
  let s := setHalves n 18 q.d.m q.x.m s
  setCeWord n 19 (ceBits s n 0 30 30 * 2 ^ 31 + ex q.x * 2 ^ 18 + ex q.e * 2 ^ 12 + ex q.i * 2 ^ 6 + ex q.d) s

/-- The entry that issues next (R276): the lowest priority value, and among equals the one queued first. -/
def ceNext (s : State) : Option CeEntry :=
  s.ce.queue.foldl (fun best e => match best with
    | none => some e
    | some b => if cePrio s e.slot < cePrio s b.slot then some e else some b) none

/-- An evaluation with a sample (R282). -/
def ceEvaluate (s : State) : State :=
  if !ceRuns s then s
  else match ceNext s with
    | some { slot := n, sample := some v, step := false } =>
      let s := ceLandHeld n (ceUnqueue n s)
      let was := ceHigh s n 16
      let target := ceHigh s n 11
      let q := ceCompute s n v
      let s := ceWriteBack n q s
      let s := when q.sat (setFlagAt F.CE_SLOT_STAT_sat n true) s
      let s := when (was != target && q.r == target) (ceDone n) s
      let s := when q.safe (raise Src.CE_SAFE_STEP) s
      ceDeliver n q.y (ceAtLimit n q.y s)
    | _ => s

/-- A step evaluation (R284): no sample, no slew, no integration. A sample that waits in the entry stays for the next. -/
def ceStepEvaluate (s : State) : State :=
  if !ceRuns s then s
  else match ceNext s with
    | some { slot := n, sample := v, step := true } =>
      let s := match v with
        | none => ceUnqueue n s
        | some _ => setCe (fun c => { c with queue := c.queue.map (fun e => if e.slot == n then { e with step := false } else e) }) s
      let s := ceLandHeld n s
      let bf := ceBits s n 0 29 29 == 1
      let step := ceLow s n 15
      let y := clampZ (ceHigh s n 12) (ceLow s n 12) (ceLow s n 16 + step)
      let t := sumTerms [(ceVal s n bf (ceHigh s n 17) 11 6).term, codeTerm step]
      let (i, _) := endStage bf t.num t.exp 30
      let s := setHalves n 16 (ceHigh s n 16) y s
      let s := setHalves n 17 i.m (ceLow s n 17) s
      let s := when bf (fun st => setCeWord n 19 (withBits (ceWord st n 19) 11 6 (unsgn 6 i.k)) st) s
      let s := setCeWord n 15 (withBits (ceWord s n 15) 15 0 0) s
      ceDeliver n y (ceAtLimit n y s)
    | _ => s

/-! ### The ADC (R288, R390) -/

/-- One conversion in 0.5 ns: 0.5 µs. -/
def convTime : Nat := 1000

/-- The first multiple of the conversion time at or after `t`, where a round-robin conversion may start. -/
def convGrid (t : Nat) : Nat := cdiv t convTime * convTime

/-- What a conversion converts. -/
inductive AdcInput where
  /-- AIN_n. -/
  | ain (n : Nat)
  /-- HOLDUP_SNS. -/
  | holdup
  /-- Nothing: no channel is enabled for this slot. -/
  | none_
  deriving DecidableEq, Repr

/-- The channels that convert in turn: enabled and not synced (R288 item 3). -/
def turnChannels (s : State) : List Nat :=
  (List.range 8).filter (fun k => bitOf (fld s F.CE_ADC_CFG_chan_en) k && !bitOf (fld s F.CE_ADC_CFG_sync) k)

/-- The first channel of the turn at or after `t`, wrapping. -/
def turnFrom (l : List Nat) (t : Nat) : Option Nat := (l.find? (fun k => decide (t ≤ k))).or l.head?

/-- The conversion that ends next: its input, its start, and the schedule after it (R288). The synced channels of the period
come where they stand, and a round-robin slot that they overlap is deferred behind them; HOLDUP_SNS takes the first free slot
of every 100 µs; the others are the enabled channels in turn. -/
def adcNext (s : State) : AdcInput × Nat × AdcState :=
  let a := s.ce.adc
  let g := max a.at_ (convGrid (s.time.mono - convTime))
  match a.syncLeft with
  | k :: rest =>
    if a.syncAt < g + convTime then
      (.ain k, a.syncAt, { a with
        syncAt := a.syncAt + convTime, syncLeft := rest, at_ := max g (convGrid (a.syncAt + convTime)) })
    else robin a g
  | [] => robin a g
where
  /-- The round-robin slot that starts at `g`. -/
  robin (a : AdcState) (g : Nat) : AdcInput × Nat × AdcState :=
    let b := { a with at_ := g + convTime }
    if a.holdupAt ≤ g then (.holdup, g, { b with holdupAt := (g / 200000 + 1) * 200000 })
    else match turnFrom (turnChannels s) a.turn with
      | some k => (.ain k, g, { b with turn := (k + 1) % 8 })
      | none => (.none_, g, b)

/-- A conversion ends: its input is the one that R288 has converting, and the triggers come now (R274). The codes are what a synced
channel, HOLDUP_SNS and a channel in turn would give; the conversion takes its own. -/
def adcConvert (synced holdup turn : Nat) (s : State) : State :=
  if !domainOn s 4 then s
  else
    let (x, t, a) := adcNext s
    let s := elapse (t + convTime - s.time.mono) (setCe (fun q => { q with adc := a }) s)
    match x with
    | .holdup => whenOn 2 (setFld F.HOLDUP_STAT_code (holdup % 4096)) s
    | .ain k =>
      let c := (if bitOf (fld s F.CE_ADC_CFG_sync) k then synced else turn) % 4096
      ceTriggerAll 1 k (adcRange k c (setFldAt F.CE_ADC_DATA_code k c (wrapFldAt F.CE_ADC_DATA_count k s)))
    | .none_ => s

/-! ### Rows of the opcode table -/

/-- CE_EVALUATION (R282). -/
def execCeEvaluation (s : State) : Host.Outcome State Fault Refusal := .next (ceEvaluate s)

/-- CE_STEP_EVALUATION (R284). -/
def execCeStepEvaluation (s : State) : Host.Outcome State Fault Refusal := .next (ceStepEvaluate s)

/-- ADC_CONVERSION (R288). -/
def execAdcConversion (synced holdup turn : Nat) (s : State) : Host.Outcome State Fault Refusal :=
  .next (adcConvert synced holdup turn s)

end Sys2Proof.Machine
end

