-- ==== Sys2Proof/Machine/Opcodes.lean ====
section
/-! DEFINITION. What each opcode does at the chip that executes it: the length form, the reserved fields of R477, then the
values in the order of its chapter (R91 check 7, R94, R95, R98 and the chapters' own rules). `m` is the master that executes,
`ws` the payload. Stages, fan-out and the redundancy opcodes stand in files of their own. -/

namespace Sys2Proof.Machine

/-- A number as a word. -/
def wordOf (n : Nat) : Word := BitVec.ofNat 32 n

/-- Read words one by one: their values, what the reads change, and whether one of them holds pending or discarded bytes
(R81, R96). -/
def readWords (m : Master) : List Nat → State → List Word × Bool × State
  | [], s => ([], false, s)
  | a :: t, s =>
    let un := poolUnconfirmed s a
    let (w, s) := busRead m a s
    let (ws, u, s) := readWords m t s
    (w :: ws, un || u, s)

/-- The status of a read (R96). -/
def readStatus (unconfirmed : Bool) : Nat := if unconfirmed then Code.unconfirmed else Code.ok

/-- Word addresses `a`, `a + 4`, … -/
def wordRange (a n : Nat) : List Nat := (List.range n).map (fun k => a + 4 * k)

/-! ### General and register opcodes (R95, R98) -/

/-- The words of IDENT's reply: the eight identity words, TOPO_TILE and TOPO_TILE_LOC. Their reads change nothing. -/
def identWords (m : Master) (s : State) : List Word :=
  (wordRange 0 8 ++ [F.TOPO_TILE_address.base, F.TOPO_TILE_LOC_pair.base]).map (fun a => (busRead m a s).1)

/-- NOP. A tile without an address answers one from the ring with IDENT's words (R33; DESIGN CHOICE, log 120). -/
def opNop (m : Master) (ws : List Word) (s : State) : Answer × State :=
  if !ws.isEmpty then answer Code.length s
  else if namelessReply s m Op.nop then answerWords (identWords m s) s
  else answer Code.ok s

/-- IDENT. -/
def opIdent (m : Master) (ws : List Word) (s : State) : Answer × State :=
  if !ws.isEmpty then answer Code.length s
  else answerWords (identWords m s) s

/-- RESET: the reset follows 100 µs after the reply. -/
def opReset (ws : List Word) (s : State) : Answer × State :=
  if ws.length != 1 then answer Code.length s
  else if pw ws 0 != 0 then answer Code.opcode s
  else answer Code.ok (setCmd (fun c => { c with resetDue := true }) s)

/-- PING. A tile without an address answers one from the ring with its words and then IDENT's, as far as its buffer reaches
(R33; DESIGN CHOICE, log 120). -/
def opPing (m : Master) (ws : List Word) (s : State) : Answer × State :=
  if namelessReply s m Op.ping then answerWords ((ws ++ identWords m s).take 1019) s
  else answerWords ws s

/-- READ. -/
def opRead (m : Master) (ws : List Word) (s : State) : Answer × State :=
  if ws.length != 1 then answer Code.length s
  else if !rangeOk s m (pw ws 0) 1 then answer Code.address s
  else
    let (l, un, s) := readWords m [pw ws 0] s
    ({ status := readStatus un, words := l }, s)

/-- WRITE. -/
def opWrite (m : Master) (ws : List Word) (s : State) : Answer × State :=
  if ws.length != 2 then answer Code.length s
  else if !rangeOk s m (pw ws 0) 1 then answer Code.address s
  else answer Code.ok (busWrite m (pw ws 0) 0xFFFFFFFF (ws.getD 1 0) s)

/-- MODIFY. -/
def opModify (m : Master) (ws : List Word) (s : State) : Answer × State :=
  if ws.length != 3 then answer Code.length s
  else if !rangeOk s m (pw ws 0) 1 then answer Code.address s
  else
    let un := poolUnconfirmed s (pw ws 0)
    let (w, s) := busModify m (pw ws 0) (ws.getD 1 0) (ws.getD 2 0) s
    ({ status := readStatus un, words := [w] }, s)

/-- BLOCK_READ. -/
def opBlockRead (m : Master) (ws : List Word) (s : State) : Answer × State :=
  if ws.length != 2 || decide (pw ws 1 > bufferWords s - 5) then answer Code.length s
  else if !rangeOk s m (pw ws 0) (pw ws 1) then answer Code.address s
  else
    let (l, un, s) := readWords m (wordRange (pw ws 0) (pw ws 1)) s
    ({ status := readStatus un, words := l }, s)

/-- Write words one by one from an address upward. -/
def writeWords (m : Master) : Nat → List Word → State → State
  | _, [], s => s
  | a, w :: t, s => writeWords m (a + 4) t (busWrite m a 0xFFFFFFFF w s)

/-- BLOCK_WRITE. -/
def opBlockWrite (m : Master) (ws : List Word) (s : State) : Answer × State :=
  if ws.isEmpty then answer Code.length s
  else if !rangeOk s m (pw ws 0) (ws.length - 1) then answer Code.address s
  else answer Code.ok (writeWords m (pw ws 0) (ws.drop 1) s)

/-! ### Flacons (R140, R142, R143) -/

/-- FLACON_BIND. -/
def opFlaconBind (ws : List Word) (s : State) : Answer × State :=
  if ws.length != 5 then answer Code.length s
  else if pw ws 0 / 256 != 0 then answer Code.opcode s
  else
    let n := pw ws 0
    let s := settleFences s
    match bindCheck s n (entryOf (pw ws 1) (pw ws 2) (pw ws 3) (pw ws 4)) with
    | some c => answer c s
    | none => answer Code.ok (bindFlacon n (pw ws 1) (pw ws 2) (pw ws 3) (pw ws 4) s)

/-- A payload of one flacon number: the answer that refuses it, if any. -/
def flaconForm (s : State) (ws : List Word) : Option Nat :=
  if ws.length != 1 then some Code.length
  else if pw ws 0 / 256 != 0 then some Code.opcode
  else if pw ws 0 ≥ flaconCount s then some Code.address
  else none

/-- FLACON_RELEASE. -/
def opFlaconRelease (ws : List Word) (s : State) : Answer × State :=
  match flaconForm s ws with
  | some c => answer c s
  | none => answer Code.ok (releaseFlacon (pw ws 0) (settleFences s))

/-- FENCE_QUERY. -/
def opFenceQuery (ws : List Word) (s : State) : Answer × State :=
  match flaconForm s ws with
  | some c => answer c s
  | none =>
    let s := settleFences s
    let n := pw ws 0
    let w0 := flaconState s n * 2 ^ 28 + b2n (fenced s n) * 2 ^ 27 + b2n (flagAt s F.FLACON_STAT_early_release n) * 2 ^ 26 + n
    answerWords [wordOf w0, wordOf (fenceFrame s n / 2 ^ 32), wordOf (fenceFrame s n)] s

/-! ### Accord slots (R171) -/

/-- ACCORD_LOAD. -/
def opAccordLoad (m : Master) (ws : List Word) (s : State) : Answer × State :=
  let slot := pw ws 0 % 256
  let start := pw ws 0 / 256 % 256
  if ws.isEmpty then answer Code.length s
  else if pw ws 0 / 2 ^ 16 != 0 then answer Code.opcode s
  else if slot > 7 || start + (ws.length - 1) > 256 then answer Code.address s
  else answer Code.ok (writeWords m (0x181000 + 0x400 * slot + 4 * start) (ws.drop 1) s)

/-- ACCORD_QUERY. -/
def opAccordQuery (m : Master) (ws : List Word) (s : State) : Answer × State :=
  let slot := pw ws 0 % 256
  let start := pw ws 0 / 256 % 256
  let count := pw ws 1 / 2 ^ 16
  if ws.length != 2 then answer Code.length s
  else if pw ws 0 / 2 ^ 16 != 0 || pw ws 1 % 2 ^ 16 != 0 then answer Code.opcode s
  else if slot > 7 || start + count > 256 then answer Code.address s
  else
    let (l, _, s) := readWords m (wordRange (0x181000 + 0x400 * slot + 4 * start) count) s
    answerWords l s

/-! ### Tables (R217, R218) -/

/-- Table number, bank and form of a table word (R217). -/
def tableOf (w : Nat) : Nat := w % 256
@[inherit_doc tableOf] def tableBank (w : Nat) : Nat := w / 256 % 2
@[inherit_doc tableOf] def tableRelay (w : Nat) : Bool := bitOf w 15

/-- Reserved bits of a table word: 31:16 and 14:9, and the form bit where the command has none (R217). -/
def tableReserved (query : Bool) (w : Nat) : Bool :=
  w / 2 ^ 16 != 0 || bitsOf w 14 9 != 0 || (query && bitOf w 15)

/-- Size in bytes of a table of this chip, none where the role has no such table or its memory is not present (R218). -/
def tableSize (s : State) (t b : Nat) : Option Nat :=
  if t == 0 then
    (if isTile s then
      let n := (mapOf (regWord s)).corrBytes
      let (r, o) := corrBase s b
      if o + n ≤ regionSize s r && regionSize s r != 0 then some n else none
     else none)
  else if t ≤ 3 || (6 ≤ t && t ≤ 8 && isSender s) then some (4 * 4097)
  else if t == 4 then some 144
  else if t == 5 && isTile s then some 256
  else none

/-- Address of byte `o` of tables 01h–08h (R218). -/
def tableAddr (t b o : Nat) : Nat :=
  if t == 4 then 0x201000 + 0x100 * b + o
  else if t == 5 then 0x202000 + 0x100 * b + o
  else tfAddr b t 0 + o

/-- Write words into a table from a byte offset upward, by R7 (R217); correction records in the external memory go through
port BULK (R154). -/
def tableWrite (m : Master) (t b o : Nat) (data : List Word) (s : State) : State :=
  if t == 0 then
    let (r, base) := corrBase s b
    portWrite 10 r (base + o) (data.flatMap (fun w => leBytes 4 w.toNat)) s
  else writeWords m (tableAddr t b o) data s

/-- Bytes of a table in memory order (R218). -/
def tableBytes (m : Master) (t b n : Nat) (s : State) : List Byte :=
  if t == 0 then
    let (r, base) := corrBase s b
    memBytes s r base n
  else (readWords m (wordRange (tableAddr t b 0) (n / 4)) s).1.flatMap (fun w => leBytes 4 w.toNat)

/-- Whether data of `n` bytes at offset `o` of a table may be written (R217). -/
def tableFits (s : State) (t b o n : Nat) : Bool :=
  match tableSize s t b with
  | some size => o % 4 == 0 && decide (o + n ≤ size)
  | none => false

/-- TABLE_LOAD in the inline form; a relay form that reaches this point is not that of a sender with tiles for targets. -/
def opTableLoad (m : Master) (ws : List Word) (s : State) : Answer × State :=
  let w := pw ws 0
  if ws.isEmpty || (if tableRelay w then ws.length != 4 else decide (ws.length < 2)) then answer Code.length s
  else if tableReserved false w then answer Code.opcode s
  else if tableRelay w then answer Code.state s
  else if !tableFits s (tableOf w) (tableBank w) (pw ws 1) (4 * (ws.length - 2)) then answer Code.address s
  else answer Code.ok (tableWrite m (tableOf w) (tableBank w) (pw ws 1) (ws.drop 2) s)

/-- TABLE_QUERY. -/
def opTableQuery (m : Master) (ws : List Word) (s : State) : Answer × State :=
  let w := pw ws 0
  if ws.length != 1 then answer Code.length s
  else if tableReserved true w then answer Code.opcode s
  else match tableSize s (tableOf w) (tableBank w) with
    | none => answer Code.address s
    | some n =>
      let crc := crc32c (tableBytes m (tableOf w) (tableBank w) n s)
      let (r, o) := corrBase s (tableBank w)
      answerWords [wordOf n, wordOf crc] (when (tableOf w == 0) (portTraffic 10 r o n) s)

/-! ### Time (R315, R328) -/

/-- Whether this sender is the wall timing master: its pair is designated, and it is solo or active (R22, R23). -/
def isWtm (s : State) : Bool := servesTiles s && flag s F.CASCADE_ID_wtm

/-- EPOCH_RESERVE. -/
def opEpochReserve (ws : List Word) (s : State) : Answer × State :=
  if ws.length != 1 then answer Code.length s
  else if pw ws 0 / 2 ^ 16 != 0 then answer Code.opcode s
  else if !isWtm s then answer Code.state s
  else
    let f := fNow s + max (pw ws 0) (fld s F.WT_CFG_min_lead)
    answerWords [wordOf (f / 2 ^ 32), wordOf f] (setPair F.WT_RESV_HI_frame F.WT_RESV_LO_frame (f % 2 ^ 64) s)

/-- TIME_QUERY. -/
def opTimeQuery (ws : List Word) (s : State) : Answer × State :=
  if !ws.isEmpty then answer Code.length s
  else
    let t := s.time.counter
    let f := fNow s
    answerWords [regWord s F.TIME_STAT_locked.base, wordOf (secOf t / 2 ^ 32 % 2 ^ 16), wordOf (secOf t), wordOf (nsOf t),
      wordOf (fracOf t), wordOf (f / 2 ^ 32), wordOf f] s

/-! ### Diagnosis (R269, R270) -/

/-- DIAG_READ. -/
def opDiagRead (ws : List Word) (s : State) : Answer × State :=
  if ws.length != 2 then answer Code.length s
  else if pw ws 0 > 15 then answer Code.address s
  else if pw ws 1 % 2 ^ 16 > 1000 then answer Code.length s
  else answerWords (diagRead s (pw ws 0) (pw ws 1 / 2 ^ 16) (pw ws 1 % 2 ^ 16)) s

/-- DIAG_CLEAR. -/
def opDiagClear (ws : List Word) (s : State) : Answer × State :=
  let w := pw ws 0
  if ws.length != 1 then answer Code.length s
  else if w / 2 ^ 9 != 0 || bitsOf w 7 4 != 0 then answer Code.opcode s
  else answer Code.ok (diagClear (if bitOf w 8 then List.range 16 else [w % 16]) s)

/-! ### Power (R410) -/

/-- PWR_STATE: the answer. The target is set once the reply has been sent. -/
def opPwrState (ws : List Word) (s : State) : Answer × State :=
  if ws.length != 1 then answer Code.length s
  else if pw ws 0 > 4 then answer Code.opcode s
  else answer Code.ok s

/-- PWR_QUERY: PWR_STAT, PWR_REFUSE, PWR_WAKE_SRC and PWR_IDLE_CFG, sampled together; an RC field that is read clears (R98). -/
def opPwrQuery (m : Master) (ws : List Word) (s : State) : Answer × State :=
  if !ws.isEmpty then answer Code.length s
  else
    let (l, _, s) := readWords m [F.PWR_STAT_state.base, F.PWR_REFUSE_count.base, F.PWR_WAKE_SRC_sources.base,
      F.PWR_IDLE_CFG_backoff.base] s
    answerWords l s

/-! ### Events (R375) -/

/-- EVT_READ. -/
def opEvtRead (m : Master) (ws : List Word) (s : State) : Answer × State :=
  if ws.length != 1 then answer Code.length s
  else if pw ws 0 > 7 then answer Code.opcode s
  else
    let g := pw ws 0
    let (l, _, s) := readWords m [F.EVT_STAT_sticky.addr g, F.EVT_PEND_pending.addr g, F.EVT_MASK_mask.addr g,
      F.EVT_CLASS_class.addr (2 * g), F.EVT_CLASS_class.addr (2 * g + 1), F.EVT_CAUSE_first.base] s
    answerWords l s

/-- EVT_CLEAR: the clear, then the acknowledgement (R371, R375). -/
def opEvtClear (ws : List Word) (s : State) : Answer × State :=
  let w := pw ws 0
  if ws.length != 2 then answer Code.length s
  else if bitsOf w 30 3 != 0 then answer Code.opcode s
  else
    let s := clearSticky (w % 8) (pw ws 1) s
    answer Code.ok (if bitOf w 31 then ackReaction s else s)

/-- EVT_CONFIG. -/
def opEvtConfig (m : Master) (ws : List Word) (s : State) : Answer × State :=
  let w := pw ws 0
  let r := pw ws 1
  let n := w % 256
  let c := bitsOf w 17 16
  if ws.length != 2 then answer Code.length s
  else if bitsOf w 30 18 != 0 || bitsOf w 15 8 != 0 || bitsOf r 30 4 != 0 then answer Code.opcode s
  else if !srcExists n then answer Code.address s
  else if bitOf r 31 && c == 0 then answer Code.state s
  else
    let put (a sh width v : Nat) (s : State) : State :=
      busWrite m a (wordOf ((2 ^ width - 1) * 2 ^ sh)) (wordOf (v * 2 ^ sh)) s
    let s := put (F.EVT_MASK_mask.addr (n / 32)) (n % 32) 1 (b2n (bitOf w 31)) s
    let s := put (F.EVT_CLASS_class.addr (n / 16)) (2 * (n % 16)) 2 c s
    answer Code.ok (if bitOf r 31 then put F.EVT_REACT_class1.base (4 * c) 4 (r % 16) s else s)

end Sys2Proof.Machine
end

