-- ==== Sys2Proof/Machine/Cascade.lean ====
section
/-! DEFINITION. What the wall timing master sends the other senders of its cascade over the UDP command port, and what it
collects from them (spec/14_wall_timing.md, R326, R328, R331; spec/01_roles_and_wall_topology.md, R22). -/

namespace Sys2Proof.Machine

/-- A BLOCK_WRITE of the master to every other sender of its cascade; its pair index ends the tag. -/
def peerWrite (tag addr : Nat) (ws : List Word) (s : State) : State :=
  emit (.peers (ownCommand Op.blockWrite (tag + fld s F.CASCADE_ID_pair) (wordOf addr :: ws))) s

/-- The reserved epoch goes to the other senders, with tag F100h and the pair index (R328). -/
def reserveBroadcast (s : State) : State :=
  if isWtm s then
    peerWrite 0xF100 F.WT_RESV_HI_frame.base
      [regWord s F.WT_RESV_HI_frame.base, regWord s F.WT_RESV_LO_frame.base] s
  else s

/-- The words of the master's WT_PEND write: the armed record and its epoch, or the current record at F_now + min_lead. -/
def pendWords (s : State) : List Word :=
  if flag s F.WT_STAT_pending then
    [regWord s F.WT_PEND_0_value.base, regWord s F.WT_PEND_1_value.base, regWord s F.WT_PEND_F_HI_value.base,
      regWord s F.WT_PEND_F_LO_value.base]
  else
    let f := fNow s + fld s F.WT_CFG_min_lead
    [regWord s F.WT_REC_0_rate.base, regWord s F.WT_REC_1_offset.base, wordOf (f / 2 ^ 32), wordOf f]

/-- WT_PEND goes to the other senders, with tag F000h and the pair index (R331). -/
def pendBroadcast (s : State) : State :=
  if isWtm s then peerWrite 0xF000 F.WT_PEND_0_value.base (pendWords s) s else s

/-- A sender's report that the master polices: its time is off by more than pair_ns (R326). -/
def offsetBeyond (s : State) (ns : Int) : Bool := decide (ns.natAbs > fld s F.WT_CFG_pair_ns)

/-- The master has collected the offsets in ns and the number of senders that report loss of lock (R22, R326). -/
def offsetPoll (offsets : List Int) (unlocked : Nat) (s : State) : State :=
  if isWtm s && (decide (0 < unlocked) || offsets.any (offsetBeyond s)) then raise Src.WTM_PAIR_OFFSET s else s

/-! ### Rows of the opcode table -/

/-- RESERVE_BROADCAST (R328). -/
def execReserveBroadcast (s : State) : Host.Outcome State Fault Refusal :=
  .next (whenOn 3 reserveBroadcast s)

/-- WT_PEND_BROADCAST (R331). -/
def execWtPendBroadcast (s : State) : Host.Outcome State Fault Refusal :=
  .next (whenOn 3 pendBroadcast s)

/-- WTM_OFFSET_POLL (R22, R326). -/
def execWtmOffsetPoll (offsets : List Int) (unlocked : Nat) (s : State) : Host.Outcome State Fault Refusal :=
  .next (whenOn 3 (offsetPoll offsets unlocked) s)

end Sys2Proof.Machine
end

