-- ==== Sys2Proof/Machine/Stages.lean ====
section
/-! DEFINITION. Staged configuration: the pieces, the commit with its checks, the apply, DISCARD and STAGE_QUERY
(spec/04_command_packets.md, R104 to R108; R85, R174, R333, R334 for what a commit checks). -/

namespace Sys2Proof.Machine

/-! ### Stages as held (R104) -/

/-- The stage of an id. -/
def stageOf (s : State) (id : Nat) : Option Stage := s.cmd.stages.find? (fun x => x.id == id)

/-- Entries of a stage in piece order, then entry order. -/
def Stage.entries (x : Stage) : List StageEntry := x.pieces.flatMap (fun p => p.2)

/-- The CRC-32C over all entries, each as its three words (R106). -/
def Stage.crc (x : Stage) : Nat :=
  crc32c (x.entries.flatMap (fun e => beBytes 4 e.addr ++ beBytes 4 e.mask.toNat ++ beBytes 4 e.value.toNat))

/-- Whether every piece is held. -/
def Stage.complete (x : Stage) : Bool := x.pieces.length == x.total

/-- Put a piece into a list of pieces kept in ascending index; a piece whose index is held is replaced. -/
def putPiece (i : Nat) (l : List StageEntry) : List (Nat × List StageEntry) → List (Nat × List StageEntry)
  | [] => [(i, l)]
  | (j, m) :: t => if i < j then (i, l) :: (j, m) :: t else if i == j then (i, l) :: t else (j, m) :: putPiece i l t

/-- The entries that payload words spell: address, mask and value each (R104). -/
def stageEntries (ws : List Word) : List StageEntry :=
  (chunks 3 ws).map (fun c => { addr := pw c 0, mask := c.getD 1 0, value := c.getD 2 0 })

/-- Fields of a stage word. -/
def stageId (w : Nat) : Nat := w / 2 ^ 16
@[inherit_doc stageId] def stagePiece (w : Nat) : Nat := bitsOf w 15 8
@[inherit_doc stageId] def stageTotal (w : Nat) : Nat := w % 256

/-- Change a stage. -/
def setStage (id : Nat) (f : Stage → Stage) (s : State) : State :=
  setCmd (fun c => { c with stages := c.stages.map (fun x => if x.id == id then f x else x) }) s

/-- A stage is freed, with what waits of it. -/
def freeStage (id : Nat) (s : State) : State :=
  setPwr (fun p => { p with waits := p.waits.filter (fun w => w.stage != some id) })
    (setCmd (fun c => { c with stages := c.stages.filter (fun x => x.id != id) }) s)

/-- Store a piece that has passed its checks. -/
def storePiece (w : Nat) (l : List StageEntry) (journal : Bool) (s : State) : State :=
  let id := stageId w
  if (stageOf s id).isSome then setStage id (fun x => { x with pieces := putPiece (stagePiece w) l x.pieces }) s
  else
    setCmd (fun c => { c with
      stages := c.stages ++ [{
        id := id, total := stageTotal w, pieces := [(stagePiece w, l)], armed := none, journal := journal }] }) s

/-- STAGE (R104). `journal` marks a piece that the standby takes from the journal (R355). -/
def opStage (m : Master) (journal : Bool) (ws : List Word) (s : State) : Answer × State :=
  let w := pw ws 0
  let l := stageEntries (ws.drop 1)
  let held := stageOf s (stageId w)
  let replaced := match held with
    | some x => ((x.pieces.filter (fun p => p.1 == stagePiece w)).map (fun p => p.2.length)).sum
    | none => 0
  if ws.isEmpty || (ws.length - 1) % 3 != 0 then answer Code.length s
  else if l.any (fun e => !rangeOk s m e.addr 1) then answer Code.address s
  else if (held.bind Stage.armed).isSome then answer Code.state s
  else if stageTotal w == 0 || stagePiece w ≥ stageTotal w then answer Code.state s
  else if (match held with | some x => x.total != stageTotal w | none => false) then answer Code.state s
  else if held.isNone && s.cmd.stages.length ≥ 4 then answer Code.capacity s
  else if stagedEntries s - replaced + l.length > stagingRoom s then answer Code.capacity s
  else answer Code.ok (storePiece w l journal s)

/-! ### COMMIT_AT (R105, R106) -/

/-- What a word will hold once a stage has been applied: each entry writes its masked bits (R104). -/
def stagedWord (s : State) (x : Stage) (a : Nat) : Word :=
  x.entries.foldl (fun w e => if e.addr == a then (w &&& ~~~ e.mask) ||| (e.value &&& e.mask) else w) (regWord s a)

/-- Whether a stage writes a class B register (R332, R334). -/
def stageClassB (x : Stage) : Bool := x.entries.any (fun e => Nat.land (classBMask e.addr) e.mask.toNat != 0)

/-- Whether a stage writes an accord slot or COMP_VIEWSEL (R174). -/
def stageAccord (x : Stage) : Bool :=
  x.entries.any (fun e => e.addr == F.COMP_VIEWSEL_view0.base || (decide (0x181000 ≤ e.addr) && decide (e.addr < 0x183000)))

/-- The commit checks that other chapters define (R106 item 3): R334, then R174 of every selected slot; the answer and the
reason of R174. -/
def commitChecks (s : State) (x : Stage) (f : Nat) : Option (Nat × Nat) :=
  let rd := stagedWord s x
  let r := if stageAccord x then
      ((selectedSlots rd).eraseDups.map (accordReason s (isTile s) rd (f + 1))).find? (fun r => r != 0)
    else none
  if stageClassB x && classBReason s rd f != 0 then some (Code.state, 0)
  else r.map (fun n => (if n ≤ 2 then Code.state else Code.capacity, n))

/-- COMMIT_AT. `accepted` is the frame in which the command was accepted. -/
def opCommitAt (accepted : Nat) (ws : List Word) (s : State) : Answer × State :=
  let id := stageId (pw ws 0)
  let f := pw ws 1 * 2 ^ 32 + pw ws 2
  if ws.length != 4 then answer Code.length s
  else if pw ws 0 % 2 ^ 16 != 0 then answer Code.opcode s
  else match stageOf s id with
    | none => answer Code.stageIncomplete (raise Src.STAGE_REFUSED s)
    | some x =>
      if x.armed.isSome then answer Code.state s
      else if !x.complete || x.crc != pw ws 3 then answer Code.stageIncomplete (raise Src.STAGE_REFUSED s)
      else if f < accepted + 2 then answer Code.state s
      else match commitChecks s x f with
        | some (c, r) =>
          answer c (when (r == 5) (fun st => raise Src.ADMIT_REFUSED (incFld F.ADMIT_REFUSED_count st)) s)
        | none => answer Code.ok (setStage id (fun x => { x with armed := some f }) s)

/-! ### DISCARD and STAGE_QUERY (R108) -/

/-- DISCARD. -/
def opDiscard (ws : List Word) (s : State) : Answer × State :=
  if ws.length != 1 then answer Code.length s
  else if pw ws 0 % 2 ^ 16 != 0 then answer Code.opcode s
  else answer Code.ok (freeStage (stageId (pw ws 0)) s)

/-- The five words of STAGE_QUERY. -/
def stageReport (s : State) (id : Nat) : List Word :=
  match stageOf s id with
  | none => [wordOf (id * 2 ^ 16), 0, 0, 0, 0]
  | some x =>
    let st := if x.armed.isSome then 3 else if x.complete then 2 else 1
    let f := x.armed.getD 0
    [wordOf (id * 2 ^ 16 + x.pieces.length * 2 ^ 8 + x.total), wordOf (st * 2 ^ 24 + x.entries.length),
      wordOf (if st ≥ 2 then x.crc else 0), wordOf (f / 2 ^ 32), wordOf f]

/-- STAGE_QUERY. -/
def opStageQuery (ws : List Word) (s : State) : Answer × State :=
  if ws.length != 1 then answer Code.length s
  else if pw ws 0 % 2 ^ 16 != 0 then answer Code.opcode s
  else answerWords (stageReport s (stageId (pw ws 0))) s

/-! ### The apply (R107) -/

/-- One staged entry as MODIFY (R104, R440). An entry whose domain is gated or restarting is a demand and waits for it, and
those behind it wait with it (R107, R393). -/
def applyEntry (id : Nat) (e : StageEntry) (s : State) : State :=
  access { kind := .modify, master := .hspi, stage := some id, addr := e.addr, mask := e.mask, value := e.value } s

/-- Stages due at boundary `f`, in ascending stage_id order. -/
def dueStages (s : State) (f : Nat) : List Stage :=
  let l := s.cmd.stages.filter (fun x => match x.armed with
    | some g => decide (g ≤ f) && !x.applying
    | none => false)
  l.foldr insertStage []
where
  /-- Insert by stage_id. -/
  insertStage (x : Stage) : List Stage → List Stage
    | [] => [x]
    | y :: t => if x.id ≤ y.id then x :: y :: t else y :: insertStage x t

/-- Apply one stage: its entries in order; once none of them waits it is freed and STAGE_APPLIED is raised. `restrict` gives
each entry the bits of it that act; an entry that loses all its bits is skipped. -/
def applyStage (restrict : State → Stage → StageEntry → Word) (x : Stage) (s : State) : State :=
  let s := setStage x.id (fun y => { y with applying := true }) s
  let s := forEach x.entries (fun e st =>
    let k := restrict st x e
    if k == 0 && e.mask != 0 then st else applyEntry x.id { e with mask := k } st) s
  endApplies s

/-- At boundary `f` the armed stages apply, and the class B registers they wrote govern the frames from the next one on
(R107, R333). -/
def applyStages (restrict : State → Stage → StageEntry → Word) (f : Nat) (s : State) : State :=
  let l := dueStages s f
  let s := forEach l (applyStage restrict) s
  let s := when (l.any (fun x => x.entries.any (fun e => pdCtrlWord e.addr))) completeWaits s
  stageAdopt ((l.flatMap Stage.entries).map StageEntry.addr) s

end Sys2Proof.Machine
end

