-- ==== Sys2Proof/Machine/Journal.lean ====
section
/-! DEFINITION. The replicated set, the journal, snapshots and the redundancy commands of a sender pair
(spec/15_redundancy.md, R353 to R361). -/

namespace Sys2Proof.Machine

/-! ### The replicated set (R353) -/

/-- The registers and tables of the set, as first address and bytes, in address order. -/
def setRanges : List (Nat × Nat) :=
  [(0x200, 4), (0x40400, 12), (0x4041C, 16), (0x80000, 28), (0x82000, 4), (0x82440, 28), (0x8F010, 28), (0xC0014, 8)] ++
  (List.range 16).map (fun n => (0xC1000 + 0x40 * n, 0x24)) ++
  (List.range 256).map (fun n => (0x140000 + 0x20 * n, 0x10)) ++
  [(0x180000, 12), (0x180800, 0x400), (0x181000, 0x2000), (0x188000, 0x3800), (0x200004, 4), (0x200010, 8),
   (0x201000, 144), (0x201100, 144)] ++
  [0, 1].flatMap (fun b => [1, 2, 3, 6, 7, 8].map (fun t => (tfAddr b t 0, 4 * 4097))) ++
  [(0x2C0000, 8), (0x2C0080, 64)]

/-- The bits of a register of the set that belong to it: the fields that R353 names. -/
def setBits (a : Nat) : Word :=
  if 0x80000 ≤ a && a < 0x8001C then 0x301
  else if a == F.PKT_CTRL_dup_discard.base then 1
  else if 0x8F010 ≤ a && a < 0x8F02C then 0xFF000000
  else if a == F.INGEST_OVL_hi.base then 0x00FFFF00
  else if a == F.PIPE_BANK_tf.base then 3
  else 0xFFFFFFFF

/-- Whether byte `o` of a region lies in a replicated memory range. -/
def inRegions (s : State) (r o : Nat) : Bool :=
  (List.range 8).any (fun n =>
    let b := fldAt s F.RED_REGION_BASE_offset n * 256
    fldAt s F.RED_REGION_BASE_region n == r && decide (b ≤ o) && decide (o < b + fldAt s F.RED_REGION_LEN_length n * 256))

/-- The bits at a word address that belong to the set, for a master's view of the DRAM window. -/
def setMask (s : State) (m : Master) (a : Nat) : Word :=
  if inStore a then (if inRegions s 0 (a - 0x10000000) then 0xFFFFFFFF else 0)
  else if inDram a then (if inRegions s 1 (dramOffset s m a) then 0xFFFFFFFF else 0)
  else if setRanges.any (fun r => decide (r.1 ≤ a) && decide (a < r.1 + r.2)) then setBits a
  else 0

/-- Whether an accepted command can change the set (R354). -/
def changesSet (s : State) (m : Master) (op : Nat) (ws : List Word) : Bool :=
  if op == Op.write || op == Op.modify then setMask s m (pw ws 0) != 0
  else if op == Op.blockWrite then (wordRange (pw ws 0) (ws.length - 1)).any (fun a => setMask s m a != 0)
  else [Op.stage, Op.commitAt, Op.discard, Op.flaconBind, Op.flaconRelease, Op.accordLoad].contains op ||
    (op == Op.tableLoad && !tableRelay (pw ws 0))

/-! ### Journalling at the active member (R354) -/

/-- F_eff of a command that executes now: the first frame whose latch point follows (R354). -/
def effectiveFrame (s : State) : Nat :=
  let f := fCur s + 1
  frameTag s (if s.time.counter < tLatch s f * nsUnit then f else f + 1)

/-- Whether a command entry that would start now is held: the last 20 µs before a latch point (R354). -/
def journalHold (s : State) : Bool :=
  let t := tLatch s (fCur s + 1)
  decide ((t - 20000) * nsUnit ≤ s.time.counter) && decide (s.time.counter < t * nsUnit)

/-- Whether this member journals a command of its own (R354). -/
def journals (s : State) (c : QCmd) : Bool :=
  redState s == 2 && changesSet s c.master (cOpcode c.raw) c.payload

/-- The active member journals a command before it executes it. -/
def journalCommand (c : QCmd) (s : State) : State :=
  if journals s c then journal 1 0 (effectiveFrame s) 0 (acceptedPacket c) s else s

/-- A divergence is counted and raised (R355, R359). -/
def diverged (s : State) : State := raise Src.RED_DIVERGE (incFld F.RED_CNT_0_diverge s)

/-! ### Entries at the standby member (R355, R356) -/

/-- Execute a command entry: as a master of its own, with only the parts inside the set acting. FLACON_BIND and
FLACON_RELEASE set the flacon's state with it. -/
def runEntry (packet : List Byte) (s : State) : State :=
  let op := cOpcode packet
  let ws := bytesWords ((packet.drop 16).take (4 * cLength packet))
  let m := Master.ring
  let part (a : Nat) (mask v : Word) (s : State) : State :=
    let k := mask &&& setMask s m a
    if k == 0 || !rangeOk s m a 1 then s else busWrite m a k v s
  if op == Op.write then (if ws.length == 2 then part (pw ws 0) 0xFFFFFFFF (ws.getD 1 0) s else s)
  else if op == Op.modify then (if ws.length == 3 then part (pw ws 0) (ws.getD 1 0) (ws.getD 2 0) s else s)
  else if op == Op.blockWrite then
    (if ws.isEmpty || !rangeOk s m (pw ws 0) (ws.length - 1) then s
     else (List.zip (wordRange (pw ws 0) (ws.length - 1)) (ws.drop 1)).foldl (fun st x => part x.1 0xFFFFFFFF x.2 st) s)
  else if op == Op.stage then (opStage m true ws s).2
  else if op == Op.commitAt then (opCommitAt (fNow s) ws s).2
  else if op == Op.discard then (opDiscard ws s).2
  else if op == Op.flaconBind then (opFlaconBind ws s).2
  else if op == Op.flaconRelease then (opFlaconRelease ws s).2
  else if op == Op.accordLoad then (opAccordLoad m ws s).2
  else if op == Op.tableLoad then (opTableLoad m ws s).2
  else s

/-- The standby sends no heart packet of a frame (R344, R355). -/
def holdHeart (f : Nat) (s : State) : State :=
  if s.red.held.contains f then s
  else
    raise Src.RED_HEART_HELD (incFld F.RED_CNT_1_heart_held (setRed (fun r => { r with held := f :: r.held.take 3 }) s))

/-- A command entry with its F_eff: one that comes after t_latch(F_eff) holds that frame's heart packets (R355). -/
def commandEntry (entry : List Byte) (s : State) : State :=
  let f := frameLabel s (beAt entry 8 8)
  let late := s.time.counter > tLatch s f * nsUnit
  let s := runEntry (entry.drop 24) s
  let s := setRed (fun r => { r with heldJournal := r.heldJournal ++ [entry], bufUsed := true }) s
  if late then holdHeart f s else s

/-- The full frame index whose low 12 bits a sequence carries, the nearest at or before the present one (R74). -/
def fullFrame (s : State) (f12 : Nat) : Nat := fNow s - (fNow s + 4096 - f12 % 4096) % 4096

/-- A relay entry: its message waits to be emitted, and the port's highest index is kept (R345, R352). -/
def relayEntry (entry : List Byte) (s : State) : State :=
  let p := byteAt entry 5 / 16
  let seq := beAt entry 16 4
  let item := entry.drop 24
  let msg := item.drop 4
  let f := fullFrame s (seq / 2 ^ 20)
  let high := seq % 2 ^ 20 + cdiv msg.length 32
  setRed (fun r => { r with
    relays := r.relays ++ [{ port := p, seq := seq, typ := byteAt item 0, dst := byteAt item 1, msg := msg, at_ := s.time.mono }]
    journalHigh := updAt (fun e => if e.1 == f then (f, max e.2 high) else (f, high)) r.journalHigh p }) s

/-- A latch entry: the flows it names (R344). -/
def latchEntry (entry : List Byte) (s : State) : State :=
  let l := (chunks 12 (entry.drop 24)).map (fun c => (byteAt c 0, bitOf (byteAt c 1) 0, beAt c 4 4))
  setRed (fun r => { r with entries := (beAt entry 8 8, l) :: r.entries.take 3 }) s

/-- A swap entry: one that comes after its epoch is not acted on; F = 0 cancels (R360, R361). -/
def swapEntry (entry : List Byte) (s : State) : State :=
  let f := beAt entry 8 8
  let put (g : Nat) (s : State) : State :=
    setFlag F.RED_STAT_swap_pending (g != 0) (setPair F.RED_SWAP_F_HI_frame F.RED_SWAP_F_LO_frame g s)
  if f == 0 then put 0 (setRed (fun r => { r with swapAt := none }) s)
  else if f ≤ fNow s then s
  else put f (setRed (fun r => { r with swapAt := some f }) s)

/-- Put an entry to its use by its kind (R354). -/
def useEntry (entry : List Byte) (s : State) : State :=
  match byteAt entry 4 with
  | 1 => commandEntry entry s
  | 2 => relayEntry entry s
  | 3 => latchEntry entry s
  | 4 => swapEntry entry s
  | _ => s

/-- A journal message whose sequence lies `ahead` of the expected one (modulo 2^32) is taken: a later one leaves a gap, an
earlier one is not executed (R356). -/
def journalIn (d : Delivered) (ahead : Nat) (s : State) : Option Nat × State :=
  let s := when (ahead != 0) journalGap s
  if ahead ≥ 2 ^ 31 then (none, s)
  else
    let j := beAt d.body 0 4
    let s := setRed (fun r => { r with
      gapKnown := false, missed := if ahead == 0 then r.missed else some ((j + 2 ^ 32 - 1) % 2 ^ 32) })
      (setFld F.RED_JSEQ_value j s)
    let s := useEntry d.body s
    (if byteAt d.body 4 == 3 then some (beAt d.body 8 8) else none, s)

/-- A standby member takes a JOURNAL message: one that is not the next entry is a gap, and later entries are still executed
(R355, R356). The frame of a latch entry is answered, for the latch that may wait for it. -/
def journalTake (s : State) : Option Nat × State :=
  if !isSender s then (none, s)
  else match takeInbox (fun d => isBase 0x09 d && d.port == 7) s with
    | none => (none, s)
    | some (d, s) =>
      if redState s != 1 then (none, s)
      else journalIn d ((beAt d.body 0 4 + 2 ^ 32 - (fld s F.RED_JSEQ_value + 1)) % 2 ^ 32) s

/-! ### Snapshots at the active member (R357, R358) -/

/-- The bytes of a register range in memory order (R7). -/
def rangeBytes (s : State) (r : Nat × Nat) : List Byte :=
  (wordRange r.1 (r.2 / 4)).flatMap (fun a =>
    leBytes 4 (((if (tfPlace a).isSome then tfWord s a else regWord s a) &&& setBits a).toNat))

/-- A stage as a snapshot carries it: its stage word, its payloads in piece order, its armed epoch (R358). -/
def stageBytes (x : Stage) : List Byte :=
  let word (i : Nat) : List Byte := beBytes 4 (x.id * 2 ^ 16 + i * 2 ^ 8 + x.total)
  let piece (p : Nat × List StageEntry) : List Byte :=
    word p.1 ++ p.2.flatMap (fun e => beBytes 4 e.addr ++ beBytes 4 e.mask.toNat ++ beBytes 4 e.value.toNat)
  word 0 ++ x.pieces.flatMap piece ++ beBytes 8 (x.armed.getD 0)

/-- Cut data into chunks of at most 65,536 bytes, with targets counted on from `target`. -/
def cutChunks (kind target : Nat) (data : List Byte) : List SnapChunk :=
  (chunks 0x10000 data).zipIdx.map (fun x =>
    { kind := kind, target := target + 0x10000 * x.2, length := x.1.length, data := some x.1 })

/-- Chunks of a replicated memory range; their data is copied when they are sent (R357). -/
def regionChunks (s : State) (n : Nat) : List SnapChunk :=
  let len := fldAt s F.RED_REGION_LEN_length n * 256
  let o := fldAt s F.RED_REGION_BASE_offset n * 256
  let base := if fldAt s F.RED_REGION_BASE_region n == 1 then 2 ^ 63 + o else 0x10000000 + o
  (List.range (cdiv len 0x10000)).map (fun k =>
    { kind := 2, target := base + 0x10000 * k, length := min 0x10000 (len - 0x10000 * k), data := none })

/-- The data chunks of the set (R353, R358): registers and tables, stages, memory ranges. -/
def setChunks (s : State) : List SnapChunk :=
  setRanges.map (fun r => { kind := 1, target := r.1, length := r.2, data := some (rangeBytes s r) }) ++
    s.cmd.stages.flatMap (fun x => cutChunks 3 0 (stageBytes x)) ++ (List.range 8).flatMap (regionChunks s)

/-- Data bytes of chunks. -/
def chunkBytes (l : List SnapChunk) : Nat := (l.map SnapChunk.length).sum


/-- Whether RED_BUF is large enough for the set (R357). -/
def snapFits (s : State) : Bool := decide (chunkBytes (setChunks s) ≤ redBuffer s)

/-- Capture: the set's registers and stages are copied and j_start is recorded (R357). A capture that RED_BUF cannot take
counts as cut off. -/
def snapCapture (s : State) : State :=
  let s := setRed (fun r => { r with snapWanted := false }) s
  if !snapFits s then s
  else
    let x : SnapOut := {
      epoch := (fld s F.RED_SNAP_value + 1) % 2 ^ 32, jstart := (fld s F.RED_JSEQ_value + 1) % 2 ^ 32, frame := fNow s,
      refill := flag s F.TF_CFG_busy, chunks := setChunks s }
    setFlag F.RED_STAT_snap_busy true (setRed (fun r => { r with snapOut := some x, bufUsed := true }) s)

/-- Chunk `index` of a snapshot: header, data chunks, trailer (R358). -/
def snapChunk (s : State) (x : SnapOut) (index : Nat) : SnapChunk :=
  let count := x.chunks.length + 2
  if index == 0 then
    let d := beBytes 4 (fld s F.RED_EPOCH_epoch) ++ beBytes 4 x.jstart ++ beBytes 8 x.frame ++ beBytes 4 count ++
      beBytes 8 (chunkBytes x.chunks) ++ beBytes 2 1 ++
      [BitVec.ofNat 8 (fld s F.CASCADE_ID_member), BitVec.ofNat 8 (b2n x.refill)]
    { kind := 0, target := 0, length := d.length, data := some d }
  else if index + 1 == count then
    { kind := 0xFF, target := 0, length := 8, data := some (beBytes 4 count ++ beBytes 4 (crc32c (x.checks.flatMap (beBytes 4)))) }
  else
    let c := x.chunks.getD (index - 1) { kind := 1, target := 0, length := 0, data := some [] }
    match c.data with
    | some _ => c
    | none =>
      let d := if c.target ≥ 2 ^ 63 then memBytes s 1 (c.target - 2 ^ 63) c.length else memBytes s 0 (c.target - 0x10000000) c.length
      { c with data := some d }

/-- Bytes 0–27 of a chunk. -/
def chunkHead (epoch index : Nat) (c : SnapChunk) : List Byte :=
  beBytes 4 0x52534E50 ++ beBytes 4 epoch ++ beBytes 4 index ++ [BitVec.ofNat 8 c.kind, 0, 0, 0] ++ beBytes 8 c.target ++
    beBytes 4 c.length

/-- Queue a snapshot message on the tie link: packets of at most 64 payload flits (R358). -/
def sendSnapshot (msg : List Byte) (s : State) : State :=
  let (q, s) := freshSeq s
  let cs := chunks 2048 msg
  let l := cs.zipIdx.map (fun x => ({
    hdr := mkHeader 2 0x08 false (ownDir s 7) (cdiv x.1.length 32) (q / 2 ^ 20 * 2 ^ 20 + (q + 64 * x.2) % 2 ^ 20) 0
      (ownSrc s) (ownPair s) (ownRingPort s 7) (beBytes 4 (2048 * x.2) ++ beBytes 4 msg.length)
    payload := x.1
    ready := s.time.counter } : TxPkt))
  setPort 7 (fun p => { p with tx := { p.tx with base := p.tx.base ++ l } }) s

/-- Send the next chunk; with the trailer the snapshot has been sent. Without the tie link the transfer is cut off (R359). -/
def snapSend (s : State) : State :=
  match s.red.snapOut with
  | none => s
  | some x =>
    if redState s != 2 || !portActive s 7 then
      setFlag F.RED_STAT_snap_busy false (setRed (fun r => { r with snapOut := none }) s)
    else
      let c := snapChunk s x x.next
      let s := when (c.kind == 2 && decide (c.target ≥ 2 ^ 63)) (portTraffic 10 1 (c.target - 2 ^ 63) c.length) s
      let d := c.data.getD []
      let head := chunkHead x.epoch x.next c
      let check := crc32c (head ++ d)
      let s := sendSnapshot (head ++ beBytes 4 check ++ d) s
      if x.next + 1 == x.chunks.length + 2 then
        setFlag F.RED_STAT_snap_busy false (setFld F.RED_SNAP_value x.epoch
          (setFld F.RED_SNAP_BYTES_bytes (chunkBytes x.chunks) (setRed (fun r => { r with snapOut := none }) s)))
      else
        setRed (fun r => { r with snapOut := some { x with next := x.next + 1, checks := x.checks ++ [check] } }) s

/-! ### Snapshots at the standby member (R358, R359) -/

/-- The snapshot in hand is discarded, and another one is asked for (R358). -/
def snapDiscard (s : State) : State :=
  setFlag F.RED_STAT_snap_busy false (setRed (fun r => { r with snapIn := none, snapReq := true }) s)

/-- The number of a held entry, and its command (R354). -/
def entrySeq (e : List Byte) : Nat := beAt e 0 4

/-- Held command entries from a j_start onward. -/
def heldFrom (s : State) (j : Nat) : List (List Byte) :=
  s.red.heldJournal.filter (fun e => decide ((entrySeq e + 2 ^ 32 - j) % 2 ^ 32 < 2 ^ 31))

/-- Whether a command entry has written a word address; flacon commands write their flacon's registers (R359). -/
def entryWrites (e : List Byte) (a : Nat) : Bool :=
  let p := e.drop 24
  let op := cOpcode p
  let ws := bytesWords ((p.drop 16).take (4 * cLength p))
  let inside (b n : Nat) : Bool := decide (b ≤ a) && decide (a < b + 4 * n)
  if op == Op.write || op == Op.modify then inside (pw ws 0) 1
  else if op == Op.blockWrite then inside (pw ws 0) (ws.length - 1)
  else if op == Op.flaconBind || op == Op.flaconRelease then inside (0x140000 + 0x20 * (pw ws 0 % 256)) 4
  else if op == Op.accordLoad then
    inside (0x181000 + 0x400 * (pw ws 0 % 256) + 4 * (pw ws 0 / 256 % 256)) (ws.length - 1)
  else if op == Op.tableLoad then
    inside (tableAddr (tableOf (pw ws 0)) (tableBank (pw ws 0)) (pw ws 1)) (ws.length - 2)
  else false

/-- Whether a command entry names a stage. -/
def entryStage (e : List Byte) (id : Nat) : Bool :=
  let p := e.drop 24
  [Op.stage, Op.commitAt, Op.discard].contains (cOpcode p) && beAt p 16 2 == id

/-- Split the words of a stage chunk into its pieces: a word that is the stage word of a later piece starts that piece, any
other one an entry (DESIGN CHOICE, log 47). -/
def splitPieces : Nat → Nat → Nat → Nat → List Word → List (Nat × List StageEntry)
  | 0, _, _, _, _ => []
  | fuel + 1, id, total, next, w :: t =>
    if w.toNat / 2 ^ 16 == id && w.toNat % 256 == total && bitsOf w.toNat 15 8 ≥ next && bitsOf w.toNat 15 8 < total then
      let n := (List.range (t.length / 3 + 1)).find? (fun k =>
        let v := (t.getD (3 * k) 0).toNat
        t.length ≤ 3 * k || (v / 2 ^ 16 == id && v % 256 == total && decide (bitsOf v 15 8 > bitsOf w.toNat 15 8) &&
          decide (bitsOf v 15 8 < total)))
      let k := n.getD 0
      (bitsOf w.toNat 15 8, stageEntries (t.take (3 * k))) :: splitPieces fuel id total (bitsOf w.toNat 15 8 + 1) (t.drop (3 * k))
    else []
  | _ + 1, _, _, _, [] => []

/-- The stage that the bytes of a snapshot spell (R358). -/
def parseStage (b : List Byte) : Stage :=
  let ws := bytesWords b
  let w0 := pw ws 0
  let f := beAt b (b.length - 8) 8
  let body := (ws.drop 1).take (ws.length - 3)
  { id := stageId w0, total := w0 % 256, pieces := splitPieces body.length (stageId w0) (w0 % 256) 0 body,
    armed := if f == 0 then none else some f, journal := true }

/-- The stages of a snapshot: a stage chunk with target 0 begins a stage, others go on with it. -/
def snapStages (l : List SnapChunk) : List Stage :=
  ((l.filter (fun c => c.kind == 3)).foldl (fun (acc : List (List Byte)) c =>
    if c.target == 0 then acc ++ [c.data.getD []]
    else acc.dropLast ++ [acc.getLastD [] ++ c.data.getD []]) []).map parseStage

/-- The words of a register chunk with their addresses. -/
def chunkWords (c : SnapChunk) : List (Nat × Word) :=
  ((chunks 4 (c.data.getD [])).zipIdx).map (fun x => (c.target + 4 * x.2, wordOf (leNat x.1)))

/-- The region and offset of a memory chunk. -/
def chunkPlace (c : SnapChunk) : Nat × Nat :=
  if c.target ≥ 2 ^ 63 then (1, c.target - 2 ^ 63) else (0, c.target - 0x10000000)

/-- Whether a transfer or inverse table is left out of a comparison (R359). -/
def tableSkipped (refill : Bool) (s : State) (a : Nat) : Bool := (tfPlace a).isSome && (refill || flag s F.TF_CFG_busy)

/-- Whether every compared location of a snapshot matches the live state (R359). -/
def snapMatches (x : SnapIn) (l : List SnapChunk) (s : State) : Bool :=
  let held := heldFrom s x.jstart
  let live (a : Nat) : Word := if (tfPlace a).isSome then tfWord s a else regWord s a
  (l.filter (fun c => c.kind == 1)).all (fun c => (chunkWords c).all (fun y =>
      tableSkipped x.refill s y.1 || held.any (fun e => entryWrites e y.1) ||
        live y.1 &&& setBits y.1 == y.2 &&& setBits y.1)) &&
    (l.filter (fun c => c.kind == 2)).all (fun c =>
      let (r, o) := chunkPlace c
      let a := if r == 1 then 0x80000000 + o % 2 ^ 31 else 0x10000000 + o
      ((c.data.getD []).zipIdx).all (fun y =>
        held.any (fun e => entryWrites e ((a + y.2) / 4 * 4)) || memByte s r (o + y.2) == y.1)) &&
    (let snap := snapStages l
     let ids := ((snap ++ s.cmd.stages).map Stage.id).eraseDups.filter (fun i => !held.any (fun e => entryStage e i))
     ids.all (fun i =>
       ((snap.find? (fun y => y.id == i)).map (fun y => (y.total, y.pieces, y.armed))) ==
         ((stageOf s i).map (fun y => (y.total, y.pieces, y.armed)))))

/-- Write a snapshot into the live state: words of the set that differ, memory, stages (R359). -/
def snapWrite (l : List SnapChunk) (s : State) : State :=
  let s := forEach (l.filter (fun c => c.kind == 1)) (fun c st =>
    forEach (chunkWords c) (fun y st =>
      let live := if (tfPlace y.1).isSome then tfWord st y.1 else regWord st y.1
      if live &&& setBits y.1 == y.2 &&& setBits y.1 then st else busWrite .ring y.1 (setBits y.1) y.2 st) st) s
  let s := forEach (l.filter (fun c => c.kind == 2)) (fun c st =>
    portWrite 10 (chunkPlace c).1 (chunkPlace c).2 (c.data.getD []) st) s
  setCmd (fun c => { c with stages := snapStages l }) s

/-- Whether the standby holds every journal entry from a j_start on (R343). -/
def holdsFrom (s : State) (j : Nat) : Bool :=
  match s.red.missed with
  | none => true
  | some m => decide ((m + 2 ^ 32 - j) % 2 ^ 32 ≥ 2 ^ 31)

/-- Apply a snapshot: write it, execute the held journal, and set sync from the next latch point, if no entry since has been
missed (R343, R359). -/
def snapApply (x : SnapIn) (l : List SnapChunk) (s : State) : State :=
  let s := snapWrite l (setFlag F.RED_STAT_sync false s)
  let s := forEach (heldFrom s x.jstart) (fun e st => runEntry (e.drop 24) st) s
  let s := if x.refill then tfRegen s else s
  let whole := holdsFrom s x.jstart
  setRed (fun r => { r with syncDue := whole }) s

/-- A complete snapshot is in hand (R359). One that does not reach past a gap leaves the gap, which then names it. -/
def snapDone (x : SnapIn) (s : State) : State :=
  let l := x.chunks.map (fun c => c.2.1)
  let s :=
    if flag s F.RED_STAT_sync then (if snapMatches x l s then s else snapApply x l (diverged s))
    else snapApply x l s
  let whole := holdsFrom s x.jstart
  let s := if whole then s else setFld F.RED_GAP_SNAP_value x.epoch s
  let s := setRed (fun r => { r with
    snapIn := none, snapReq := !whole, everApplied := true, gapSince := !whole, heldJournal := [] }) s
  raise Src.RED_SNAP_DONE (setFlag F.RED_STAT_snap_busy false (setFld F.RED_SNAP_value x.epoch s))

/-- Insert a received chunk by its index. -/
def putChunk (i : Nat) (c : SnapChunk) (k : Nat) : List (Nat × SnapChunk × Nat) → List (Nat × SnapChunk × Nat)
  | [] => [(i, c, k)]
  | y :: t => if i < y.1 then (i, c, k) :: y :: t else y :: putChunk i c k t

/-- A chunk that has passed its check joins the snapshot; the last missing one completes it. -/
def snapJoin (index : Nat) (c : SnapChunk) (check : Nat) (x : SnapIn) (s : State) : State :=
  let d := c.data.getD []
  let dup := x.chunks.any (fun y => y.1 == index)
  let x := { x with chunks := putChunk index c check x.chunks }
  let x := if c.kind == 0 then { x with jstart := beAt d 4 4, count := some (beAt d 16 4), refill := bitOf (byteAt d 31) 0 } else x
  let x := if c.kind == 0xFF then { x with trailer := some (beAt d 4 4) } else x
  let x := { x with total := x.total + (if c.kind == 0 || c.kind == 0xFF then 0 else c.length) }
  let data := (x.chunks.filter (fun y => y.2.1.kind != 0xFF)).map (fun y => y.2.2)
  let s := setRed (fun r => { r with bufUsed := true }) s
  if dup || x.total + ((heldFrom s x.jstart).map List.length).sum > redBuffer s then snapDiscard s
  else if x.count == some x.chunks.length && x.trailer.isSome then
    (if x.trailer == some (crc32c (data.flatMap (beBytes 4))) && x.chunks.map (fun y => y.1) == List.range x.chunks.length then
      snapDone x s
     else snapDiscard s)
  else setFlag F.RED_STAT_snap_busy true (setRed (fun r => { r with snapIn := some x }) s)

/-- A standby member takes a SNAPSHOT message (R358). -/
def snapTake (s : State) : State :=
  if !isSender s then s
  else match takeInbox (fun d => isBase 0x08 d && d.port == 7) s with
    | none => s
    | some (d, s) =>
      let b := d.body
      let epoch := beAt b 4 4
      let index := beAt b 8 4
      let c : SnapChunk := { kind := byteAt b 12, target := beAt b 16 8, length := beAt b 24 4, data := some (b.drop 32) }
      let good := beAt b 0 4 == 0x52534E50 && beAt b 28 4 == crc32c (b.take 28 ++ b.drop 32) && c.length == (b.drop 32).length
      if redState s != 1 then s
      else if !good then snapDiscard s
      else match s.red.snapIn with
        | some x => if x.epoch != epoch then snapDiscard s else snapJoin index c (beAt b 28 4) x s
        | none => if index == 0 && c.kind == 0 then snapJoin 0 c (beAt b 28 4) { epoch := epoch } s
          else setRed (fun r => { r with snapReq := true }) s

/-! ### Swaps and the redundancy opcodes (R360, R361) -/

/-- The active member arms a swap at epoch `f`: it is journalled and shown; 0 cancels (R360, R361). -/
def armSwap (f : Nat) (s : State) : State :=
  let s := journal 4 0 f 0 [] s
  setFlag F.RED_STAT_swap_pending (f != 0) (setPair F.RED_SWAP_F_HI_frame F.RED_SWAP_F_LO_frame f s)

/-- RED_STATUS. -/
def opRedStatus (ws : List Word) (s : State) : Answer × State :=
  if !ws.isEmpty then answer Code.length s
  else
    answerWords [regWord s F.RED_STAT_state.base, regWord s F.RED_EPOCH_epoch.base, regWord s F.RED_PARTNER_EPOCH_epoch.base,
      wordOf s.red.partnerWord, regWord s F.RED_SNAP_value.base, regWord s F.RED_JSEQ_value.base,
      regWord s F.RED_GAP_SNAP_value.base, regWord s F.RED_GAP_JSEQ_value.base] s

/-- RED_SWAP. -/
def opRedSwap (ws : List Word) (s : State) : Answer × State :=
  let f := pw ws 0 * 2 ^ 32 + pw ws 1
  if ws.length != 2 then answer Code.length s
  else if redState s != 2 then answer Code.state s
  else if f == 0 then answer Code.ok (armSwap 0 s)
  else if !swapMayArm s || f < fNow s + 2 then answer Code.state s
  else answer Code.ok (armSwap f s)

/-- RED_SNAPSHOT. -/
def opRedSnapshot (ws : List Word) (s : State) : Answer × State :=
  if !ws.isEmpty then answer Code.length s
  else if redState s != 2 then answer Code.state s
  else
    let report (s : State) : Answer × State :=
      match s.red.snapOut with
      | some x => answerWords [wordOf x.epoch, wordOf x.jstart] s
      | none => answer Code.capacity s
    if s.red.snapOut.isSome then report s
    else if !snapFits s then answer Code.capacity s
    else report (snapCapture s)

/-- The active member retries an automatic swap once a second (R360). -/
def swapRetry (s : State) : State :=
  if s.red.swapWanted && swapMayArm s && !flag s F.RED_STAT_swap_pending then
    armSwap (fNow s + fld s F.WT_CFG_min_lead) (setRed (fun r => { r with swapWanted := false }) s)
  else s

/-! ### Rows of the opcode table -/

/-- SNAPSHOT_CAPTURE (R357): one snapshot at a time. -/
def execSnapshotCapture (s : State) : Host.Outcome State Fault Refusal :=
  .next (whenOn 1 (fun st => if redState st == 2 && st.red.snapWanted && st.red.snapOut.isNone then snapCapture st else st) s)

/-- SNAPSHOT_SEND (R358). -/
def execSnapshotSend (s : State) : Host.Outcome State Fault Refusal := .next (whenOn 1 snapSend s)

/-- SNAPSHOT_CHUNK_RECEIVE (R358). -/
def execSnapshotChunkReceive (s : State) : Host.Outcome State Fault Refusal := .next (whenOn 1 snapTake s)

/-- SWAP_ARM_RETRY (R360). -/
def execSwapArmRetry (s : State) : Host.Outcome State Fault Refusal := .next (whenOn 1 swapRetry s)

end Sys2Proof.Machine
end

