-- ==== Sys2Proof/Machine/Fanout.lean ====
section
/-! DEFINITION. Fan-out: the relay of tile-bound commands, the collection of their replies, and the relay forms of TABLE_LOAD
and UPD_BLOCK (spec/04_command_packets.md, R101 to R103; R219, R346, R423). -/

namespace Sys2Proof.Machine

/-! ### The relay (R101) -/

/-- The command as a target receives it: bytes 8 and 9 are 00h, no_reply is clear, the tag is the relay tag, and the trailer
is computed anew (R101). -/
def relayPacket (c : QCmd) (tag : Nat) : List Byte :=
  let h := c.raw
  withTrailer (h.take 3 ++ [BitVec.ofNat 8 (withBits (byteAt h 3) 6 6 0)] ++ (h.drop 4).take 2 ++ beBytes 2 tag ++ [0, 0] ++
    h.drop 10 ++ wordsBytes c.payload)

/-- Chain destination of a tile-bound command: its tile, or FFh (R101). -/
def relayDst (h : List Byte) : Nat := if cMode h == 0 then cAddr h else 0xFF

/-- The words of an entry of a fanned reply (R102). -/
def FanEntry.encode (e : FanEntry) : List Word :=
  wordOf (e.port * 2 ^ 28 + e.address * 2 ^ 16 + e.status * 2 ^ 8) :: wordOf (e.words.length * 2 ^ 16 + e.retryAfter) :: e.words

/-- The entry of an expected target: its reply, or TIMEOUT (R102). -/
def Relay.entryOf (r : Relay) (t : Nat × Nat) : FanEntry :=
  (r.got.find? (fun e => e.port == t.1 && e.address == t.2)).getD
    { port := t.1, address := t.2, status := Code.timeout, retryAfter := 0, words := [] }

/-- All entries of a fanned reply, in ascending order, then the others in arrival order (R102). -/
def Relay.entries (r : Relay) : List FanEntry := r.expected.map r.entryOf ++ r.extra

/-- The status of a fanned reply (R102). -/
def Relay.status (r : Relay) : Nat :=
  if r.dropped then Code.part
  else match r.entries with
    | [] => Code.ok
    | e :: t => if t.all (fun x => x.status == e.status) then e.status else Code.part

/-- The fanned reply: the summary word and the entries (R102). -/
def Relay.answer (r : Relay) : Answer :=
  { status := r.status,
    words := wordOf (r.expected.length * 2 ^ 16 + r.entries.length) :: r.entries.flatMap FanEntry.encode }

/-- Whether every expected target has replied. -/
def Relay.heardAll (r : Relay) : Bool := r.expected.all (fun t => r.got.any (fun e => e.port == t.1 && e.address == t.2))

/-- Forget a relay. -/
def dropRelay (num : Nat) (s : State) : State :=
  setCmd (fun c => { c with relays := c.relays.filter (fun r => r.num != num) }) s

/-- A relayed command completes with an answer. -/
def finishRelay (r : Relay) (a : Answer) (s : State) : State :=
  let s := dropRelay r.num s
  match s.cmd.queue.find? (fun c => c.id == r.cmd) with
  | some c => finish c a s
  | none => s

/-- A fanned command completes: a target that has not replied raises CMD_FANOUT_TIMEOUT (R102). -/
def completeRelay (r : Relay) (s : State) : State :=
  let s := when (!r.heardAll) (raise Src.CMD_FANOUT_TIMEOUT) s
  finishRelay r r.answer s

/-- Relay a tile-bound command on its ring ports in ascending order (R101); with no port and no expected target it completes
at once (R102). A port that is not ACTIVE carries nothing. The expected targets are those of the acceptance, for which the
reservation was made (R102, R103; DEDUCED, log 166). -/
def relayCommand (c : QCmd) (s : State) : State :=
  if !servesTiles s then finish c { status := Code.state } s
  else
    let num := s.cmd.nextRelay
    let tag := fld s F.CASCADE_ID_member % 2 * 2 ^ 15 + Config.relayTagLow num % 2 ^ 15
    let ports := (targetPorts s c.raw).filter (portActive s)
    let r : Relay := {
      num := num, tag := tag, cmd := c.id, single := cMode c.raw == 0, bound := replyBound (cOpcode c.raw) c.payload,
      expected := c.targets }
    let s := setCmd (fun x => { x with nextRelay := num + 1, relays := x.relays ++ [r] }) (setPhaseOf c.id .relayed s)
    let s := forEach ports (fun p st => sendRing p 0x01 (relayDst c.raw) (relayPacket c tag) st) s
    if r.expected.isEmpty && ports.isEmpty then completeRelay r s else s

/-! ### Replies (R101 to R103, R346) -/

/-- Reply words of a relay that are placed or kept room for, with a further entry of `n` words (R103). -/
def Relay.room (r : Relay) (n : Nat) : Nat :=
  let size (l : List FanEntry) : Nat := (l.map (fun e => 2 + e.words.length)).sum
  1 + size r.got + size r.extra + (r.expected.length - r.got.length) * (2 + r.bound) + 2 + n

/-- The largest reply of a command: its reservation, and over UDP 16,371 words (R97, R103, R123). -/
def replyLimit (c : QCmd) : Nat :=
  match c.master with
  | .udp _ _ => min 16371 (c.reserve - 5)
  | _ => c.reserve - 5

/-- Replace a relay. -/
def putRelay (r : Relay) (s : State) : State :=
  setCmd (fun c => { c with relays := c.relays.map (fun x => if x.num == r.num then r else x) }) s

/-- A reply for one of this member's relays: the first of each target counts (R101). -/
def collectReply (r : Relay) (port addr : Nat) (body : List Byte) (s : State) : State :=
  let e : FanEntry := {
    port := port, address := addr, status := byteAt body 12, retryAfter := beAt body 14 2,
    words := bytesWords ((body.drop 16).take (4 * cLength body)) }
  let wanted := r.expected.contains (port, addr)
  if r.seen.contains (port, addr) then s
  else
    let r := { r with seen := (port, addr) :: r.seen }
    if r.single then
      (if wanted then finishRelay r { status := e.status, words := e.words, retry := e.retryAfter } s else putRelay r s)
    else if wanted then
      let r := { r with got := r.got ++ [e] }
      if r.heardAll then completeRelay r s else putRelay r s
    else
      let limit := match s.cmd.queue.find? (fun c => c.id == r.cmd) with
        | some c => replyLimit c
        | none => 0
      if r.room e.words.length ≤ limit then putRelay { r with extra := r.extra ++ [e] } s
      else incFld F.CMD_FANOUT_STAT_extra_dropped (putRelay { r with dropped := true } s)

/-- A reply for the partner goes over the tie link as it came, with the tile's src, pair and ring_port (R346). -/
def forwardReply (d : Delivered) (s : State) : State :=
  if d.port == 7 || !portActive s 7 then s
  else
    let (q, s) := freshSeq s
    let l := (basePackets s 7 0x02 false q 0 0 d.body).map (fun x =>
      { x with hdr := putBytes x.hdr 9 [BitVec.ofNat 8 (hSrc d.hdr), BitVec.ofNat 8 (byteAt d.hdr 10)] })
    setPort 7 (fun p => { p with tx := { p.tx with base := p.tx.base ++ l } }) s

/-- A sender takes a REPLY message (R101, R346). -/
def replyReceive (s : State) : State :=
  if !isSender s then s
  else match takeInbox (isBase 0x02) s with
    | none => s
    | some (d, s) =>
      let tag := cTag d.body
      if tag / 2 ^ 15 != fld s F.CASCADE_ID_member % 2 then forwardReply d s
      else match s.cmd.relays.find? (fun r => r.tag == tag) with
        | none => s
        | some r => collectReply r (if d.port == 7 then hRingPort d.hdr else d.port) (hSrc d.hdr) d.body s

/-- fanout_tmo has run out for relay number `num` (R102). -/
def fanoutTimeout (num : Nat) (s : State) : State :=
  match s.cmd.relays.find? (fun r => r.num == num) with
  | none => s
  | some r =>
    if r.single then finishRelay r { status := Code.timeout } (raise Src.CMD_FANOUT_TIMEOUT s) else completeRelay r s

/-! ### Relay forms (R217, R219, R423) -/

/-- Whether a command is a relay form of TABLE_LOAD or UPD_BLOCK, which its sender carries out itself. -/
def relayForm (h : List Byte) (ws : List Word) : Bool :=
  (cOpcode h == Op.tableLoad && tableRelay (pw ws 0)) || (cOpcode h == Op.updBlock && bitOf (pw ws 1) 31)

/-- The source of a relay form: region and offset of `n` bytes from an address of the store or DRAM window, if they may be
read (R98, R217). -/
def relaySource (s : State) (m : Master) (a n : Nat) : Option (Nat × Nat) :=
  if rangeOk s m a (cdiv n 4) && inStore a then some (0, a - 0x10000000)
  else if rangeOk s m a (cdiv n 4) && inDram a then some (1, dramOffset s m a)
  else none

/-- Size of a table of a tile as its sender can judge it: that of table 00h is the tile's own matter (R218). -/
def tileTableSize (t : Nat) : Option Nat :=
  if t == 0 then some (2 ^ 32) else if t ≤ 3 then some (4 * 4097) else if t == 4 then some 144 else if t == 5 then some 256 else none

/-- The first message of a relay form, or the answer that refuses it. -/
def tableRelayCheck (s : State) (c : QCmd) : Except Nat Emission :=
  let ws := c.payload
  let w := pw ws 0
  if ws.length != 4 then .error Code.length
  else if tableReserved false w || pw ws 3 % 4 != 0 then .error Code.opcode
  else if !servesTiles s then .error Code.state
  else match tileTableSize (tableOf w), relaySource s c.master (pw ws 2) (pw ws 3) with
    | some size, some (r, o) =>
      if pw ws 1 % 4 != 0 || pw ws 1 + pw ws 3 > size then .error Code.address
      else .ok { cmd := c.id, word0 := ws.getD 0 0, offset := pw ws 1, region := r, src := o, left := pw ws 3,
                 ports := targetPorts s c.raw, dst := relayDst c.raw }
    | _, _ => .error Code.address

/-- The relay form of UPD_BLOCK: owner lock, then alignment and the source (R422, R423). -/
def blockRelayCheck (s : State) (c : QCmd) : Except Nat Emission :=
  let ws := c.payload
  let offset := pw ws 1 % 2 ^ 31
  if ws.length != 5 then .error Code.length
  else if s.boot.otpLock then .error Code.locked
  else if !servesTiles s then .error Code.state
  else match relaySource s c.master (pw ws 2) (pw ws 3) with
    | some (r, o) =>
      if offset % 0x1000 != 0 || pw ws 3 % 0x1000 != 0 then .error Code.address
      else .ok { cmd := c.id, word0 := ws.getD 0 0, offset := offset, region := r, src := o, left := pw ws 3,
                 ports := targetPorts s c.raw, dst := relayDst c.raw }
    | none => .error Code.address

/-- A message of a relay form goes out on its ports, ascending (R101, R219). -/
def emitForm (e : Emission) (typ : Nat) (head : List Byte) (n : Nat) (s : State) : State :=
  let msg := head ++ memBytes s e.region e.src n
  let s := portTraffic 10 e.region e.src n s
  forEach (e.ports.filter (portActive s)) (fun p st => sendRing p typ e.dst msg st) s

/-- An emission after a message of `n` bytes. -/
def Emission.next (e : Emission) (n : Nat) : Emission :=
  { e with offset := e.offset + n, src := e.src + n, left := e.left - n }

/-- The command of an emission completes with OK (R219, R423). -/
def finishEmission (e : Emission) (s : State) : State :=
  match s.cmd.queue.find? (fun c => c.id == e.cmd) with
  | some c => finish c { status := Code.ok } s
  | none => s

/-- The command of an emission ends with STATE: a member that is no longer active assigns no further base-note sequences, so
the rest of its messages are not sent (R350, R360; DEDUCED, log 195). -/
def stopEmission (e : Emission) (s : State) : State :=
  match s.cmd.queue.find? (fun c => c.id == e.cmd) with
  | some c => finish c { status := Code.state } s
  | none => s

/-- TABLE_DATA: the next message of the relay form in emission, with up to 8,184 data bytes (R219). -/
def tableDataEmit (s : State) : State :=
  match s.cmd.tableEmit with
  | none => s
  | some e =>
    if !servesTiles s then stopEmission e (setCmd (fun c => { c with tableEmit := none }) s)
    else
    let n := min 8184 e.left
    let s := emitForm e 0x03 (beBytes 4 e.word0.toNat ++ beBytes 4 e.offset) n s
    let e := e.next n
    if e.left == 0 then finishEmission e (setCmd (fun c => { c with tableEmit := none }) s)
    else setCmd (fun c => { c with tableEmit := some e }) s

/-- FIRMWARE_DATA: the next 4 KiB block (R423). -/
def firmwareDataEmit (s : State) : State :=
  match s.boot.emission with
  | none => s
  | some e =>
    if !servesTiles s then stopEmission e (setBoot (fun b => { b with emission := none }) s)
    else
    let s := emitForm e 0x04 (beBytes 4 e.word0.toNat ++ beBytes 4 (e.offset / 0x1000)) 0x1000 s
    let e := e.next 0x1000
    if e.left == 0 then finishEmission e (setBoot (fun b => { b with emission := none }) s)
    else setBoot (fun b => { b with emission := some e }) s

/-- Start a relay form: one emission of its kind runs at a time, and a form of 0 bytes completes at once. -/
def startForm (c : QCmd) (s : State) : State :=
  if cOpcode c.raw == Op.tableLoad then
    (if s.cmd.tableEmit.isSome then s
     else match tableRelayCheck s c with
      | .error k => finish c { status := k } s
      | .ok e =>
        if e.left == 0 then finish c { status := Code.ok } s
        else setCmd (fun x => { x with tableEmit := some e }) (setPhaseOf c.id .emitting s))
  else if s.boot.emission.isSome then s
  else match blockRelayCheck s c with
    | .error k =>
      let (a, s) := updRefuse k s
      finish c a s
    | .ok e =>
      if e.left == 0 then finish c { status := Code.ok } s
      else setBoot (fun b => { b with emission := some e }) (setPhaseOf c.id .emitting s)

/-- A tile takes a delivered TABLE_DATA message: it writes it, or discards it whole and counts it (R219). -/
def tableDataReceive (s : State) : State :=
  if !isTile s then s
  else match takeInbox (isBase 0x03) s with
    | none => s
    | some (d, s) =>
      let w := beAt d.body 0 4
      let data := d.body.drop 8
      if d.body.length < 8 || data.length % 4 != 0 || tableReserved false w ||
          !tableFits s (tableOf w) (tableBank w) (beAt d.body 4 4) data.length then
        incFld F.PIPE_STAT_table_reject s
      else
        let ws := (chunks 4 data).map (fun c => wordOf (leNat c))
        tableWrite .ring (tableOf w) (tableBank w) (beAt d.body 4 4) ws s

/-! ### Rows of the opcode table -/

/-- REPLY_RECEIVE (R101, R346). -/
def execReplyReceive (s : State) : Host.Outcome State Fault Refusal := .next (whenOn 1 replyReceive s)

/-- FANOUT_TIMEOUT (R102): `tag` is the number of the relay at this sender. -/
def execFanoutTimeout (tag : Nat) (s : State) : Host.Outcome State Fault Refusal := .next (whenOn 1 (fanoutTimeout tag) s)

/-- TABLE_DATA_EMIT (R219). -/
def execTableDataEmit (s : State) : Host.Outcome State Fault Refusal := .next (whenOn 1 tableDataEmit s)

/-- TABLE_DATA_RECEIVE (R219). -/
def execTableDataReceive (s : State) : Host.Outcome State Fault Refusal := .next (whenOn 16 tableDataReceive s)

/-- FIRMWARE_DATA_EMIT (R423). -/
def execFirmwareDataEmit (s : State) : Host.Outcome State Fault Refusal := .next (whenOn 1 firmwareDataEmit s)

end Sys2Proof.Machine
end

