-- ==== Sys2Proof/Machine/CommandRows.lean ====
section
/-! DEFINITION. The execution of accepted commands, one per master at a time (spec/04_command_packets.md, R99), and the rows
of the opcode table that are opcodes of R95. -/

namespace Sys2Proof.Machine

/-! ### The domains a command needs (R393, R399, R436) -/

/-- The domains of the addresses a register or memory command accesses; none where R98 refuses it. -/
def rangeDomains (s : State) (m : Master) (a n : Nat) : List Nat :=
  if rangeOk s m a n then ((wordRange a n).map placeDomain).eraseDups else []

/-- Whether a command of the surfaces, accords or tables reaches into the external memory: a bind there, or the correction
records there. -/
def memoryOperand (s : State) (op : Nat) (ws : List Word) : Bool :=
  (op == Op.flaconBind && bitOf (pw ws 1) 31) ||
    ((op == Op.tableLoad || op == Op.tableQuery) && tableOf (pw ws 0) == 0 && (corrBase s (tableBank (pw ws 0))).1 == 1)

/-- The words that a register or memory command names. -/
def commandWords (c : QCmd) : List Nat :=
  let op := cOpcode c.raw
  let ws := c.payload
  if op == Op.read || op == Op.write || op == Op.modify then [pw ws 0]
  else if op == Op.blockRead then wordRange (pw ws 0) (min (pw ws 1) 0x4000)
  else if op == Op.blockWrite then wordRange (pw ws 0) (ws.length - 1)
  else []

/-- Whether a command finds a queue of the memory controller full: that of a word it names in the DRAM window, or any of them
where a surface or a table lies in the external memory (R158). -/
def commandStalled (s : State) (c : QCmd) : Bool :=
  let write := cOpcode c.raw != Op.read && cOpcode c.raw != Op.blockRead
  (commandWords c).any (fun a => inDram a && queueFull s write (dramOffset s c.master a) 4) ||
    (memoryOperand s (cOpcode c.raw) c.payload && (queueFull s true 0 0x20000 || queueFull s false 0 0x20000))

/-- Whether a command waits behind an access of its master that waits, for a stage that is being applied and names one of its
words, or for the memory controller (R4, R107, R158). -/
def commandBehind (s : State) (c : QCmd) : Bool :=
  s.pwr.waits.any (fun w => w.master == c.master && w.stage.isNone) || (commandWords c).any (accessBehind s c.master) ||
    commandStalled s c

/-- The domains that a command accesses at the chip that executes it. -/
def commandDomains (s : State) (c : QCmd) : List Nat :=
  let op := cOpcode c.raw
  let ws := c.payload
  if op == Op.read || op == Op.write || op == Op.modify then rangeDomains s c.master (pw ws 0) 1
  else if op == Op.blockRead then rangeDomains s c.master (pw ws 0) (min (pw ws 1) 0x4000)
  else if op == Op.blockWrite then rangeDomains s c.master (pw ws 0) (ws.length - 1)
  else if 0x300 ≤ op && op < 0x600 then 16 :: (if memoryOperand s op ws then [12] else [])
  else if op == Op.epochReserve || op == Op.timeQuery then [3]
  else if op == Op.diagRead || op == Op.diagClear then [5]
  else if 0x900 ≤ op && op < 0xA00 then [2]
  else []

/-- The reply of a command to a unit that is off and not restarting: reads give 0, nothing else happens (R393). -/
def offAnswer (a : Answer) : Answer := { a with words := a.words.map (fun _ => 0) }

/-! ### The turn of a command (R99) -/

/-- Whether a register or memory command goes on as its words' own domains say, word by word (R98, R393). -/
def wordAccess (op : Nat) : Bool := decide (0x100 ≤ op) && decide (op < 0x200)

/-- Execute a command at this chip. One that needs a domain that is restarting or gated waits for it as a demand; one that
would be journalled in the last 20 µs before a latch point waits for that point (R354, R393). The active member journals it
first; at the standby member one that changes the set is a divergence (R355). -/
def runLocal (local_ : QCmd → State → Answer × State) (c : QCmd) (s : State) : Option (Answer × State) :=
  let ds := commandDomains s c
  if commandBehind s c || ds.any (fun d => serve s d == .waits) then none
  else if journals s c && journalHold s then none
  else
    let s := journalCommand c s
    let (a, t) := local_ c s
    let (a, t) := if wordAccess (cOpcode c.raw) || ds.all (domainOn s) then (a, t) else (offAnswer a, s)
    let t := when (redState s == 1 && a.status == Code.ok && changesSet s c.master (cOpcode c.raw) c.payload) diverged t
    some (a, t)

/-- The demands of a command that waits (R393, R399). -/
def demandFor (c : QCmd) (s : State) : State :=
  forEach ((commandDomains s c).filter (fun d => serve s d == .waits)) demand s

/-- The oldest uncompleted command of a master, if it is one of opcode `op` whose turn has come (R99). -/
def turnOf (s : State) (op : Nat) (m : Master) : Option QCmd :=
  match nextOf s m with
  | some c => if c.phase == .waiting && cOpcode c.raw == op then some c else none
  | none => none

/-- Take the turn of a master's command of opcode `op`: a tile-bound one is relayed, or carried out as a relay form; another
one is executed by `local_`, answered, and followed by `after`. -/
def runCommandThen (op : Nat) (m : Master) (local_ : QCmd → State → Answer × State) (after : QCmd → Answer → State → State)
    (s : State) : State :=
  if !domainOn s 1 then s
  else match turnOf s op m with
    | none => s
    | some c =>
      if tileBound s m c.raw then (if relayForm c.raw c.payload then startForm c s else relayCommand c s)
      else match runLocal local_ c s with
        | none => demandFor c s
        | some (a, t) =>
          after c a (finish c a t)

/-- A turn with nothing to follow the answer. -/
def runCommand (op : Nat) (m : Master) (local_ : QCmd → State → Answer × State) (s : State) : State :=
  runCommandThen op m local_ (fun _ _ t => t) s

/-! ### Writes of the wall timing master (R24, R331) -/

/-- Whether a BLOCK_WRITE is the wall timing master's write of WT_PEND: its tag is F000h plus the master's pair (R331). -/
def wtmWrite (c : QCmd) : Bool :=
  cTag c.raw / 256 == 0xF0 && pw c.payload 0 == F.WT_PEND_0_value.base &&
    (match c.master with
     | .udp _ _ => true
     | _ => false)

/-- BLOCK_WRITE. A write of the wall timing master renews no_master; one of another pair's master is not taken by a sender
that has CASCADE_ID.wtm set, which raises WTM_CONFLICT (R24, R331). -/
def localBlockWrite (c : QCmd) (s : State) : Answer × State :=
  if wtmWrite c && isSender s && flag s F.CASCADE_ID_wtm && cTag c.raw % 256 != fld s F.CASCADE_ID_pair then
    answer Code.ok (raise Src.WTM_CONFLICT s)
  else
    let s := when (wtmWrite c && isSender s && cTag c.raw % 256 != fld s F.CASCADE_ID_pair) (setFlag F.WT_STAT_no_master false) s
    opBlockWrite c.master c.payload s

/-- UPD_BLOCK at the chip itself: its relay form is refused with STATE (R423). -/
def localUpdBlock (c : QCmd) (s : State) : Answer × State :=
  if bitOf (pw c.payload 1) 31 then
    (if c.payload.length != 5 then answer Code.length s
     else if s.boot.otpLock then updRefuse Code.locked s
     else updRefuse Code.state s)
  else updBlockInline c.payload s

/-- PWR_STATE has been answered: with OK the target is set (R410). -/
def afterPwrState (c : QCmd) (a : Answer) (s : State) : State :=
  if a.status == Code.ok then setTarget (pw c.payload 0) s else s

/-- A register command has been answered: where it wrote PD_CTRL.enable a wait may have ended (R394). -/
def afterRegisters (c : QCmd) (_ : Answer) (s : State) : State :=
  if (commandWords c).any pdCtrlWord then completeWaits s else s

/-! ### Rows of the opcode table -/

/-- NOP (R95). -/
def execNop (m : Master) (s : State) : Host.Outcome State Fault Refusal :=
  .next (runCommand Op.nop m (fun c => opNop m c.payload) s)

/-- IDENT (R95). -/
def execIdent (m : Master) (s : State) : Host.Outcome State Fault Refusal :=
  .next (runCommand Op.ident m (fun c => opIdent m c.payload) s)

/-- RESET (R95). -/
def execReset (m : Master) (s : State) : Host.Outcome State Fault Refusal :=
  .next (runCommand Op.reset m (fun c => opReset c.payload) s)

/-- PING (R95). -/
def execPing (m : Master) (s : State) : Host.Outcome State Fault Refusal :=
  .next (runCommand Op.ping m (fun c => opPing m c.payload) s)

/-- READ (R98). -/
def execRead (m : Master) (s : State) : Host.Outcome State Fault Refusal :=
  .next (runCommand Op.read m (fun c => opRead m c.payload) s)

/-- WRITE (R98). -/
def execWrite (m : Master) (s : State) : Host.Outcome State Fault Refusal :=
  .next (runCommandThen Op.write m (fun c => opWrite m c.payload) afterRegisters s)

/-- MODIFY (R98). -/
def execModify (m : Master) (s : State) : Host.Outcome State Fault Refusal :=
  .next (runCommandThen Op.modify m (fun c => opModify m c.payload) afterRegisters s)

/-- BLOCK_READ (R98). -/
def execBlockRead (m : Master) (s : State) : Host.Outcome State Fault Refusal :=
  .next (runCommand Op.blockRead m (fun c => opBlockRead m c.payload) s)

/-- BLOCK_WRITE (R98). -/
def execBlockWrite (m : Master) (s : State) : Host.Outcome State Fault Refusal :=
  .next (runCommandThen Op.blockWrite m localBlockWrite afterRegisters s)

/-- STAGE (R104). -/
def execStage (m : Master) (s : State) : Host.Outcome State Fault Refusal :=
  .next (runCommand Op.stage m (fun c => opStage m false c.payload) s)

/-- COMMIT_AT (R106). -/
def execCommitAt (m : Master) (s : State) : Host.Outcome State Fault Refusal :=
  .next (runCommand Op.commitAt m (fun c => opCommitAt c.frame c.payload) s)

/-- DISCARD (R108). -/
def execDiscard (m : Master) (s : State) : Host.Outcome State Fault Refusal :=
  .next (runCommand Op.discard m (fun c => opDiscard c.payload) s)

/-- STAGE_QUERY (R108). -/
def execStageQuery (m : Master) (s : State) : Host.Outcome State Fault Refusal :=
  .next (runCommand Op.stageQuery m (fun c => opStageQuery c.payload) s)

/-- FLACON_BIND (R140). -/
def execFlaconBind (m : Master) (s : State) : Host.Outcome State Fault Refusal :=
  .next (runCommand Op.flaconBind m (fun c => opFlaconBind c.payload) s)

/-- FLACON_RELEASE (R143). -/
def execFlaconRelease (m : Master) (s : State) : Host.Outcome State Fault Refusal :=
  .next (runCommand Op.flaconRelease m (fun c => opFlaconRelease c.payload) s)

/-- FENCE_QUERY (R142). -/
def execFenceQuery (m : Master) (s : State) : Host.Outcome State Fault Refusal :=
  .next (runCommand Op.fenceQuery m (fun c => opFenceQuery c.payload) s)

/-- ACCORD_LOAD (R171). -/
def execAccordLoad (m : Master) (s : State) : Host.Outcome State Fault Refusal :=
  .next (runCommand Op.accordLoad m (fun c => opAccordLoad m c.payload) s)

/-- ACCORD_QUERY (R171). -/
def execAccordQuery (m : Master) (s : State) : Host.Outcome State Fault Refusal :=
  .next (runCommand Op.accordQuery m (fun c => opAccordQuery m c.payload) s)

/-- TABLE_LOAD (R217, R219). -/
def execTableLoad (m : Master) (s : State) : Host.Outcome State Fault Refusal :=
  .next (runCommand Op.tableLoad m (fun c => opTableLoad m c.payload) s)

/-- TABLE_QUERY (R218). -/
def execTableQuery (m : Master) (s : State) : Host.Outcome State Fault Refusal :=
  .next (runCommand Op.tableQuery m (fun c => opTableQuery m c.payload) s)

/-- EPOCH_RESERVE (R328). -/
def execEpochReserve (m : Master) (s : State) : Host.Outcome State Fault Refusal :=
  .next (runCommand Op.epochReserve m (fun c => opEpochReserve c.payload) s)

/-- TIME_QUERY (R315). -/
def execTimeQuery (m : Master) (s : State) : Host.Outcome State Fault Refusal :=
  .next (runCommand Op.timeQuery m (fun c => opTimeQuery c.payload) s)

/-- DIAG_READ (R269). -/
def execDiagRead (m : Master) (s : State) : Host.Outcome State Fault Refusal :=
  .next (runCommand Op.diagRead m (fun c => opDiagRead c.payload) s)

/-- DIAG_CLEAR (R270). -/
def execDiagClear (m : Master) (s : State) : Host.Outcome State Fault Refusal :=
  .next (runCommand Op.diagClear m (fun c => opDiagClear c.payload) s)

/-- RED_STATUS (R361). -/
def execRedStatus (m : Master) (s : State) : Host.Outcome State Fault Refusal :=
  .next (runCommand Op.redStatus m (fun c => opRedStatus c.payload) s)

/-- RED_SWAP (R360, R361). -/
def execRedSwap (m : Master) (s : State) : Host.Outcome State Fault Refusal :=
  .next (runCommand Op.redSwap m (fun c => opRedSwap c.payload) s)

/-- RED_SNAPSHOT (R361). -/
def execRedSnapshot (m : Master) (s : State) : Host.Outcome State Fault Refusal :=
  .next (runCommand Op.redSnapshot m (fun c => opRedSnapshot c.payload) s)

/-- UPD_BEGIN (R422). -/
def execUpdBegin (m : Master) (s : State) : Host.Outcome State Fault Refusal :=
  .next (runCommand Op.updBegin m (fun c => updBegin c.payload) s)

/-- UPD_BLOCK (R422, R423). -/
def execUpdBlock (m : Master) (s : State) : Host.Outcome State Fault Refusal :=
  .next (runCommand Op.updBlock m localUpdBlock s)

/-- UPD_SEAL (R422, R424). -/
def execUpdSeal (m : Master) (s : State) : Host.Outcome State Fault Refusal :=
  .next (runCommand Op.updSeal m (fun c => updSeal c.payload) s)

/-- UPD_SCHEDULE (R422, R425). -/
def execUpdSchedule (m : Master) (s : State) : Host.Outcome State Fault Refusal :=
  .next (runCommand Op.updSchedule m (fun c => updSchedule c.payload) s)

/-- UPD_CONFIRM (R422, R428). -/
def execUpdConfirm (m : Master) (s : State) : Host.Outcome State Fault Refusal :=
  .next (runCommand Op.updConfirm m (fun c => updConfirm c.payload) s)

/-- UPD_ABORT (R422). -/
def execUpdAbort (m : Master) (s : State) : Host.Outcome State Fault Refusal :=
  .next (runCommand Op.updAbort m (fun c => updAbort c.payload) s)

/-- UPD_RECOVER (R422). -/
def execUpdRecover (m : Master) (s : State) : Host.Outcome State Fault Refusal :=
  .next (runCommand Op.updRecover m (fun c => updRecover c.payload) s)

/-- PWR_STATE (R410): the reply goes first. -/
def execPwrState (m : Master) (s : State) : Host.Outcome State Fault Refusal :=
  .next (runCommandThen Op.pwrState m (fun c => opPwrState c.payload) afterPwrState s)

/-- PWR_QUERY (R410). -/
def execPwrQuery (m : Master) (s : State) : Host.Outcome State Fault Refusal :=
  .next (runCommand Op.pwrQuery m (fun c => opPwrQuery m c.payload) s)

/-- EVT_READ (R375). -/
def execEvtRead (m : Master) (s : State) : Host.Outcome State Fault Refusal :=
  .next (runCommand Op.evtRead m (fun c => opEvtRead m c.payload) s)

/-- EVT_CLEAR (R375). -/
def execEvtClear (m : Master) (s : State) : Host.Outcome State Fault Refusal :=
  .next (runCommand Op.evtClear m (fun c => opEvtClear c.payload) s)

/-- EVT_CONFIG (R375). -/
def execEvtConfig (m : Master) (s : State) : Host.Outcome State Fault Refusal :=
  .next (runCommand Op.evtConfig m (fun c => opEvtConfig m c.payload) s)

end Sys2Proof.Machine
end

