-- ==== Sys2Proof/Machine/Frames.lean ====
section
/-! DEFINITION. The wall frame: what happens at t_epoch(F) and at t_latch(F), all blocks together, and the latch entries of a
standby member (R107, R172, R216, R250, R318, R335, R344, R360, R389). -/

namespace Sys2Proof.Machine

/-! ### The accord latch (R172, R344) -/

/-- Flow layers that the selected slots hold for frame `f`. -/
def flowLayers (s : State) (f : Nat) : List Nat :=
  let rd := wordsFor s f
  ((selectedSlots rd).flatMap (fun n => (slotLayers (isTile s) rd n).filterMap (fun l =>
    if l.kind == 1 then some l.source else none))).eraseDups

/-- A latched frame with nothing composed in it yet. -/
def newFrame (f : Nat) (vs : List ViewLatch) (d : DriveFrame) (s : State) : FrameLatch :=
  { frame := f, views := vs, coef := coefFor s vs, bank := (regWord s F.PIPE_BANK_tf.base).toNat,
    dither := flag s F.PIPE_CFG_dither_en, gains := pixelGains s, dims := d.dims, out := d.out, both := d.both,
    map := s.pipe.map, masked := match s.pipe.map with | some m => maskedLamps s m | none => [], noFill := s.lamp.noFill, lit := d.lit }

/-- The active member journals a latch entry for the flow layers it has latched (R344, R354). -/
def journalLatch (f : Nat) (s : State) : State :=
  let l := (flowLayers s f).filter (fun n => (s.eth.flows.getD n {}).hasPrev)
  if redState s != 2 || (flowLayers s f).isEmpty then s
  else
    journal 3 0 (frameTag s f) 0 (l.flatMap (fun n =>
      let k := fldAt s F.FLOW_STAT_last_flacon n
      [BitVec.ofNat 8 n, BitVec.ofNat 8 (b2n (s.red.repaired.contains k)), 0, 0] ++ beBytes 4 (fldAt s F.FLACON_RTP_rtp_ts k) ++
        beBytes 4 k)) s

/-- The latch entry held for the frame with number `f`. -/
def entryFor (s : State) (f : Nat) : Option (List (Nat × Bool × Nat)) :=
  (s.red.entries.find? (fun e => e.1 == frameTag s f)).map Prod.snd

/-- Whether the frame that an entry names for a flow is published on this member, and not repaired by either (R344). -/
def entryUsable (s : State) (e : Nat × Bool × Nat) : Bool :=
  let k := ((List.range (fldAt s F.FLOW_FLACON_count e.1)).map (fun i =>
    (fldAt s F.FLOW_FLACON_first e.1 + i) % 256)).find? (fun k => flaconState s k == 3 && fldAt s F.FLACON_RTP_rtp_ts k == e.2.2)
  !e.2.1 && (match k with
    | some k => !s.red.repaired.contains k
    | none => false)

/-- Latch the flow layers of a frame's views, which have waited for the entry. -/
def latchFlows (f : Nat) : List ViewLatch → State → List ViewLatch × State
  | [], s => ([], s)
  | v :: t, s =>
    let go (l : LayerLatch) (s : State) : LayerLatch × State := if l.kind == 1 then latchLayer f l s else (l, s)
    let (ls, s) := v.layers.foldl (fun (acc : List LayerLatch × State) l =>
      let (l, s) := go l acc.2
      (acc.1 ++ [l], s)) ([], s)
    let (t, s) := latchFlows f t s
    ({ v with layers := ls } :: t, s)

/-- The flacons that the layers of some views are latched from. -/
def viewFlacons (vs : List ViewLatch) : List FlaconEntry :=
  (vs.flatMap (fun v => v.layers.filterMap (fun l => match l.src with
    | .flacon e => some e
    | _ => none))).eraseDups

/-- What a reader fetches of a flacon through port `p`: of a WCS-L surface each tile's coded length and the index, of another
one the whole surface (R132, R134, R154). -/
def fetchFlacon (p : Nat) (e : FlaconEntry) (s : State) : State :=
  if e.layout != 0 then portTraffic p e.region e.base (surfaceSize e.layout e.fmt e.stride e.width e.height) s
  else
    let n := tilesX e.width * tilesY e.height
    let off := dataOffset 0 n
    let slot := slotSize 0 e.fmt
    forEach (List.range n) (fun t st =>
      portTraffic p e.region (e.base + off + t * slot)
        (unitBytes (leNat (memBytes st e.region (e.base + 0x40 + 2 * t) 2) % 256) slot) st)
      (portTraffic p e.region e.base off s)

/-- What composition and correction read from the external memory for a frame: the surfaces of its flacons, each once, through
COMP_RD, or through RING_RD where a sender only emits their layers, and the correction records through CORR_RD (R154). All of
it counts at the latch point (DESIGN CHOICE, log 174). -/
def fetchFrame (vs : List ViewLatch) (records : Bool) (s : State) : State :=
  let canvas := viewFlacons (vs.filter (fun v => !(isSender s && v.accord)))
  let s := forEach canvas (fetchFlacon 1) s
  let s := forEach ((viewFlacons vs).filter (fun e => !canvas.contains e)) (fetchFlacon 2) s
  match records, s.pipe.map with
  | true, some m =>
    let (r, o) := corrBase s (fld s F.PIPE_BANK_corr)
    portTraffic 3 r o m.corrBytes s
  | _, _ => s

/-- A standby member's deferred latch of frame `f` takes place, with the entry or without it: the flow layers latch the named
frames, the plans are made, and a frame that the two members may show differently holds its heart packets (R344). -/
def completeLatch (f : Nat) (e : Option (List (Nat × Bool × Nat))) (s : State) : State :=
  let named := (e.getD []).map (fun x => (x.1, x.2.2))
  let hold := match e with
    | none => true
    | some l => l.any (fun x => !entryUsable s x)
  let s := setRed (fun r => { r with deferred := none, named := named }) s
  let s := match s.comp.frames.find? (fun q => q.frame == f) with
    | none => s
    | some q =>
      let (vs, s) := latchFlows f q.views s
      let s := { s with comp := { s.comp with
        frames := s.comp.frames.map (fun y => if y.frame == f then { y with views := vs } else y)
        plans := s.comp.plans.map (fun l => l.filter (fun x => x.frame != f)) } }
      makePlans f vs (fetchFrame (vs.map (fun v => { v with layers := v.layers.filter (fun l => l.kind == 1) })) false s)
  let s := setRed (fun r => { r with named := [] }) s
  if hold then holdHeart f s else s

/-- The composition part of latch point F: the accords and what the pipeline samples with them (R172, R216). A standby member
with flow layers waits for the active member's entry with them (R344). -/
def composeLatch (f : Nat) (d : DriveFrame) (s : State) : State :=
  let waits := redState s == 1 && isSender s && !(flowLayers s f).isEmpty
  let s := if waits then setRed (fun r => { r with deferred := some f }) s else s
  let (vs, s) := latchAccords f s
  let s := fetchFrame vs (isTile s) (holdClusters f vs (addFrame (newFrame f vs d s) s))
  let s := forEach ((List.range 16).filter (bitOf (fld s F.PIPE_PE_STAT_in_use))) (fun k st => demand (17 + k) st) s
  match waits, entryFor s f with
  | true, some e => completeLatch f (some e) s
  | _, _ => journalLatch f s

/-- Latch point F (R172): timing, gains, map, lamp drive, scan, accords, and the blanking slice of the calibration. -/
def latchAt (f : Nat) (s : State) : State :=
  let s := whenOn 16 settleFences (timingLatch f s)
  let s := if s.red.syncDue && redState s == 1 then
      setFlag F.RED_STAT_sync true (setRed (fun r => { r with syncDue := false }) s)
    else s
  let s := when (isTile s && domainOn s 16) (fun st => checkMap f (latchGains st)) s
  let (d, s) := if isTile s && domainOn s 5 then latchDrive f s
    else ({ out := [0, 0, 0, 0], both := false, dims := [0, 0, 0, 0], lit := false }, s)
  let s := whenOn 5 scanLatch s
  let s := whenOn 16 (composeLatch f d) s
  when (flag s F.WT_STAT_rec_valid) (whenOn 4 calSlice) s

/-- The next latch point comes, if it has not been taken yet. -/
def latchPoint (s : State) : State :=
  let f := fCur s + 1
  if f ≤ s.wt.latched then s
  else
    let s := runTo (tLatch s f * nsUnit) s
    if isSender s && recordRate s != s.wt.rate then senderRate s
    else latchAt f (setWt (fun w => { w with latched := f }) s)

/-! ### The frame boundary (R107, R318) -/

/-- The bits of a staged entry that act: all of them, but for a stage that comes from the journal those inside the set
(R355). -/
def stageBits (s : State) (x : Stage) (e : StageEntry) : Word :=
  if x.journal then e.mask &&& setMask s .hspi e.addr else e.mask

/-- Boundary F: the record, staged settings, the role swap, base messages that waited, calibration results, the one-sided
check of the frame that has ended, and CFG messages of a scan that has come into force (R83, R107, R331, R352, R360, R389). -/
def boundaryAt (f : Nat) (s : State) : State :=
  let was := s.wt.force
  let s := timingBoundary s
  let s := whenOn 1 (applyStages stageBits f) s
  let s := whenOn 1 (fun st => releaseHeld f (swapBoundary f st)) s
  let s := whenOn 4 (calBoundary f) s
  let s := whenOn 16 settleFences (oneSidedCheck s)
  when (isTile s && s.wt.force != was) (whenOn 5 (fun st => judgeNow (resendScan st))) s

/-- The time in ns of the next boundary: the next epoch, or the start of a new rate. -/
def nextBoundary (s : State) : Nat :=
  let t := tEpoch s (fCur s + 1)
  match rateAhead s with
  | some c => if fCur s + 1 < c.new then t else max t c.start
  | none => t

/-- The next frame boundary comes: the one of the present frame if it has not been taken, else the next one. -/
def frameBoundary (s : State) : State :=
  let s := if s.wt.boundary < fCur s then s else runTo (nextBoundary s * nsUnit) s
  boundaryAt (fNow s) (setWt (fun w => { w with boundary := fCur s }) s)

/-! ### Rows of the opcode table -/

/-- WALL_FRAME_BOUNDARY (R318). -/
def execWallFrameBoundary (s : State) : Host.Outcome State Fault Refusal := .next (whenOn 3 frameBoundary s)

/-- LATCH_POINT (R172). -/
def execLatchPoint (s : State) : Host.Outcome State Fault Refusal := .next (whenOn 3 latchPoint s)

/-- LATCH_ENTRY_TIMEOUT (R344): 15 µs after the latch point of the frame that waits. -/
def execLatchEntryTimeout (s : State) : Host.Outcome State Fault Refusal :=
  .next (match s.red.deferred with
    | some f => completeLatch f none (runTo ((tLatch s f + 15000) * nsUnit) s)
    | none => s)

/-- JOURNAL_RECEIVE (R344, R355, R356). -/
def execJournalReceive (s : State) : Host.Outcome State Fault Refusal :=
  .next (whenOn 1 (fun st =>
    let (f, st) := journalTake st
    if f.isSome && f == st.red.deferred then
      match f with
      | some g => completeLatch g (entryFor st g) st
      | none => st
    else st) s)

end Sys2Proof.Machine
end

