-- ==== Sys2Proof/Machine/RegisterRows.lean ====
section
/-! DEFINITION. The rows of the opcode table that are a write or a read of one register by a master that is no command
(spec/20_register_map.md, R440, R441; the effects stand in Bus.lean), and the rows that hand over what the bus has: an
Ethernet frame, a memory request, a domain that is ready again. A row writes the bits of its own fields and no others. -/

namespace Sys2Proof.Machine

/-- Whether a register table has instance `i` of field `f`. -/
def hasInst (f : Fld) (i : Nat) : Bool :=
  match findReg (f.addr i) with
  | some (d, _) => d.fields.any (fun x => x.fld == f)
  | none => false

/-- A master writes the masked bits of instance `i` of the register of field `f`; nothing where there is none. -/
def writeInst (m : Master) (f : Fld) (i : Nat) (mask v : Word) (s : State) : State :=
  if hasInst f i then masterWrite m (f.addr i) mask v s else s

/-- A master writes one field. -/
def writeField (m : Master) (f : Fld) (i v : Nat) (s : State) : State :=
  writeInst m f i (rcMask.fieldBits f) (wordOf (v % 2 ^ (f.hi + 1 - f.lo) * 2 ^ f.lo)) s

/-- A master reads instance `i` of the register of field `f`. -/
def readInst (m : Master) (f : Fld) (i : Nat) (s : State) : State :=
  if hasInst f i then masterRead m (f.addr i) s else s

/-- A master's write at any address that is a multiple of 4. -/
def alignedWrite (m : Master) (a : Nat) (mask v : Word) (s : State) : State :=
  if a % 4 == 0 then (let t := masterWrite m a mask v s; if pdCtrlWord a then completeWaits t else t) else s

/-- A write of word `w` of slot `n` of the control engine (R278). -/
def slotWrite (m : Master) (n w : Nat) (mask v : Word) (s : State) : State :=
  if w < 32 then writeInst m F.CE_DESC_word (32 * n + w) mask v s else s

/-- A write of one of the nine words of a flow entry (R127). -/
def flowWrite (m : Master) (n w : Nat) (v : Word) (s : State) : State :=
  match [F.FLOW_CTRL_enable, F.FLOW_SRC_P_address, F.FLOW_GRP_P_address, F.FLOW_SRC_S_address, F.FLOW_GRP_S_address,
    F.FLOW_UDP_dport_p, F.FLOW_FMT_sampling, F.FLOW_DIM_width, F.FLOW_FLACON_skew][w]? with
  | some f => writeInst m f n 0xFFFFFFFF v s
  | none => s

/-- A frame arrives at an Ethernet port; the command datagram it completes runs the checks of R91 (R113, R123). -/
def frameIn (port : Nat) (bytes : List Byte) (s : State) : State :=
  match ethReceive port bytes s with
  | (s, some d) => intake (.udp d.ip d.sport) d.port d.payload false s
  | (s, none) => s

/-- A port's request. While PD_12 is gated the request is a demand, and it waits for the domain (R393, R398). -/
def portRequest (port : Nat) (write : Bool) (source offset : Nat) (data : List Byte) (s : State) : State :=
  match serve s 12 with
  | .now => dramRequest port write source offset data s
  | .zero => s
  | .waits =>
    let sound := s.dramc.asleep && requestSound s (cfgUnits s.dramc.cfg * 2 ^ 28) port write offset data
    demand 12 (when sound (stallRequest port write source offset data) s)

/-- A command slot; an access that has waited for room in a queue completes after it (R157, R158). -/
def slotOf (channel : Nat) (s : State) : State :=
  let t := commandSlot channel s
  if t.pwr.waits.isEmpty then t else completeWaits t

/-- The restarting domain is ready: the accesses that have waited for it complete (R393, R406). -/
def domainReadyNow (crcOk : Bool) (s : State) : State :=
  let s := completeWaits (restartReady crcOk s)
  if s.dramc.stalled.isEmpty || !dramServes s then s else showDram (admitStalled (dramWake s))

/-! ### Rows of the opcode table -/

/-- DOMAIN_READY_TIMEOUT (R406). -/
def execDomainReadyTimeout (s : State) : Host.Outcome State Fault Refusal := .next (completeWaits (restartLate s))

/-- OTP_LOCK_PROGRAM (R432). go with the key. -/
def execOtpLockProgram (m : Master) (key : Nat) (s : State) : Host.Outcome State Fault Refusal :=
  .next (writeInst m F.OTP_PROG_go 0 0x8000FFFF (wordOf (2 ^ 31 + key % 2 ^ 16)) s)

/-- REGISTER_WRITE (R440, R441). A register whose write has an effect of its own has that effect here too. -/
def execRegisterWrite (m : Master) (addr : Nat) (mask : Word) (value : Word) (s : State) : Host.Outcome State Fault Refusal :=
  .next (alignedWrite m addr mask value s)

/-- RC_READ (R3, R440): every master reads every word of the address map. -/
def execRcRead (m : Master) (addr : Nat) (s : State) : Host.Outcome State Fault Refusal :=
  .next (if addr % 4 == 0 && (spanOf addr).isSome then masterRead m addr s else s)

/-- GLB_BOARD_COMMIT (R443). -/
def execGlbBoardCommit (m : Master) (board : Nat) (s : State) : Host.Outcome State Fault Refusal :=
  .next (writeInst m F.GLB_BOARD_commit 0 0x40FFFFFF (wordOf (2 ^ 30 + board % 2 ^ 24)) s)

/-- STORE_DEBUG_READ (R81), of the store window or, by a master's own page, of the DRAM window (R3, R150). -/
def execStoreDebugRead (m : Master) (addr : Nat) (s : State) : Host.Outcome State Fault Refusal :=
  .next (if addr % 4 == 0 && (inStore addr || inDram addr) then masterRead m addr s else s)

/-- TOPO_TILE_WRITE (R32). -/
def execTopoTileWrite (m : Master) (address : Nat) (s : State) : Host.Outcome State Fault Refusal :=
  .next (writeField m F.TOPO_TILE_address 0 address s)

/-- TOPO_ENUM_START (R26). -/
def execTopoEnumStart (m : Master) (ports : Nat) (reassign : Bool) (s : State) : Host.Outcome State Fault Refusal :=
  .next (writeInst m F.TOPO_ENUM_start 0 0x17F (wordOf (ports % 2 ^ 7 + b2n reassign * 2 ^ 8)) s)

/-- PORT_ENABLE_WRITE (R16, R45). -/
def execPortEnableWrite (m : Master) (port : Nat) (enable : Bool) (s : State) : Host.Outcome State Fault Refusal :=
  .next (writeField m F.PORT_CFG_enable port (b2n enable) s)

/-- PORT_WIDTH_WRITE (R47). -/
def execPortWidthWrite (m : Master) (port : Nat) (width : Nat) (s : State) : Host.Outcome State Fault Refusal :=
  .next (writeField m F.PORT_CFG_width port width s)

/-- LANE_CNT_CLEAR (R58). -/
def execLaneCntClear (m : Master) (lane : Nat) (s : State) : Host.Outcome State Fault Refusal :=
  .next (writeField m F.LANE_CTRL_cnt_clear lane 1 s)

/-- LANE_RETRAIN (R45). -/
def execLaneRetrain (m : Master) (lane : Nat) (s : State) : Host.Outcome State Fault Refusal :=
  .next (writeField m F.LANE_CTRL_retrain lane 1 s)

/-- EIDLE_REQUEST (R56). -/
def execEidleRequest (m : Master) (lane : Nat) (s : State) : Host.Outcome State Fault Refusal :=
  .next (writeField m F.LANE_CTRL_eidle_req lane 1 s)

/-- EIDLE_WITHDRAW (R56, R57). -/
def execEidleWithdraw (m : Master) (lane : Nat) (s : State) : Host.Outcome State Fault Refusal :=
  .next (writeField m F.LANE_CTRL_eidle_req lane 0 s)

/-- PKT_CNT_CLEAR (R87). -/
def execPktCntClear (m : Master) (s : State) : Host.Outcome State Fault Refusal :=
  .next (writeField m F.PKT_CTRL_cnt_clear 0 1 s)

/-- CAL_START (R387). -/
def execCalStart (m : Master) (items : Nat) (s : State) : Host.Outcome State Fault Refusal :=
  .next (writeField m F.CAL_CTRL_start 0 items s)

/-- ETH_MODE_WRITE (R111). -/
def execEthModeWrite (m : Master) (mode : Nat) (s : State) : Host.Outcome State Fault Refusal :=
  .next (writeField m F.ETH_CFG_mode 0 mode s)

/-- ETH_CNT_CLEAR (R127). -/
def execEthCntClear (m : Master) (s : State) : Host.Outcome State Fault Refusal :=
  .next (writeField m F.ETH_CFG_cnt_clear 0 1 s)

/-- ETH_FRAME_RECEIVE (R113, R123). -/
def execEthFrameReceive (port : Nat) (bytes : List Byte) (s : State) : Host.Outcome State Fault Refusal :=
  .next (whenOn 10 (frameIn port bytes) s)

/-- FLOW_ENTRY_WRITE (R114, R124). -/
def execFlowEntryWrite (m : Master) (flow : Nat) (word : Nat) (value : Word) (s : State) : Host.Outcome State Fault Refusal :=
  .next (flowWrite m flow word value s)

/-- FLOW_CNT_CLEAR (R127). -/
def execFlowCntClear (m : Master) (flow : Nat) (s : State) : Host.Outcome State Fault Refusal :=
  .next (writeField m F.FLOW_CTRL_cnt_clear flow 1 s)

/-- DRAM_ENABLE (R151). -/
def execDramEnable (m : Master) (value : Word) (s : State) : Host.Outcome State Fault Refusal :=
  .next (writeInst m F.DRAM_CFG_enable 0 0xFFFFFFFF (value ||| 0x8000) s)

/-- DRAM_DISABLE (R151). -/
def execDramDisable (m : Master) (s : State) : Host.Outcome State Fault Refusal :=
  .next (writeField m F.DRAM_CFG_enable 0 0 s)

/-- DRAM_COMMAND_SLOT (R157, R164). -/
def execDramCommandSlot (channel : Nat) (s : State) : Host.Outcome State Fault Refusal := .next (slotOf channel s)

/-- DRAM_REQUEST (R154, R159, R393). -/
def execDramRequest (client : MemClient) (write : Bool) (offset : Nat) (data : List Byte) (s : State) :
    Host.Outcome State Fault Refusal :=
  .next (portRequest client.port write client.source offset data s)

/-- TF_REGEN (R204). -/
def execTfRegen (m : Master) (bank : Nat) (s : State) : Host.Outcome State Fault Refusal :=
  .next (writeInst m F.TF_CFG_regen 0 0xC0000000 (wordOf (2 ^ 31 + bank % 2 * 2 ^ 30)) s)

/-- PIPE_CNT_CLEAR (R224). -/
def execPipeCntClear (m : Master) (s : State) : Host.Outcome State Fault Refusal :=
  .next (writeField m F.PIPE_CFG_cnt_clear 0 1 s)

/-- TCOMP_TEMP_WRITE (R210). -/
def execTcompTempWrite (m : Master) (temp : Nat) (s : State) : Host.Outcome State Fault Refusal :=
  .next (writeField m F.TCOMP_TEMP_temp 0 temp s)

/-- LL_ENABLE (R245). -/
def execLlEnable (m : Master) (enable : Bool) (s : State) : Host.Outcome State Fault Refusal :=
  .next (writeField m F.LL_CTRL_enable 0 (b2n enable) s)

/-- LL_RESTART (R245). -/
def execLlRestart (m : Master) (s : State) : Host.Outcome State Fault Refusal :=
  .next (writeField m F.LL_CTRL_restart 0 1 s)

/-- LL_CNT_CLEAR (R249). -/
def execLlCntClear (m : Master) (s : State) : Host.Outcome State Fault Refusal :=
  .next (writeField m F.LL_CTRL_cnt_clear 0 1 s)

/-- LL_DIAG_GO (R240). -/
def execLlDiagGo (m : Master) (value : Word) (s : State) : Host.Outcome State Fault Refusal :=
  .next (writeInst m F.LL_DIAG_REQ_go 0 0xFFFFFFFF (value ||| 0x80000000) s)

/-- LD_ENABLE (R251). -/
def execLdEnable (m : Master) (enable : Bool) (s : State) : Host.Outcome State Fault Refusal :=
  .next (writeField m F.LD_CTRL_enable 0 (b2n enable) s)

/-- LD_RESUME (R266). -/
def execLdResume (m : Master) (s : State) : Host.Outcome State Fault Refusal :=
  .next (writeField m F.LD_CTRL_resume 0 1 s)

/-- LD_CNT_CLEAR (R272). -/
def execLdCntClear (m : Master) (s : State) : Host.Outcome State Fault Refusal :=
  .next (writeField m F.LD_CTRL_cnt_clear 0 1 s)

/-- LD_CFG_RESEND (R254). -/
def execLdCfgResend (m : Master) (thresh : Bool) (value : Word) (s : State) : Host.Outcome State Fault Refusal :=
  .next (writeInst m (if thresh then F.LD_THRESH_v_open else F.LD_IREF_red) 0 0xFFFFFFFF value s)

/-- CE_SLOT_ENABLE (R277, R285). -/
def execCeSlotEnable (m : Master) (slot : Nat) (s : State) : Host.Outcome State Fault Refusal :=
  .next (slotWrite m slot 0 0x80000000 0x80000000 s)

/-- CE_SLOT_DISABLE (R286). -/
def execCeSlotDisable (m : Master) (slot : Nat) (s : State) : Host.Outcome State Fault Refusal :=
  .next (slotWrite m slot 0 0x80000000 0 s)

/-- CE_STATE_WRITE (R286). -/
def execCeStateWrite (m : Master) (slot : Nat) (word : Nat) (value : Word) (s : State) : Host.Outcome State Fault Refusal :=
  .next (if 16 ≤ word && word ≤ 19 then slotWrite m slot word 0xFFFFFFFF value s else s)

/-- CE_CNT_CLEAR (R290). -/
def execCeCntClear (m : Master) (s : State) : Host.Outcome State Fault Refusal :=
  .next (writeField m F.CE_CTRL_cnt_clear 0 1 s)

/-- CE_STEP_WRITE (R284). -/
def execCeStepWrite (m : Master) (slot : Nat) (value : Nat) (s : State) : Host.Outcome State Fault Refusal :=
  .next (slotWrite m slot 15 0xFFFF (wordOf value) s)

/-- TIME_INCR_WRITE (R292). -/
def execTimeIncrWrite (m : Master) (value : Word) (s : State) : Host.Outcome State Fault Refusal :=
  .next (writeInst m F.TIME_INCR_incr 0 0xFFFFFFFF value s)

/-- TIME_SHADOW_READ (R293). -/
def execTimeShadowRead (m : Master) (s : State) : Host.Outcome State Fault Refusal :=
  .next (masterRead m F.TIME_NOW_SEC_HI_value.base s)

/-- TIME_STEP (R294). -/
def execTimeStep (m : Master) (s : State) : Host.Outcome State Fault Refusal :=
  .next (writeField m F.TIME_CTRL_step_go 0 1 s)

/-- TIME_LOAD (R294). -/
def execTimeLoad (m : Master) (s : State) : Host.Outcome State Fault Refusal :=
  .next (writeField m F.TIME_CTRL_step_load 0 1 s)

/-- TIME_ADJUST_GO (R294). -/
def execTimeAdjustGo (m : Master) (count : Nat) (s : State) : Host.Outcome State Fault Refusal :=
  .next (writeInst m F.TIME_ADJ_CNT_go 0 0xFFFFFFFF (wordOf (2 ^ 31 + count % 2 ^ 31)) s)

/-- TIME_SAMPLE (R305). -/
def execTimeSample (m : Master) (value : Word) (s : State) : Host.Outcome State Fault Refusal :=
  .next (writeInst m F.TIME_ERR_offset 0 0xFFFFFFFF value s)

/-- EVT_OUT_ARM (R309). -/
def execEvtOutArm (m : Master) (n : Nat) (value : Word) (s : State) : Host.Outcome State Fault Refusal :=
  .next (writeInst m F.EVT_OUT_CTRL_enable n 0xFFFFFFFF (value ||| 0x80000000) s)

/-- EVT_IN_POP (R311). -/
def execEvtInPop (m : Master) (n : Nat) (s : State) : Host.Outcome State Fault Refusal :=
  .next (readInst m F.EVT_IN_FRAC_valid n s)

/-- WT_FRAME_READ (R340). -/
def execWtFrameRead (m : Master) (s : State) : Host.Outcome State Fault Refusal :=
  .next (masterRead m F.WT_FRAME_HI_frame.base s)

/-- WT_PEND_ARM (R331). -/
def execWtPendArm (m : Master) (value : Word) (s : State) : Host.Outcome State Fault Refusal :=
  .next (writeInst m F.WT_PEND_F_LO_value 0 0xFFFFFFFF value s)

/-- RED_ENABLE (R342). -/
def execRedEnable (m : Master) (value : Word) (s : State) : Host.Outcome State Fault Refusal :=
  .next (writeInst m F.RED_CFG_enable 0 0xFFFFFFFF (value ||| 0x80000000) s)

/-- EVT_ACK (R371). -/
def execEvtAck (m : Master) (s : State) : Host.Outcome State Fault Refusal :=
  .next (writeField m F.EVT_CTRL_ack 0 1 s)

/-- EVT_STAT_CLEAR (R366). -/
def execEvtStatClear (m : Master) (group : Nat) (mask : Word) (s : State) : Host.Outcome State Fault Refusal :=
  .next (writeInst m F.EVT_STAT_sticky group 0xFFFFFFFF mask s)

/-- EVT_TEST_GO (R376). -/
def execEvtTestGo (m : Master) (source : Nat) (s : State) : Host.Outcome State Fault Refusal :=
  .next (writeInst m F.EVT_TEST_go 0 0x800000FF (wordOf (2 ^ 31 + source % 2 ^ 8)) s)

/-- PD_ENABLE_WRITE (R14, R394). -/
def execPdEnableWrite (m : Master) (domain : Nat) (enable : Bool) (s : State) : Host.Outcome State Fault Refusal :=
  .next (completeWaits (writeField m F.PD_CTRL_enable domain (b2n enable) s))

/-- DOMAIN_READY (R393, R399, R406). -/
def execDomainReady (crcOk : Bool) (s : State) : Host.Outcome State Fault Refusal :=
  .next (domainReadyNow crcOk s)

/-- PWR_TARGET_WRITE (R402). -/
def execPwrTargetWrite (m : Master) (target : Nat) (s : State) : Host.Outcome State Fault Refusal :=
  .next (writeField m F.PWR_CTRL_target 0 target s)

/-- HK_WDOG_KICK (R409). -/
def execHkWdogKick (m : Master) (s : State) : Host.Outcome State Fault Refusal :=
  .next (writeField m F.HK_WDOG_kick 0 1 s)

end Sys2Proof.Machine
end

