-- ==== Sys2Proof/Machine/Dispatch.lean ====
section
/-! DEFINITION. One arm per command: the meaning of each row of spec/opcode_table.json. -/

namespace Sys2Proof.Machine

def exec (i : Instr) (s : State) : Host.Outcome State Fault Refusal :=
  match i with
  | .powerOnReset resetNHigh => Sys2Proof.Machine.execPowerOnReset resetNHigh s
  | .resetNAssert => Sys2Proof.Machine.execResetNAssert s
  | .resetNRise => Sys2Proof.Machine.execResetNRise s
  | .strapSample roleSel bootSel => Sys2Proof.Machine.execStrapSample roleSel bootSel s
  | .romBoot => Sys2Proof.Machine.execRomBoot s
  | .firmwareStart => Sys2Proof.Machine.execFirmwareStart s
  | .settingsRetry => Sys2Proof.Machine.execSettingsRetry s
  | .recordRewrite => Sys2Proof.Machine.execRecordRewrite s
  | .hspiCmdWrite bytes => Sys2Proof.Machine.execHspiCmdWrite bytes s
  | .rplRead count => Sys2Proof.Machine.execRplRead count s
  | .hspiStatus => Sys2Proof.Machine.execHspiStatus s
  | .hspiUnknownInstruction code => Sys2Proof.Machine.execHspiUnknownInstruction code s
  | .ringCommand => Sys2Proof.Machine.execRingCommand s
  | .nop m => Sys2Proof.Machine.execNop m s
  | .ident m => Sys2Proof.Machine.execIdent m s
  | .reset m => Sys2Proof.Machine.execReset m s
  | .resetCmdExpire => Sys2Proof.Machine.execResetCmdExpire s
  | .ping m => Sys2Proof.Machine.execPing m s
  | .read m => Sys2Proof.Machine.execRead m s
  | .write m => Sys2Proof.Machine.execWrite m s
  | .modify m => Sys2Proof.Machine.execModify m s
  | .blockRead m => Sys2Proof.Machine.execBlockRead m s
  | .blockWrite m => Sys2Proof.Machine.execBlockWrite m s
  | .replyReceive => Sys2Proof.Machine.execReplyReceive s
  | .fanoutTimeout tag => Sys2Proof.Machine.execFanoutTimeout tag s
  | .stage m => Sys2Proof.Machine.execStage m s
  | .commitAt m => Sys2Proof.Machine.execCommitAt m s
  | .discard m => Sys2Proof.Machine.execDiscard m s
  | .stageQuery m => Sys2Proof.Machine.execStageQuery m s
  | .flaconBind m => Sys2Proof.Machine.execFlaconBind m s
  | .flaconRelease m => Sys2Proof.Machine.execFlaconRelease m s
  | .fenceQuery m => Sys2Proof.Machine.execFenceQuery m s
  | .fenceClear n => Sys2Proof.Machine.execFenceClear n s
  | .accordLoad m => Sys2Proof.Machine.execAccordLoad m s
  | .accordQuery m => Sys2Proof.Machine.execAccordQuery m s
  | .tableLoad m => Sys2Proof.Machine.execTableLoad m s
  | .tableDataEmit => Sys2Proof.Machine.execTableDataEmit s
  | .tableDataReceive => Sys2Proof.Machine.execTableDataReceive s
  | .tableQuery m => Sys2Proof.Machine.execTableQuery m s
  | .epochReserve m => Sys2Proof.Machine.execEpochReserve m s
  | .reserveBroadcast => Sys2Proof.Machine.execReserveBroadcast s
  | .timeQuery m => Sys2Proof.Machine.execTimeQuery m s
  | .diagRead m => Sys2Proof.Machine.execDiagRead m s
  | .diagClear m => Sys2Proof.Machine.execDiagClear m s
  | .redStatus m => Sys2Proof.Machine.execRedStatus m s
  | .redSwap m => Sys2Proof.Machine.execRedSwap m s
  | .redSnapshot m => Sys2Proof.Machine.execRedSnapshot m s
  | .updBegin m => Sys2Proof.Machine.execUpdBegin m s
  | .updEraseDone => Sys2Proof.Machine.execUpdEraseDone s
  | .updBlock m => Sys2Proof.Machine.execUpdBlock m s
  | .firmwareDataEmit => Sys2Proof.Machine.execFirmwareDataEmit s
  | .firmwareDataReceive => Sys2Proof.Machine.execFirmwareDataReceive s
  | .flashProgramDone => Sys2Proof.Machine.execFlashProgramDone s
  | .holdupWaitEnd => Sys2Proof.Machine.execHoldupWaitEnd s
  | .updSeal m => Sys2Proof.Machine.execUpdSeal m s
  | .updSchedule m => Sys2Proof.Machine.execUpdSchedule m s
  | .updActivation => Sys2Proof.Machine.execUpdActivation s
  | .updConfirm m => Sys2Proof.Machine.execUpdConfirm m s
  | .svnRaise => Sys2Proof.Machine.execSvnRaise s
  | .confirmDeadline => Sys2Proof.Machine.execConfirmDeadline s
  | .updAbort m => Sys2Proof.Machine.execUpdAbort m s
  | .updRecover m => Sys2Proof.Machine.execUpdRecover m s
  | .otpLockProgram m key => Sys2Proof.Machine.execOtpLockProgram m key s
  | .pwrState m => Sys2Proof.Machine.execPwrState m s
  | .pwrQuery m => Sys2Proof.Machine.execPwrQuery m s
  | .evtRead m => Sys2Proof.Machine.execEvtRead m s
  | .evtClear m => Sys2Proof.Machine.execEvtClear m s
  | .evtConfig m => Sys2Proof.Machine.execEvtConfig m s
  | .registerWrite m addr mask value => Sys2Proof.Machine.execRegisterWrite m addr mask value s
  | .rcRead m addr => Sys2Proof.Machine.execRcRead m addr s
  | .glbBoardCommit m board => Sys2Proof.Machine.execGlbBoardCommit m board s
  | .storeDebugRead m addr => Sys2Proof.Machine.execStoreDebugRead m addr s
  | .topoTileWrite m address => Sys2Proof.Machine.execTopoTileWrite m address s
  | .topoEnumStart m ports reassign => Sys2Proof.Machine.execTopoEnumStart m ports reassign s
  | .enumTieReceive => Sys2Proof.Machine.execEnumTieReceive s
  | .enumCwTile => Sys2Proof.Machine.execEnumCwTile s
  | .enumCcwTile => Sys2Proof.Machine.execEnumCcwTile s
  | .enumLenTile => Sys2Proof.Machine.execEnumLenTile s
  | .enumCountSender => Sys2Proof.Machine.execEnumCountSender s
  | .enumLenSender => Sys2Proof.Machine.execEnumLenSender s
  | .enumCountTimeout port => Sys2Proof.Machine.execEnumCountTimeout port s
  | .enumDoneTimeout port => Sys2Proof.Machine.execEnumDoneTimeout port s
  | .portEnableWrite m port enable => Sys2Proof.Machine.execPortEnableWrite m port enable s
  | .portWidthWrite m port width => Sys2Proof.Machine.execPortWidthWrite m port width s
  | .laneCntClear m lane => Sys2Proof.Machine.execLaneCntClear m lane s
  | .laneRetrain m lane => Sys2Proof.Machine.execLaneRetrain m lane s
  | .eidleRequest m lane => Sys2Proof.Machine.execEidleRequest m lane s
  | .eidleWithdraw m lane => Sys2Proof.Machine.execEidleWithdraw m lane s
  | .signalDetect lane => Sys2Proof.Machine.execSignalDetect lane s
  | .cdrLock lane => Sys2Proof.Machine.execCdrLock lane s
  | .trainingFrameReceive lane control => Sys2Proof.Machine.execTrainingFrameReceive lane control s
  | .equaliseReady lane => Sys2Proof.Machine.execEqualiseReady lane s
  | .trainingTimeout lane => Sys2Proof.Machine.execTrainingTimeout lane s
  | .trainingRetry lane => Sys2Proof.Machine.execTrainingRetry lane s
  | .markerBlockReceive lane symbols => Sys2Proof.Machine.execMarkerBlockReceive lane symbols s
  | .deskewComplete port skew => Sys2Proof.Machine.execDeskewComplete port skew s
  | .deskewDriftFail port => Sys2Proof.Machine.execDeskewDriftFail port s
  | .negotiateComplete port => Sys2Proof.Machine.execNegotiateComplete port s
  | .widthRecheck => Sys2Proof.Machine.execWidthRecheck s
  | .negotiateMarkerTimeout lane => Sys2Proof.Machine.execNegotiateMarkerTimeout lane s
  | .laneSignalLoss lane => Sys2Proof.Machine.execLaneSignalLoss lane s
  | .resyncStart port => Sys2Proof.Machine.execResyncStart port s
  | .egressPhaseMove port => Sys2Proof.Machine.execEgressPhaseMove port s
  | .resyncTimeout lane => Sys2Proof.Machine.execResyncTimeout lane s
  | .eidleTimeout lane => Sys2Proof.Machine.execEidleTimeout lane s
  | .wakeBurstDetect lane => Sys2Proof.Machine.execWakeBurstDetect lane s
  | .wakeBurstEnd lane => Sys2Proof.Machine.execWakeBurstEnd lane s
  | .wakeComplete lane => Sys2Proof.Machine.execWakeComplete lane s
  | .wakeTimeout lane => Sys2Proof.Machine.execWakeTimeout lane s
  | .dataBlockDecode lane symbols => Sys2Proof.Machine.execDataBlockDecode lane symbols s
  | .corrIntervalEnd => Sys2Proof.Machine.execCorrIntervalEnd s
  | .senderSlotFill port => Sys2Proof.Machine.execSenderSlotFill port s
  | .tileSlotInsert port run => Sys2Proof.Machine.execTileSlotInsert port run s
  | .voidFlitReceive port => Sys2Proof.Machine.execVoidFlitReceive port s
  | .packetEnd port => Sys2Proof.Machine.execPacketEnd port s
  | .pktCntClear m => Sys2Proof.Machine.execPktCntClear m s
  | .lineDeadline line => Sys2Proof.Machine.execLineDeadline line s
  | .heartPacketDue port => Sys2Proof.Machine.execHeartPacketDue port s
  | .wallFrameBoundary => Sys2Proof.Machine.execWallFrameBoundary s
  | .latchPoint => Sys2Proof.Machine.execLatchPoint s
  | .calSliceTimer => Sys2Proof.Machine.execCalSliceTimer s
  | .calSliceEnd item => Sys2Proof.Machine.execCalSliceEnd item s
  | .calStart m items => Sys2Proof.Machine.execCalStart m items s
  | .ethModeWrite m mode => Sys2Proof.Machine.execEthModeWrite m mode s
  | .ethCntClear m => Sys2Proof.Machine.execEthCntClear m s
  | .ethLinkUp port => Sys2Proof.Machine.execEthLinkUp port s
  | .ethLinkDown link => Sys2Proof.Machine.execEthLinkDown link s
  | .ethFrameReceive port bytes => Sys2Proof.Machine.execEthFrameReceive port bytes s
  | .reassemblyTimeout idx => Sys2Proof.Machine.execReassemblyTimeout idx s
  | .igmpReportTimer => Sys2Proof.Machine.execIgmpReportTimer s
  | .flowPathTimeout flow pathS => Sys2Proof.Machine.execFlowPathTimeout flow pathS s
  | .flowFrameClose flow => Sys2Proof.Machine.execFlowFrameClose flow s
  | .flowFrameStart flow => Sys2Proof.Machine.execFlowFrameStart flow s
  | .flowEntryWrite m flow word value => Sys2Proof.Machine.execFlowEntryWrite m flow word value s
  | .flowCntClear m flow => Sys2Proof.Machine.execFlowCntClear m flow s
  | .ingestShedTick => Sys2Proof.Machine.execIngestShedTick s
  | .ingestRestoreTick => Sys2Proof.Machine.execIngestRestoreTick s
  | .dramEnable m value => Sys2Proof.Machine.execDramEnable m value s
  | .dramTrainDone failed => Sys2Proof.Machine.execDramTrainDone failed s
  | .dramDisable m => Sys2Proof.Machine.execDramDisable m s
  | .dramMr4Poll codes => Sys2Proof.Machine.execDramMr4Poll codes s
  | .dramZqCal => Sys2Proof.Machine.execDramZqCal s
  | .dramOscTrack taps => Sys2Proof.Machine.execDramOscTrack taps s
  | .dramRequest client write offset data => Sys2Proof.Machine.execDramRequest client write offset data s
  | .dramCommandSlot channel => Sys2Proof.Machine.execDramCommandSlot channel s
  | .dramUnderrun port => Sys2Proof.Machine.execDramUnderrun port s
  | .dramRatSweepEnd channel bank => Sys2Proof.Machine.execDramRatSweepEnd channel bank s
  | .dramRatWindow => Sys2Proof.Machine.execDramRatWindow s
  | .dramSrEntry => Sys2Proof.Machine.execDramSrEntry s
  | .dramSrExit => Sys2Proof.Machine.execDramSrExit s
  | .tfRegen m bank => Sys2Proof.Machine.execTfRegen m bank s
  | .tfRefillDone => Sys2Proof.Machine.execTfRefillDone s
  | .pipeCntClear m => Sys2Proof.Machine.execPipeCntClear m s
  | .tcompTempWrite m temp => Sys2Proof.Machine.execTcompTempWrite m temp s
  | .tcompStale => Sys2Proof.Machine.execTcompStale s
  | .llEnable m enable => Sys2Proof.Machine.execLlEnable m enable s
  | .llRestart m => Sys2Proof.Machine.execLlRestart m s
  | .llCntClear m => Sys2Proof.Machine.execLlCntClear m s
  | .llBringupStep => Sys2Proof.Machine.execLlBringupStep s
  | .llDiagGo m value => Sys2Proof.Machine.execLlDiagGo m value s
  | .diagSend group => Sys2Proof.Machine.execDiagSend group s
  | .llRetReply group bytes => Sys2Proof.Machine.execLlRetReply group bytes s
  | .llRetTimeout group => Sys2Proof.Machine.execLlRetTimeout group s
  | .llStatusPoll => Sys2Proof.Machine.execLlStatusPoll s
  | .rowAdvAction => Sys2Proof.Machine.execRowAdvAction s
  | .grayEmit row view => Sys2Proof.Machine.execGrayEmit row view s
  | .gainEmit => Sys2Proof.Machine.execGainEmit s
  | .blotterAction row => Sys2Proof.Machine.execBlotterAction row s
  | .ldEnable m enable => Sys2Proof.Machine.execLdEnable m enable s
  | .ldResume m => Sys2Proof.Machine.execLdResume m s
  | .ldCntClear m => Sys2Proof.Machine.execLdCntClear m s
  | .ldCfgResend m thresh value => Sys2Proof.Machine.execLdCfgResend m thresh value s
  | .headroomCycleEnd => Sys2Proof.Machine.execHeadroomCycleEnd s
  | .faultSweepStart => Sys2Proof.Machine.execFaultSweepStart s
  | .faultSweepEnd => Sys2Proof.Machine.execFaultSweepEnd s
  | .ceSlotEnable m slot => Sys2Proof.Machine.execCeSlotEnable m slot s
  | .ceSlotDisable m slot => Sys2Proof.Machine.execCeSlotDisable m slot s
  | .ceStateWrite m slot word value => Sys2Proof.Machine.execCeStateWrite m slot word value s
  | .ceCntClear m => Sys2Proof.Machine.execCeCntClear m s
  | .cePeriodicTrigger slot => Sys2Proof.Machine.execCePeriodicTrigger slot s
  | .ceStepWrite m slot value => Sys2Proof.Machine.execCeStepWrite m slot value s
  | .ceEvaluation => Sys2Proof.Machine.execCeEvaluation s
  | .ceStepEvaluation => Sys2Proof.Machine.execCeStepEvaluation s
  | .pwmPeriodStart phase => Sys2Proof.Machine.execPwmPeriodStart phase s
  | .pwmStaleTimeout => Sys2Proof.Machine.execPwmStaleTimeout s
  | .adcConversion synced holdup turn => Sys2Proof.Machine.execAdcConversion synced holdup turn s
  | .timeIncrWrite m value => Sys2Proof.Machine.execTimeIncrWrite m value s
  | .timeShadowRead m => Sys2Proof.Machine.execTimeShadowRead m s
  | .timeStep m => Sys2Proof.Machine.execTimeStep m s
  | .timeLoad m => Sys2Proof.Machine.execTimeLoad m s
  | .timeAdjustGo m count => Sys2Proof.Machine.execTimeAdjustGo m count s
  | .timeAdjustEnd => Sys2Proof.Machine.execTimeAdjustEnd s
  | .timeSample m value => Sys2Proof.Machine.execTimeSample m value s
  | .timeSampleTimeout => Sys2Proof.Machine.execTimeSampleTimeout s
  | .timeSyncSend => Sys2Proof.Machine.execTimeSyncSend s
  | .timeSyncForward => Sys2Proof.Machine.execTimeSyncForward s
  | .timeSyncReceive => Sys2Proof.Machine.execTimeSyncReceive s
  | .timeSyncFarEnd => Sys2Proof.Machine.execTimeSyncFarEnd s
  | .delayReqSend port => Sys2Proof.Machine.execDelayReqSend port s
  | .delayReqReceive => Sys2Proof.Machine.execDelayReqReceive s
  | .delayRespReceive => Sys2Proof.Machine.execDelayRespReceive s
  | .evtOutArm m n value => Sys2Proof.Machine.execEvtOutArm m n value s
  | .evtOutPulse n => Sys2Proof.Machine.execEvtOutPulse n s
  | .evtOutPulseEnd n => Sys2Proof.Machine.execEvtOutPulseEnd n s
  | .evtInEdge n rising => Sys2Proof.Machine.execEvtInEdge n rising s
  | .evtInPop m n => Sys2Proof.Machine.execEvtInPop m n s
  | .aonSleepCapture => Sys2Proof.Machine.execAonSleepCapture s
  | .aonSourceSwitch toRc edges => Sys2Proof.Machine.execAonSourceSwitch toRc edges s
  | .timeWakeRestore edges => Sys2Proof.Machine.execTimeWakeRestore edges s
  | .wtFrameRead m => Sys2Proof.Machine.execWtFrameRead m s
  | .epochAnnounceSend => Sys2Proof.Machine.execEpochAnnounceSend s
  | .epochAnnounceReceive => Sys2Proof.Machine.execEpochAnnounceReceive s
  | .wtPendArm m value => Sys2Proof.Machine.execWtPendArm m value s
  | .wtPendBroadcast => Sys2Proof.Machine.execWtPendBroadcast s
  | .noMasterTimeout => Sys2Proof.Machine.execNoMasterTimeout s
  | .wtmOffsetPoll offsets unlocked => Sys2Proof.Machine.execWtmOffsetPoll offsets unlocked s
  | .holdoverExpire => Sys2Proof.Machine.execHoldoverExpire s
  | .redEnable m value => Sys2Proof.Machine.execRedEnable m value s
  | .redListenEnd => Sys2Proof.Machine.execRedListenEnd s
  | .heartbeatSend => Sys2Proof.Machine.execHeartbeatSend s
  | .heartbeatReceive => Sys2Proof.Machine.execHeartbeatReceive s
  | .claimResend => Sys2Proof.Machine.execClaimResend s
  | .claimReceive => Sys2Proof.Machine.execClaimReceive s
  | .tileRedundancyRecord => Sys2Proof.Machine.execTileRedundancyRecord s
  | .tileRecordExpire port => Sys2Proof.Machine.execTileRecordExpire port s
  | .pathSilent path => Sys2Proof.Machine.execPathSilent path s
  | .journalReceive => Sys2Proof.Machine.execJournalReceive s
  | .latchEntryTimeout => Sys2Proof.Machine.execLatchEntryTimeout s
  | .relayEntryEmit => Sys2Proof.Machine.execRelayEntryEmit s
  | .snapshotCapture => Sys2Proof.Machine.execSnapshotCapture s
  | .snapshotPeriod => Sys2Proof.Machine.execSnapshotPeriod s
  | .snapshotSend => Sys2Proof.Machine.execSnapshotSend s
  | .snapshotChunkReceive => Sys2Proof.Machine.execSnapshotChunkReceive s
  | .swapTimer => Sys2Proof.Machine.execSwapTimer s
  | .swapArmRetry => Sys2Proof.Machine.execSwapArmRetry s
  | .sourceRaise sources => Sys2Proof.Machine.execSourceRaise sources s
  | .evtAck m => Sys2Proof.Machine.execEvtAck m s
  | .reactionAutoEnd => Sys2Proof.Machine.execReactionAutoEnd s
  | .reactionRestart => Sys2Proof.Machine.execReactionRestart s
  | .evtStatClear m group mask => Sys2Proof.Machine.execEvtStatClear m group mask s
  | .evtTestGo m source => Sys2Proof.Machine.execEvtTestGo m source s
  | .sensorReport sensor report => Sys2Proof.Machine.execSensorReport sensor report s
  | .tripComparator => Sys2Proof.Machine.execTripComparator s
  | .pdEnableWrite m domain enable => Sys2Proof.Machine.execPdEnableWrite m domain enable s
  | .domainReady crcOk => Sys2Proof.Machine.execDomainReady crcOk s
  | .domainReadyTimeout => Sys2Proof.Machine.execDomainReadyTimeout s
  | .domainDemand m domain => Sys2Proof.Machine.execDomainDemand m domain s
  | .domainIdleGate domain => Sys2Proof.Machine.execDomainIdleGate domain s
  | .pwrTargetWrite m target => Sys2Proof.Machine.execPwrTargetWrite m target s
  | .autoStateIdle => Sys2Proof.Machine.execAutoStateIdle s
  | .entryTimerExpire => Sys2Proof.Machine.execEntryTimerExpire s
  | .sleepAttempt => Sys2Proof.Machine.execSleepAttempt s
  | .quiesceDone => Sys2Proof.Machine.execQuiesceDone s
  | .quiesceTimeout => Sys2Proof.Machine.execQuiesceTimeout s
  | .domainStop => Sys2Proof.Machine.execDomainStop s
  | .wakeNAssert => Sys2Proof.Machine.execWakeNAssert s
  | .aonAlarmExpire => Sys2Proof.Machine.execAonAlarmExpire s
  | .hspiCsWake => Sys2Proof.Machine.execHspiCsWake s
  | .hkWdogKick m => Sys2Proof.Machine.execHkWdogKick m s
  | .hkWdogExpire => Sys2Proof.Machine.execHkWdogExpire s
  | .updRecoverReset => Sys2Proof.Machine.execUpdRecoverReset s
  | .otpLockDone => Sys2Proof.Machine.execOtpLockDone s

end Sys2Proof.Machine
end

