-- ==== Sys2Proof/Machine/Pads.lean ====
section
/-! DEFINITION. The output pads: what each is driven at, as the state has it (spec/21_pins_and_package.md, R454; spec/18,
R406; R89, R374, R383). -/

namespace Sys2Proof.Machine

/-- The output pads of R454. The differential pairs, the memory pads of a channel and the lines of a bus stand together. -/
inductive Pad where
  | sdsTx (lane : Nat)
  | memCommand (channel : Nat)
  | memReset (channel : Nat)
  | lampData (lane : Nat)
  | lampClock (group : Nat)
  | psPwm (n : Nat)
  | evtOut (n : Nat)
  | hspiMiso
  | qspiSck
  | qspiCs
  | irq
  | thermTrip
  deriving DecidableEq, Repr

/-- What a pad is driven at; `unit` stands for the signal of the unit that works behind it. -/
inductive PadLevel where
  | low
  | high
  | highImpedance
  | commonMode
  | released
  | selfRefresh
  | unit
  deriving DecidableEq, Repr

/-- The power domain of a pad (R454). -/
def padDomain : Pad → Nat
  | .sdsTx l => 6 + l / 4
  | .memCommand _ => 13
  | .memReset _ => 13
  | .lampData _ => 5
  | .lampClock _ => 5
  | .psPwm _ => 4
  | .evtOut _ => 3
  | .hspiMiso => 1
  | .qspiSck => 2
  | .qspiCs => 2
  | .irq => 0
  | .thermTrip => 0

/-- A level of the two that a logic pad has. -/
def PadLevel.ofBool (b : Bool) : PadLevel := if b then .high else .low

/-- EVT_OUT_CTRL.invert of a pin as it was when PD_03 stopped, or as it is (R308, R407). -/
def heldInvert (s : State) (n : Nat) : Bool :=
  match s.pwr.keep.find? (fun e => e.1 == 3) with
  | some (_, l) => (match l.find? (fun e => e.1 == F.EVT_OUT_CTRL_invert.addr n) with
      | some (_, w) => bitOf w.toNat F.EVT_OUT_CTRL_invert.lo
      | none => false)
  | none => flagAt s F.EVT_OUT_CTRL_invert n

/-- What a pad is held at while its domain does not serve (R406), which in reset is the state of R454. R406 does not name
QSPI_SCK: it is held as in reset (DEDUCED, log 193). -/
def padHeld (s : State) : Pad → PadLevel
  | .sdsTx _ => .commonMode
  | .memCommand _ => if s.dramc.asleep then .selfRefresh else .low
  | .memReset _ => if s.dramc.asleep then .selfRefresh else .low
  | .lampData _ => .low
  | .lampClock _ => .low
  | .psPwm _ => .low
  | .evtOut n => .ofBool (heldInvert s n)
  | .hspiMiso => .highImpedance
  | .qspiSck => .low
  | .qspiCs => .high
  | .irq => .released
  | .thermTrip => .released

/-- What a pad is driven at while its domain serves. The lamp lane pads stay low until the bring-up of R245. -/
def padServed (s : State) : Pad → PadLevel
  | .lampData l => if s.lamp.groups.getD (l / 8) false then .unit else .low
  | .lampClock g => if s.lamp.groups.getD g false then .unit else .low
  | .evtOut n => .ofBool (flagAt s F.EVT_OUT_CTRL_active n != flagAt s F.EVT_OUT_CTRL_invert n)
  | .irq => if irqLow s then .low else .released
  | .thermTrip => if s.board.tripPadLow then .low else .released
  | _ => .unit

/-- What a pad is driven at (R374, R383, R406, R454). -/
def padLevel (s : State) (p : Pad) : PadLevel :=
  if domainOn s (padDomain p) then padServed s p else padHeld s p

end Sys2Proof.Machine
end

