-- ==== Sys2Proof/Safety.lean ====
section
/-! DEFINITION. What a sound state is, and what every step keeps: the terms in which claims are stated. -/

namespace Sys2Proof.Machine

/-- The canonical form of the state: each sparse memory has strictly rising addresses and no entry equal to what the address
reads as unlisted, and the lanes and ports are the sixteen and eight that the device has. -/
def State.canonical (s : State) : Prop :=
  Memory.wf resetWord s.regs ∧ Memory.wf zeroByte s.store ∧ Memory.wf zeroByte s.dram ∧
    Memory.wf zeroByte s.pwr.retention ∧ Memory.wf erasedByte s.boot.flash ∧ s.lanes.length = 16 ∧ s.ports.length = 8

/-- A safe step: it answers a next state. -/
def safeStep (s : State) : Prop := ∃ t, step s = .next t

/-- What runs never undo: the canonical form stays; the commands that wait stay as they are; the role of R13 stays; the OTP
cells of R431 and R432 only fill up; the record of what has left the device and the count of free values only grow. -/
structure Keeps (s t : State) : Prop where
  canonical : s.canonical → t.canonical
  pending : t.pending = s.pending
  role : t.board.role = s.board.role
  lock : s.boot.otpLock = true → t.boot.otpLock = true
  svn : s.boot.otpSvn <+: t.boot.otpSvn
  record : s.emitted <:+ t.emitted
  fresh : s.freeCnt ≤ t.freeCnt

/-- The registers for which `p` does not hold read as before. -/
def RegsBut (p : Nat → Prop) (s t : State) : Prop := ∀ a, ¬ p a → regWord t a = regWord s a

/-- The parts of the state beside the register map and the queue of waiting commands. -/
inductive Part where
  | board
  | store
  | dram
  | eth
  | flac
  | evt
  | lanes
  | ports
  | time
  | wt
  | ce
  | enumr
  | cmd
  | pkt
  | comp
  | pipe
  | lamp
  | dramc
  | pwr
  | therm
  | boot
  | red
  | freeCnt
  | emitted
  deriving DecidableEq, Repr

/-- A part is the same in `t` as in `s`. -/
def Part.same (p : Part) (s t : State) : Prop :=
  match p with
  | .board => t.board = s.board
  | .store => t.store = s.store
  | .dram => t.dram = s.dram
  | .eth => t.eth = s.eth
  | .flac => t.flac = s.flac
  | .evt => t.evt = s.evt
  | .lanes => t.lanes = s.lanes
  | .ports => t.ports = s.ports
  | .time => t.time = s.time
  | .wt => t.wt = s.wt
  | .ce => t.ce = s.ce
  | .enumr => t.enumr = s.enumr
  | .cmd => t.cmd = s.cmd
  | .pkt => t.pkt = s.pkt
  | .comp => t.comp = s.comp
  | .pipe => t.pipe = s.pipe
  | .lamp => t.lamp = s.lamp
  | .dramc => t.dramc = s.dramc
  | .pwr => t.pwr = s.pwr
  | .therm => t.therm = s.therm
  | .boot => t.boot = s.boot
  | .red => t.red = s.red
  | .freeCnt => t.freeCnt = s.freeCnt
  | .emitted => t.emitted = s.emitted

/-- `t` differs from `s` at most in the parts `ps` and in the registers of the fields `rs`. -/
structure Changes (ps : List Part) (rs : List Fld) (s t : State) : Prop where
  pending : t.pending = s.pending
  parts : ∀ p, p ∉ ps → p.same s t
  regs : RegsBut (fun a => ∃ f ∈ rs, ∃ i, i < f.count ∧ a = f.addr i) s t

/-- Instance 0 of each field. -/
def one (fs : List Fld) : List (Fld × Nat) := fs.map (fun f => (f, 0))

/-- Instance `i` of each field. -/
def ofInst (i : Nat) (fs : List Fld) : List (Fld × Nat) := fs.map (fun f => (f, i))

/-- Instances 0 to `n − 1` of each field. -/
def each (n : Nat) (fs : List Fld) : List (Fld × Nat) := (List.range n).flatMap (fun i => ofInst i fs)

/-- `t` differs from `s` at most in the parts `ps` and in the bits of the fields `fs`, each with its instance. -/
structure Sets (ps : List Part) (fs : List (Fld × Nat)) (s t : State) : Prop where
  pending : t.pending = s.pending
  parts : ∀ p, p ∉ ps → p.same s t
  bits : ∀ a k, (∀ x ∈ fs, a = x.1.addr x.2 → k < x.1.lo ∨ x.1.hi < k) → (regWord t a).getLsbD k = (regWord s a).getLsbD k

/-- Command `c` completes in state `s`: exec answers a next state, and `P` holds of it. -/
abbrev Runs (c : Instr) (s : State) (P : State → Prop) : Prop := ∃ t, exec c s = .next t ∧ P t

/-- The registers that a raised event may write: the event collector's (R376), and LD_STAT, whose drydown cause the dry bit of
the running reaction feeds (R268, R368). -/
def eventFlds : List Fld :=
  [F.EVT_STAT_sticky, F.EVT_PEND_pending, F.EVT_CAUSE_first, F.EVT_CAUSE_SEC_value, F.EVT_CAUSE_NS_value, F.LD_STAT_dry_causes]

end Sys2Proof.Machine
end

