-- ==== Sys2Proof/Safety/Groups.lean ====
section
/-! DEFINITION. Groups of register fields that claims name together. -/

namespace Sys2Proof.Machine

/-- The five counters of a lane (R58). -/
def laneCounters : List Fld :=
  [F.LANE_RETRAIN_count, F.LANE_LLOSS_count, F.LANE_UBLK_count, F.LANE_CBLK_count, F.LANE_CSYM_count]

/-- The counters of a port's packets (R87). -/
def portCounters : List Fld :=
  [F.PKT_OK_count, F.PKT_FAIL_LOCAL_count, F.PKT_FAIL_BLOCK_count, F.PKT_FAIL_UPSTREAM_count, F.PKT_CUT_count,
    F.PKT_OVERSIZE_count, F.PKT_FRAMING_count, F.PKT_DUP_count, F.PKT_STALE_count, F.PKT_LATE_count, F.PKT_MSG_DROP_count,
    F.NOTE_STAT_top_over, F.NOTE_STAT_heart_late]

/-- The other counters that PKT_CTRL.cnt_clear clears (R87, R193). -/
def packetCounters : List Fld := [F.COMP_STRAY_count, F.ADMIT_REFUSED_count, F.LATE_LINE_count]

/-- The counters of a flow (R127). -/
def flowCounters : List Fld :=
  [F.FLOW_STAT_frames_dropped, F.FLOW_LOST_count, F.FLOW_REPAIR_count, F.FLOW_SHED_count, F.FLOW_BAD_count]

/-- The counters of the pixel pipeline (R224). -/
def pipeCounters : List Fld := [F.PIPE_STAT_table_reject, F.PIPE_STAT_group_corrupt]

/-- The counters of the lamp drive (R272). -/
def driveCounters : List Fld := [F.LD_COUNT_opens, F.LD_COUNT_shorts, F.LD_BLOT_COUNT_count, F.LD_STAT_CLIP_count]

/-- The first registers of the families whose write does something beside setting the register; with them the flow entries. -/
def effectBases : List Nat :=
  [F.GLB_BOARD_board, F.EVT_CTRL_ack, F.EVT_REACT_class1, F.EVT_STAT_sticky, F.EVT_TEST_source, F.PWR_CTRL_target,
    F.HK_WDOG_kick, F.CAL_CTRL_start, F.TIME_CTRL_step_go, F.TIME_ADJ_CNT_count, F.TIME_ERR_offset, F.EVT_OUT_CTRL_enable,
    F.WT_REC_0_rate, F.WT_REC_1_offset, F.WT_PEND_F_LO_value, F.CE_CTRL_enable, F.CE_PWM_CFG_enable, F.CE_DESC_word,
    F.PORT_CFG_enable, F.LANE_CTRL_eidle_req, F.PKT_CTRL_dup_discard, F.TOPO_TILE_address, F.TOPO_ENUM_start,
    F.ETH_CFG_mode, F.DRAM_CFG_enable, F.TF_CFG_bank, F.PIPE_CFG_dither_en, F.TCOMP_TEMP_temp, F.LL_CTRL_enable,
    F.LL_DIAG_REQ_go, F.LD_CTRL_enable, F.LD_IREF_red, F.LD_THRESH_v_open, F.LD_BLOT_CFG_age,
    F.LD_DIAG_CFG_confirm, F.DRAM_PORT_QOS_lvl1, F.RED_CFG_enable, F.OTP_PROG_go].map Fld.base ++
  [F.PD_CTRL_enable.addr 1]

/-- A register family whose fields are RW, RO and RC only and whose write does nothing beside setting its RW bits. -/
def RegDesc.plain (d : RegDesc) : Bool :=
  d.fields.all (fun f => f.acc == .rw || f.acc == .ro || f.acc == .rc) && !effectBases.contains d.base &&
    !(decide (0xC1000 ≤ d.base) && decide (d.base < 0xC1024))

/-- The bits of a register family's fields of one access code. -/
def RegDesc.bits (d : RegDesc) (acc : Access) : Word := bitsWhere d (fun x => x == acc)

/-- The bits of all fields of a register family. -/
def RegDesc.allBits (d : RegDesc) : Word := bitsWhere d (fun _ => true)

/-- The whole word at an address. -/
def wordAt (a : Nat) : Fld × Nat := (⟨a, 0, 1, 31, 0⟩, 0)

end Sys2Proof.Machine
end

