-- ==== Sys2Proof/Certificates/Slice0/Obligations.lean ====
section
/-! DEFINITION. The statements for the provers. -/

open Sys2Proof Sys2Proof.Machine

/-- A step with a command at the front of the queue is exec of that command on the state with the queue's rest. -/
def Obligations.StepRunsFront : Prop :=
  ∀ (c : Instr) (rest : List Instr) (s : State), s.pending = c :: rest → step s = exec c { s with pending := rest }

/-- With no command waiting, one 500 MHz cycle of the time unit passes (the model's choice, log 2). The counter adds the acting
increment, which is TIME_INCR limited to ±500 ppm (R291, R292), or, with PD_03 stopped, the one it stopped with (R312); with a
running adjustment it adds the sampled delta to it, and the cycles that remain count down, adj_busy clearing with the last (R294).
From E0 of a sleep to its E1 the counter holds (R312). Nothing else but the model's own clock changes. -/
def Obligations.IdleStepIsOneCycle : Prop :=
  ∀ s : State, s.pending = [] →
    let incr := s.time.tailIncr.getD (clampN 0x1FFBE76D 0x20041893 (fld s F.TIME_INCR_incr))
    let counted (step : Nat) := (s.time.counter + step * 16) % (2 ^ 80 * 10 ^ 9)
    (s.time.sleep ≠ none → step s = .next { s with time := { s.time with mono := s.time.mono + 4 } }) ∧
    (s.time.sleep = none → flag s F.TIME_STAT_adj_busy = false →
      step s = .next { s with time := { s.time with mono := s.time.mono + 4, adjCount := 0, counter := counted incr } }) ∧
    (s.canonical → s.time.sleep = none → flag s F.TIME_STAT_adj_busy = true → 0 < s.time.adjCount → ∃ t, step s = .next t ∧
      t.time = { s.time with
        mono := s.time.mono + 4
        adjCount := s.time.adjCount - 1
        counter := counted (clampZ 0x1FFBE76D 0x20041893 ((incr : Int) + s.time.adjDelta)).toNat } ∧
      flag t F.TIME_STAT_adj_busy = decide (1 < s.time.adjCount) ∧
      fld t F.TIME_ADJ_CNT_count = fld s F.TIME_ADJ_CNT_count - 1 ∧
      Sets [.time] (one [F.TIME_ADJ_CNT_count, F.TIME_STAT_adj_busy]) s t)

/-- The machine after reset has the canonical form, no command waits, and nothing has left it. -/
def Obligations.ResetIsSound : Prop :=
  State.reset.canonical ∧ State.reset.pending = [] ∧ State.reset.emitted = []

/-- Every step from a state in canonical form leads to one: each sparse memory has rising addresses and lists no cell at the value that
it reads as unlisted, and there are sixteen lanes and eight ports. A step takes at most the front command off the queue. -/
def Obligations.EveryStepKeepsTheForm : Prop :=
  ∀ s t : State, s.canonical → step s = .next t → t.canonical ∧ t.pending = s.pending.tail

/-- What no step undoes, whatever command it runs: the owner lock (R432: once set it cannot be cleared), the OTP entries of the security
version (R431: written in turn), the record of what has left the device; and the role of R13 changes at no command but a
power-on reset and a sampling of the straps. -/
def Obligations.NothingUndoesTheLock : Prop :=
  ∀ (s t : State), step s = .next t →
    (s.boot.otpLock = true → t.boot.otpLock = true) ∧ s.boot.otpSvn <+: t.boot.otpSvn ∧ s.emitted <:+ t.emitted ∧
    ((∀ b, s.pending.head? ≠ some (.powerOnReset b)) → (∀ a b, s.pending.head? ≠ some (.strapSample a b)) → t.board.role = s.board.role)

/-- No command stops the machine: each of the 262 commands of the table completes in every state and with every operand, in a next
state that keeps the queue of waiting commands, the canonical form, the owner lock, the security version and the record of what
has left the device. -/
def Obligations.EveryCommandCompletes : Prop :=
  ∀ (c : Instr) (s : State), Runs c s fun t =>
    t.pending = s.pending ∧ (s.canonical → t.canonical) ∧ (s.boot.otpLock = true → t.boot.otpLock = true) ∧
      s.boot.otpSvn <+: t.boot.otpSvn ∧ s.emitted <:+ t.emitted

/-- R369: with no reaction running, eligible sources that are raised start one. Its class is the highest class among them, its
first cause `n` the lowest-numbered source of that class, and the others are merged as R370 says; EVT_CAUSE records the first
cause, and EVT_CAUSE_SEC and EVT_CAUSE_NS the wall time. The reaction runs unless its class ends it at once (R371: auto
without hk). Every existing source among those raised has its sticky bit set, and nothing but the event collector changes. The
sources of a block that the role excludes are not raised (R367). -/
def Obligations.ReactionStart : Prop :=
  ∀ (l : List Nat) (n : Nat) (s : State), s.canonical → reacting s = false →
    let raised := l.filter (fun m => !srcExcluded s m)
    n ∈ raised → srcExists n = true → eligible s n = true →
    (∀ m ∈ raised, srcExists m = true → eligible s m = true →
      srcClass s m < srcClass s n ∨ (srcClass s m = srcClass s n ∧ n ≤ m)) →
    Runs (.sourceRaise l) s fun t =>
      let others := (List.range 256).filter (fun m => raised.contains m && srcExists m && eligible s m && m != n)
      fld t F.EVT_CAUSE_class = srcClass s n ∧ fld t F.EVT_CAUSE_first_class = srcClass s n ∧
      fld t F.EVT_CAUSE_first = n ∧ fld t F.EVT_CAUSE_escalated = 0 ∧
      fld t F.EVT_CAUSE_merged = min 255 others.length ∧
      fld t F.EVT_CAUSE_SEC_value = secOf s.time.counter % 2 ^ 32 ∧ fld t F.EVT_CAUSE_NS_value = nsOf s.time.counter ∧
      (∀ m < 256, pendBit t m = (pendBit s m || others.contains m)) ∧
      (∀ m < 256, stickyBit t m = (stickyBit s m || (raised.contains m && srcExists m))) ∧
      reacting t = !(bitOf (reactBits s (srcClass s n)) 3 && !bitOf (reactBits s (srcClass s n)) 1) ∧
      (bitOf (reactBits s (srcClass s n)) 1 = true →
        t.evt.notes = s.evt.notes ++ [{ source := n, cls := srcClass s n, escalation := false }]) ∧
      Changes [.evt] eventFlds s t

/-- R371: an acknowledgement ends the running reaction, whose actions stop, and has no effect when none runs; the dry cause of
R368 clears with it on a tile whose lamp domain serves. -/
def Obligations.AcknowledgeEndsReaction : Prop :=
  ∀ (m : Master) (s : State), s.canonical → accessBehind s m (F.EVT_CTRL_ack.addr 0) = false →
    Runs (.evtAck m) s fun t =>
      (reacting s = false → t = s) ∧
      reacting t = false ∧ actingBits t = 0 ∧
      (reacting s = true → t.evt = { s.evt with prior := 0, ended := true }) ∧
      (reacting s = true → isTile s = true → domainOn s 5 = true → bitOf (fld t F.LD_STAT_dry_causes) 4 = false) ∧
      Sets [.evt] (one [F.EVT_CAUSE_running, F.LD_STAT_dry_causes]) s t

/-- R371: the housekeeping firmware takes its notifications, recording each with its source, class and the wall time in ns; a
running reaction whose present class has auto ends, and another goes on. -/
def Obligations.FirmwareTakesNotes : Prop :=
  ∀ (s : State), s.canonical →
    Runs .reactionAutoEnd s fun t =>
      t.evt.notes = [] ∧
      t.evt.hkLog = (s.evt.notes.map (fun n => (n.source, n.cls, s.time.counter / 2 ^ 32))).reverse ++ s.evt.hkLog ∧
      reacting t = (reacting s && !bitOf (reactBits s (fld s F.EVT_CAUSE_class)) 3) ∧
      t.evt.ended = (s.evt.ended || (reacting s && bitOf (reactBits s (fld s F.EVT_CAUSE_class)) 3)) ∧
      Sets [.evt] (one [F.EVT_CAUSE_running, F.LD_STAT_dry_causes]) s t

/-- R372: in the cycle after a reaction has ended, an eligible pending source starts a new one over the pending sources: its
class is the highest among the eligible ones, its first cause the lowest-numbered of that class, every other pending source is
counted in merged, and every pending bit clears. Without an eligible pending source no reaction starts. -/
def Obligations.PendingSourcesRestart : Prop :=
  ∀ (s : State), s.canonical → s.evt.ended = true → reacting s = false →
    (∀ n < 256, pendBit s n = true → eligible s n = true →
      (∀ m < 256, pendBit s m = true → eligible s m = true →
        srcClass s m < srcClass s n ∨ (srcClass s m = srcClass s n ∧ n ≤ m)) →
      Runs .reactionRestart s fun t =>
        fld t F.EVT_CAUSE_class = srcClass s n ∧ fld t F.EVT_CAUSE_first_class = srcClass s n ∧
        fld t F.EVT_CAUSE_first = n ∧ fld t F.EVT_CAUSE_escalated = 0 ∧
        fld t F.EVT_CAUSE_merged = min 255 ((List.range 256).filter (fun m => pendBit s m && m != n)).length ∧
        (∀ m < 256, pendBit t m = false) ∧
        reacting t = !(bitOf (reactBits s (srcClass s n)) 3 && !bitOf (reactBits s (srcClass s n)) 1) ∧
        Changes [.evt] eventFlds s t) ∧
    ((∀ n < 256, pendBit s n = true → eligible s n = false) →
      Runs .reactionRestart s fun t => t = { s with evt := { s.evt with ended := false } })

/-- R370, equal or lower class: an eligible source that is raised while a reaction runs, and whose class is not above the
reaction's, is merged: its sticky and pending bits set, merged counts it (stopping at 255), and the rest of EVT_CAUSE, the
reaction and the notifications stay as they are. The reaction is one that is not due to end by itself in this cycle (R371), and
the source is none of a block that the role excludes (R367). -/
def Obligations.EqualOrLowerClassMerges : Prop :=
  ∀ (n : Nat) (s : State), s.canonical → srcExists n = true → srcExcluded s n = false → eligible s n = true →
    reacting s = true →
    srcClass s n ≤ fld s F.EVT_CAUSE_class →
    (bitOf (reactBits s (fld s F.EVT_CAUSE_class)) 3 = true →
      bitOf (reactBits s (fld s F.EVT_CAUSE_class)) 1 = true ∧ s.evt.notes ≠ []) →
    Runs (.sourceRaise [n]) s fun t =>
      stickyBit t n = true ∧ pendBit t n = true ∧
      (∀ m < 256, m ≠ n → stickyBit t m = stickyBit s m ∧ pendBit t m = pendBit s m) ∧
      fld t F.EVT_CAUSE_merged = min 255 (fld s F.EVT_CAUSE_merged + 1) ∧ t.evt = s.evt ∧
      Sets [] (one [F.EVT_CAUSE_merged, F.LD_STAT_dry_causes] ++ each 8 [F.EVT_STAT_sticky, F.EVT_PEND_pending]) s t

/-- R370, higher class: an eligible source of a class above the running reaction's escalates it: the class becomes the
source's, escalated sets and escalated_by names the source, the reaction bits of the new class are added to those already
acting, and the firmware gets one notification marked as an escalation when hk acts. The first cause, its class, the wall time
and the pending bits stay. The new class is one that does not end the reaction at once (R371), and the source is
none of a block that the role excludes (R367). -/
def Obligations.HigherClassEscalates : Prop :=
  ∀ (n : Nat) (s : State), s.canonical → srcExists n = true → srcExcluded s n = false → eligible s n = true →
    reacting s = true →
    fld s F.EVT_CAUSE_class < srcClass s n →
    (bitOf (reactBits s (srcClass s n)) 3 = true → bitOf (reactBits s (srcClass s n)) 1 = true) →
    Runs (.sourceRaise [n]) s fun t =>
      stickyBit t n = true ∧ (∀ m < 256, m ≠ n → stickyBit t m = stickyBit s m) ∧
      reacting t = true ∧ fld t F.EVT_CAUSE_class = srcClass s n ∧ fld t F.EVT_CAUSE_escalated = 1 ∧
      fld t F.EVT_CAUSE_escalated_by = n ∧
      t.evt.prior = actingBits s ∧ actingBits t = Nat.lor (actingBits s) (reactBits s (srcClass s n)) ∧
      t.evt.notes = (if bitOf (Nat.lor (actingBits s) (reactBits s (srcClass s n))) 1 then
        s.evt.notes ++ [{ source := n, cls := srcClass s n, escalation := true }] else s.evt.notes) ∧
      t.evt.ended = s.evt.ended ∧ t.evt.hkLog = s.evt.hkLog ∧
      Sets [.evt] (one [F.EVT_CAUSE_class, F.EVT_CAUSE_escalated, F.EVT_CAUSE_escalated_by, F.LD_STAT_dry_causes] ++
        each 8 [F.EVT_STAT_sticky]) s t

/-- R365, R366, R372: a write of EVT_STAT_gg clears the sticky bits of the group that the mask names, and their pending bits with
them; a level source whose condition still holds is raised again at once. Where none is, nothing but those two words changes. -/
def Obligations.StickyBitsClear : Prop :=
  ∀ (m : Master) (group : Nat) (mask : Word) (s : State), s.canonical → group < 8 →
    accessBehind s m (F.EVT_STAT_sticky.addr group) = false →
    Runs (.evtStatClear m group mask) s fun t =>
      let again := [32, 33, 34, 35].filter (fun n => group == 1 && bitOf mask.toNat (n % 32) && levelHolds s n)
      (∀ n < 256, stickyBit t n =
        if n / 32 = group then (stickyBit s n && !bitOf mask.toNat (n % 32)) || again.contains n else stickyBit s n) ∧
      (again = [] → (∀ n < 256, pendBit t n = if n / 32 = group then pendBit s n && !bitOf mask.toNat (n % 32) else pendBit s n) ∧
        Sets [] (ofInst group [F.EVT_STAT_sticky, F.EVT_PEND_pending]) s t) ∧
      Changes [.evt] eventFlds s t

/-- R367, R376: EVT_TEST with go raises the source that it names as its owning block would: its sticky bit is set, and what follows is
what SOURCE_RAISE of that source does. The source number stays in the register, and a reserved source is not raised. A source whose
block the role excludes is never raised by hardware: its SOURCE_RAISE changes nothing (that a test of it, which is a master's write,
raises it still is the model's reading of R367, log 194). -/
def Obligations.TestRaisesSource : Prop :=
  ∀ (m : Master) (n : Nat) (s : State), s.canonical → n < 256 →
    (srcExcluded s n = true → Runs (.sourceRaise [n]) s fun t => t = s) ∧
    (accessBehind s m (F.EVT_TEST_go.addr 0) = false →
      (srcExists n = true → Runs (.evtTestGo m n) s fun t =>
        stickyBit t n = true ∧ fld t F.EVT_TEST_source = n ∧
        (srcExcluded s n = false → exec (.sourceRaise [n]) (setFld F.EVT_TEST_source n s) = .next t)) ∧
      (srcExists n = false → Runs (.evtTestGo m n) s fun t => t = setFld F.EVT_TEST_source n s))

/-- R58, R87, R127, R224, R249, R272, R290: a write of 1 to a block's cnt_clear sets the counters that the block's rule names
to 0, and changes no other bit of the machine. -/
def Obligations.CountersClear : Prop :=
  ∀ (m : Master) (s : State), s.canonical →
    (∀ lane, (isTile s = true ∧ lane < 8 ∨ isSender s = true ∧ 8 ≤ lane ∧ lane < 16) → domainOn s 11 = true → accessBehind s m (F.LANE_CTRL_cnt_clear.addr lane) = false →
      Runs (.laneCntClear m lane) s fun t => (∀ f ∈ laneCounters, fldAt t f lane = 0) ∧ Sets [] (ofInst lane laneCounters) s t) ∧
    (domainOn s 11 = true → accessBehind s m (F.PKT_CTRL_cnt_clear.addr 0) = false →
      Runs (.pktCntClear m) s fun t =>
      (∀ p < 8, ∀ f ∈ portCounters, fldAt t f p = 0) ∧ (∀ f ∈ packetCounters, fld t f = 0) ∧
      Sets [] (each 8 portCounters ++ one packetCounters) s t) ∧
    (domainOn s 10 = true → accessBehind s m (F.ETH_CFG_cnt_clear.addr 0) = false →
      Runs (.ethCntClear m) s fun t =>
      (∀ p < 8, fldAt t F.ETH_FCS_count p = 0 ∧ fldAt t F.ETH_DISCARD_count p = 0) ∧
      Sets [] (each 8 [F.ETH_FCS_count, F.ETH_DISCARD_count]) s t) ∧
    (∀ flow < 16, domainOn s 10 = true → accessBehind s m (F.FLOW_CTRL_cnt_clear.addr flow) = false →
      Runs (.flowCntClear m flow) s fun t =>
      (∀ f ∈ flowCounters, fldAt t f flow = 0) ∧ Sets [] (ofInst flow flowCounters) s t) ∧
    (isTile s = true → domainOn s 16 = true → accessBehind s m (F.PIPE_CFG_cnt_clear.addr 0) = false →
      Runs (.pipeCntClear m) s fun t =>
      (∀ f ∈ pipeCounters, fld t f = 0) ∧ Sets [] (one pipeCounters) s t) ∧
    (isTile s = true → domainOn s 5 = true → accessBehind s m (F.LL_CTRL_cnt_clear.addr 0) = false →
      Runs (.llCntClear m) s fun t =>
      (∀ g < 16, fldAt t F.LL_GRP_CNT_no_reply g = 0 ∧ fldAt t F.LL_GRP_CNT_crc_fail g = 0) ∧ fld t F.LL_STAT_gray_drop = 0 ∧
      Sets [] (each 16 [F.LL_GRP_CNT_no_reply, F.LL_GRP_CNT_crc_fail] ++ one [F.LL_STAT_gray_drop]) s t) ∧
    (isTile s = true → domainOn s 5 = true → accessBehind s m (F.LD_CTRL_cnt_clear.addr 0) = false →
      Runs (.ldCntClear m) s fun t =>
      (∀ f ∈ driveCounters, fld t f = 0) ∧ Sets [] (one driveCounters) s t) ∧
    (domainOn s 4 = true → accessBehind s m (F.CE_CTRL_cnt_clear.addr 0) = false →
      Runs (.ceCntClear m) s fun t =>
      (∀ n < 64, fldAt t F.CE_SLOT_STAT_overruns n = 0) ∧ Sets [] (each 64 [F.CE_SLOT_STAT_overruns]) s t)

/-- R440, R441: a write, under a mask, of a register whose fields are RW, RO and RC and whose write has no effect of its own.
Each RW bit in the mask takes its new value and every other bit of the register stays. The write is an ignored write exactly
when it puts a 1 into a reserved bit, or another value into an RO bit, of those that the mask writes: then GLB_IGN_ADDR holds the
address and GLB_IGN_COUNT counts one, stopping at FFFFh. Nothing else changes. (No earlier access of the master waits, R4.) -/
def Obligations.RegisterWriteByAccessCode : Prop :=
  ∀ (m : Master) (a i : Nat) (d : RegDesc) (mask v : Word) (s : State), s.canonical → a % 4 = 0 → a < 0x10000000 →
    findReg a = some (d, i) → d.plain = true → roleAbsent s d i = false → domainOn s (regDomain a) = true →
    accessBehind s m a = false → absentBits s d i = 0 → arrayReserved d i = 0 → a ≠ F.GLB_IGN_ADDR_address.base → a ≠ F.GLB_IGN_COUNT_count.base →
    Runs (.registerWrite m a mask v) s fun t =>
      regWord t a = (regWord s a &&& ~~~ (mask &&& d.bits .rw)) ||| (v &&& (mask &&& d.bits .rw)) ∧
      (v &&& mask &&& ~~~ d.allBits = 0 ∧ (v ^^^ viewReg m s d i) &&& mask &&& d.bits .ro = 0 → Sets [] [wordAt a] s t) ∧
      (¬ (v &&& mask &&& ~~~ d.allBits = 0 ∧ (v ^^^ viewReg m s d i) &&& mask &&& d.bits .ro = 0) →
        fld t F.GLB_IGN_ADDR_address = a ∧ fld t F.GLB_IGN_COUNT_count = min 65535 (fld s F.GLB_IGN_COUNT_count + 1) ∧
        Sets [] (wordAt a :: one [F.GLB_IGN_ADDR_address, F.GLB_IGN_COUNT_count]) s t)

/-- R393, R441: a write to a register of a domain that is switched off or marked dead, or one that the role excludes, has no
effect and is no ignored write; a write to an unassigned offset of a served block changes nothing but the record of ignored
writes, and that only when it puts a 1 there. (No earlier access of the master waits, R4.) -/
def Obligations.WriteWithoutRegister : Prop :=
  ∀ (m : Master) (a : Nat) (mask v : Word) (s : State), s.canonical → a % 4 = 0 → a < 0x10000000 → accessBehind s m a = false →
    (domainOn s (regDomain a) = false → domainUsable s (regDomain a) = false →
      Runs (.registerWrite m a mask v) s fun t => t = s) ∧
    (∀ d i, findReg a = some (d, i) → domainOn s (regDomain a) = true → roleAbsent s d i = true →
      Runs (.registerWrite m a mask v) s fun t => t = s) ∧
    (findReg a = none → (spanOf a).isSome = true → domainOn s (regDomain a) = true → ¬ (0x28000 ≤ a ∧ a < 0x30000) →
      (tfPlace a).isSome = false →
      Runs (.registerWrite m a mask v) s fun t =>
        (v &&& mask = 0 → t = s) ∧
        (v &&& mask ≠ 0 → fld t F.GLB_IGN_ADDR_address = a ∧ fld t F.GLB_IGN_COUNT_count = min 65535 (fld s F.GLB_IGN_COUNT_count + 1) ∧
          Sets [] (one [F.GLB_IGN_ADDR_address, F.GLB_IGN_COUNT_count]) s t))

/-- R4, R393: a write or a read by a master that finds an earlier access of its master waiting joins the end of the queue of
waiting accesses and changes nothing else; so does one whose word a stage that is being applied names (R107). One to a domain that
is gated or restarting joins the queue too. It is a demand: the domain's idle length in force goes (R398), a gated domain
is no longer gated but among those that restart, and where nothing else was restarting its state shows that it changes; the machine
changes nowhere else. -/
def Obligations.AccessesWaitInTurn : Prop :=
  ∀ (m : Master) (a : Nat) (mask v : Word) (s : State), s.canonical → a % 4 = 0 → a < 0x10000000 →
    let write : WaitingAccess := { kind := .write, master := m, addr := a, mask := mask, value := v }
    let read : WaitingAccess := { kind := .read, master := m, addr := a }
    let queued (w : WaitingAccess) : State := { s with pwr := { s.pwr with waits := s.pwr.waits ++ [w] } }
    let d := regDomain a
    let demanded (w : WaitingAccess) (t : State) : Prop :=
      t.pwr.waits = s.pwr.waits ++ [w] ∧ (d ∉ s.pwr.gated → t = setPwr (fun p => { p with lengths := smPut (fun _ => 0) p.lengths d 0 }) (queued w)) ∧
        (d ∈ s.pwr.gated → d ∉ t.pwr.gated ∧ d ∈ t.pwr.restarts ∧ Changes [.pwr] [F.PD_CTRL_enable] s t ∧
          (s.pwr.restarts = [] → 1 ≤ d → d ≤ 32 → d ≠ 12 → fldAt t F.PD_CTRL_state d = 3))
    (pdCtrlWord a = false → (∃ w ∈ s.pwr.waits, w.master = m ∧ w.stage = none) →
      Runs (.registerWrite m a mask v) s fun t => t = queued write) ∧
    ((spanOf a).isSome = true → (∃ w ∈ s.pwr.waits, w.master = m ∧ w.stage = none) →
      Runs (.rcRead m a) s fun t => t = queued read) ∧
    (accessBehind s m a = false → domainOn s d = false → domainUsable s d = true → flag s F.THERM_TRIP_LOG_tripped = false →
      d ∈ s.pwr.restarts ∨ d ∈ s.pwr.gated →
      Runs (.registerWrite m a mask v) s (demanded write) ∧
        ((spanOf a).isSome = true → Runs (.rcRead m a) s (demanded read)))

/-- R293, R311, R340, R440, and R81's debug access: what a read by a master that is no command returns, and what it changes.
A read of a register returns the register's value and clears its RC fields. A read of TIME_NOW_SEC_HI copies the counter into the
reading master's shadow and into no other. A read of WT_FRAME_HI latches WT_FRAME_LO. A read of EVT_IN_FRAC removes the head
entry of the pin's queue, and the registers show the next one. A read of a store word outside the line-buffer pool and a
sender's buffers returns it and changes nothing. The value leaves in the model's record; no other part of the machine changes.
(No earlier access of the master waits, R4; the flacon table at 140000h–141FFFh, whose read first shows the fences of the
moment, R142, stands apart.) -/
def Obligations.ReadsReturnAndClear : Prop :=
  ∀ (m : Master) (s : State), s.canonical →
    (∀ (a i : Nat) (d : RegDesc), a % 4 = 0 → a < 0x10000000 → findReg a = some (d, i) → roleAbsent s d i = false →
      domainOn s (regDomain a) = true → accessBehind s m a = false → d.base ≠ F.EVT_IN_FRAC_valid.base →
      a ∉ [F.TIME_NOW_SEC_HI_value.base, F.WT_FRAME_HI_frame.base] → a / 0x2000 ≠ 0xA0 →
      Runs (.rcRead m a) s fun t =>
        t.emitted = .value a (viewReg m s d i) :: s.emitted ∧ regWord t a = regWord s a &&& ~~~ rcMask d ∧
        Sets [.emitted] [wordAt a] s t) ∧
    (domainOn s 3 = true → accessBehind s m F.TIME_NOW_SEC_HI_value.base = false → s.time.shadows.length = 5 → Runs (.timeShadowRead m) s fun t =>
      shadowAt t m = s.time.counter ∧ (∀ k, shadowOf k ≠ shadowOf m → shadowAt t k = shadowAt s k) ∧
      t.time = { s.time with shadows := t.time.shadows } ∧
      t.emitted = .value F.TIME_NOW_SEC_HI_value.base (wordOf (secOf s.time.counter / 2 ^ 32 % 2 ^ 16)) :: s.emitted ∧
      Sets [.time, .emitted] [] s t) ∧
    (domainOn s 3 = true → accessBehind s m F.WT_FRAME_HI_frame.base = false → Runs (.wtFrameRead m) s fun t =>
      fld t F.WT_FRAME_HI_frame = fNow s / 2 ^ 32 % 2 ^ 32 ∧ fld t F.WT_FRAME_LO_frame = fNow s % 2 ^ 32 ∧
      t.emitted = .value F.WT_FRAME_HI_frame.base (wordOf (fNow s / 2 ^ 32)) :: s.emitted ∧
      Sets [.emitted] (one [F.WT_FRAME_HI_frame, F.WT_FRAME_LO_frame]) s t) ∧
    (∀ n < 8, domainOn s 3 = true → accessBehind s m (F.EVT_IN_FRAC_valid.addr n) = false → s.time.ins.length = 8 →
      Runs (.evtInPop m n) s fun t =>
      (inPin t n).queue = (inPin s n).queue.drop 1 ∧ (inPin t n).last = (inPin s n).last ∧
      (∀ k < 8, k ≠ n → inPin t k = inPin s k) ∧
      fldAt t F.EVT_IN_CFG_fill n = ((inPin s n).queue.length - 1) % 32 ∧
      (∀ x rising rest, (inPin s n).queue.drop 1 = (x, rising) :: rest →
        fldAt t F.EVT_IN_SEC_value n = secOf x % 2 ^ 32 ∧ fldAt t F.EVT_IN_NS_value n = nsOf x ∧
        fldAt t F.EVT_IN_FRAC_valid n = 1 ∧ fldAt t F.EVT_IN_FRAC_rising n = b2n rising ∧
        fldAt t F.EVT_IN_FRAC_quarter n = fracOf x / 2 ^ 30) ∧
      ((inPin s n).queue.drop 1 = [] → fldAt t F.EVT_IN_FRAC_valid n = 0) ∧
      t.time = { s.time with ins := t.time.ins } ∧
      t.emitted = .value (F.EVT_IN_FRAC_valid.addr n) (regWord s (F.EVT_IN_FRAC_valid.addr n)) :: s.emitted ∧
      Sets [.time, .emitted] [(F.EVT_IN_CFG_fill, n), (F.EVT_IN_SEC_value, n), (F.EVT_IN_NS_value, n),
        wordAt (F.EVT_IN_FRAC_valid.addr n)] s t) ∧
    (∀ a, a % 4 = 0 → inStore a = true → domainOn s (placeDomain a) = true → accessBehind s m a = false →
      inPool s a = false → inIngest s a = false → inRedBuf s 0 (a - 0x10000000) = false →
      Runs (.storeDebugRead m a) s fun t =>
        t = { s with emitted := .value a (storeWord s (a - 0x10000000)) :: s.emitted })

/-- R294: a step adds the signed step registers to the counter, their nanoseconds limited to ±999,999,999; a load gives the counter
their value, the nanoseconds limited to 0 to 999,999,999 and the fraction 0; each leaves a running adjustment running and raises
TIME_STEPPED. go samples TIME_ADJ.delta and the count and replaces a running adjustment; a running adjustment adds its delta to
each increment until its count is out (TIME_ADJ_CNT counts down with it: the model's choice, log 164). R292: TIME_INCR takes the
increment. (No earlier access of the master waits, R4.) -/
def Obligations.CounterIsCorrected : Prop :=
  ∀ (m : Master) (s : State), s.canonical → domainOn s 3 = true →
    (∀ f ∈ [F.TIME_CTRL_step_go, F.TIME_ADJ_CNT_count, F.TIME_INCR_incr], accessBehind s m f.base = false) →
    let seconds := fld s F.TIME_STEP_SEC_HI_value % 2 ^ 16 * 2 ^ 32 + fld s F.TIME_STEP_SEC_LO_value
    let ns := sgn 32 (fld s F.TIME_STEP_NS_value)
    let corrected (new : Nat) (t : State) : Prop :=
      t.time.counter = new ∧ stickyBit t Src.TIME_STEPPED = true ∧ t.time.adjDelta = s.time.adjDelta ∧
        t.time.adjCount = s.time.adjCount ∧ fld t F.TIME_STAT_adj_busy = fld s F.TIME_STAT_adj_busy ∧ fld t F.TIME_ADJ_CNT_count = fld s F.TIME_ADJ_CNT_count ∧
        Changes [.evt, .time, .wt] ([F.EVT_OUT_CTRL_enable, F.EVT_OUT_COUNT_skipped, F.WT_SLIPS_slips] ++ eventFlds) s t
    Runs (.timeStep m) s (corrected
      (((s.time.counter : Int) + (sgn 48 seconds * 10 ^ 9 + clampZ (-999999999) 999999999 ns) * 2 ^ 32) % (2 ^ 80 * 10 ^ 9)).toNat) ∧
    Runs (.timeLoad m) s (corrected ((seconds * 10 ^ 9 + (clampZ 0 999999999 ns).toNat) * 2 ^ 32)) ∧
    (∀ count < 2 ^ 31, Runs (.timeAdjustGo m count) s fun t =>
      fld t F.TIME_ADJ_CNT_count = count ∧ flag t F.TIME_STAT_adj_busy = decide (0 < count) ∧
      t.time = { s.time with adjDelta := sgn 32 (fld s F.TIME_ADJ_delta), adjCount := count } ∧
      Sets [.time] (one [F.TIME_ADJ_CNT_count, F.TIME_STAT_adj_busy]) s t) ∧
    (∀ value, Runs (.timeIncrWrite m value) s fun t => fld t F.TIME_INCR_incr = value.toNat ∧ Sets [] (one [F.TIME_INCR_incr]) s t) ∧
    (flag s F.TIME_STAT_adj_busy = true → s.time.sleep = none → s.time.tailIncr = none → Runs .timeAdjustEnd s fun t =>
      t.time.counter = (s.time.counter + s.time.adjCount *
        ((clampZ 0x1FFBE76D 0x20041893 ((clampN 0x1FFBE76D 0x20041893 (fld s F.TIME_INCR_incr) : Int) + s.time.adjDelta)).toNat * 16)) % (2 ^ 80 * 10 ^ 9) ∧
      fld t F.TIME_ADJ_CNT_count = fld s F.TIME_ADJ_CNT_count - s.time.adjCount ∧ t.time.adjCount = 0 ∧
      flag t F.TIME_STAT_adj_busy = false ∧
      Sets [.time] (one [F.TIME_ADJ_CNT_count, F.TIME_STAT_adj_busy]) s t)

/-- R305: a write of TIME_ERR is one time sample. It ends holdover. With auto_step, an offset beyond 1,000 ns steps the counter by the
negated offset, rounded half up to whole ns, restarts the run of good samples and leaves the run of bad ones. Any other sample
leaves the counter; locked sets after 8 samples in a row within lock_ns, and estimated clears with it; locked clears after 4 samples
in a row beyond lock_ns. At a tile a sample counts for lock only with path_est 0 and time_ok 1; a written sample has those of the
last TIME_SYNC followed (the model's reading, log 14). Without samples, locked clears and holdover sets. TIME_LOCKED and
TIME_LOCK_LOST are raised. (No earlier access of the master waits, R4.) -/
def Obligations.SamplesLockTheClock : Prop :=
  ∀ (m : Master) (value : Word) (s : State), s.canonical → domainOn s 3 = true →
    accessBehind s m F.TIME_ERR_offset.base = false →
    let o := sgn 32 value.toNat
    let stepping := flag s F.TIME_SERVO_CFG_auto_step = true ∧ 16000 < o.natAbs
    let inside := o.natAbs ≤ fld s F.TIME_SERVO_CFG_lock_ns * 16
    let countsForLock := isSender s = true ∨ (flag s F.TIME_STAT_path_est = false ∧ s.time.timeOk = true)
    Runs (.timeSample m value) s (fun t =>
      fld t F.TIME_ERR_offset = value.toNat ∧ flag t F.TIME_STAT_holdover = false ∧
      (stepping → t.time.counter = (((s.time.counter : Int) + (-o + 8) / 16 * 2 ^ 32) % (2 ^ 80 * 10 ^ 9)).toNat ∧
        stickyBit t Src.TIME_STEPPED = true ∧ t.time.good = 0 ∧ t.time.bad = s.time.bad ∧ flag t F.TIME_STAT_locked = flag s F.TIME_STAT_locked) ∧
      (¬ stepping → t.time.counter = s.time.counter ∧
        (flag s F.TIME_STAT_locked = false →
          t.time.good = (if inside ∧ countsForLock then s.time.good + 1 else 0) ∧
          t.time.bad = (if inside then 0 else s.time.bad + 1) ∧
          (flag t F.TIME_STAT_locked = true ↔ inside ∧ countsForLock ∧ 7 ≤ s.time.good) ∧
          (flag t F.TIME_STAT_locked = true → flag t F.TIME_STAT_estimated = false ∧ stickyBit t Src.TIME_LOCKED = true)) ∧
        (flag s F.TIME_STAT_locked = true →
          (flag t F.TIME_STAT_locked = false ↔ ¬ inside ∧ 3 ≤ s.time.bad) ∧
          (flag t F.TIME_STAT_locked = false → stickyBit t Src.TIME_LOCK_LOST = true))) ∧
      Changes [.evt, .time, .wt, .ce]
        ([F.TIME_ERR_offset, F.TIME_STAT_locked, F.CE_SLOT_STAT_admitted, F.WT_STAT_rec_valid, F.EVT_OUT_CTRL_enable, F.EVT_OUT_COUNT_skipped,
          F.WT_SLIPS_slips] ++ eventFlds) s t) ∧
    Runs .timeSampleTimeout s (fun t =>
      flag t F.TIME_STAT_holdover = true ∧ flag t F.TIME_STAT_locked = false ∧ t.time.counter = s.time.counter ∧
      (flag s F.TIME_STAT_locked = true → stickyBit t Src.TIME_LOCK_LOST = true ∧
        (isTile s = true → flag t F.WT_STAT_holdover = true ∧ stickyBit t Src.WT_HOLDOVER = true)) ∧
      Changes [.evt, .time] ([F.TIME_STAT_locked, F.WT_STAT_rec_valid] ++ eventFlds) s t)

/-- R195 to R199, R201: a WCS-F encoder's unit has exactly the bytes of its budget, and a decoder of the format takes it back without
finding it corrupt. Where some quantiser from 0 to d makes the unit fit, the first one that does is used, and every sample comes back
within half a step of it (with q = 0, exactly). Where none does the unit is flat, and every sample of a component comes back as the
mean of that component. -/
def Obligations.CodedUnitsDecode : Prop :=
  ∀ (f w h b : Nat) (u : List Plane), pixLegal f = true → 10 ≤ b →
    List.Forall₂ (fun p x => p.length = h ∧ ∀ row ∈ p, row.length = x ∧ ∀ v ∈ row, v < 2 ^ pixDepth f) u
      ((List.range (pixComps f)).map (planeWidth f w)) →
    let r := decodeUnit f w h (encodeF (pixDepth f) b u)
    (encodeF (pixDepth f) b u).length = b ∧ r.corrupt = false ∧
      match (List.range (pixDepth f + 1)).find? (fun q => decide ((wcsBits (pixDepth f) q u).length ≤ 8 * b)) with
      | some q => List.Forall₂ (List.Forall₂ (List.Forall₂ (fun (x c : Nat) => 2 * ((x : Int) - c).natAbs ≤ 2 ^ q))) u r.planes
      | none => r.planes = u.map (fun p => p.map (fun row => row.map (fun _ => planeMean p)))

/-- R38, R39, R41, R42: what this end sends, a lane of this kind receives. A block made of 128 payload symbols decodes without a
correction to itself. A data block gives back its five flits, and the two scramblers stay in step. A marker block is a good
marker, and its fields read as they were sent. -/
def Obligations.BlocksSentAreReceived : Prop :=
  (∀ p : List Nat, p.length = 128 → (∀ y ∈ p, y < 1024) →
    rsDecode (rsEncode p) = { syms := rsEncode p, corrected := 0, bad := false } ∧ (rsEncode p).length = 136 ∧
      (rsEncode p).take 128 = p) ∧
  (∀ (sc : Nat) (flits : List (List Byte)), flits.length = 5 → (∀ x ∈ flits, x.length = 32) →
    let d := rsDecode (dataSyms sc flits).1
    let r := descramble sc (symBits (d.syms.take 128))
    d.bad = false ∧ chunks 32 (bitsBytes r.1) = flits ∧ r.2 = (dataSyms sc flits).2) ∧
  ∀ (laneIndex width state port sequence : Nat) (sender loopTimed : Bool), laneIndex < 4 → width < 4 → state < 16 → port < 8 →
    sequence < 65536 →
    let d := rsDecode (markerSyms (markerPayload laneIndex width state sender port loopTimed sequence))
    let b := markerBytes d.syms
    goodMarker d = true ∧ byteAt b 6 / 64 = laneIndex ∧ byteAt b 6 / 16 % 4 = width ∧ byteAt b 6 % 16 = state ∧
      byteAt b 7 / 128 = b2n sender ∧ byteAt b 7 / 16 % 8 = port ∧ byteAt b 7 / 8 % 2 = b2n loopTimed ∧ beAt b 8 2 = sequence

/-- R27, R65, R69, R77, R78, R300: what the next hop makes of a packet that a tile sends on. A packet keeps its number of flits. One
that was confirmed is confirmed again, also where the tile has changed it; one that failed here or further up ends as
FAIL_UPSTREAM there; an oversize one is oversize there as well. (A packet that is lost as framing goes on as a void flit.) -/
def Obligations.OutcomesTravelDownstream : Prop :=
  ∀ (s : State) (p : Nat) (fl : List Flit), (∀ f ∈ fl, f.bytes.length = 32) →
    fl.length = packetFlits ((fl.map Flit.bytes).headD []) → judge fl ≠ .framing →
    let sent := chunks 32 (sendOn s p (judge fl) (fl.map Flit.bytes))
    sent.length = fl.length ∧
      judge (sent.map fun b => { bytes := b, bad := false }) =
        match judge fl with
        | .confirmed => .confirmed
        | .oversize => .oversize
        | _ => .failUpstream

/-- R62 to R65, R71, R77: a piece that this chip sends is confirmed by its receiver. Its header carries cont, the number of its
payload flits, and the sequence and offset moved on by the payload flits already sent; its payload flits follow, then the end flit
with its kind. So is a top-note packet. -/
def Obligations.SentPiecesConfirm : Prop :=
  (∀ (x : TxProgress) (kind : Nat), x.hdr.length = 28 → (hClass x.hdr = 1 ∨ hClass x.hdr = 2) → (∀ f ∈ x.now, f.length = 32) →
    x.now.length ≤ lengthLimit (hClass x.hdr) → kind ≤ 1 →
    let sent := chunks 32 (pieceBytes x kind)
    let h := sent.headD []
    let offAt := if hClass x.hdr == 1 then 16 else 12
    judge (sent.map fun b => { bytes := b, bad := false }) = .confirmed ∧
      (sent.drop 1).dropLast = x.now ∧ byteAt (sent.getLastD []) 4 = kind ∧
      hClass h = hClass x.hdr ∧ hType h = hType x.hdr ∧ hDup h = hDup x.hdr ∧ hDst h = hDst x.hdr ∧ hSrc h = hSrc x.hdr ∧
      hCont h = x.cont ∧ hLength h = x.now.length ∧ hFrame h = hFrame x.hdr ∧ hIndex h = (hIndex x.hdr + x.sent) % 2 ^ 20 ∧
      beAt h offAt 4 = (beAt x.hdr offAt 4 + 32 * x.sent) % 2 ^ 32) ∧
  ∀ x : TxPkt, x.hdr.length = 28 → hClass x.hdr = 0 → hLength x.hdr = (if x.payload.isEmpty then 0 else 1) →
    judge ((topFlits x).map fun b => { bytes := b, bad := false }) = .confirmed

/-- The frame of ring enumeration (R26 to R31): each command completes in every state and leaves everything as it was but the parts of the
state and the registers that its clause lists. -/
def Obligations.EnumerationFrame : Prop :=
  ∀ s : State,
    Runs .enumTieReceive s (Changes [.ports, .enumr, .pkt] [F.TOPO_RING_len_expected] s) ∧
    Runs .enumCwTile s (Changes [.evt, .ports, .enumr, .pkt, .emitted] ([F.TOPO_TILE_LOC_round] ++ eventFlds) s) ∧
    Runs .enumCcwTile s (Changes [.evt, .ports, .enumr, .pkt, .emitted] ([F.TOPO_TILE_LOC_round] ++ eventFlds) s) ∧
    Runs .enumLenTile s (Changes [.evt, .enumr, .pkt] ([F.TOPO_TILE_LOC_round, F.TOPO_TILE_consistent] ++ eventFlds) s) ∧
    Runs .enumCountSender s (Changes [.evt, .ports, .enumr, .pkt] ([F.TOPO_RING_len_expected] ++ eventFlds) s) ∧
    Runs .enumLenSender s (Changes [.evt, .enumr, .pkt] ([F.TOPO_RING_len_expected] ++ eventFlds) s) ∧
    (∀ (port : Nat), Runs (.enumCountTimeout port) s (Changes [.evt, .ports, .enumr, .pkt] ([F.TOPO_RING_len_expected] ++ eventFlds) s)) ∧
    (∀ (port : Nat), Runs (.enumDoneTimeout port) s (Changes [] [F.TOPO_RING_len_expected] s))

/-- The frame of lane training (R45 to R49): each command completes in every state and leaves everything as it was but the parts of the
state and the registers that its clause lists. -/
def Obligations.LaneTrainingFrame : Prop :=
  ∀ s : State,
    (∀ (lane : Nat), Runs (.signalDetect lane) s (Changes [.lanes, .freeCnt, .emitted] [F.LANE_STAT_state] s)) ∧
    (∀ (lane : Nat), Runs (.cdrLock lane) s (Changes [.lanes, .freeCnt, .emitted] [F.LANE_STAT_state] s)) ∧
    (∀ (lane : Nat) (control : Nat), Runs (.trainingFrameReceive lane control) s (Changes [.lanes, .freeCnt, .emitted] [F.LANE_STAT_state] s)) ∧
    (∀ (lane : Nat), Runs (.equaliseReady lane) s (Changes [.lanes] [F.LANE_STAT_state] s)) ∧
    (∀ (lane : Nat), Runs (.trainingTimeout lane) s (Changes [.evt, .lanes, .ports, .freeCnt, .emitted] ([F.LANE_STAT_state, F.LANE_RETRAIN_count, F.PORT_CFG_active] ++ eventFlds) s)) ∧
    (∀ (lane : Nat), Runs (.trainingRetry lane) s (Changes [.lanes] [] s)) ∧
    (∀ (lane : Nat) (symbols : List Nat), Runs (.markerBlockReceive lane symbols) s (Changes [.evt, .lanes, .ports, .pkt, .red, .freeCnt, .emitted] ([F.RED_STAT_state, F.RED_TILE_A_seen, F.RED_TILE_B_seen, F.LANE_STAT_state, F.LANE_CSYM_count, F.LANE_CBLK_count, F.LANE_UBLK_count, F.LANE_LLOSS_count, F.LANE_RETRAIN_count, F.PORT_CFG_active, F.PKT_OK_count, F.PKT_FAIL_LOCAL_count, F.PKT_FAIL_BLOCK_count, F.PKT_FAIL_UPSTREAM_count, F.PKT_CUT_count, F.PKT_OVERSIZE_count, F.PKT_FRAMING_count, F.PKT_DUP_count, F.PKT_STALE_count, F.PKT_LATE_count, F.PKT_MSG_DROP_count, F.LANE_CTRL_cnt_clear, F.RED_TILE_STAT_split, F.RED_CNT_0_journal_gaps, F.RED_GAP_SNAP_value, F.RED_GAP_JSEQ_value, F.TIME_LINK_valid] ++ eventFlds) s)) ∧
    (∀ (port : Nat) (skew : Nat), Runs (.deskewComplete port skew) s (Changes [.evt, .lanes, .ports, .freeCnt, .emitted] ([F.LANE_STAT_state, F.LANE_RETRAIN_count, F.PORT_CFG_active] ++ eventFlds) s)) ∧
    (∀ (port : Nat), Runs (.deskewDriftFail port) s (Changes [.evt, .lanes, .ports, .pkt, .red, .freeCnt, .emitted] ([F.RED_STAT_state, F.RED_TILE_A_seen, F.RED_TILE_B_seen, F.LANE_STAT_state, F.LANE_RETRAIN_count, F.PORT_CFG_active, F.PKT_OK_count, F.PKT_FAIL_LOCAL_count, F.PKT_FAIL_BLOCK_count, F.PKT_FAIL_UPSTREAM_count, F.PKT_CUT_count, F.PKT_OVERSIZE_count, F.PKT_FRAMING_count, F.PKT_DUP_count, F.PKT_STALE_count, F.PKT_LATE_count, F.PKT_MSG_DROP_count, F.RED_TILE_STAT_split, F.RED_CNT_0_journal_gaps, F.RED_GAP_SNAP_value, F.RED_GAP_JSEQ_value, F.TIME_LINK_valid] ++ eventFlds) s)) ∧
    (∀ (port : Nat), Runs (.negotiateComplete port) s (Changes [.evt, .lanes, .ports, .enumr, .pkt] ([F.LANE_STAT_state, F.PORT_CFG_active, F.TOPO_RING_len_expected] ++ eventFlds) s)) ∧
    Runs .widthRecheck s (Changes [.evt, .lanes, .ports, .enumr, .pkt] ([F.LANE_STAT_state, F.PORT_CFG_active, F.TOPO_RING_len_expected] ++ eventFlds) s) ∧
    (∀ (lane : Nat), Runs (.negotiateMarkerTimeout lane) s (Changes [.evt, .lanes, .ports, .pkt, .red, .freeCnt, .emitted] ([F.RED_STAT_state, F.RED_TILE_A_seen, F.RED_TILE_B_seen, F.LANE_STAT_state, F.LANE_RETRAIN_count, F.PORT_CFG_active, F.PKT_OK_count, F.PKT_FAIL_LOCAL_count, F.PKT_FAIL_BLOCK_count, F.PKT_FAIL_UPSTREAM_count, F.PKT_CUT_count, F.PKT_OVERSIZE_count, F.PKT_FRAMING_count, F.PKT_DUP_count, F.PKT_STALE_count, F.PKT_LATE_count, F.PKT_MSG_DROP_count, F.RED_TILE_STAT_split, F.RED_CNT_0_journal_gaps, F.RED_GAP_SNAP_value, F.RED_GAP_JSEQ_value, F.TIME_LINK_valid] ++ eventFlds) s)) ∧
    (∀ (lane : Nat), Runs (.laneSignalLoss lane) s (Changes [.evt, .lanes, .ports, .pkt, .red, .freeCnt, .emitted] ([F.RED_STAT_state, F.RED_TILE_A_seen, F.RED_TILE_B_seen, F.LANE_STAT_state, F.LANE_RETRAIN_count, F.PORT_CFG_active, F.PKT_OK_count, F.PKT_FAIL_LOCAL_count, F.PKT_FAIL_BLOCK_count, F.PKT_FAIL_UPSTREAM_count, F.PKT_CUT_count, F.PKT_OVERSIZE_count, F.PKT_FRAMING_count, F.PKT_DUP_count, F.PKT_STALE_count, F.PKT_LATE_count, F.PKT_MSG_DROP_count, F.RED_TILE_STAT_split, F.RED_CNT_0_journal_gaps, F.RED_GAP_SNAP_value, F.RED_GAP_JSEQ_value, F.TIME_LINK_valid] ++ eventFlds) s))

/-- The frame of lanes and ports in service (R50 to R58): each command completes in every state and leaves everything as it was but the parts of the
state and the registers that its clause lists. -/
def Obligations.LaneServiceFrame : Prop :=
  ∀ s : State,
    (∀ (port : Nat), Runs (.resyncStart port) s (Changes [.ports] [F.PORT_CFG_active] s)) ∧
    (∀ (port : Nat), Runs (.egressPhaseMove port) s (Changes [.evt, .lanes, .ports, .pkt, .red, .emitted] ([F.RED_STAT_state, F.RED_TILE_A_seen, F.RED_TILE_B_seen, F.LANE_STAT_state, F.PORT_CFG_active, F.PKT_OK_count, F.PKT_FAIL_LOCAL_count, F.PKT_FAIL_BLOCK_count, F.PKT_FAIL_UPSTREAM_count, F.PKT_CUT_count, F.PKT_OVERSIZE_count, F.PKT_FRAMING_count, F.PKT_DUP_count, F.PKT_STALE_count, F.PKT_LATE_count, F.PKT_MSG_DROP_count, F.RED_TILE_STAT_split, F.RED_CNT_0_journal_gaps, F.RED_GAP_SNAP_value, F.RED_GAP_JSEQ_value, F.TIME_LINK_valid] ++ eventFlds) s)) ∧
    (∀ (lane : Nat), Runs (.resyncTimeout lane) s (Changes [.evt, .lanes, .ports, .pkt, .red, .freeCnt, .emitted] ([F.RED_STAT_state, F.RED_TILE_A_seen, F.RED_TILE_B_seen, F.LANE_STAT_state, F.LANE_RETRAIN_count, F.PORT_CFG_active, F.PKT_OK_count, F.PKT_FAIL_LOCAL_count, F.PKT_FAIL_BLOCK_count, F.PKT_FAIL_UPSTREAM_count, F.PKT_CUT_count, F.PKT_OVERSIZE_count, F.PKT_FRAMING_count, F.PKT_DUP_count, F.PKT_STALE_count, F.PKT_LATE_count, F.PKT_MSG_DROP_count, F.RED_TILE_STAT_split, F.RED_CNT_0_journal_gaps, F.RED_GAP_SNAP_value, F.RED_GAP_JSEQ_value, F.TIME_LINK_valid] ++ eventFlds) s)) ∧
    (∀ (lane : Nat), Runs (.eidleTimeout lane) s (Changes [.evt, .lanes] ([F.LANE_STAT_state, F.LANE_CTRL_cnt_clear] ++ eventFlds) s)) ∧
    (∀ (lane : Nat), Runs (.wakeBurstDetect lane) s (Changes [.evt, .lanes, .pwr, .emitted] ([F.PWR_IDLE_CFG_backoff, F.PWR_STAT_state, F.PD_CTRL_enable, F.PWR_REFUSE_domain, F.LANE_CTRL_cnt_clear, F.PWR_WAKE_SRC_sources, F.PWR_CTRL_ring_grant] ++ eventFlds) s)) ∧
    (∀ (lane : Nat), Runs (.wakeBurstEnd lane) s (Changes [.lanes] [F.LANE_STAT_state, F.LANE_CTRL_cnt_clear] s)) ∧
    (∀ (lane : Nat), Runs (.wakeComplete lane) s (Changes [.evt, .lanes, .ports, .enumr, .pkt] ([F.LANE_STAT_state, F.PORT_CFG_active, F.TOPO_RING_len_expected] ++ eventFlds) s)) ∧
    (∀ (lane : Nat), Runs (.wakeTimeout lane) s (Changes [.evt, .lanes, .ports, .freeCnt, .emitted] ([F.LANE_STAT_state, F.LANE_RETRAIN_count, F.PORT_CFG_active] ++ eventFlds) s)) ∧
    (∀ (lane : Nat) (symbols : List Nat), Runs (.dataBlockDecode lane symbols) s (Changes [.evt, .lanes, .ports, .emitted] ([F.LANE_CSYM_count, F.LANE_CBLK_count, F.LANE_UBLK_count] ++ eventFlds) s)) ∧
    Runs .corrIntervalEnd s (Changes [.lanes] [] s)

/-- The frame of flit slots, packets and calibration slices (R60 to R87, R389): each command completes in every state and leaves everything as it was but the parts of the
state and the registers that its clause lists. -/
def Obligations.PacketFrame : Prop :=
  ∀ s : State,
    (∀ (port : Nat), Runs (.senderSlotFill port) s (Changes [.evt, .lanes, .ports, .cmd, .pkt, .red, .emitted] ([F.RED_STAT_state, F.RED_TILE_A_seen, F.RED_TILE_B_seen, F.LANE_STAT_state, F.PORT_CFG_active, F.NOTE_STAT_top_over, F.PKT_OK_count, F.PKT_FAIL_LOCAL_count, F.PKT_FAIL_BLOCK_count, F.PKT_FAIL_UPSTREAM_count, F.PKT_CUT_count, F.PKT_OVERSIZE_count, F.PKT_FRAMING_count, F.PKT_DUP_count, F.PKT_STALE_count, F.PKT_LATE_count, F.PKT_MSG_DROP_count, F.RED_TILE_STAT_split, F.RED_CNT_0_journal_gaps, F.RED_GAP_SNAP_value, F.RED_GAP_JSEQ_value, F.TIME_LINK_valid] ++ eventFlds) s)) ∧
    (∀ (port : Nat) (run : Nat), Runs (.tileSlotInsert port run) s (Changes [.evt, .lanes, .ports, .cmd, .pkt, .red, .emitted] ([F.RED_STAT_state, F.RED_TILE_A_seen, F.RED_TILE_B_seen, F.LANE_STAT_state, F.PORT_CFG_active, F.NOTE_STAT_top_over, F.PKT_OK_count, F.PKT_FAIL_LOCAL_count, F.PKT_FAIL_BLOCK_count, F.PKT_FAIL_UPSTREAM_count, F.PKT_CUT_count, F.PKT_OVERSIZE_count, F.PKT_FRAMING_count, F.PKT_DUP_count, F.PKT_STALE_count, F.PKT_LATE_count, F.PKT_MSG_DROP_count, F.RED_TILE_STAT_split, F.RED_CNT_0_journal_gaps, F.RED_GAP_SNAP_value, F.RED_GAP_JSEQ_value, F.TIME_LINK_valid] ++ eventFlds) s)) ∧
    (∀ (port : Nat), Runs (.voidFlitReceive port) s (Changes [.evt, .lanes, .ports, .emitted] ([F.PKT_FRAMING_count, F.PKT_MSG_DROP_count] ++ eventFlds) s)) ∧
    (∀ (port : Nat), Runs (.packetEnd port) s (Changes [.evt, .lanes, .ports, .pkt, .comp, .red, .emitted] ([F.RED_STAT_state, F.RED_TILE_A_seen, F.RED_TILE_B_seen, F.PIPE_STAT_map_ok, F.PKT_OK_count, F.PKT_FAIL_LOCAL_count, F.PKT_FAIL_BLOCK_count, F.PKT_FAIL_UPSTREAM_count, F.PKT_OVERSIZE_count, F.PKT_FRAMING_count, F.PKT_DUP_count, F.PKT_STALE_count, F.PKT_LATE_count, F.PKT_MSG_DROP_count, F.COMP_STRAY_count, F.RED_TILE_STAT_split, F.RED_CNT_0_journal_gaps, F.RED_GAP_SNAP_value, F.RED_GAP_JSEQ_value] ++ eventFlds) s)) ∧
    (∀ (line : Nat), Runs (.lineDeadline line) s (Changes [.evt, .time, .comp] ([F.TIME_STAT_locked, F.LATE_LINE_count, F.TIME_ADJ_CNT_go, F.COMP_STAT_overruns] ++ eventFlds) s)) ∧
    (∀ (port : Nat), Runs (.heartPacketDue port) s (Changes [.evt, .ports, .time, .comp] ([F.TIME_STAT_locked, F.TIME_ADJ_CNT_go, F.COMP_STAT_overruns] ++ eventFlds) s)) ∧
    Runs .calSliceTimer s (Changes [.therm] [] s) ∧
    (∀ (item : Nat), Runs (.calSliceEnd item) s (Changes [.evt, .time, .therm, .freeCnt] ([F.TIME_STAT_locked, F.CAL_STAT_busy, F.TIME_ADJ_CNT_go, F.CAL_TLAST_frame] ++ eventFlds) s))

/-- The frame of Ethernet ports and flows (R111 to R127): each command completes in every state and leaves everything as it was but the parts of the
state and the registers that its clause lists. -/
def Obligations.IngestFrame : Prop :=
  ∀ s : State,
    (∀ (port : Nat), Runs (.ethLinkUp port) s (Changes [.eth, .evt, .emitted] ([F.INGEST_OVL_fill, F.FLOW_STAT_state, F.FLACON_STAT_state, F.FLOW_SHED_count, F.ETH_PORT_STAT_link_up] ++ eventFlds) s)) ∧
    (∀ (link : LinkLoss), Runs (.ethLinkDown link) s (Changes [.eth, .evt] ([F.INGEST_OVL_fill, F.FLOW_STAT_state, F.FLACON_STAT_state, F.FLOW_SHED_count, F.ETH_PORT_STAT_link_up] ++ eventFlds) s)) ∧
    (∀ (port : Nat) (bytes : List Byte), Runs (.ethFrameReceive port bytes) s (Changes [.store, .eth, .evt, .ports, .cmd, .pkt, .freeCnt, .emitted] ([F.ETH_FCS_count, F.ETH_DISCARD_count, F.INGEST_OVL_fill, F.FLOW_REPAIR_count, F.FLOW_STAT_state, F.FLOW_SHED_count, F.FLOW_BAD_count, F.CMD_COUNT_bad_magic] ++ eventFlds) s)) ∧
    (∀ (idx : Nat), Runs (.reassemblyTimeout idx) s (Changes [.eth] [F.ETH_DISCARD_count] s)) ∧
    Runs .igmpReportTimer s (Changes [.eth, .emitted] [] s) ∧
    (∀ (flow : Nat) (pathS : Bool), Runs (.flowPathTimeout flow pathS) s (Changes [.evt] ([F.FLOW_STAT_state] ++ eventFlds) s)) ∧
    (∀ (flow : Nat), Runs (.flowFrameClose flow) s (Changes [.store, .dram, .eth, .evt, .comp, .dramc, .red] ([F.INGEST_OVL_fill, F.FLOW_REPAIR_count, F.COMP_FLOW_STAT_repeats, F.FLACON_RTP_rtp_ts, F.FLACON_RXS_seconds, F.FLACON_RXN_nanoseconds, F.FLOW_STAT_state, F.FLACON_STAT_state, F.FLOW_LOST_count, F.DRAM_STAT_ready] ++ eventFlds) s)) ∧
    (∀ (flow : Nat), Runs (.flowFrameStart flow) s (Changes [.eth, .evt] ([F.INGEST_OVL_fill, F.FLOW_STAT_state, F.FLACON_STAT_state, F.FLOW_SHED_count] ++ eventFlds) s)) ∧
    Runs .ingestShedTick s (Changes [.eth] [] s) ∧
    Runs .ingestRestoreTick s (Changes [.eth] [] s)

/-- The frame of the DRAM controller (R149 to R173): each command completes in every state and leaves everything as it was but the parts of the
state and the registers that its clause lists (a clause with a premise speaks of the states that meet it: in the others a domain is
lost, or accesses that have waited take their own effect). -/
def Obligations.DramFrame : Prop :=
  ∀ s : State,
    (∀ (failed : Nat), Runs (.dramTrainDone failed) s (Changes [.evt] ([F.DRAM_STAT_ready] ++ eventFlds) s)) ∧
    (∀ (codes : List Nat), Runs (.dramMr4Poll codes) s (Changes [.evt, .dramc] ([F.DRAM_STAT_ready] ++ eventFlds) s)) ∧
    Runs .dramZqCal s (Changes [.dramc] [] s) ∧
    (∀ (taps : List Nat), Runs (.dramOscTrack taps) s (Changes [.dramc] [] s)) ∧
    (∀ (client : MemClient) (write : Bool) (offset : Nat) (data : List Byte), Runs (.dramRequest client write offset data) s (Changes [.store, .dram, .evt, .dramc, .pwr, .freeCnt] ([F.PD_CTRL_enable, F.DRAM_STAT_ready, F.DRAM_PORT_STAT_panic, F.DRAM_LTA_port] ++ eventFlds) s)) ∧
    (∀ (channel : Nat), s.pwr.waits = [] → Runs (.dramCommandSlot channel) s (Changes [.store, .dram, .evt, .dramc, .freeCnt, .emitted] ([F.DRAM_RAT_TRIG_count, F.DRAM_PORT_STAT_panic, F.DRAM_LTA_port] ++ eventFlds) s)) ∧
    (∀ (port : Nat), Runs (.dramUnderrun port) s (Changes [.evt, .dramc] ([F.DRAM_PORT_STAT_panic, F.DRAM_LTA_port] ++ eventFlds) s)) ∧
    (∀ (channel : Nat) (bank : Nat), Runs (.dramRatSweepEnd channel bank) s (Changes [.evt, .dramc] ([F.DRAM_RAT_SWEEP_count] ++ eventFlds) s)) ∧
    Runs .dramRatWindow s (Changes [.dramc] [] s) ∧
    Runs .dramSrEntry s (Changes [.time, .dramc] [F.TIME_STAT_locked, F.DRAM_SR_COUNT_count, F.DRAM_STAT_ready, F.TIME_ADJ_CNT_go] s) ∧
    Runs .dramSrExit s (Changes [.time] [F.TIME_STAT_locked, F.DRAM_STAT_ready, F.TIME_ADJ_CNT_go] s)

/-- The frame of the pixel pipeline, the lamp lanes and the lamp drive (R204 to R272): each command completes in every state and leaves everything as it was but the parts of the
state and the registers that its clause lists. -/
def Obligations.LampFrame : Prop :=
  ∀ s : State,
    Runs .tfRefillDone s (Changes [.pipe] [F.TF_CFG_regen] s) ∧
    Runs .tcompStale s (Changes [.evt, .pipe] eventFlds s) ∧
    Runs .llBringupStep s (Changes [.evt, .time, .lamp, .emitted] ([F.LL_STAT_running, F.TIME_STAT_locked, F.TIME_ADJ_CNT_go] ++ eventFlds) s) ∧
    (∀ (group : Nat), Runs (.diagSend group) s (Changes [.lamp, .emitted] [] s)) ∧
    (∀ (group : Nat) (bytes : List Byte), Runs (.llRetReply group bytes) s (Changes [.evt, .lamp, .emitted] ([F.LL_GRP_CNT_no_reply, F.LL_DIAG_RSP_result, F.LL_DIAG_REQ_go, F.LL_DIAG_BUF_word, F.LL_CHAIN_found] ++ eventFlds) s)) ∧
    (∀ (group : Nat), Runs (.llRetTimeout group) s (Changes [.evt, .lamp] ([F.LL_GRP_CNT_no_reply, F.LL_DIAG_RSP_result, F.LL_DIAG_REQ_go, F.LL_DIAG_BUF_word] ++ eventFlds) s)) ∧
    Runs .llStatusPoll s (Changes [.lamp] [] s) ∧
    Runs .rowAdvAction s (Changes [.time, .lamp, .emitted] [F.TIME_STAT_locked, F.TIME_ADJ_CNT_go] s) ∧
    (∀ (row : Nat) (view : Nat), Runs (.grayEmit row view) s (Changes [.evt, .time, .comp, .lamp, .emitted] ([F.LL_STAT_running, F.TIME_STAT_locked, F.TIME_ADJ_CNT_go] ++ eventFlds) s)) ∧
    Runs .gainEmit s (Changes [.time, .comp, .lamp, .emitted] [F.TIME_STAT_locked, F.TIME_ADJ_CNT_go] s) ∧
    (∀ (row : Nat), Runs (.blotterAction row) s (Changes [.time, .lamp, .emitted] [F.LD_BLOT_COUNT_count, F.TIME_STAT_locked, F.TIME_ADJ_CNT_go] s)) ∧
    Runs .headroomCycleEnd s (Changes [.evt, .ce, .lamp] ([F.LD_VLED_SET_set, F.CE_DESC_word, F.CE_SLOT_STAT_admitted, F.CE_LOAD_rt_slots, F.LD_HR_STAT_h_min] ++ eventFlds) s) ∧
    Runs .faultSweepStart s (Changes [.time, .lamp] [F.TIME_STAT_locked, F.TIME_ADJ_CNT_go] s) ∧
    Runs .faultSweepEnd s (Changes [.store, .evt, .lamp] ([F.LD_COUNT_opens, F.LD_FAULT_REC_word, F.LD_FAULT_STAT_overflow, F.LD_GRP_STAT_unverified] ++ eventFlds) s)

/-- The frame of control engine triggers, PWM and converters (R278 to R289): each command completes in every state and leaves everything as it was but the parts of the
state and the registers that its clause lists. -/
def Obligations.LoopFrame : Prop :=
  ∀ s : State,
    (∀ (slot : Nat), Runs (.cePeriodicTrigger slot) s (Changes [.evt, .time, .ce] ([F.CE_SLOT_STAT_admitted, F.TIME_STAT_locked, F.TIME_ADJ_CNT_go] ++ eventFlds) s)) ∧
    (∀ (phase : Nat), Runs (.pwmPeriodStart phase) s (Changes [.ce] [] s)) ∧
    Runs .pwmStaleTimeout s (Changes [.evt, .ce] ([F.CE_PWM_CFG_enable] ++ eventFlds) s) ∧
    (∀ (synced : Nat) (holdup : Nat) (turn : Nat), Runs (.adcConversion synced holdup turn) s (Changes [.evt, .time, .ce, .therm] ([F.CE_SLOT_STAT_admitted, F.TIME_STAT_locked, F.HOLDUP_STAT_ok, F.TIME_ADJ_CNT_go, F.CE_ADC_DATA_count] ++ eventFlds) s))

/-- The frame of the time unit and the event pins (R298 to R314): each command completes in every state and leaves everything as it was but the parts of the
state and the registers that its clause lists. -/
def Obligations.TimeFrame : Prop :=
  ∀ s : State,
    Runs .timeAdjustEnd s (Changes [.time] [F.TIME_STAT_locked, F.TIME_ADJ_CNT_go] s) ∧
    Runs .timeSampleTimeout s (Changes [.evt, .time] ([F.WT_STAT_rec_valid, F.TIME_STAT_locked] ++ eventFlds) s) ∧
    Runs .timeSyncSend s (Changes [.ports, .pkt] [] s) ∧
    Runs .timeSyncForward s (Changes [.ports, .pkt, .emitted] [] s) ∧
    Runs .timeSyncReceive s (Changes [.evt, .ports, .time, .wt, .ce, .pkt, .emitted] ([F.CE_SLOT_STAT_admitted, F.WT_STAT_rec_valid, F.TIME_STAT_locked, F.EVT_OUT_CTRL_enable, F.TIME_OFS_offset, F.EVT_OUT_COUNT_skipped, F.WT_SLIPS_slips, F.TIME_ERR_offset] ++ eventFlds) s) ∧
    Runs .timeSyncFarEnd s (Changes [.pkt] [F.TIME_OFS_offset, F.TIME_RING_TOT_hops, F.TIME_RING_HOP_hop_max] s) ∧
    (∀ (port : Nat), Runs (.delayReqSend port) s (Changes [.ports, .pkt, .freeCnt] [] s)) ∧
    Runs .delayReqReceive s (Changes [.ports, .pkt] [] s) ∧
    Runs .delayRespReceive s (Changes [.evt, .ports, .pkt] ([F.TIME_LINK_valid] ++ eventFlds) s) ∧
    (∀ (n : Nat), Runs (.evtOutPulse n) s (Changes [.time, .emitted] [F.TIME_STAT_locked, F.EVT_OUT_CTRL_enable, F.EVT_OUT_COUNT_skipped, F.TIME_ADJ_CNT_go] s)) ∧
    (∀ (n : Nat), Runs (.evtOutPulseEnd n) s (Changes [.time, .emitted] [F.TIME_STAT_locked, F.EVT_OUT_CTRL_enable, F.TIME_ADJ_CNT_go] s)) ∧
    (∀ (n : Nat) (rising : Bool), Runs (.evtInEdge n rising) s (Changes [.evt, .lanes, .time, .pwr, .emitted] ([F.EVT_IN_CFG_enable, F.EVT_IN_SEC_value, F.EVT_IN_NS_value, F.EVT_IN_FRAC_valid, F.PWR_IDLE_CFG_backoff, F.PWR_STAT_state, F.PD_CTRL_enable, F.PWR_REFUSE_domain, F.LANE_CTRL_cnt_clear, F.PWR_WAKE_SRC_sources, F.PWR_CTRL_ring_grant] ++ eventFlds) s)) ∧
    Runs .aonSleepCapture s (Changes [.time] [] s) ∧
    (∀ (toRc : Bool) (edges : Nat), Runs (.aonSourceSwitch toRc edges) s (Changes [.evt, .time] ([F.TIME_SLEEP_unbounded] ++ eventFlds) s)) ∧
    (∀ (edges : Nat), Runs (.timeWakeRestore edges) s (Changes [.evt, .time, .wt] ([F.WT_STAT_rec_valid, F.TIME_STAT_locked, F.EVT_OUT_CTRL_enable, F.EVT_OUT_COUNT_skipped, F.TIME_SLEEP_unbounded] ++ eventFlds) s))

/-- The frame of wall timing (R320 to R337): each command completes in every state and leaves everything as it was but the parts of the
state and the registers that its clause lists. -/
def Obligations.WallTimingFrame : Prop :=
  ∀ s : State,
    Runs .epochAnnounceSend s (Changes [.ports, .time] [F.TIME_STAT_locked, F.TIME_ADJ_CNT_go] s) ∧
    Runs .epochAnnounceReceive s (Changes [.evt, .wt, .pkt, .lamp] ([F.LL_STAT_running, F.WT_STAT_rec_valid, F.WT_PHASE_lag_3, F.WT_REC_0_lines, F.WT_REC_1_offset, F.WT_PEND_0_value, F.WT_PEND_1_value, F.WT_PEND_F_LO_value, F.WT_PEND_F_HI_value] ++ eventFlds) s) ∧
    Runs .wtPendBroadcast s (Changes [.emitted] [] s) ∧
    Runs .noMasterTimeout s (Changes [] [F.WT_STAT_rec_valid] s) ∧
    (∀ (offsets : List Int) (unlocked : Nat), Runs (.wtmOffsetPoll offsets unlocked) s (Changes [.evt] eventFlds s)) ∧
    Runs .holdoverExpire s (Changes [.wt] [F.LD_STAT_dry_state, F.WT_STAT_rec_valid] s)

/-- The frame of redundancy (R341 to R363): each command completes in every state and leaves everything as it was but the parts of the
state and the registers that its clause lists. -/
def Obligations.RedundancyFrame : Prop :=
  ∀ s : State,
    Runs .redListenEnd s (Changes [.ports, .pkt, .red] [F.RED_STAT_state, F.RED_EPOCH_epoch] s) ∧
    Runs .heartbeatSend s (Changes [.ports, .pkt] [] s) ∧
    Runs .heartbeatReceive s (Changes [.evt, .pkt, .red] ([F.RED_STAT_state, F.RED_SWAP_F_LO_frame, F.RED_SWAP_F_HI_frame, F.RED_PARTNER_EPOCH_epoch] ++ eventFlds) s) ∧
    Runs .claimResend s (Changes [.ports, .pkt, .red] [] s) ∧
    Runs .claimReceive s (Changes [.evt, .pkt, .red] ([F.RED_STAT_state, F.RED_SWAP_F_LO_frame, F.RED_SWAP_F_HI_frame, F.RED_PARTNER_EPOCH_epoch] ++ eventFlds) s) ∧
    Runs .tileRedundancyRecord s (Changes [.evt, .pkt, .red] ([F.RED_TILE_A_seen, F.RED_TILE_B_seen, F.RED_TILE_STAT_split, F.RED_TILE_EP_A_epoch, F.RED_TILE_EP_B_epoch] ++ eventFlds) s) ∧
    (∀ (port : Nat), Runs (.tileRecordExpire port) s (Changes [.evt] ([F.RED_TILE_A_seen, F.RED_TILE_B_seen, F.RED_TILE_STAT_split, F.RED_TILE_EP_A_epoch, F.RED_TILE_EP_B_epoch] ++ eventFlds) s)) ∧
    (∀ (path : Nat), Runs (.pathSilent path) s (Changes [.evt, .ports, .pkt, .red] ([F.RED_STAT_state, F.RED_SWAP_F_LO_frame, F.RED_SWAP_F_HI_frame, F.RED_EPOCH_epoch, F.RED_GAP_SNAP_value, F.RED_GAP_JSEQ_value] ++ eventFlds) s)) ∧
    Runs .latchEntryTimeout s (Changes [.flac, .evt, .time, .comp, .dramc, .red] ([F.COMP_FLOW_STAT_repeats, F.FLACON_STAT_state, F.TIME_STAT_locked, F.DRAM_STAT_ready, F.RED_CNT_1_heart_held, F.ADMIT_USE_flits, F.TIME_ADJ_CNT_go] ++ eventFlds) s) ∧
    Runs .relayEntryEmit s (Changes [.ports, .red] [F.RED_CNT_1_heart_held] s) ∧
    Runs .snapshotCapture s (Changes [.red] [F.RED_STAT_state] s) ∧
    Runs .snapshotPeriod s (Changes [.red] [] s) ∧
    Runs .snapshotSend s (Changes [.ports, .pkt, .dramc, .red] [F.RED_STAT_state, F.DRAM_STAT_ready, F.RED_SNAP_value, F.RED_SNAP_BYTES_bytes] s) ∧
    Runs .swapTimer s (Changes [.red] [] s) ∧
    Runs .swapArmRetry s (Changes [.ports, .pkt, .red] [F.RED_STAT_state, F.RED_SWAP_F_LO_frame, F.RED_SWAP_F_HI_frame, F.RED_JSEQ_value] s)

/-- The frame of power states, events and reset pins (R393 to R412): each command completes in every state and leaves everything as it was but the parts of the
state and the registers that its clause lists (a clause with a premise speaks of the states that meet it: in the others a domain is
lost, or accesses that have waited take their own effect). -/
def Obligations.PowerFrame : Prop :=
  ∀ s : State,
    Runs .resetNRise s (Changes [.board, .evt, .pwr] ([F.PD_CTRL_enable] ++ eventFlds) s) ∧
    (∀ (roleSel : Bool) (bootSel : Nat), Runs (.strapSample roleSel bootSel) s (Changes [.board, .time] [F.TIME_STAT_locked, F.TIME_ADJ_CNT_go] s)) ∧
    (∀ (sources : List Nat), Runs (.sourceRaise sources) s (Changes [.evt] eventFlds s)) ∧
    Runs .reactionAutoEnd s (Changes [.evt] [F.EVT_CAUSE_running, F.LD_STAT_dry_state] s) ∧
    Runs .reactionRestart s (Changes [.evt] [F.EVT_CAUSE_SEC_value, F.EVT_CAUSE_NS_value, F.EVT_CAUSE_running, F.LD_STAT_dry_state, F.EVT_PEND_pending] s) ∧
    (s.pwr.waits = [] → (∀ x ∈ s.cmd.stages, x.applying = false) → Runs .domainReadyTimeout s (Changes [.evt, .time, .pwr, .emitted] ([F.PWR_IDLE_CFG_backoff, F.PWR_STAT_state, F.PD_CTRL_enable, F.TIME_STAT_locked, F.TIME_ADJ_CNT_go] ++ eventFlds) s)) ∧
    (∀ (m : Master) (domain : Nat), Runs (.domainDemand m domain) s (Changes [.pwr] [F.PD_CTRL_enable] s)) ∧
    Runs .autoStateIdle s (Changes [.store, .eth, .flac, .evt, .lanes, .ports, .time, .ce, .enumr, .cmd, .pkt, .comp, .pipe, .lamp, .pwr, .therm, .boot, .red, .emitted] ([F.PWR_IDLE_CFG_backoff, F.PWR_STAT_state, F.PD_CTRL_enable, F.PWR_REFUSE_domain, F.LANE_CTRL_cnt_clear, F.PWR_WAKE_SRC_sources, F.PWR_CTRL_ring_grant] ++ eventFlds) s) ∧
    Runs .entryTimerExpire s (Changes [.pwr] [] s) ∧
    Runs .sleepAttempt s (Changes [.lanes, .pwr] [F.PWR_STAT_state, F.LANE_CTRL_cnt_clear] s) ∧
    (pwrPhase s = 1 → Runs .quiesceDone s (Changes [.store, .eth, .flac, .evt, .lanes, .ports, .time, .ce, .enumr, .cmd, .pkt, .comp, .pipe, .lamp, .dramc, .pwr, .therm, .boot, .red] ([F.PWR_IDLE_CFG_backoff, F.PWR_STAT_state, F.PD_CTRL_enable, F.DRAM_SR_COUNT_count, F.DRAM_STAT_ready] ++ eventFlds) s)) ∧
    Runs .quiesceTimeout s (Changes [.evt, .lanes, .pwr, .emitted] ([F.PWR_IDLE_CFG_backoff, F.PWR_STAT_state, F.PD_CTRL_enable, F.PWR_REFUSE_domain, F.LANE_CTRL_cnt_clear] ++ eventFlds) s) ∧
    Runs .wakeNAssert s (Changes [.evt, .lanes, .pwr, .emitted] ([F.PWR_IDLE_CFG_backoff, F.PWR_STAT_state, F.PD_CTRL_enable, F.PWR_REFUSE_domain, F.LANE_CTRL_cnt_clear, F.PWR_WAKE_SRC_sources, F.PWR_CTRL_ring_grant] ++ eventFlds) s) ∧
    Runs .aonAlarmExpire s (Changes [.evt, .lanes, .pwr, .emitted] ([F.PWR_IDLE_CFG_backoff, F.PWR_STAT_state, F.PD_CTRL_enable, F.PWR_REFUSE_domain, F.LANE_CTRL_cnt_clear, F.PWR_WAKE_SRC_sources, F.PWR_CTRL_ring_grant] ++ eventFlds) s) ∧
    Runs .hspiCsWake s (Changes [.evt, .lanes, .pwr, .emitted] ([F.PWR_IDLE_CFG_backoff, F.PWR_STAT_state, F.PD_CTRL_enable, F.PWR_REFUSE_domain, F.LANE_CTRL_cnt_clear, F.PWR_WAKE_SRC_sources, F.PWR_CTRL_ring_grant] ++ eventFlds) s)

/-- The frame of firmware update and boot (R413 to R434): each command completes in every state and leaves everything as it was but the parts of the
state and the registers that its clause lists. -/
def Obligations.UpdateFrame : Prop :=
  ∀ s : State,
    Runs .settingsRetry s (Changes [.evt, .boot] ([F.UPD_STAT_state, F.HOLDUP_STAT_ok] ++ eventFlds) s) ∧
    Runs .recordRewrite s (Changes [.boot] [F.HOLDUP_STAT_ok] s) ∧
    (∀ (m : Master), Runs (.updBegin m) s (Changes [.evt, .ports, .cmd, .pkt, .pwr, .boot, .red, .freeCnt, .emitted] ([F.UPD_STAT_state, F.PD_CTRL_enable, F.HOLDUP_STAT_ok, F.CMD_COUNT_bad_magic, F.RED_JSEQ_value, F.RED_CNT_0_journal_gaps] ++ eventFlds) s)) ∧
    Runs .updEraseDone s (Changes [.boot] [F.UPD_STAT_state, F.HOLDUP_STAT_ok] s) ∧
    (∀ (m : Master), Runs (.updBlock m) s (Changes [.evt, .ports, .cmd, .pkt, .pwr, .boot, .red, .freeCnt, .emitted] ([F.UPD_STAT_state, F.PD_CTRL_enable, F.HOLDUP_STAT_ok, F.CMD_COUNT_bad_magic, F.RED_JSEQ_value, F.RED_CNT_0_journal_gaps] ++ eventFlds) s)) ∧
    Runs .firmwareDataEmit s (Changes [.ports, .cmd, .pkt, .dramc, .boot, .red, .freeCnt, .emitted] [F.DRAM_STAT_ready, F.CMD_COUNT_bad_magic, F.RED_JSEQ_value] s) ∧
    Runs .firmwareDataReceive s (Changes [.pkt, .boot] [F.UPD_STAT_state, F.HOLDUP_STAT_ok] s) ∧
    Runs .flashProgramDone s (Changes [.boot] [F.UPD_STAT_state, F.HOLDUP_STAT_ok] s) ∧
    Runs .holdupWaitEnd s (Changes [] [F.UPD_STAT_state, F.HOLDUP_STAT_ok] s) ∧
    (∀ (m : Master), Runs (.updSeal m) s (Changes [.evt, .ports, .cmd, .pkt, .pwr, .boot, .red, .freeCnt, .emitted] ([F.UPD_STAT_state, F.PD_CTRL_enable, F.CMD_COUNT_bad_magic, F.RED_JSEQ_value, F.RED_CNT_0_journal_gaps] ++ eventFlds) s)) ∧
    (∀ (m : Master), Runs (.updSchedule m) s (Changes [.evt, .ports, .cmd, .pkt, .pwr, .boot, .red, .freeCnt, .emitted] ([F.UPD_STAT_state, F.PD_CTRL_enable, F.HOLDUP_STAT_ok, F.CMD_COUNT_bad_magic, F.RED_JSEQ_value, F.RED_CNT_0_journal_gaps, F.UPD_SCHED_F_LO_frame, F.UPD_SCHED_F_HI_frame] ++ eventFlds) s)) ∧
    (∀ (m : Master), Runs (.updConfirm m) s (Changes [.evt, .ports, .cmd, .pkt, .pwr, .boot, .red, .freeCnt, .emitted] ([F.UPD_STAT_state, F.OTP_SVN_lock, F.PD_CTRL_enable, F.HOLDUP_STAT_ok, F.CMD_COUNT_bad_magic, F.RED_JSEQ_value, F.RED_CNT_0_journal_gaps] ++ eventFlds) s)) ∧
    Runs .svnRaise s (Changes [.evt, .boot] ([F.UPD_STAT_state, F.OTP_SVN_lock] ++ eventFlds) s) ∧
    Runs .confirmDeadline s (Changes [.evt, .time, .boot] ([F.TIME_STAT_locked, F.TIME_ADJ_CNT_go] ++ eventFlds) s) ∧
    (∀ (m : Master), Runs (.updAbort m) s (Changes [.evt, .ports, .cmd, .pkt, .pwr, .boot, .red, .freeCnt, .emitted] ([F.UPD_STAT_state, F.PD_CTRL_enable, F.CMD_COUNT_bad_magic, F.RED_JSEQ_value, F.RED_CNT_0_journal_gaps, F.UPD_SCHED_F_LO_frame, F.UPD_SCHED_F_HI_frame] ++ eventFlds) s)) ∧
    (∀ (m : Master), Runs (.updRecover m) s (Changes [.evt, .ports, .cmd, .pkt, .pwr, .boot, .red, .freeCnt, .emitted] ([F.PD_CTRL_enable, F.CMD_COUNT_bad_magic, F.RED_JSEQ_value, F.RED_CNT_0_journal_gaps] ++ eventFlds) s)) ∧
    Runs .otpLockDone s (Changes [.boot] [F.OTP_SVN_lock, F.OTP_PROG_go] s)

/-- The frame of the command ports (R88 to R110): each command completes in every state and leaves everything as it was but the parts of the
state and the registers that its clause lists. -/
def Obligations.PortCommandFrame : Prop :=
  ∀ s : State,
    (∀ (bytes : List Byte), Runs (.hspiCmdWrite bytes) s (Changes [.evt, .ports, .cmd, .pkt, .freeCnt, .emitted] ([F.CMD_COUNT_bad_magic] ++ eventFlds) s)) ∧
    (∀ (count : Nat), Runs (.rplRead count) s (Changes [.cmd, .emitted] [] s)) ∧
    Runs .hspiStatus s (Changes [.emitted] [] s) ∧
    (∀ (code : Byte), Runs (.hspiUnknownInstruction code) s (Changes [] [] s)) ∧
    Runs .ringCommand s (Changes [.evt, .ports, .cmd, .pkt, .freeCnt, .emitted] ([F.CMD_COUNT_bad_magic] ++ eventFlds) s) ∧
    Runs .replyReceive s (Changes [.evt, .ports, .cmd, .pkt, .freeCnt, .emitted] ([F.CMD_COUNT_bad_magic, F.CMD_FANOUT_STAT_extra_dropped] ++ eventFlds) s) ∧
    (∀ (tag : Nat), Runs (.fanoutTimeout tag) s (Changes [.evt, .ports, .cmd, .pkt, .freeCnt, .emitted] ([F.CMD_COUNT_bad_magic] ++ eventFlds) s)) ∧
    Runs .tableDataEmit s (Changes [.ports, .cmd, .pkt, .dramc, .red, .freeCnt, .emitted] [F.DRAM_STAT_ready, F.CMD_COUNT_bad_magic, F.RED_JSEQ_value] s) ∧
    (∀ (n : Nat), Runs (.fenceClear n) s (Changes [] [F.FLACON_STAT_state] s)) ∧
    Runs .reserveBroadcast s (Changes [.emitted] [] s)

/-- The frame of the commands that act on no register of their own (R96 to R110): each command completes in every state and leaves everything as it was but the parts of the
state and the registers that its clause lists. -/
def Obligations.OpcodeFrame : Prop :=
  ∀ s : State,
    (∀ (m : Master), Runs (.nop m) s (Changes [.evt, .ports, .cmd, .pkt, .pwr, .boot, .red, .freeCnt, .emitted] ([F.PD_CTRL_enable, F.CMD_COUNT_bad_magic, F.RED_JSEQ_value, F.RED_CNT_0_journal_gaps] ++ eventFlds) s)) ∧
    (∀ (m : Master), Runs (.ident m) s (Changes [.evt, .ports, .cmd, .pkt, .pwr, .boot, .red, .freeCnt, .emitted] ([F.PD_CTRL_enable, F.CMD_COUNT_bad_magic, F.RED_JSEQ_value, F.RED_CNT_0_journal_gaps] ++ eventFlds) s)) ∧
    (∀ (m : Master), Runs (.reset m) s (Changes [.evt, .ports, .cmd, .pkt, .pwr, .boot, .red, .freeCnt, .emitted] ([F.PD_CTRL_enable, F.CMD_COUNT_bad_magic, F.RED_JSEQ_value, F.RED_CNT_0_journal_gaps] ++ eventFlds) s)) ∧
    (∀ (m : Master), Runs (.ping m) s (Changes [.evt, .ports, .cmd, .pkt, .pwr, .boot, .red, .freeCnt, .emitted] ([F.PD_CTRL_enable, F.CMD_COUNT_bad_magic, F.RED_JSEQ_value, F.RED_CNT_0_journal_gaps] ++ eventFlds) s)) ∧
    (∀ (m : Master), Runs (.stage m) s (Changes [.evt, .ports, .cmd, .pkt, .pwr, .boot, .red, .freeCnt, .emitted] ([F.PD_CTRL_enable, F.CMD_COUNT_bad_magic, F.RED_JSEQ_value, F.RED_CNT_0_journal_gaps] ++ eventFlds) s)) ∧
    (∀ (m : Master), Runs (.commitAt m) s (Changes [.evt, .ports, .cmd, .pkt, .pwr, .boot, .red, .freeCnt, .emitted] ([F.PD_CTRL_enable, F.ADMIT_REFUSED_count, F.CMD_COUNT_bad_magic, F.RED_JSEQ_value, F.RED_CNT_0_journal_gaps] ++ eventFlds) s)) ∧
    (∀ (m : Master), Runs (.discard m) s (Changes [.evt, .ports, .cmd, .pkt, .pwr, .boot, .red, .freeCnt, .emitted] ([F.PD_CTRL_enable, F.CMD_COUNT_bad_magic, F.RED_JSEQ_value, F.RED_CNT_0_journal_gaps] ++ eventFlds) s)) ∧
    (∀ (m : Master), Runs (.stageQuery m) s (Changes [.evt, .ports, .cmd, .pkt, .pwr, .boot, .red, .freeCnt, .emitted] ([F.PD_CTRL_enable, F.CMD_COUNT_bad_magic, F.RED_JSEQ_value, F.RED_CNT_0_journal_gaps] ++ eventFlds) s)) ∧
    (∀ (m : Master), Runs (.flaconBind m) s (Changes [.store, .dram, .eth, .evt, .ports, .cmd, .pkt, .dramc, .pwr, .boot, .red, .freeCnt, .emitted] ([F.INGEST_OVL_fill, F.FLOW_STAT_state, F.FLACON_STAT_state, F.FLOW_SHED_count, F.PD_CTRL_enable, F.DRAM_STAT_ready, F.CMD_COUNT_bad_magic, F.RED_JSEQ_value, F.RED_CNT_0_journal_gaps, F.FLACON_BASE_region, F.FLACON_FMT_stride, F.FLACON_DIM_width, F.FLACON_SIZE_size] ++ eventFlds) s)) ∧
    (∀ (m : Master), Runs (.flaconRelease m) s (Changes [.eth, .evt, .ports, .cmd, .pkt, .pwr, .boot, .red, .freeCnt, .emitted] ([F.INGEST_OVL_fill, F.FLOW_STAT_state, F.FLACON_STAT_state, F.FLOW_SHED_count, F.PD_CTRL_enable, F.CMD_COUNT_bad_magic, F.RED_JSEQ_value, F.RED_CNT_0_journal_gaps] ++ eventFlds) s)) ∧
    (∀ (m : Master), Runs (.fenceQuery m) s (Changes [.evt, .ports, .cmd, .pkt, .pwr, .boot, .red, .freeCnt, .emitted] ([F.FLACON_STAT_state, F.PD_CTRL_enable, F.CMD_COUNT_bad_magic, F.RED_JSEQ_value, F.RED_CNT_0_journal_gaps] ++ eventFlds) s)) ∧
    (∀ (m : Master), Runs (.tableQuery m) s (Changes [.evt, .ports, .cmd, .pkt, .dramc, .pwr, .boot, .red, .freeCnt, .emitted] ([F.PD_CTRL_enable, F.DRAM_STAT_ready, F.CMD_COUNT_bad_magic, F.RED_JSEQ_value, F.RED_CNT_0_journal_gaps] ++ eventFlds) s)) ∧
    (∀ (m : Master), Runs (.epochReserve m) s (Changes [.evt, .ports, .cmd, .pkt, .pwr, .boot, .red, .freeCnt, .emitted] ([F.PD_CTRL_enable, F.WT_RESV_LO_frame, F.WT_RESV_HI_frame, F.CMD_COUNT_bad_magic, F.RED_JSEQ_value, F.RED_CNT_0_journal_gaps] ++ eventFlds) s)) ∧
    (∀ (m : Master), Runs (.timeQuery m) s (Changes [.evt, .ports, .cmd, .pkt, .pwr, .boot, .red, .freeCnt, .emitted] ([F.PD_CTRL_enable, F.CMD_COUNT_bad_magic, F.RED_JSEQ_value, F.RED_CNT_0_journal_gaps] ++ eventFlds) s)) ∧
    (∀ (m : Master), Runs (.diagRead m) s (Changes [.evt, .ports, .cmd, .pkt, .pwr, .boot, .red, .freeCnt, .emitted] ([F.PD_CTRL_enable, F.CMD_COUNT_bad_magic, F.RED_JSEQ_value, F.RED_CNT_0_journal_gaps] ++ eventFlds) s)) ∧
    (∀ (m : Master), Runs (.diagClear m) s (Changes [.store, .evt, .ports, .cmd, .pkt, .lamp, .pwr, .boot, .red, .freeCnt, .emitted] ([F.PD_CTRL_enable, F.LD_FAULT_REC_word, F.LD_FAULT_STAT_overflow, F.LD_GRP_STAT_unverified, F.CMD_COUNT_bad_magic, F.RED_JSEQ_value, F.RED_CNT_0_journal_gaps] ++ eventFlds) s)) ∧
    (∀ (m : Master), Runs (.redStatus m) s (Changes [.evt, .ports, .cmd, .pkt, .pwr, .boot, .red, .freeCnt, .emitted] ([F.PD_CTRL_enable, F.CMD_COUNT_bad_magic, F.RED_JSEQ_value, F.RED_CNT_0_journal_gaps] ++ eventFlds) s)) ∧
    (∀ (m : Master), Runs (.redSwap m) s (Changes [.evt, .ports, .cmd, .pkt, .pwr, .boot, .red, .freeCnt, .emitted] ([F.RED_STAT_state, F.PD_CTRL_enable, F.RED_SWAP_F_LO_frame, F.RED_SWAP_F_HI_frame, F.CMD_COUNT_bad_magic, F.RED_JSEQ_value, F.RED_CNT_0_journal_gaps] ++ eventFlds) s)) ∧
    (∀ (m : Master), Runs (.redSnapshot m) s (Changes [.evt, .ports, .cmd, .pkt, .pwr, .boot, .red, .freeCnt, .emitted] ([F.RED_STAT_state, F.PD_CTRL_enable, F.CMD_COUNT_bad_magic, F.RED_JSEQ_value, F.RED_CNT_0_journal_gaps] ++ eventFlds) s)) ∧
    (∀ (m : Master), Runs (.evtClear m) s (Changes [.evt, .ports, .cmd, .pkt, .pwr, .boot, .red, .freeCnt, .emitted] ([F.PD_CTRL_enable, F.CMD_COUNT_bad_magic, F.RED_JSEQ_value, F.RED_CNT_0_journal_gaps] ++ eventFlds) s))
end

