-- ==== Sys2Proof/Laws/Memory.lean ====
section
/-! SUPPORT. Laws of the sparse maps that hold the registers and memories: a read after a write, and the canonical form. -/

namespace Sys2Proof.Machine

variable {α : Type} [DecidableEq α] {d : Nat → α}

theorem Memory.wf_nil : Memory.wf d ([] : SMap α) := ⟨List.Pairwise.nil, fun _ h => (List.not_mem_nil h).elim⟩

/-- The tail of a canonical map is canonical, and every key of it lies above the head's. -/
theorem Memory.wf_cons {k : Nat} {v : α} {t : SMap α} :
    Memory.wf d ((k, v) :: t) ↔ v ≠ d k ∧ (∀ e ∈ t, k < e.1) ∧ Memory.wf d t := by
  constructor
  · rintro ⟨hp, hd⟩
    rw [List.pairwise_cons] at hp
    exact ⟨hd _ (List.mem_cons_self ..), hp.1, hp.2, fun e he => hd e (List.mem_cons_of_mem _ he)⟩
  · rintro ⟨hv, hk, hp, hd⟩
    refine ⟨List.pairwise_cons.2 ⟨hk, hp⟩, ?_⟩
    intro e he
    rcases List.mem_cons.1 he with rfl | he
    · exact hv
    · exact hd e he

omit [DecidableEq α] in
/-- A key below every entry reads its default. -/
theorem smGet_below {k : Nat} {m : SMap α} (h : ∀ e ∈ m, k < e.1) : smGet d m k = d k := by
  induction m with
  | nil => rfl
  | cons e t ih =>
    obtain ⟨k', v'⟩ := e
    have hk : k < k' := h _ (List.mem_cons_self ..)
    rw [smGet, if_neg (by omega)]
    exact ih fun e he => h e (List.mem_cons_of_mem _ he)

/-- Every key of a map after a write is the written key or one that was there. -/
theorem smPut_keys {k : Nat} {v : α} {m : SMap α} : ∀ e ∈ smPut d m k v, e.1 = k ∨ ∃ e' ∈ m, e'.1 = e.1 := by
  induction m with
  | nil =>
    intro e he
    simp only [smPut] at he
    split at he <;> simp_all
  | cons x t ih =>
    obtain ⟨k', v'⟩ := x
    intro e he
    simp only [smPut] at he
    split at he
    · split at he
      · exact .inr ⟨e, he, rfl⟩
      · rcases List.mem_cons.1 he with rfl | he
        · exact .inl rfl
        · exact .inr ⟨e, he, rfl⟩
    · split at he
      · split at he
        · exact .inr ⟨e, List.mem_cons_of_mem _ he, rfl⟩
        · rcases List.mem_cons.1 he with rfl | he
          · exact .inl rfl
          · exact .inr ⟨e, List.mem_cons_of_mem _ he, rfl⟩
      · rcases List.mem_cons.1 he with rfl | he
        · exact .inr ⟨_, List.mem_cons_self .., rfl⟩
        · rcases ih e he with h | ⟨e', h, h'⟩
          · exact .inl h
          · exact .inr ⟨e', List.mem_cons_of_mem _ h, h'⟩

/-- A write keeps the canonical form. -/
theorem smPut_wf {k : Nat} {v : α} {m : SMap α} (h : Memory.wf d m) : Memory.wf d (smPut d m k v) := by
  induction m with
  | nil =>
    simp only [smPut]
    split
    · exact Memory.wf_nil
    · rename_i hv
      exact Memory.wf_cons.2 ⟨hv, fun _ he => (List.not_mem_nil he).elim, Memory.wf_nil⟩
  | cons x t ih =>
    obtain ⟨k', v'⟩ := x
    obtain ⟨hv', hk', ht⟩ := Memory.wf_cons.1 h
    simp only [smPut]
    split
    · rename_i hlt
      split
      · exact h
      · rename_i hv
        refine Memory.wf_cons.2 ⟨hv, ?_, h⟩
        intro e he
        rcases List.mem_cons.1 he with rfl | he
        · exact hlt
        · exact Nat.lt_trans hlt (hk' e he)
    · split
      · rename_i heq
        split
        · exact ht
        · rename_i hv
          exact Memory.wf_cons.2 ⟨hv, fun e he => heq ▸ hk' e he, ht⟩
      · rename_i hlt hne
        refine Memory.wf_cons.2 ⟨hv', ?_, ih ht⟩
        intro e he
        rcases smPut_keys e he with h1 | ⟨e', h1, h2⟩
        · omega
        · exact h2 ▸ hk' e' h1

/-- A write reads back, in a canonical map. -/
theorem smGet_smPut_same {k : Nat} {v : α} {m : SMap α} (h : Memory.wf d m) : smGet d (smPut d m k v) k = v := by
  induction m with
  | nil =>
    simp only [smPut]
    split
    · simp_all [smGet]
    · simp [smGet]
  | cons x t ih =>
    obtain ⟨k', v'⟩ := x
    obtain ⟨_, hk', ht⟩ := Memory.wf_cons.1 h
    simp only [smPut]
    split
    · rename_i hlt
      split
      · rename_i hv
        rw [hv]
        refine smGet_below ?_
        intro e he
        rcases List.mem_cons.1 he with rfl | he
        · exact hlt
        · exact Nat.lt_trans hlt (hk' e he)
      · simp [smGet]
    · split
      · rename_i heq
        split
        · rename_i hv
          rw [hv]
          exact smGet_below fun e he => heq ▸ hk' e he
        · simp [smGet]
      · rename_i hlt hne
        rw [smGet, if_neg (by omega)]
        exact ih ht

/-- A write leaves every other key alone. -/
theorem smGet_smPut_ne {k j : Nat} {v : α} {m : SMap α} (hj : j ≠ k) : smGet d (smPut d m k v) j = smGet d m j := by
  induction m with
  | nil =>
    simp only [smPut]
    split
    · rfl
    · simp [smGet, Ne.symm hj]
  | cons x t ih =>
    obtain ⟨k', v'⟩ := x
    simp only [smPut]
    split
    · split
      · rfl
      · simp [smGet, Ne.symm hj]
    · split
      · rename_i heq
        subst heq
        split
        · simp [smGet, Ne.symm hj]
        · simp [smGet, Ne.symm hj]
      · simp only [smGet]
        split
        · rfl
        · exact ih

/-- Canonical maps that read alike everywhere are the same map. -/
theorem smGet_ext {m n : SMap α} (hm : Memory.wf d m) (hn : Memory.wf d n) (h : ∀ k, smGet d m k = smGet d n k) : m = n := by
  induction m generalizing n with
  | nil =>
    cases n with
    | nil => rfl
    | cons y t =>
      obtain ⟨k, v⟩ := y
      have := h k
      simp only [smGet, if_true] at this
      exact absurd this.symm (Memory.wf_cons.1 hn).1
  | cons x t ih =>
    obtain ⟨k, v⟩ := x
    obtain ⟨hv, hk, ht⟩ := Memory.wf_cons.1 hm
    cases n with
    | nil =>
      have := h k
      simp only [smGet, if_true] at this
      exact absurd this hv
    | cons y r =>
      obtain ⟨j, w⟩ := y
      obtain ⟨hw, hj, hr⟩ := Memory.wf_cons.1 hn
      have hkj : k = j := by
        rcases Nat.lt_trichotomy k j with l | l | l
        · have := h k
          rw [smGet, if_pos rfl, smGet, if_neg (by omega), smGet_below (fun e he => Nat.lt_trans l (hj e he))] at this
          exact absurd this hv
        · exact l
        · have := h j
          rw [smGet, if_neg (by omega), smGet_below (fun e he => Nat.lt_trans l (hk e he)), smGet, if_pos rfl] at this
          exact absurd this.symm hw
      subst hkj
      have hvw : v = w := by have := h k; rw [smGet, if_pos rfl, smGet, if_pos rfl] at this; exact this
      subst hvw
      rw [ih ht hr]
      intro i
      by_cases e : k = i
      · subst e
        rw [smGet_below hk, smGet_below hj]
      · have := h i
        rw [smGet, if_neg e, smGet, if_neg e] at this
        exact this
/-- The later of two writes at one key counts. -/
theorem smPut_smPut {k : Nat} {v w : α} {m : SMap α} (h : Memory.wf d m) : smPut d (smPut d m k v) k w = smPut d m k w := by
  refine smGet_ext (smPut_wf (smPut_wf h)) (smPut_wf h) fun j => ?_
  by_cases e : j = k
  · subst e; rw [smGet_smPut_same (smPut_wf h), smGet_smPut_same h]
  · rw [smGet_smPut_ne e, smGet_smPut_ne e, smGet_smPut_ne e]

end Sys2Proof.Machine
end

