-- ==== Sys2Proof/Laws/Regs.lean ====
section
/-! SUPPORT. Laws of bit fields and of the registers' fields: a field reads back what was written, and a write leaves the
other fields and the other registers alone. -/

namespace Sys2Proof.Machine

/-! ### Bits -/

theorem bitsOf_lt (n hi lo : Nat) : bitsOf n hi lo < 2 ^ (hi + 1 - lo) := Nat.mod_lt _ (Nat.two_pow_pos _)

/-- The three parts of a word with a field replaced. -/
theorem withBits_parts {n hi lo v : Nat} (h : lo ≤ hi) :
    withBits n hi lo v = (n / 2 ^ (hi + 1) * 2 ^ (hi + 1 - lo) + v % 2 ^ (hi + 1 - lo)) * 2 ^ lo + n % 2 ^ lo := by
  have e : 2 ^ (hi + 1) = 2 ^ (hi + 1 - lo) * 2 ^ lo := by rw [← Nat.pow_add]; congr 1; omega
  unfold withBits
  conv_lhs => rw [show n / 2 ^ (hi + 1) * 2 ^ (hi + 1) = n / 2 ^ (hi + 1) * (2 ^ (hi + 1 - lo) * 2 ^ lo) by rw [← e]]
  ring

theorem withBits_div {n hi lo v : Nat} (h : lo ≤ hi) :
    withBits n hi lo v / 2 ^ lo = n / 2 ^ (hi + 1) * 2 ^ (hi + 1 - lo) + v % 2 ^ (hi + 1 - lo) := by
  rw [withBits_parts h, Nat.add_comm, Nat.add_mul_div_right _ _ (Nat.two_pow_pos _),
    Nat.div_eq_of_lt (Nat.mod_lt _ (Nat.two_pow_pos _)), Nat.zero_add]

/-- A field reads back what was put into it. -/
theorem bitsOf_withBits {n hi lo v : Nat} (h : lo ≤ hi) : bitsOf (withBits n hi lo v) hi lo = v % 2 ^ (hi + 1 - lo) := by
  unfold bitsOf
  rw [withBits_div h, Nat.add_comm, Nat.add_mul_mod_self_right, Nat.mod_mod]

/-- The bits above a replaced field stay. -/
theorem withBits_above {n hi lo v : Nat} (h : lo ≤ hi) : withBits n hi lo v / 2 ^ (hi + 1) = n / 2 ^ (hi + 1) := by
  have e : 2 ^ (hi + 1) = 2 ^ lo * 2 ^ (hi + 1 - lo) := by rw [← Nat.pow_add]; congr 1; omega
  conv_lhs => rw [e]
  rw [← Nat.div_div_eq_div_mul, withBits_div h, Nat.add_comm, Nat.add_mul_div_right _ _ (Nat.two_pow_pos _),
    Nat.div_eq_of_lt (Nat.mod_lt _ (Nat.two_pow_pos _)), Nat.zero_add]

theorem bitsOf_withBits_above {n hi lo v hi' lo' : Nat} (h : lo ≤ hi) (h' : hi < lo') :
    bitsOf (withBits n hi lo v) hi' lo' = bitsOf n hi' lo' := by
  have e : 2 ^ lo' = 2 ^ (hi + 1) * 2 ^ (lo' - (hi + 1)) := by rw [← Nat.pow_add]; congr 1; omega
  unfold bitsOf
  rw [e, ← Nat.div_div_eq_div_mul, ← Nat.div_div_eq_div_mul, withBits_above h]

theorem bitsOf_withBits_below {n hi lo v hi' lo' : Nat} (h : lo ≤ hi) (h' : hi' < lo) (h2 : lo' ≤ hi') :
    bitsOf (withBits n hi lo v) hi' lo' = bitsOf n hi' lo' := by
  have low (m : Nat) : bitsOf m hi' lo' = bitsOf (m % 2 ^ lo) hi' lo' := by
    unfold bitsOf
    have e : 2 ^ lo = 2 ^ lo' * 2 ^ (lo - lo') := by rw [← Nat.pow_add]; congr 1; omega
    have e2 : 2 ^ (lo - lo') = 2 ^ (hi' + 1 - lo') * 2 ^ (lo - 1 - hi') := by rw [← Nat.pow_add]; congr 1; omega
    rw [e, Nat.mod_mul_right_div_self, e2, Nat.mod_mul_right_mod]
  rw [low, low n, withBits_parts h, Nat.add_comm, Nat.add_mul_mod_self_right, Nat.mod_mod]

/-- A word with a field replaced is still a word. -/
theorem withBits_lt {n hi lo v : Nat} (h : lo ≤ hi) (h' : hi < 32) (hn : n < 2 ^ 32) : withBits n hi lo v < 2 ^ 32 := by
  have e : 2 ^ 32 = 2 ^ (hi + 1) * 2 ^ (31 - hi) := by rw [← Nat.pow_add]; congr 1; omega
  have a : withBits n hi lo v / 2 ^ (hi + 1) < 2 ^ (31 - hi) := by
    rw [withBits_above h]
    exact Nat.div_lt_of_lt_mul (e ▸ hn)
  rw [e]
  exact (Nat.div_lt_iff_lt_mul (Nat.two_pow_pos _)).1 a |>.trans_eq (Nat.mul_comm _ _)

/-! ### Fields -/

/-- The place of a field lies inside a word. -/
abbrev Fld.fits (f : Fld) : Prop := f.lo ≤ f.hi ∧ f.hi < 32

variable {s : State} {f g : Fld} {i j v : Nat}

theorem regWord_setRegWord_same {a : Nat} {w : Word} (h : Memory.wf resetWord s.regs) : regWord (setRegWord a w s) a = w :=
  smGet_smPut_same h

theorem regWord_setRegWord_ne {a b : Nat} {w : Word} (h : b ≠ a) : regWord (setRegWord a w s) b = regWord s b :=
  smGet_smPut_ne h

theorem regWord_setInst_same {w : Word} (h : Memory.wf resetWord s.regs) (hi : i < f.count) :
    regWord (setInst f i w s) (f.addr i) = w := by
  unfold regWord setInst
  dsimp only
  rw [if_pos hi]
  exact smGet_smPut_same h

theorem regWord_setInst_ne {a : Nat} {w : Word} (h : a ≠ f.addr i) : regWord (setInst f i w s) a = regWord s a := by
  unfold regWord setInst
  dsimp only
  split
  · exact smGet_smPut_ne h
  · rfl

/-- An instance that the device does not have is not written. -/
theorem setInst_none {w : Word} (h : ¬ i < f.count) : setInst f i w s = s := by
  unfold setInst
  rw [if_neg h]

theorem setInst_wf {w : Word} (h : Memory.wf resetWord s.regs) : Memory.wf resetWord (setInst f i w s).regs := by
  unfold setInst
  dsimp only
  split
  · exact smPut_wf h
  · exact h

/-- A field reads back what was written, cut to its width. -/
theorem fldAt_setFldAt_same (hs : Memory.wf resetWord s.regs) (hf : f.fits) (hi : i < f.count) :
    fldAt (setFldAt f i v s) f i = v % 2 ^ (f.hi + 1 - f.lo) := by
  unfold fldAt setFldAt
  rw [regWord_setInst_same hs hi, BitVec.toNat_ofNat, Nat.mod_eq_of_lt (withBits_lt hf.1 hf.2 (BitVec.isLt _)),
    bitsOf_withBits hf.1]

/-- A write leaves the fields of other registers alone. -/
theorem fldAt_setFldAt_ne (h : g.addr j ≠ f.addr i) : fldAt (setFldAt f i v s) g j = fldAt s g j := by
  unfold fldAt setFldAt
  rw [regWord_setInst_ne h]

/-- A write leaves the other fields of its register alone. -/
theorem fldAt_setFldAt_other (hs : Memory.wf resetWord s.regs) (hf : f.fits) (hg : g.fits) (ha : g.addr j = f.addr i)
    (h : f.hi < g.lo ∨ g.hi < f.lo) : fldAt (setFldAt f i v s) g j = fldAt s g j := by
  unfold fldAt setFldAt
  by_cases hi : i < f.count
  · rw [ha, regWord_setInst_same hs hi, BitVec.toNat_ofNat, Nat.mod_eq_of_lt (withBits_lt hf.1 hf.2 (BitVec.isLt _))]
    rcases h with h | h
    · exact bitsOf_withBits_above hf.1 h
    · exact bitsOf_withBits_below hf.1 h hg.1
  · rw [setInst_none hi]

theorem regWord_setFldAt_ne {a : Nat} (h : a ≠ f.addr i) : regWord (setFldAt f i v s) a = regWord s a :=
  regWord_setInst_ne h

theorem fldAt_lt : fldAt s f i < 2 ^ (f.hi + 1 - f.lo) := bitsOf_lt _ _ _

theorem setRegWord_wf {a : Nat} {w : Word} (h : Memory.wf resetWord s.regs) : Memory.wf resetWord (setRegWord a w s).regs :=
  smPut_wf h

theorem setFldAt_wf (h : Memory.wf resetWord s.regs) : Memory.wf resetWord (setFldAt f i v s).regs :=
  setInst_wf h

end Sys2Proof.Machine
end

