-- ==== Sys2Proof/Laws/Keeps.lean ====
section
/-! SUPPORT. The relation Keeps holds of the basic operations, and of a change of one part of the state. -/

namespace Sys2Proof.Machine

/-- A canonical map stays canonical without some of its entries. -/
theorem Memory.wf_filter {α : Type} [DecidableEq α] {d : Nat → α} {m : SMap α} {p : Nat × α → Bool} (h : Memory.wf d m) :
    Memory.wf d (m.filter p) :=
  ⟨h.1.filter _, fun e he => h.2 e (List.mem_filter.1 he).1⟩

theorem Keeps.refl (s : State) : Keeps s s :=
  ⟨id, rfl, rfl, id, List.prefix_refl _, List.suffix_refl _, Nat.le_refl _⟩

theorem Keeps.trans {a b c : State} (h : Keeps a b) (k : Keeps b c) : Keeps a c :=
  ⟨fun x => k.canonical (h.canonical x), k.pending.trans h.pending, k.role.trans h.role, fun x => k.lock (h.lock x),
    h.svn.trans k.svn, h.record.trans k.record, h.fresh.trans k.fresh⟩

variable {s₀ s t : State}

/-- A change of the parts that the relation does not name. -/
theorem Keeps.same (h : Keeps s₀ s) (e1 : t.regs = s.regs) (e2 : t.store = s.store) (e3 : t.dram = s.dram)
    (e4 : t.pwr.retention = s.pwr.retention) (e5 : t.boot.flash = s.boot.flash) (e6 : t.lanes = s.lanes)
    (e7 : t.ports = s.ports) (e8 : t.pending = s.pending) (e9 : t.board.role = s.board.role)
    (e10 : t.boot.otpLock = s.boot.otpLock) (e11 : t.boot.otpSvn = s.boot.otpSvn) (e12 : t.emitted = s.emitted)
    (e13 : t.freeCnt = s.freeCnt) : Keeps s₀ t := by
  refine h.trans ⟨fun c => ?_, e8, e9, ?_, ?_, ?_, ?_⟩
  · unfold State.canonical at *
    rw [e1, e2, e3, e4, e5, e6, e7]
    exact c
  · rw [e10]; exact id
  · rw [e11]
  · rw [e12]
  · rw [e13]

/-! ### A change of one chapter's structure -/

theorem Keeps.eth {x} (h : Keeps s₀ s) : Keeps s₀ { s with eth := x } :=
  h.same rfl rfl rfl rfl rfl rfl rfl rfl rfl rfl rfl rfl rfl

theorem Keeps.flac {x} (h : Keeps s₀ s) : Keeps s₀ { s with flac := x } :=
  h.same rfl rfl rfl rfl rfl rfl rfl rfl rfl rfl rfl rfl rfl

theorem Keeps.evt {x} (h : Keeps s₀ s) : Keeps s₀ { s with evt := x } :=
  h.same rfl rfl rfl rfl rfl rfl rfl rfl rfl rfl rfl rfl rfl

theorem Keeps.time {x} (h : Keeps s₀ s) : Keeps s₀ { s with time := x } :=
  h.same rfl rfl rfl rfl rfl rfl rfl rfl rfl rfl rfl rfl rfl

theorem Keeps.wt {x} (h : Keeps s₀ s) : Keeps s₀ { s with wt := x } :=
  h.same rfl rfl rfl rfl rfl rfl rfl rfl rfl rfl rfl rfl rfl

theorem Keeps.ce {x} (h : Keeps s₀ s) : Keeps s₀ { s with ce := x } :=
  h.same rfl rfl rfl rfl rfl rfl rfl rfl rfl rfl rfl rfl rfl

theorem Keeps.enumr {x} (h : Keeps s₀ s) : Keeps s₀ { s with enumr := x } :=
  h.same rfl rfl rfl rfl rfl rfl rfl rfl rfl rfl rfl rfl rfl

theorem Keeps.cmd {x} (h : Keeps s₀ s) : Keeps s₀ { s with cmd := x } :=
  h.same rfl rfl rfl rfl rfl rfl rfl rfl rfl rfl rfl rfl rfl

theorem Keeps.pkt {x} (h : Keeps s₀ s) : Keeps s₀ { s with pkt := x } :=
  h.same rfl rfl rfl rfl rfl rfl rfl rfl rfl rfl rfl rfl rfl

theorem Keeps.comp {x} (h : Keeps s₀ s) : Keeps s₀ { s with comp := x } :=
  h.same rfl rfl rfl rfl rfl rfl rfl rfl rfl rfl rfl rfl rfl

theorem Keeps.pipe {x} (h : Keeps s₀ s) : Keeps s₀ { s with pipe := x } :=
  h.same rfl rfl rfl rfl rfl rfl rfl rfl rfl rfl rfl rfl rfl

theorem Keeps.lamp {x} (h : Keeps s₀ s) : Keeps s₀ { s with lamp := x } :=
  h.same rfl rfl rfl rfl rfl rfl rfl rfl rfl rfl rfl rfl rfl

theorem Keeps.dramc {x} (h : Keeps s₀ s) : Keeps s₀ { s with dramc := x } :=
  h.same rfl rfl rfl rfl rfl rfl rfl rfl rfl rfl rfl rfl rfl

theorem Keeps.therm {x} (h : Keeps s₀ s) : Keeps s₀ { s with therm := x } :=
  h.same rfl rfl rfl rfl rfl rfl rfl rfl rfl rfl rfl rfl rfl

theorem Keeps.red {x} (h : Keeps s₀ s) : Keeps s₀ { s with red := x } :=
  h.same rfl rfl rfl rfl rfl rfl rfl rfl rfl rfl rfl rfl rfl

theorem Keeps.board {x} (h : Keeps s₀ s) (e : x.role = s.board.role) : Keeps s₀ { s with board := x } :=
  h.same rfl rfl rfl rfl rfl rfl rfl rfl e rfl rfl rfl rfl

/-! ### The basic operations -/

theorem updAt_length {α : Type} {f : α → α} (l : List α) (i : Nat) : (updAt f l i).length = l.length := by
  induction l generalizing i with
  | nil => rfl
  | cons x t ih => cases i with
    | zero => rfl
    | succ i => simp [updAt, ih]

theorem keeps_setRegWord {a : Nat} {w : Word} (h : Keeps s₀ s) : Keeps s₀ (setRegWord a w s) :=
  h.trans ⟨fun ⟨c1, c2, c3, c4, c5, c6, c7⟩ => ⟨smPut_wf c1, c2, c3, c4, c5, c6, c7⟩, rfl, rfl, id, List.prefix_refl _,
    List.suffix_refl _, Nat.le_refl _⟩

theorem keeps_setInst {f : Fld} {i : Nat} {w : Word} (h : Keeps s₀ s) : Keeps s₀ (setInst f i w s) :=
  h.trans ⟨fun ⟨c1, c2, c3, c4, c5, c6, c7⟩ => ⟨setInst_wf c1, c2, c3, c4, c5, c6, c7⟩, rfl, rfl, id, List.prefix_refl _,
    List.suffix_refl _, Nat.le_refl _⟩

theorem keeps_setStoreByte {o : Nat} {b : Byte} (h : Keeps s₀ s) : Keeps s₀ (setStoreByte o b s) :=
  h.trans ⟨fun ⟨c1, c2, c3, c4, c5, c6, c7⟩ => ⟨c1, smPut_wf c2, c3, c4, c5, c6, c7⟩, rfl, rfl, id, List.prefix_refl _,
    List.suffix_refl _, Nat.le_refl _⟩

theorem keeps_setDramByte {o : Nat} {b : Byte} (h : Keeps s₀ s) : Keeps s₀ (setDramByte o b s) :=
  h.trans ⟨fun ⟨c1, c2, c3, c4, c5, c6, c7⟩ => ⟨c1, c2, smPut_wf c3, c4, c5, c6, c7⟩, rfl, rfl, id, List.prefix_refl _,
    List.suffix_refl _, Nat.le_refl _⟩

theorem keeps_setLane {i : Nat} {f : Lane → Lane} (h : Keeps s₀ s) : Keeps s₀ (setLane i f s) :=
  h.trans ⟨fun ⟨c1, c2, c3, c4, c5, c6, c7⟩ => ⟨c1, c2, c3, c4, c5, (updAt_length _ _).trans c6, c7⟩, rfl, rfl, id,
    List.prefix_refl _, List.suffix_refl _, Nat.le_refl _⟩

theorem keeps_setPort {i : Nat} {f : Port → Port} (h : Keeps s₀ s) : Keeps s₀ (setPort i f s) :=
  h.trans ⟨fun ⟨c1, c2, c3, c4, c5, c6, c7⟩ => ⟨c1, c2, c3, c4, c5, c6, (updAt_length _ _).trans c7⟩, rfl, rfl, id,
    List.prefix_refl _, List.suffix_refl _, Nat.le_refl _⟩

theorem keeps_emit {e : Emit} (h : Keeps s₀ s) : Keeps s₀ (emit e s) :=
  h.trans ⟨id, rfl, rfl, id, List.prefix_refl _, List.suffix_cons _ _, Nat.le_refl _⟩

theorem keeps_freshIdx (h : Keeps s₀ s) : Keeps s₀ (freshIdx s).2 :=
  h.trans ⟨id, rfl, rfl, id, List.prefix_refl _, List.suffix_refl _, Nat.le_succ _⟩

/-- A change of the boot state that leaves flash and OTP cells alone. -/
theorem keeps_setBoot {f : BootState → BootState} (h : Keeps s₀ s)
    (e : (f s.boot).flash = s.boot.flash ∧ (f s.boot).otpLock = s.boot.otpLock ∧ (f s.boot).otpSvn = s.boot.otpSvn) :
    Keeps s₀ (setBoot f s) :=
  h.same rfl rfl rfl rfl e.1 rfl rfl rfl rfl e.2.1 e.2.2 rfl rfl

/-- A change of the power manager that leaves the retention SRAM alone. -/
theorem keeps_setPwr {f : PwrState → PwrState} (h : Keeps s₀ s) (e : (f s.pwr).retention = s.pwr.retention) :
    Keeps s₀ (setPwr f s) :=
  h.same rfl rfl rfl e rfl rfl rfl rfl rfl rfl rfl rfl rfl

end Sys2Proof.Machine
end

