-- ==== Sys2Proof/Laws/Foot.lean ====
section
/-! SUPPORT. The relation Foot: Keeps, and the parts of the state and the registers that an operation may change, as a mask. Bits
0 to 23 of a mask are the parts, bit 24 is any register, and bit 32 + k is register k of `footTable`. Each operation's lemma
says that it is within every mask that contains its own. -/

namespace Sys2Proof.Machine

/-- Registers, as (address, distance of the instances, their number), that operations write by name. -/
def footTable : List (List (Nat × Nat × Nat)) := [
  [(0x40300, 0x10, 8), (0x40304, 0x10, 8), (0x40308, 0x10, 8), (0x4030C, 0x10, 8), (0x200054, 0x0, 1), (0x20008, 0x0, 1), (0x240010, 0x0, 1), (0x240140, 0x4, 16)],
  [(0x30008, 0x0, 1), (0xC0300, 0x8, 8), (0xC0304, 0x8, 8), (0x300004, 0x0, 1), (0x8F004, 0x0, 1), (0x1000C, 0x0, 1), (0x10010, 0x0, 1), (0x10008, 0x0, 1)],
  [(0x28002C, 0x0, 1), (0x300040, 0x0, 1), (0x2C0008, 0x0, 1), (0x52000, 0x4, 2048), (0x2C0100, 0x0, 1), (0x2C0104, 0x0, 1), (0xC0018, 0x0, 1), (0xC102C, 0x40, 16)],
  [(0x180080, 0x4, 16), (0x80200, 0x4, 16), (0x140014, 0x20, 256), (0x140018, 0x20, 256), (0x14001C, 0x20, 256), (0xC1024, 0x40, 16), (0x140010, 0x20, 256), (0x300044, 0x0, 1)],
  [(0x280004, 0x0, 1), (0x81000, 0x20, 16), (0x81004, 0x20, 16), (0x81008, 0x20, 16), (0x8100C, 0x20, 16), (0x81010, 0x20, 16), (0xC1028, 0x40, 16), (0xC1030, 0x40, 16)],
  [(0xC1034, 0x40, 16), (0x180040, 0x4, 8), (0x80000, 0x4, 8), (0x20004, 0x0, 1), (0x3000C, 0x0, 1), (0x50100, 0x4, 64), (0x20100, 0x4, 33), (0x40410, 0x0, 1)],
  [(0x20024, 0x0, 1), (0x40430, 0x0, 1), (0x4042C, 0x0, 1), (0x82480, 0x4, 8), (0x2001C, 0x0, 1), (0x280040, 0x0, 1), (0x280044, 0x0, 1), (0x28001C, 0x0, 1)],
  [(0x50040, 0x0, 1), (0x50044, 0x0, 1), (0x50004, 0x0, 1), (0x8F010, 0x4, 7), (0x82304, 0x0, 1), (0x40004, 0x0, 1), (0x200010, 0x0, 1), (0x40200, 0x20, 8)],
  [(0x40434, 0x0, 1), (0x200020, 0x4, 4), (0x40104, 0x10, 8), (0x40108, 0x10, 7), (0x4010C, 0x10, 7), (0x200050, 0x0, 1), (0x100018, 0x0, 1), (0x100004, 0x0, 1)],
  [(0x82100, 0x40, 8), (0x82104, 0x40, 8), (0x82108, 0x40, 8), (0x8210C, 0x40, 8), (0x82110, 0x40, 8), (0x82114, 0x40, 8), (0x82118, 0x40, 8), (0x8211C, 0x40, 8)],
  [(0x82120, 0x40, 8), (0x82124, 0x40, 8), (0x82128, 0x40, 8), (0x82300, 0x0, 1), (0x824C0, 0x0, 1), (0x180014, 0x0, 1), (0x2C0044, 0x0, 1), (0x2C0028, 0x0, 1)],
  [(0x2C0024, 0x0, 1), (0x300000, 0x0, 1), (0x30108, 0x0, 1), (0x240018, 0x0, 1), (0x240014, 0x0, 1), (0x241000, 0x4, 128), (0x82400, 0x4, 7), (0x80100, 0x4, 16)],
  [(0x30002C, 0x0, 1), (0x281000, 0x4, 4096), (0x280048, 0x0, 1), (0x280100, 0x4, 16), (0x40218, 0x20, 8), (0x2C000C, 0x0, 1), (0x300020, 0x0, 1), (0x300024, 0x0, 1)],
  [(0x300028, 0x0, 1), (0x30000C, 0x0, 1), (0x300010, 0x0, 1), (0x208, 0x0, 1), (0x40044, 0x0, 1), (0x40418, 0x0, 1), (0x40414, 0x0, 1), (0x100024, 0x0, 1)],
  [(0x10120, 0x4, 8), (0x108, 0x0, 1), (0x104, 0x0, 1), (0x2C0018, 0x0, 1), (0x2C0014, 0x0, 1), (0x2C0038, 0x0, 1), (0x10100, 0x4, 8), (0x100028, 0x0, 1)],
  [(0x2C0110, 0x0, 1), (0x240200, 0x4, 128), (0x2C0040, 0x0, 1), (0x40070, 0x0, 1), (0x50008, 0x0, 1), (0x8F000, 0x0, 1), (0x2C001C, 0x0, 1), (0x2C0020, 0x0, 1)],
  [(0x20018, 0x0, 1), (0x20000, 0x0, 1), (0x30070, 0x0, 1), (0x30040, 0x4, 12), (0x40400, 0x0, 1), (0x40404, 0x0, 1), (0x40100, 0x10, 8), (0x100140, 0x4, 12)],
  [(0x100014, 0x0, 1), (0x30110, 0x4, 4), (0x2C0108, 0x0, 1), (0x2C010C, 0x0, 1), (0x40438, 0x0, 1), (0x180010, 0x0, 1), (0x300018, 0x0, 1), (0x300014, 0x0, 1)],
  [(0x100, 0x0, 1), (0x210, 0x0, 1), (0x140000, 0x20, 256), (0x140004, 0x20, 256), (0x140008, 0x20, 256), (0x14000C, 0x20, 256), (0xC0200, 0x4, 8), (0x2C0010, 0x0, 1)],
  [(0x4041C, 0x0, 1), (0x40420, 0x0, 1), (0x40428, 0x0, 1), (0x40424, 0x0, 1), (0x50010, 0x4, 8), (0x280018, 0x0, 1), (0x200030, 0x4, 4), (0x280024, 0x0, 1)],
  [(0x40048, 0x0, 1)]
  ]

/-- Register `k` of the table. -/
def footReg (k : Nat) : Nat × Nat × Nat := (footTable.getD (k / 8) []).getD (k % 8) (0, 0, 0)

/-- Bit of a part in a mask. -/
def Part.idx : Part → Nat
  | .board => 0
  | .store => 1
  | .dram => 2
  | .eth => 3
  | .flac => 4
  | .evt => 5
  | .lanes => 6
  | .ports => 7
  | .time => 8
  | .wt => 9
  | .ce => 10
  | .enumr => 11
  | .cmd => 12
  | .pkt => 13
  | .comp => 14
  | .pipe => 15
  | .lamp => 16
  | .dramc => 17
  | .pwr => 18
  | .therm => 19
  | .boot => 20
  | .red => 21
  | .freeCnt => 22
  | .emitted => 23

/-- A register that a mask names. -/
def RegIn (μ a : Nat) : Prop :=
  μ.testBit 24 = true ∨ ∃ k, μ.testBit (32 + k) = true ∧ ∃ i, i < (footReg k).2.2 ∧ a = (footReg k).1 + (footReg k).2.1 * i

/-- Every instance of a field's register is named by the mask. -/
def FldIn (μ : Nat) (f : Fld) : Prop := ∀ i, i < f.count → RegIn μ (f.addr i)

theorem FldIn.ite {μ : Nat} {f g : Fld} {c : Prop} [Decidable c] (h : FldIn μ f) (k : FldIn μ g) :
    FldIn μ (if c then f else g) := by
  split <;> assumption

structure Foot (μ : Nat) (s t : State) : Prop where
  keeps : Keeps s t
  parts : ∀ p : Part, μ.testBit p.idx = false → p.same s t
  regs : ∀ a, ¬ RegIn μ a → regWord t a = regWord s a

theorem Part.same_refl (p : Part) (s : State) : p.same s s := by cases p <;> rfl

theorem Part.same_trans {p : Part} {a b c : State} (h : p.same a b) (k : p.same b c) : p.same a c := by
  cases p <;> exact Eq.trans k h

theorem Foot.refl (μ : Nat) (s : State) : Foot μ s s := ⟨Keeps.refl s, fun p _ => p.same_refl s, fun _ _ => rfl⟩

theorem Foot.trans {μ : Nat} {a b c : State} (h : Foot μ a b) (k : Foot μ b c) : Foot μ a c :=
  ⟨h.keeps.trans k.keeps, fun p e => Part.same_trans (h.parts p e) (k.parts p e), fun x e => (k.regs x e).trans (h.regs x e)⟩

/-- A bit of a contained mask. -/
theorem bit {M μ i : Nat} (e : M ||| μ = μ) (h : M.testBit i = true) : μ.testBit i = true := by
  rw [← e, Nat.testBit_or, h]; rfl

/-- Containment of masks is transitive. -/
theorem sub {A M μ : Nat} (e : M ||| μ = μ) (h : A ||| M = M) : A ||| μ = μ := by
  rw [← e, ← Nat.or_assoc, h]

variable {μ : Nat} {s₀ s t : State}

theorem Foot.eth {x} (h : Foot μ s₀ s) (e : μ.testBit 3 = true) : Foot μ s₀ { s with eth := x } :=
  h.trans ⟨Keeps.eth (Keeps.refl s), fun p k => by cases p <;> first | rfl | exact absurd (e.symm.trans k) (by decide),
    fun _ _ => rfl⟩

theorem Foot.flac {x} (h : Foot μ s₀ s) (e : μ.testBit 4 = true) : Foot μ s₀ { s with flac := x } :=
  h.trans ⟨Keeps.flac (Keeps.refl s), fun p k => by cases p <;> first | rfl | exact absurd (e.symm.trans k) (by decide),
    fun _ _ => rfl⟩

theorem Foot.evt {x} (h : Foot μ s₀ s) (e : μ.testBit 5 = true) : Foot μ s₀ { s with evt := x } :=
  h.trans ⟨Keeps.evt (Keeps.refl s), fun p k => by cases p <;> first | rfl | exact absurd (e.symm.trans k) (by decide),
    fun _ _ => rfl⟩

theorem Foot.time {x} (h : Foot μ s₀ s) (e : μ.testBit 8 = true) : Foot μ s₀ { s with time := x } :=
  h.trans ⟨Keeps.time (Keeps.refl s), fun p k => by cases p <;> first | rfl | exact absurd (e.symm.trans k) (by decide),
    fun _ _ => rfl⟩

theorem Foot.wt {x} (h : Foot μ s₀ s) (e : μ.testBit 9 = true) : Foot μ s₀ { s with wt := x } :=
  h.trans ⟨Keeps.wt (Keeps.refl s), fun p k => by cases p <;> first | rfl | exact absurd (e.symm.trans k) (by decide),
    fun _ _ => rfl⟩

theorem Foot.ce {x} (h : Foot μ s₀ s) (e : μ.testBit 10 = true) : Foot μ s₀ { s with ce := x } :=
  h.trans ⟨Keeps.ce (Keeps.refl s), fun p k => by cases p <;> first | rfl | exact absurd (e.symm.trans k) (by decide),
    fun _ _ => rfl⟩

theorem Foot.enumr {x} (h : Foot μ s₀ s) (e : μ.testBit 11 = true) : Foot μ s₀ { s with enumr := x } :=
  h.trans ⟨Keeps.enumr (Keeps.refl s), fun p k => by cases p <;> first | rfl | exact absurd (e.symm.trans k) (by decide),
    fun _ _ => rfl⟩

theorem Foot.cmd {x} (h : Foot μ s₀ s) (e : μ.testBit 12 = true) : Foot μ s₀ { s with cmd := x } :=
  h.trans ⟨Keeps.cmd (Keeps.refl s), fun p k => by cases p <;> first | rfl | exact absurd (e.symm.trans k) (by decide),
    fun _ _ => rfl⟩

theorem Foot.pkt {x} (h : Foot μ s₀ s) (e : μ.testBit 13 = true) : Foot μ s₀ { s with pkt := x } :=
  h.trans ⟨Keeps.pkt (Keeps.refl s), fun p k => by cases p <;> first | rfl | exact absurd (e.symm.trans k) (by decide),
    fun _ _ => rfl⟩

theorem Foot.comp {x} (h : Foot μ s₀ s) (e : μ.testBit 14 = true) : Foot μ s₀ { s with comp := x } :=
  h.trans ⟨Keeps.comp (Keeps.refl s), fun p k => by cases p <;> first | rfl | exact absurd (e.symm.trans k) (by decide),
    fun _ _ => rfl⟩

theorem Foot.pipe {x} (h : Foot μ s₀ s) (e : μ.testBit 15 = true) : Foot μ s₀ { s with pipe := x } :=
  h.trans ⟨Keeps.pipe (Keeps.refl s), fun p k => by cases p <;> first | rfl | exact absurd (e.symm.trans k) (by decide),
    fun _ _ => rfl⟩

theorem Foot.lamp {x} (h : Foot μ s₀ s) (e : μ.testBit 16 = true) : Foot μ s₀ { s with lamp := x } :=
  h.trans ⟨Keeps.lamp (Keeps.refl s), fun p k => by cases p <;> first | rfl | exact absurd (e.symm.trans k) (by decide),
    fun _ _ => rfl⟩

theorem Foot.dramc {x} (h : Foot μ s₀ s) (e : μ.testBit 17 = true) : Foot μ s₀ { s with dramc := x } :=
  h.trans ⟨Keeps.dramc (Keeps.refl s), fun p k => by cases p <;> first | rfl | exact absurd (e.symm.trans k) (by decide),
    fun _ _ => rfl⟩

theorem Foot.therm {x} (h : Foot μ s₀ s) (e : μ.testBit 19 = true) : Foot μ s₀ { s with therm := x } :=
  h.trans ⟨Keeps.therm (Keeps.refl s), fun p k => by cases p <;> first | rfl | exact absurd (e.symm.trans k) (by decide),
    fun _ _ => rfl⟩

theorem Foot.red {x} (h : Foot μ s₀ s) (e : μ.testBit 21 = true) : Foot μ s₀ { s with red := x } :=
  h.trans ⟨Keeps.red (Keeps.refl s), fun p k => by cases p <;> first | rfl | exact absurd (e.symm.trans k) (by decide),
    fun _ _ => rfl⟩

/-! ### The basic operations -/

theorem Foot.board {x} (h : Foot μ s₀ s) (ex : x.role = s.board.role) (em : 0x1 ||| μ = μ) : Foot μ s₀ ({ s with board := x }) :=
  h.trans ⟨Keeps.board (Keeps.refl s) ex, fun p k => by cases p <;> first | rfl | exact absurd ((bit (i := 0) em rfl).symm.trans k) (by decide),
    fun _ _ => rfl⟩

theorem foot_setStoreByte {a1 a2} (h : Foot μ s₀ s) (em : 0x2 ||| μ = μ) : Foot μ s₀ (setStoreByte a1 a2 s) :=
  h.trans ⟨keeps_setStoreByte (Keeps.refl s), fun p k => by cases p <;> first | rfl | exact absurd ((bit (i := 1) em rfl).symm.trans k) (by decide),
    fun _ _ => rfl⟩

theorem foot_setDramByte {a1 a2} (h : Foot μ s₀ s) (em : 0x4 ||| μ = μ) : Foot μ s₀ (setDramByte a1 a2 s) :=
  h.trans ⟨keeps_setDramByte (Keeps.refl s), fun p k => by cases p <;> first | rfl | exact absurd ((bit (i := 2) em rfl).symm.trans k) (by decide),
    fun _ _ => rfl⟩

theorem foot_setLane {a1 a2} (h : Foot μ s₀ s) (em : 0x40 ||| μ = μ) : Foot μ s₀ (setLane a1 a2 s) :=
  h.trans ⟨keeps_setLane (Keeps.refl s), fun p k => by cases p <;> first | rfl | exact absurd ((bit (i := 6) em rfl).symm.trans k) (by decide),
    fun _ _ => rfl⟩

theorem foot_setPort {a1 a2} (h : Foot μ s₀ s) (em : 0x80 ||| μ = μ) : Foot μ s₀ (setPort a1 a2 s) :=
  h.trans ⟨keeps_setPort (Keeps.refl s), fun p k => by cases p <;> first | rfl | exact absurd ((bit (i := 7) em rfl).symm.trans k) (by decide),
    fun _ _ => rfl⟩

theorem foot_emit {a1} (h : Foot μ s₀ s) (em : 0x800000 ||| μ = μ) : Foot μ s₀ (emit a1 s) :=
  h.trans ⟨keeps_emit (Keeps.refl s), fun p k => by cases p <;> first | rfl | exact absurd ((bit (i := 23) em rfl).symm.trans k) (by decide),
    fun _ _ => rfl⟩

theorem foot_freshIdx (h : Foot μ s₀ s) (em : 0x400000 ||| μ = μ) : Foot μ s₀ ((freshIdx s).2) :=
  h.trans ⟨keeps_freshIdx (Keeps.refl s), fun p k => by cases p <;> first | rfl | exact absurd ((bit (i := 22) em rfl).symm.trans k) (by decide),
    fun _ _ => rfl⟩

theorem foot_setBoot {f : BootState → BootState} (h : Foot μ s₀ s)
    (ex : (f s.boot).flash = s.boot.flash ∧ (f s.boot).otpLock = s.boot.otpLock ∧ (f s.boot).otpSvn = s.boot.otpSvn) (em : 0x100000 ||| μ = μ) : Foot μ s₀ (setBoot f s) :=
  h.trans ⟨keeps_setBoot (Keeps.refl s) ex, fun p k => by cases p <;> first | rfl | exact absurd ((bit (i := 20) em rfl).symm.trans k) (by decide),
    fun _ _ => rfl⟩

theorem Foot.pwr {x} (h : Foot μ s₀ s) (ex : x.retention = s.pwr.retention) (em : 0x40000 ||| μ = μ) : Foot μ s₀ ({ s with pwr := x }) :=
  h.trans ⟨keeps_setPwr (f := fun _ => x) (Keeps.refl s) ex, fun p k => by cases p <;> first | rfl | exact absurd ((bit (i := 18) em rfl).symm.trans k) (by decide),
    fun _ _ => rfl⟩

theorem Foot.boot {x} (h : Foot μ s₀ s)
    (ex : x.flash = s.boot.flash ∧ x.otpLock = s.boot.otpLock ∧ x.otpSvn = s.boot.otpSvn) (em : 0x100000 ||| μ = μ) : Foot μ s₀ ({ s with boot := x }) :=
  h.trans ⟨keeps_setBoot (f := fun _ => x) (Keeps.refl s) ex, fun p k => by cases p <;> first | rfl | exact absurd ((bit (i := 20) em rfl).symm.trans k) (by decide),
    fun _ _ => rfl⟩

theorem foot_setPwr {f : PwrState → PwrState} (h : Foot μ s₀ s) (ex : (f s.pwr).retention = s.pwr.retention) (em : 0x40000 ||| μ = μ) : Foot μ s₀ (setPwr f s) :=
  h.trans ⟨keeps_setPwr (Keeps.refl s) ex, fun p k => by cases p <;> first | rfl | exact absurd ((bit (i := 18) em rfl).symm.trans k) (by decide),
    fun _ _ => rfl⟩

/-- A change of the flash that keeps its canonical form. -/
theorem Foot.flash {x} (h : Foot μ s₀ s) (w : Memory.wf erasedByte s.boot.flash → Memory.wf erasedByte x)
    (em : 0x100000 ||| μ = μ) : Foot μ s₀ { s with boot := { s.boot with flash := x } } :=
  h.trans ⟨⟨fun ⟨c1, c2, c3, c4, c5, c6, c7⟩ => ⟨c1, c2, c3, c4, w c5, c6, c7⟩, rfl, rfl, id,
    List.prefix_refl _, List.suffix_refl _, Nat.le_refl _⟩,
    fun p k => by cases p <;> first | rfl | exact absurd ((bit (i := 20) em rfl).symm.trans k) (by decide), fun _ _ => rfl⟩

/-- A change of the OTP cells that only fills them up. -/
theorem Foot.otp {x : BootState} (h : Foot μ s₀ s) (l : s.boot.otpLock = true → x.otpLock = true)
    (v : s.boot.otpSvn <+: x.otpSvn) (em : 0x100000 ||| μ = μ) (f : x.flash = s.boot.flash := by rfl) :
    Foot μ s₀ { s with boot := x } :=
  h.trans ⟨⟨fun ⟨c1, c2, c3, c4, c5, c6, c7⟩ => ⟨c1, c2, c3, c4, f ▸ c5, c6, c7⟩, rfl, rfl, l,
    v, List.suffix_refl _, Nat.le_refl _⟩,
    fun p k => by cases p <;> first | rfl | exact absurd ((bit (i := 20) em rfl).symm.trans k) (by decide), fun _ _ => rfl⟩

theorem foot_setRegWord {a : Nat} {w : Word} (h : Foot μ s₀ s) (ha : RegIn μ a) : Foot μ s₀ (setRegWord a w s) :=
  h.trans ⟨keeps_setRegWord (Keeps.refl s), fun p _ => by cases p <;> rfl,
    fun b nb => regWord_setRegWord_ne fun e => nb (e ▸ ha)⟩

theorem foot_setInst {f : Fld} {i : Nat} {w : Word} (h : Foot μ s₀ s) (hf : FldIn μ f) : Foot μ s₀ (setInst f i w s) := by
  by_cases hi : i < f.count
  · refine h.trans ⟨keeps_setInst (Keeps.refl s), fun p _ => by cases p <;> rfl, fun b nb => regWord_setInst_ne fun e => nb ?_⟩
    exact e ▸ hf i hi
  · rw [setInst_none hi]
    exact h

theorem foot_setFldAt {f : Fld} {i v : Nat} (h : Foot μ s₀ s) (hf : FldIn μ f) : Foot μ s₀ (setFldAt f i v s) :=
  foot_setInst h hf

/-- A change whose mask is known from its parts. -/
theorem Foot.step {M : Nat} (h : Foot μ s₀ s) (k : Foot M s t) (em : M ||| μ = μ) : Foot μ s₀ t := by
  refine h.trans ⟨k.keeps, fun p e => k.parts p ?_, fun a na => k.regs a fun r => na ?_⟩
  · cases hm : M.testBit p.idx with
    | false => rfl
    | true => exact absurd ((bit em hm).symm.trans e) (by decide)
  · rcases r with r | ⟨n, r1, r2⟩
    · exact .inl (bit em r)
    · exact .inr ⟨n, bit em r1, r2⟩

/-- A change of parts that the mask names. -/
theorem Foot.change (h : Foot μ s₀ s) (k : Keeps s t) (r : t.regs = s.regs)
    (p : ∀ p : Part, μ.testBit p.idx = false → p.same s t) : Foot μ s₀ t :=
  h.trans ⟨k, p, fun a _ => by unfold regWord; rw [r]⟩

/-! ### Branches, results and loops -/

theorem Foot.ite {c : Prop} [Decidable c] {a b : State} (ha : Foot μ s₀ a) (hb : Foot μ s₀ b) :
    Foot μ s₀ (if c then a else b) := by
  split <;> assumption

theorem Foot.iteSnd {α : Type} {c : Prop} [Decidable c] {a b : α × State} (ha : Foot μ s₀ a.2) (hb : Foot μ s₀ b.2) :
    Foot μ s₀ (if c then a else b).2 := by
  split <;> assumption

theorem Foot.iteFst {α : Type} {c : Prop} [Decidable c] {a b : State × α} (ha : Foot μ s₀ a.1) (hb : Foot μ s₀ b.1) :
    Foot μ s₀ (if c then a else b).1 := by
  split <;> assumption

theorem Foot.ofSnd {α : Type} {p : α × State} {a : α} (h : Foot μ s₀ p.2) (e : p = (a, t)) : Foot μ s₀ t := by
  subst e; exact h

theorem Foot.ofFst {α : Type} {p : State × α} {a : α} (h : Foot μ s₀ p.1) (e : p = (t, a)) : Foot μ s₀ t := by
  subst e; exact h

theorem Foot.ofThird {α β : Type} {p : α × β × State} {a : α} {b : β} (h : Foot μ s₀ p.2.2) (e : p = (a, b, t)) :
    Foot μ s₀ t := by
  subst e; exact h

theorem Foot.ofSome {α : Type} {p : Option (α × State)} {a : α} (h : ∀ r, p = some r → Foot μ s₀ r.2)
    (e : p = some (a, t)) : Foot μ s₀ t := h _ e

theorem Foot.ofSomeFst {α : Type} {p : Option (State × α)} {a : α} (h : ∀ r, p = some r → Foot μ s₀ r.1)
    (e : p = some (t, a)) : Foot μ s₀ t := h _ e

theorem foot_when {c : Bool} {f : State → State} (hf : ∀ s, Foot μ s₀ s → Foot μ s₀ (f s)) (h : Foot μ s₀ s) :
    Foot μ s₀ (when c f s) := by
  unfold when
  exact Foot.ite (hf _ h) h

theorem foot_whenOn {d : Nat} {f : State → State} (hf : ∀ s, Foot μ s₀ s → Foot μ s₀ (f s)) (h : Foot μ s₀ s) :
    Foot μ s₀ (whenOn d f s) := by
  unfold whenOn
  exact Foot.ite (hf _ h) h

theorem foot_forEach {α : Type} {l : List α} {f : α → State → State} (hf : ∀ x s, Foot μ s₀ s → Foot μ s₀ (f x s))
    (h : Foot μ s₀ s) : Foot μ s₀ (forEach l f s) := by
  unfold forEach
  induction l generalizing s with
  | nil => exact h
  | cons x t ih => exact ih (hf x s h)

theorem Foot.foldlSnd {α β : Type} {l : List α} {f : β × State → α → β × State} {p : β × State}
    (hf : ∀ q x, Foot μ s₀ q.2 → Foot μ s₀ (f q x).2) (h : Foot μ s₀ p.2) : Foot μ s₀ (l.foldl f p).2 := by
  induction l generalizing p with
  | nil => exact h
  | cons x t ih => exact ih (hf p x h)

theorem Foot.foldlFst {α β : Type} {l : List α} {f : State × β → α → State × β} {p : State × β}
    (hf : ∀ q x, Foot μ s₀ q.1 → Foot μ s₀ (f q x).1) (h : Foot μ s₀ p.1) : Foot μ s₀ (l.foldl f p).1 := by
  induction l generalizing p with
  | nil => exact h
  | cons x t ih => exact ih (hf p x h)

theorem Foot.foldl {α : Type} {l : List α} {f : State → α → State} (hf : ∀ s x, Foot μ s₀ s → Foot μ s₀ (f s x))
    (h : Foot μ s₀ s) : Foot μ s₀ (l.foldl f s) := by
  induction l generalizing s with
  | nil => exact h
  | cons x t ih => exact ih (hf s x h)

theorem foot_setStoreBytes {o : Nat} {bs : List Byte} (h : Foot μ s₀ s) (em : 0x2 ||| μ = μ) :
    Foot μ s₀ (setStoreBytes o bs s) := by
  unfold setStoreBytes
  exact Foot.foldlSnd (fun _ _ k => foot_setStoreByte k em) h

theorem foot_setMemByte {r o : Nat} {b : Byte} (h : Foot μ s₀ s) (em : 0x6 ||| μ = μ) : Foot μ s₀ (setMemByte r o b s) := by
  unfold setMemByte
  exact Foot.ite (Foot.ite (foot_setStoreByte h (sub em rfl)) (foot_setDramByte h (sub em rfl))) h

theorem foot_setMemBytes {r : Nat} {bs : List Byte} {o : Nat} (h : Foot μ s₀ s) (em : 0x6 ||| μ = μ) :
    Foot μ s₀ (setMemBytes r o bs s) := by
  induction bs generalizing o s with
  | nil => exact h
  | cons b t ih => exact ih (foot_setMemByte h em)

/-! ### What a mask says in the terms of Safety.lean -/

/-- The parts and the registers that a mask names are among `ps` and `rs`. -/
def maskWithin (M : Nat) (ps : List Part) (rs : List Fld) : Bool :=
  !M.testBit 24 && M / 2 ^ 200 == 0 &&
    (List.range 168).all (fun k => !M.testBit (32 + k) ||
      rs.any (fun f => f.base == (footReg k).1 && f.stride == (footReg k).2.1 && f.count == (footReg k).2.2)) &&
    [Part.board, .store, .dram, .eth, .flac, .evt, .lanes, .ports, .time, .wt, .ce, .enumr, .cmd, .pkt, .comp, .pipe, .lamp,
      .dramc, .pwr, .therm, .boot, .red, .freeCnt, .emitted].all (fun p => ps.contains p || !M.testBit p.idx)

/-- What an operation within a mask changes. -/
theorem Foot.changes {M : Nat} {ps : List Part} {rs : List Fld} (h : Foot M s t) (w : maskWithin M ps rs = true) :
    Changes ps rs s t := by
  simp only [maskWithin, Bool.and_eq_true, Bool.not_eq_true', beq_iff_eq, List.all_eq_true, List.mem_range, Bool.or_eq_true,
    List.any_eq_true] at w
  obtain ⟨⟨⟨w1, w2⟩, w3⟩, w4⟩ := w
  refine ⟨h.keeps.pending, fun p np => h.parts p ?_, fun a na => h.regs a fun r => na ?_⟩
  · rcases w4 p (by cases p <;> decide) with c | c
    · exact absurd (List.contains_iff_mem.1 c) np
    · exact c
  · rcases r with r | ⟨k, k1, i, hi, e⟩
    · rw [w1] at r; cases r
    · by_cases hk : k < 168
      · rcases w3 k hk with c | ⟨f, f1, ⟨f2, f3⟩, f4⟩
        · rw [c] at k1; cases k1
        · refine ⟨f, f1, i, f4 ▸ hi, ?_⟩
          unfold Fld.addr
          rw [e, f2, f3]
      · exfalso
        have : M < 2 ^ 200 := by
          rcases Nat.div_eq_zero_iff.1 w2 with c | c
          · exact absurd c (by decide)
          · exact c
        have h2 : M.testBit (32 + k) = false :=
          Nat.testBit_lt_two_pow (this.trans_le (Nat.pow_le_pow_right (by decide) (by omega)))
        rw [h2] at k1; cases k1

/-- No instance of the register lies at `a`. -/
def regOff (r : Nat × Nat × Nat) (a : Nat) : Bool :=
  decide (a < r.1) || decide (r.1 + r.2.1 * (r.2.2 - 1) < a) || (a - r.1) % r.2.1 != 0

/-- A mask does not name the register at `a`. -/
def maskAvoids (M a : Nat) : Bool :=
  !M.testBit 24 && M / 2 ^ 200 == 0 && (List.range 168).all (fun k => !M.testBit (32 + k) || regOff (footReg k) a)

theorem regOff_ne {r : Nat × Nat × Nat} {a i : Nat} (h : regOff r a = true) (hi : i < r.2.2) : a ≠ r.1 + r.2.1 * i := by
  unfold regOff at h
  intro e
  subst e
  have h1 : r.2.1 * i ≤ r.2.1 * (r.2.2 - 1) := Nat.mul_le_mul_left _ (by omega)
  simp only [Nat.add_sub_cancel_left, Nat.mul_mod_right, bne_self_eq_false, Bool.or_false, Bool.or_eq_true,
    decide_eq_true_eq] at h
  omega

/-- An operation leaves a register that its mask does not name. -/
theorem Foot.reg_eq {M a : Nat} (h : Foot M s t) (w : maskAvoids M a = true) : regWord t a = regWord s a := by
  simp only [maskAvoids, Bool.and_eq_true, Bool.not_eq_true', beq_iff_eq, List.all_eq_true, List.mem_range, Bool.or_eq_true] at w
  obtain ⟨⟨w1, w2⟩, w3⟩ := w
  refine h.regs a fun r => ?_
  rcases r with r | ⟨k, k1, i, hi, e⟩
  · rw [w1] at r; cases r
  · by_cases hk : k < 168
    · rcases w3 k hk with c | c
      · rw [c] at k1; cases k1
      · exact regOff_ne c hi e
    · have : M < 2 ^ 200 := by
        rcases Nat.div_eq_zero_iff.1 w2 with c | c
        · exact absurd c (by decide)
        · exact c
      have h2 : M.testBit (32 + k) = false :=
        Nat.testBit_lt_two_pow (this.trans_le (Nat.pow_le_pow_right (by decide) (by omega)))
      rw [h2] at k1; cases k1

theorem Foot.fldAt_eq {M i : Nat} {f : Fld} (h : Foot M s t) (w : maskAvoids M (f.addr i) = true) : fldAt t f i = fldAt s f i := by
  unfold fldAt
  rw [h.reg_eq w]

theorem Foot.fld_eq {M : Nat} {f : Fld} (h : Foot M s t) (w : maskAvoids M (f.addr 0) = true) : fld t f = fld s f := h.fldAt_eq w

theorem Foot.flag_eq {M : Nat} {f : Fld} (h : Foot M s t) (w : maskAvoids M (f.addr 0) = true) : flag t f = flag s f := by
  unfold flag flagAt
  rw [h.fldAt_eq w]

end Sys2Proof.Machine
end

