-- ==== Sys2Proof/Laws/Foot1.lean ====
section
/-! SUPPORT. The relation Foot holds of each operation of Machine/: Ops, Answer, Events, WallTime, LoopSlots, Packets. -/

namespace Sys2Proof.Machine

variable {μ : Nat} {s₀ s t : State}

/-! ### Machine/Ops.lean -/

theorem foot_setEvt {a1} (h : Foot μ s₀ s) (em : 0x20 ||| μ = μ) : Foot μ s₀ (setEvt a1 s) := by
  unfold setEvt
  exact Foot.evt h (bit em rfl)

theorem foot_addFldAt {a1 a2 a3} (h : Foot μ s₀ s) (hf1 : FldIn μ a1) : Foot μ s₀ (addFldAt a1 a2 a3 s) := by
  unfold addFldAt
  exact foot_setFldAt h hf1

theorem foot_setFld {a1 a2} (h : Foot μ s₀ s) (hf1 : FldIn μ a1) : Foot μ s₀ (setFld a1 a2 s) := by
  unfold setFld
  exact foot_setFldAt h hf1

theorem foot_incFldAt {a1 a2} (h : Foot μ s₀ s) (hf1 : FldIn μ a1) : Foot μ s₀ (incFldAt a1 a2 s) := by
  unfold incFldAt
  exact foot_addFldAt h hf1

theorem foot_setFlag {a1 a2} (h : Foot μ s₀ s) (hf1 : FldIn μ a1) : Foot μ s₀ (setFlag a1 a2 s) := by
  unfold setFlag
  exact foot_setFldAt h hf1

theorem foot_setFlagAt {a1 a2 a3} (h : Foot μ s₀ s) (hf1 : FldIn μ a1) : Foot μ s₀ (setFlagAt a1 a2 a3 s) := by
  unfold setFlagAt
  exact foot_setFldAt h hf1

theorem foot_setPair {a1 a2 a3} (h : Foot μ s₀ s) (hf1 : FldIn μ a1) (hf2 : FldIn μ a2) : Foot μ s₀ (setPair a1 a2 a3 s) := by
  unfold setPair
  exact foot_setFld (foot_setFld h hf1) hf2

theorem foot_incFld {a1} (h : Foot μ s₀ s) (hf1 : FldIn μ a1) : Foot μ s₀ (incFld a1 s) := by
  unfold incFld
  exact foot_incFldAt h hf1

theorem foot_wrapFldAt {a1 a2} (h : Foot μ s₀ s) (hf1 : FldIn μ a1) : Foot μ s₀ (wrapFldAt a1 a2 s) := by
  unfold wrapFldAt
  exact foot_setFldAt h hf1

/-! ### Machine/Answer.lean -/

theorem foot_answerWords {a1} (h : Foot μ s₀ s) : Foot μ s₀ (answerWords a1 s).2 := by
  unfold answerWords
  exact h

theorem foot_answer {a1} (h : Foot μ s₀ s) : Foot μ s₀ (answer a1 s).2 := by
  unfold answer
  exact h

/-! ### Machine/Events.lean -/

theorem foot_notifyHk {a1 a2 a3} (h : Foot μ s₀ s) (em : 0x20 ||| μ = μ) : Foot μ s₀ (notifyHk a1 a2 a3 s) := by
  unfold notifyHk
  exact Foot.ite (foot_setEvt h (sub em rfl)) h

theorem foot_setGroupBit {a1 a2 a3} (h : Foot μ s₀ s) (hf1 : FldIn μ a1) : Foot μ s₀ (setGroupBit a1 a2 a3 s) := by
  unfold setGroupBit
  exact foot_setFldAt h hf1

theorem foot_startReaction {a1 a2 a3} (h : Foot μ s₀ s) (em : 0xe00000000020 ||| μ = μ) : Foot μ s₀ (startReaction a1 a2 a3 s) := by
  unfold startReaction
  extract_lets -merge -useContext +onlyGivenNames s1
  have h1 : Foot μ s₀ s1 := foot_setFld h (fun i hi => .inr ⟨13, bit em rfl, i, hi, rfl⟩)
  clear_value s1
  extract_lets -merge -useContext +onlyGivenNames s2
  have h2 : Foot μ s₀ s2 := foot_setFld h1 (fun i hi => .inr ⟨14, bit em rfl, i, hi, rfl⟩)
  clear_value s2
  extract_lets -merge -useContext +onlyGivenNames s3
  have h3 : Foot μ s₀ s3 := foot_setInst h2 (fun i hi => .inr ⟨15, bit em rfl, i, hi, rfl⟩)
  clear_value s3
  extract_lets -merge -useContext +onlyGivenNames s4
  have h4 : Foot μ s₀ s4 := foot_setEvt h3 (sub em rfl)
  clear_value s4
  exact foot_notifyHk h4 (sub em rfl)

theorem foot_syncDry (h : Foot μ s₀ s) (em : 0x10000000000000000 ||| μ = μ) : Foot μ s₀ (syncDry s) := by
  unfold syncDry
  exact Foot.ite (foot_setFld h (fun i hi => .inr ⟨32, bit em rfl, i, hi, rfl⟩)) h

theorem foot_endReaction (h : Foot μ s₀ s) (em : 0x10000800000000020 ||| μ = μ) : Foot μ s₀ (endReaction s) := by
  unfold endReaction
  exact Foot.ite (foot_syncDry (foot_setEvt (foot_setFlag h (fun i hi => .inr ⟨15, bit em rfl, i, hi, rfl⟩)) (sub em rfl)) (sub em rfl)) h

theorem foot_escalateReaction {a1 a2} (h : Foot μ s₀ s) (em : 0x800000000020 ||| μ = μ) : Foot μ s₀ (escalateReaction a1 a2 s) := by
  unfold escalateReaction
  extract_lets -merge -useContext +onlyGivenNames s1
  have h1 : Foot μ s₀ s1 := foot_setEvt h (sub em rfl)
  clear_value s1
  extract_lets -merge -useContext +onlyGivenNames s2
  have h2 : Foot μ s₀ s2 := foot_setFld h1 (fun i hi => .inr ⟨15, bit em rfl, i, hi, rfl⟩)
  clear_value s2
  extract_lets -merge -useContext +onlyGivenNames s3
  have h3 : Foot μ s₀ s3 := foot_setFlag h2 (fun i hi => .inr ⟨15, bit em rfl, i, hi, rfl⟩)
  clear_value s3
  extract_lets -merge -useContext +onlyGivenNames s4
  have h4 : Foot μ s₀ s4 := foot_setFld h3 (fun i hi => .inr ⟨15, bit em rfl, i, hi, rfl⟩)
  clear_value s4
  exact foot_notifyHk h4 (sub em rfl)

theorem foot_ackReaction (h : Foot μ s₀ s) (em : 0x10000800000000020 ||| μ = μ) : Foot μ s₀ (ackReaction s) := by
  unfold ackReaction
  exact foot_endReaction h (sub em rfl)

theorem foot_mergeSource {a1} (h : Foot μ s₀ s) (em : 0x1000000000000000000000000800000000000 ||| μ = μ) : Foot μ s₀ (mergeSource a1 s) := by
  unfold mergeSource
  exact foot_incFld (foot_setGroupBit h (fun i hi => .inr ⟨112, bit em rfl, i, hi, rfl⟩)) (fun i hi => .inr ⟨15, bit em rfl, i, hi, rfl⟩)

theorem foot_autoEnd (h : Foot μ s₀ s) (em : 0x10000800000000020 ||| μ = μ) : Foot μ s₀ (autoEnd s) := by
  unfold autoEnd
  exact Foot.ite (foot_endReaction h (sub em rfl)) h

theorem foot_joinReaction {a1} (h : Foot μ s₀ s) (em : 0x1000000000000000000000000800000000020 ||| μ = μ) : Foot μ s₀ (joinReaction a1 s) := by
  unfold joinReaction
  exact Foot.ite (foot_mergeSource h (sub em rfl)) (foot_escalateReaction h (sub em rfl))

theorem foot_takeNotes (h : Foot μ s₀ s) (em : 0x10000800000000020 ||| μ = μ) : Foot μ s₀ (takeNotes s) := by
  unfold takeNotes
  extract_lets -merge -useContext +onlyGivenNames x1
  clear_value x1
  extract_lets -merge -useContext +onlyGivenNames s2
  have h2 : Foot μ s₀ s2 := foot_setEvt h (sub em rfl)
  clear_value s2
  exact foot_autoEnd h2 (sub em rfl)

theorem foot_execReactionAutoEnd (h : Foot μ s₀ s) (em : 0x10000800000000020 ||| μ = μ) : ∀ t, execReactionAutoEnd s = .next t → Foot μ s₀ t := by
  intro t e
  unfold execReactionAutoEnd at e
  injection e with e
  subst e
  exact foot_takeNotes h (sub em rfl)

theorem foot_restartReaction (h : Foot μ s₀ s) (em : 0x1000000000000000000010000e00000000020 ||| μ = μ) : Foot μ s₀ (restartReaction s) := by
  unfold restartReaction
  extract_lets -merge -useContext +onlyGivenNames x1
  clear_value x1
  refine Foot.ite (foot_setEvt h (sub em rfl)) ?_
  · extract_lets -merge -useContext +onlyGivenNames x2
    clear_value x2
    extract_lets -merge -useContext +onlyGivenNames x3
    clear_value x3
    extract_lets -merge -useContext +onlyGivenNames x4
    clear_value x4
    extract_lets -merge -useContext +onlyGivenNames s5
    have h5 : Foot μ s₀ s5 := foot_startReaction h (sub em rfl)
    clear_value s5
    extract_lets -merge -useContext +onlyGivenNames s6
    have h6 : Foot μ s₀ s6 := foot_forEach (fun _ _ h6 => foot_setFldAt h6 (fun i hi => .inr ⟨112, bit em rfl, i, hi, rfl⟩)) h5
    clear_value s6
    exact foot_autoEnd (foot_syncDry h6 (sub em rfl)) (sub em rfl)

theorem foot_raise {a1} (h : Foot μ s₀ s) (em : 0x41000000000000000000010000e00000000020 ||| μ = μ) : Foot μ s₀ (raise a1 s) := by
  unfold raise
  extract_lets -merge -useContext +onlyGivenNames s1
  have h1 : Foot μ s₀ s1 := foot_setGroupBit h (fun i hi => .inr ⟨118, bit em rfl, i, hi, rfl⟩)
  clear_value s1
  exact Foot.ite h1 (Foot.ite (foot_autoEnd (foot_syncDry (foot_joinReaction h1 (sub em rfl)) (sub em rfl)) (sub em rfl)) (foot_autoEnd (foot_syncDry (foot_startReaction h1 (sub em rfl)) (sub em rfl)) (sub em rfl)))

theorem foot_reactChanged {a1} (h : Foot μ s₀ s) (em : 0x10000800000000020 ||| μ = μ) : Foot μ s₀ (reactChanged a1 s) := by
  unfold reactChanged
  extract_lets -merge -useContext +onlyGivenNames x1
  clear_value x1
  extract_lets -merge -useContext +onlyGivenNames s2
  have h2 : Foot μ s₀ s2 := Foot.ite (foot_notifyHk h (sub em rfl)) h
  clear_value s2
  exact foot_autoEnd (foot_syncDry h2 (sub em rfl)) (sub em rfl)

theorem foot_raiseMany {a1} (h : Foot μ s₀ s) (em : 0x41000000000000000000010000e00000000020 ||| μ = μ) : Foot μ s₀ (raiseMany a1 s) := by
  unfold raiseMany
  extract_lets -merge -useContext +onlyGivenNames x1
  clear_value x1
  extract_lets -merge -useContext +onlyGivenNames s2
  have h2 : Foot μ s₀ s2 := foot_forEach (fun _ _ h2 => foot_setGroupBit h2 (fun i hi => .inr ⟨118, bit em rfl, i, hi, rfl⟩)) h
  clear_value s2
  extract_lets -merge -useContext +onlyGivenNames x3
  clear_value x3
  refine Foot.ite h2 ?_
  · refine Foot.ite (foot_autoEnd (foot_syncDry (foot_forEach (fun _ _ h4 => foot_joinReaction h4 (sub em rfl)) h2) (sub em rfl)) (sub em rfl)) ?_
    · extract_lets -merge -useContext +onlyGivenNames x4
      clear_value x4
      extract_lets -merge -useContext +onlyGivenNames x5
      clear_value x5
      extract_lets -merge -useContext +onlyGivenNames x6
      clear_value x6
      extract_lets -merge -useContext +onlyGivenNames s7
      have h7 : Foot μ s₀ s7 := foot_startReaction h2 (sub em rfl)
      clear_value s7
      exact foot_autoEnd (foot_syncDry (foot_forEach (fun _ _ h8 => foot_setGroupBit h8 (fun i hi => .inr ⟨112, bit em rfl, i, hi, rfl⟩)) h7) (sub em rfl)) (sub em rfl)

theorem foot_execReactionRestart (h : Foot μ s₀ s) (em : 0x1000000000000000000010000e00000000020 ||| μ = μ) : ∀ t, execReactionRestart s = .next t → Foot μ s₀ t := by
  intro t e
  unfold execReactionRestart at e
  injection e with e
  subst e
  exact Foot.ite (foot_restartReaction h (sub em rfl)) h

theorem foot_clearSticky {a1 a2} (h : Foot μ s₀ s) (em : 0x41000000000000000000010000e00000000020 ||| μ = μ) : Foot μ s₀ (clearSticky a1 a2 s) := by
  unfold clearSticky
  extract_lets -merge -useContext +onlyGivenNames x1
  extract_lets -merge -useContext +onlyGivenNames s2
  have h2 : Foot μ s₀ s2 := foot_setFldAt h (fun i hi => .inr ⟨118, bit em rfl, i, hi, rfl⟩)
  clear_value s2
  extract_lets -merge -useContext +onlyGivenNames s3
  have h3 : Foot μ s₀ s3 := foot_setFldAt h2 (fun i hi => .inr ⟨112, bit em rfl, i, hi, rfl⟩)
  clear_value s3
  exact Foot.ite (foot_raiseMany h3 (sub em rfl)) h3

theorem foot_execSourceRaise {a1} (h : Foot μ s₀ s) (em : 0x41000000000000000000010000e00000000020 ||| μ = μ) : ∀ t, execSourceRaise a1 s = .next t → Foot μ s₀ t := by
  intro t e
  unfold execSourceRaise at e
  injection e with e
  subst e
  exact foot_raiseMany h (sub em rfl)

/-! ### Machine/WallTime.lean -/

theorem foot_syncTiming (h : Foot μ s₀ s) (em : 0x80010000000000000000 ||| μ = μ) : Foot μ s₀ (syncTiming s) := by
  unfold syncTiming
  exact Foot.ite (foot_syncDry (foot_setFlag h (fun i hi => .inr ⟨47, bit em rfl, i, hi, rfl⟩)) (sub em rfl)) h

theorem foot_showPhase (h : Foot μ s₀ s) (em : 0x1000000000000000000000000 ||| μ = μ) : Foot μ s₀ (showPhase s) := by
  unfold showPhase
  split
  · exact h
  · exact foot_setInst h (fun i hi => .inr ⟨64, bit em rfl, i, hi, rfl⟩)
  · exact foot_setInst h (fun i hi => .inr ⟨64, bit em rfl, i, hi, rfl⟩)

theorem foot_runCycles {a1} (h : Foot μ s₀ s) (em : 0x100000000000200000000000000000000100 ||| μ = μ) : Foot μ s₀ (runCycles a1 s) := by
  unfold runCycles
  extract_lets -merge -useContext +onlyGivenNames _ s1
  have h1 : Foot μ s₀ s1 := Foot.time h (bit em rfl)
  clear_value s1
  refine Foot.ite h1 ?_
  · extract_lets -merge -useContext +onlyGivenNames x2
    clear_value x2
    extract_lets -merge -useContext +onlyGivenNames x3
    clear_value x3
    extract_lets -merge -useContext +onlyGivenNames x4
    clear_value x4
    extract_lets -merge -useContext +onlyGivenNames s5
    have h5 : Foot μ s₀ s5 := Foot.ite (foot_setFlag (foot_setFld h1 (fun i hi => .inr ⟨108, bit em rfl, i, hi, rfl⟩)) (fun i hi => .inr ⟨61, bit em rfl, i, hi, rfl⟩)) h1
    clear_value s5
    exact Foot.time h5 (bit em rfl)

theorem foot_runTo {a1} (h : Foot μ s₀ s) (em : 0x100000000000200000000000000000000100 ||| μ = μ) : Foot μ s₀ (runTo a1 s) := by
  unfold runTo
  exact foot_runCycles h (sub em rfl)

theorem foot_elapse {a1} (h : Foot μ s₀ s) (em : 0x100000000000200000000000000000000100 ||| μ = μ) : Foot μ s₀ (elapse a1 s) := by
  unfold elapse
  extract_lets -merge -useContext +onlyGivenNames s1
  have h1 : Foot μ s₀ s1 := foot_runCycles h (sub em rfl)
  clear_value s1
  exact Foot.time h1 (bit em rfl)

theorem foot_idleCycle (h : Foot μ s₀ s) (em : 0x100000000000200000000000000000000100 ||| μ = μ) : Foot μ s₀ (idleCycle s) := by
  unfold idleCycle
  exact foot_runCycles h (sub em rfl)

/-! ### Machine/LoopSlots.lean -/

theorem foot_setCe {a1} (h : Foot μ s₀ s) (em : 0x400 ||| μ = μ) : Foot μ s₀ (setCe a1 s) := by
  unfold setCe
  exact Foot.ce h (bit em rfl)

theorem foot_cePutBits {a1 a2 a3} (h : Foot μ s₀ s) (em : 0x8000000000000 ||| μ = μ) : Foot μ s₀ (cePutBits a1 a2 a3 s) := by
  unfold cePutBits
  exact foot_setFldAt h (fun i hi => .inr ⟨19, bit em rfl, i, hi, rfl⟩)

theorem foot_ceUnqueue {a1} (h : Foot μ s₀ s) (em : 0x20000000000000000400 ||| μ = μ) : Foot μ s₀ (ceUnqueue a1 s) := by
  unfold ceUnqueue
  exact foot_setFlagAt (foot_setCe h (sub em rfl)) (fun i hi => .inr ⟨45, bit em rfl, i, hi, rfl⟩)

theorem foot_ceLandHeld {a1} (h : Foot μ s₀ s) (em : 0x8000000000400 ||| μ = μ) : Foot μ s₀ (ceLandHeld a1 s) := by
  unfold ceLandHeld
  exact foot_setCe (foot_forEach (fun _ _ h2 => foot_cePutBits h2 (sub em rfl)) h) (sub em rfl)

theorem foot_pwmLow (h : Foot μ s₀ s) (em : 0x400 ||| μ = μ) : Foot μ s₀ (pwmLow s) := by
  unfold pwmLow
  exact foot_setCe h (sub em rfl)

theorem foot_pwmStart {a1} (h : Foot μ s₀ s) (em : 0x400 ||| μ = μ) : Foot μ s₀ (pwmStart a1 s) := by
  unfold pwmStart
  refine Foot.ite (foot_pwmLow h (sub em rfl)) ?_
  · refine Foot.ite h ?_
    · extract_lets -merge -useContext +onlyGivenNames x1
      clear_value x1
      extract_lets -merge -useContext +onlyGivenNames s2
      have h2 : Foot μ s₀ s2 := foot_setCe h (sub em rfl)
      clear_value s2
      exact Foot.ite (foot_setCe h2 (sub em rfl)) h2

theorem foot_ceShowLoad (h : Foot μ s₀ s) (em : 0x40000000000000000000000 ||| μ = μ) : Foot μ s₀ (ceShowLoad s) := by
  unfold ceShowLoad
  exact foot_setFld (foot_setFld h (fun i hi => .inr ⟨58, bit em rfl, i, hi, rfl⟩)) (fun i hi => .inr ⟨58, bit em rfl, i, hi, rfl⟩)

theorem foot_execPwmPeriodStart {a1} (h : Foot μ s₀ s) (em : 0x400 ||| μ = μ) : ∀ t, execPwmPeriodStart a1 s = .next t → Foot μ s₀ t := by
  intro t e
  unfold execPwmPeriodStart at e
  injection e with e
  subst e
  exact foot_whenOn (fun _ h1 => foot_pwmStart h1 (sub em rfl)) h

theorem foot_ceSkipPeriods {a1} (h : Foot μ s₀ s) (em : 0x400 ||| μ = μ) : Foot μ s₀ (ceSkipPeriods a1 s) := by
  unfold ceSkipPeriods
  exact Foot.ite (foot_setCe h (sub em rfl)) h

theorem foot_setCeWord {a1 a2 a3} (h : Foot μ s₀ s) (em : 0x8000000000000 ||| μ = μ) : Foot μ s₀ (setCeWord a1 a2 a3 s) := by
  unfold setCeWord
  exact foot_setFldAt h (fun i hi => .inr ⟨19, bit em rfl, i, hi, rfl⟩)

theorem foot_ceClearCounts (h : Foot μ s₀ s) (em : 0x20000000000000000000 ||| μ = μ) : Foot μ s₀ (ceClearCounts s) := by
  unfold ceClearCounts
  exact foot_forEach (fun _ _ h1 => foot_setFldAt h1 (fun i hi => .inr ⟨45, bit em rfl, i, hi, rfl⟩)) h

theorem foot_ceStart {a1} (h : Foot μ s₀ s) (em : 0x20000008000000000400 ||| μ = μ) : Foot μ s₀ (ceStart a1 s) := by
  unfold ceStart
  extract_lets -merge -useContext +onlyGivenNames s1
  have h1 : Foot μ s₀ s1 := foot_setCeWord h (sub em rfl)
  clear_value s1
  extract_lets -merge -useContext +onlyGivenNames s2
  have h2 : Foot μ s₀ s2 := foot_setFlagAt h1 (fun i hi => .inr ⟨45, bit em rfl, i, hi, rfl⟩)
  clear_value s2
  extract_lets -merge -useContext +onlyGivenNames s3
  have h3 : Foot μ s₀ s3 := foot_setCe h2 (sub em rfl)
  clear_value s3
  exact foot_ceSkipPeriods h3 (sub em rfl)

theorem foot_ceResume (h : Foot μ s₀ s) (em : 0x400 ||| μ = μ) : Foot μ s₀ (ceResume s) := by
  unfold ceResume
  exact foot_forEach (fun _ _ h1 => foot_ceSkipPeriods h1 (sub em rfl)) h

theorem foot_ceStepWritten {a1} (h : Foot μ s₀ s) (em : 0x20000000000000000400 ||| μ = μ) : Foot μ s₀ (ceStepWritten a1 s) := by
  unfold ceStepWritten
  exact Foot.ite h (Foot.ite (foot_setCe h (sub em rfl)) (foot_setFlagAt (foot_setCe h (sub em rfl)) (fun i hi => .inr ⟨45, bit em rfl, i, hi, rfl⟩)))

theorem foot_ceDisable {a1} (h : Foot μ s₀ s) (em : 0x40020000008000000000400 ||| μ = μ) : Foot μ s₀ (ceDisable a1 s) := by
  unfold ceDisable
  extract_lets -merge -useContext +onlyGivenNames s1
  have h1 : Foot μ s₀ s1 := foot_ceLandHeld h (sub em rfl)
  clear_value s1
  exact foot_ceShowLoad (foot_setFlagAt (foot_ceUnqueue (foot_setCeWord h1 (sub em rfl)) (sub em rfl)) (fun i hi => .inr ⟨45, bit em rfl, i, hi, rfl⟩)) (sub em rfl)

theorem foot_pwmSync (h : Foot μ s₀ s) (em : 0x400 ||| μ = μ) : Foot μ s₀ (pwmSync s) := by
  unfold pwmSync
  exact Foot.ite h (foot_pwmLow h (sub em rfl))

theorem foot_ceOverrun {a1} (h : Foot μ s₀ s) (em : 0x41000000000000000020010000e00000000020 ||| μ = μ) : Foot μ s₀ (ceOverrun a1 s) := by
  unfold ceOverrun
  exact foot_raise (foot_incFldAt h (fun i hi => .inr ⟨45, bit em rfl, i, hi, rfl⟩)) (sub em rfl)

theorem foot_ceEnqueue {a1 a2} (h : Foot μ s₀ s) (em : 0x41000000000000000020010000e00000000420 ||| μ = μ) : Foot μ s₀ (ceEnqueue a1 a2 s) := by
  unfold ceEnqueue
  exact Foot.ite (foot_ceOverrun (foot_setCe h (sub em rfl)) (sub em rfl)) (foot_setFlagAt (foot_setCe h (sub em rfl)) (fun i hi => .inr ⟨45, bit em rfl, i, hi, rfl⟩))

theorem foot_pwmStale (h : Foot μ s₀ s) (em : 0x1041000000000000000000010000e00000000420 ||| μ = μ) : Foot μ s₀ (pwmStale s) := by
  unfold pwmStale
  exact Foot.ite (foot_raise (foot_setFlag (foot_pwmLow (foot_setCe h (sub em rfl)) (sub em rfl)) (fun i hi => .inr ⟨124, bit em rfl, i, hi, rfl⟩)) (sub em rfl)) h

theorem foot_cePeriodic {a1} (h : Foot μ s₀ s) (em : 0x41100000000000200020010000e00000000520 ||| μ = μ) : Foot μ s₀ (cePeriodic a1 s) := by
  unfold cePeriodic
  refine Foot.ite ?_ h
  · split
    · extract_lets -merge -useContext +onlyGivenNames x2
      clear_value x2
      extract_lets -merge -useContext +onlyGivenNames s3
      have h3 : Foot μ s₀ s3 := foot_elapse h (sub em rfl)
      clear_value s3
      exact foot_ceEnqueue (foot_setCe h3 (sub em rfl)) (sub em rfl)
    · exact h

theorem foot_execCePeriodicTrigger {a1} (h : Foot μ s₀ s) (em : 0x41100000000000200020010000e00000000520 ||| μ = μ) : ∀ t, execCePeriodicTrigger a1 s = .next t → Foot μ s₀ t := by
  intro t e
  unfold execCePeriodicTrigger at e
  injection e with e
  subst e
  exact foot_cePeriodic h (sub em rfl)

theorem foot_ceWord0Written {a1 a2 a3} (h : Foot μ s₀ s) (em : 0x41000000000000040020010008e00000000420 ||| μ = μ) : Foot μ s₀ (ceWord0Written a1 a2 a3 s) := by
  unfold ceWord0Written
  extract_lets -merge -useContext +onlyGivenNames x1
  clear_value x1
  refine Foot.ite (Foot.ite (foot_ceDisable h (sub em rfl)) h) ?_
  · extract_lets -merge -useContext +onlyGivenNames x2
    clear_value x2
    refine Foot.ite (foot_raise (foot_setFldAt (foot_ceDisable h (sub em rfl)) (fun i hi => .inr ⟨45, bit em rfl, i, hi, rfl⟩)) (sub em rfl)) ?_
    · extract_lets -merge -useContext +onlyGivenNames s3
      have h3 : Foot μ s₀ s3 := foot_when (fun _ h3 => foot_setFldAt (foot_setFlagAt h3 (fun i hi => .inr ⟨45, bit em rfl, i, hi, rfl⟩)) (fun i hi => .inr ⟨45, bit em rfl, i, hi, rfl⟩)) h
      clear_value s3
      extract_lets -merge -useContext +onlyGivenNames s4
      have h4 : Foot μ s₀ s4 := Foot.ite (foot_ceStart h3 (sub em rfl)) (Foot.ite (foot_ceSkipPeriods h3 (sub em rfl)) h3)
      clear_value s4
      exact foot_ceShowLoad h4 (sub em rfl)

theorem foot_ceTrigger {a1} (h : Foot μ s₀ s) (em : 0x41000000000000000020010000e00000000420 ||| μ = μ) : Foot μ s₀ (ceTrigger a1 s) := by
  unfold ceTrigger
  exact Foot.ite (foot_ceOverrun h (sub em rfl)) (foot_ceEnqueue (foot_setCe h (sub em rfl)) (sub em rfl))

theorem foot_execPwmStaleTimeout (h : Foot μ s₀ s) (em : 0x1041000000000000000000010000e00000000420 ||| μ = μ) : ∀ t, execPwmStaleTimeout s = .next t → Foot μ s₀ t := by
  intro t e
  unfold execPwmStaleTimeout at e
  injection e with e
  subst e
  exact foot_pwmStale h (sub em rfl)

theorem foot_ceTriggerAll {a1 a2} (h : Foot μ s₀ s) (em : 0x41000000000000000020010000e00000000420 ||| μ = μ) : Foot μ s₀ (ceTriggerAll a1 a2 s) := by
  unfold ceTriggerAll
  exact Foot.ite (foot_forEach (fun _ _ h1 => foot_ceTrigger h1 (sub em rfl)) h) h

theorem foot_ceWrite {a1 a2 a3 a4} (h : Foot μ s₀ s) (em : 0x41000000000000040020010008e00000000420 ||| μ = μ) : Foot μ s₀ (ceWrite a1 a2 a3 a4 s) := by
  unfold ceWrite
  extract_lets -merge -useContext +onlyGivenNames x1
  clear_value x1
  refine Foot.ite (foot_setCe h (sub em rfl)) ?_
  · extract_lets -merge -useContext +onlyGivenNames x2
    clear_value x2
    extract_lets -merge -useContext +onlyGivenNames s3
    have h3 : Foot μ s₀ s3 := foot_cePutBits h (sub em rfl)
    clear_value s3
    exact Foot.ite (foot_ceWord0Written h3 (sub em rfl)) (Foot.ite (foot_ceShowLoad h3 (sub em rfl)) (Foot.ite (foot_ceStepWritten h3 (sub em rfl)) h3))

theorem foot_ceBlockSample {a1 a2} (h : Foot μ s₀ s) (em : 0x41000000000000000020010000e00000000420 ||| μ = μ) : Foot μ s₀ (ceBlockSample a1 a2 s) := by
  unfold ceBlockSample
  exact Foot.ite (foot_ceTriggerAll (foot_setCe h (sub em rfl)) (sub em rfl)) h

/-! ### Machine/Packets.lean -/

theorem foot_deliverHeart {a1 a2 a3} (h : Foot μ s₀ s) (em : 0x2000 ||| μ = μ) : Foot μ s₀ (deliverHeart a1 a2 a3 s) := by
  unfold deliverHeart
  exact Foot.pkt h (bit em rfl)

theorem foot_deliver {a1 a2 a3 a4} (h : Foot μ s₀ s) (em : 0x2000 ||| μ = μ) : Foot μ s₀ (deliver a1 a2 a3 a4 s) := by
  unfold deliver
  exact Foot.pkt h (bit em rfl)

theorem foot_setWindow {a1 a2} (h : Foot μ s₀ s) (em : 0x2000 ||| μ = μ) : Foot μ s₀ (setWindow a1 a2 s) := by
  unfold setWindow
  exact Foot.pkt h (bit em rfl)

theorem foot_poolTakes {a1 a2} (h : Foot μ s₀ s) (em : 0x2000 ||| μ = μ) : Foot μ s₀ (poolTakes a1 a2 s) := by
  unfold poolTakes
  exact Foot.ite (Foot.pkt h (bit em rfl)) h

theorem foot_holdPartial {a1 a2 a3} (h : Foot μ s₀ s) (em : 0x80 ||| μ = μ) : Foot μ s₀ (holdPartial a1 a2 a3 s) := by
  unfold holdPartial
  exact foot_setPort h (sub em rfl)

theorem foot_clearPartial {a1 a2} (h : Foot μ s₀ s) (em : 0x80 ||| μ = μ) : Foot μ s₀ (clearPartial a1 a2 s) := by
  unfold clearPartial
  exact foot_setPort h (sub em rfl)

theorem foot_clearFlits {a1} (h : Foot μ s₀ s) (em : 0xc0 ||| μ = μ) : Foot μ s₀ (clearFlits a1 s) := by
  unfold clearFlits
  exact foot_setPort (foot_forEach (fun _ _ h1 => foot_setLane h1 (sub em rfl)) h) (sub em rfl)

theorem foot_heartMark {a1} (h : Foot μ s₀ s) (em : 0x30000000000080 ||| μ = μ) : Foot μ s₀ (heartMark a1 s) := by
  unfold heartMark
  exact foot_setFlag (foot_setPort h (sub em rfl)) (FldIn.ite (fun i hi => .inr ⟨20, bit em rfl, i, hi, rfl⟩) (fun i hi => .inr ⟨21, bit em rfl, i, hi, rfl⟩))

theorem foot_popFlit {a1} (h : Foot μ s₀ s) (em : 0xc0 ||| μ = μ) : Foot μ s₀ (popFlit a1 s) := by
  unfold popFlit
  exact foot_setPort (foot_setLane h (sub em rfl)) (sub em rfl)

theorem foot_dropPartial {a1 a2} (h : Foot μ s₀ s) (em : 0x40000000000000000000000000080 ||| μ = μ) : Foot μ s₀ (dropPartial a1 a2 s) := by
  unfold dropPartial
  split
  · exact h
  · exact foot_incFldAt (foot_clearPartial h (sub em rfl)) (fun i hi => .inr ⟨82, bit em rfl, i, hi, rfl⟩)

theorem foot_dropAllPartials {a1} (h : Foot μ s₀ s) (em : 0x40000000000000000000000000080 ||| μ = μ) : Foot μ s₀ (dropAllPartials a1 s) := by
  unfold dropAllPartials
  exact foot_forEach (fun _ _ h1 => foot_dropPartial h1 (sub em rfl)) h

theorem foot_dropFailed {a1 a2} (h : Foot μ s₀ s) (em : 0x40000000000000000000000000080 ||| μ = μ) : Foot μ s₀ (dropFailed a1 a2 s) := by
  unfold dropFailed
  exact Foot.ite (foot_dropPartial h (sub em rfl)) h

theorem foot_putFlits {a1 a2} (h : Foot μ s₀ s) (em : 0x800080 ||| μ = μ) : Foot μ s₀ (putFlits a1 a2 s) := by
  unfold putFlits
  exact foot_setPort (foot_emit h (sub em rfl)) (sub em rfl)

theorem foot_forwardTo {a2 a3} (h : Foot μ s₀ s) (em : 0x800080 ||| μ = μ) : Foot μ s₀ (forwardTo s a2 a3) := by
  unfold forwardTo
  exact Foot.ite (foot_putFlits h (sub em rfl)) h

theorem foot_popFlits {a1 a2} (h : Foot μ s₀ s) (em : 0xc0 ||| μ = μ) : Foot μ s₀ (popFlits a1 a2 s) := by
  unfold popFlits
  exact foot_forEach (fun _ _ h1 => foot_popFlit h1 (sub em rfl)) h

theorem foot_skipIdle {a1} (h : Foot μ s₀ s) (em : 0x8000c0 ||| μ = μ) : Foot μ s₀ (skipIdle a1 s) := by
  unfold skipIdle
  exact foot_forwardTo (foot_popFlits h (sub em rfl)) (sub em rfl)

theorem foot_deliverMessage {a1 a2} (h : Foot μ s₀ s) (em : 0x141000000038000000000010000e00000002020 ||| μ = μ) : Foot μ s₀ (deliverMessage a1 a2 s) := by
  unfold deliverMessage
  extract_lets -merge -useContext +onlyGivenNames x1
  refine Foot.ite (foot_incFld h (fun i hi => .inr ⟨120, bit em rfl, i, hi, rfl⟩)) ?_
  · refine Foot.ite (Foot.ite (foot_deliver h (sub em rfl)) h) ?_
    · split
      · exact foot_incFldAt h (fun i hi => .inr ⟨80, bit em rfl, i, hi, rfl⟩)
      · extract_lets -merge -useContext +onlyGivenNames x3
        clear_value x3
        extract_lets -merge -useContext +onlyGivenNames x4
        clear_value x4
        extract_lets -merge -useContext +onlyGivenNames s5
        have h5 : Foot μ s₀ s5 := foot_when (fun _ h5 => foot_raise h5 (sub em rfl)) h
        clear_value s5
        refine Foot.ite (Foot.ite (foot_deliver (foot_setWindow h5 (sub em rfl)) (sub em rfl)) (foot_setWindow h5 (sub em rfl))) ?_
        · extract_lets -merge -useContext +onlyGivenNames s6
          have h6 : Foot μ s₀ s6 := foot_setWindow h5 (sub em rfl)
          clear_value s6
          exact Foot.ite (foot_incFldAt h6 (fun i hi => .inr ⟨81, bit em rfl, i, hi, rfl⟩)) (foot_incFldAt h6 (fun i hi => .inr ⟨79, bit em rfl, i, hi, rfl⟩))

theorem foot_countOutcome {a1 a2} (h : Foot μ s₀ s) (em : 0x41000000002f00000000010000e00000000020 ||| μ = μ) : Foot μ s₀ (countOutcome a1 a2 s) := by
  unfold countOutcome
  split
  · exact foot_incFldAt h (fun i hi => .inr ⟨72, bit em rfl, i, hi, rfl⟩)
  · exact foot_raise (foot_incFldAt h (fun i hi => .inr ⟨73, bit em rfl, i, hi, rfl⟩)) (sub em rfl)
  · exact foot_raise (foot_incFldAt h (fun i hi => .inr ⟨74, bit em rfl, i, hi, rfl⟩)) (sub em rfl)
  · exact foot_incFldAt h (fun i hi => .inr ⟨75, bit em rfl, i, hi, rfl⟩)
  · exact foot_raise (foot_incFldAt h (fun i hi => .inr ⟨77, bit em rfl, i, hi, rfl⟩)) (sub em rfl)
  · exact h

theorem foot_sillage {a1 a2 a3} (h : Foot μ s₀ s) (em : 0x41000000038000000000010000e00000002020 ||| μ = μ) : Foot μ s₀ (sillage a1 a2 a3 s).2 := by
  unfold sillage
  refine Foot.iteSnd h ?_
  · extract_lets -merge -useContext +onlyGivenNames x1
    clear_value x1
    split
    · exact foot_incFldAt h (fun i hi => .inr ⟨80, bit em rfl, i, hi, rfl⟩)
    · split
      · extract_lets -merge -useContext +onlyGivenNames s4
        have h4 : Foot μ s₀ s4 := foot_setWindow h (sub em rfl)
        clear_value s4
        extract_lets -merge -useContext +onlyGivenNames s5
        have h5 : Foot μ s₀ s5 := foot_when (fun _ h5 => foot_raise h5 (sub em rfl)) h4
        clear_value s5
        extract_lets -merge -useContext +onlyGivenNames s6
        have h6 : Foot μ s₀ s6 := foot_when (fun _ h6 => foot_incFldAt h6 (fun i hi => .inr ⟨81, bit em rfl, i, hi, rfl⟩)) h5
        clear_value s6
        extract_lets -merge -useContext +onlyGivenNames s7
        have h7 : Foot μ s₀ s7 := foot_when (fun _ h7 => foot_incFldAt h7 (fun i hi => .inr ⟨79, bit em rfl, i, hi, rfl⟩)) h6
        clear_value s7
        exact h7

theorem foot_journalGap (h : Foot μ s₀ s) (em : 0xc441000000000000000000010004e00000200020 ||| μ = μ) : Foot μ s₀ (journalGap s) := by
  unfold journalGap
  refine Foot.ite h ?_
  · extract_lets -merge -useContext +onlyGivenNames x1
    clear_value x1
    extract_lets -merge -useContext +onlyGivenNames _ s2
    have h2 : Foot μ s₀ s2 := Foot.red h (bit em rfl)
    clear_value s2
    extract_lets -merge -useContext +onlyGivenNames s3
    have h3 : Foot μ s₀ s3 := foot_setFld (foot_setFlag h2 (fun i hi => .inr ⟨18, bit em rfl, i, hi, rfl⟩)) (fun i hi => .inr ⟨127, bit em rfl, i, hi, rfl⟩)
    clear_value s3
    extract_lets -merge -useContext +onlyGivenNames s4
    have h4 : Foot μ s₀ s4 := foot_setFld h3 (fun i hi => .inr ⟨126, bit em rfl, i, hi, rfl⟩)
    clear_value s4
    exact foot_raise (foot_incFld h4 (fun i hi => .inr ⟨122, bit em rfl, i, hi, rfl⟩)) (sub em rfl)

theorem foot_finishMessage {a1 a2 a3} (h : Foot μ s₀ s) (em : 0x141000000038000000000010000e000000020a0 ||| μ = μ) : Foot μ s₀ (finishMessage a1 a2 a3 s) := by
  unfold finishMessage
  exact Foot.ite (foot_deliverMessage (foot_clearPartial h (sub em rfl)) (sub em rfl)) (foot_holdPartial h (sub em rfl))

theorem foot_loseFraming {a1 a2} (h : Foot μ s₀ s) (em : 0x41000000044000000000010000e000008000e0 ||| μ = μ) : Foot μ s₀ (loseFraming a1 a2 s) := by
  unfold loseFraming
  extract_lets -merge -useContext +onlyGivenNames x1
  clear_value x1
  extract_lets -merge -useContext +onlyGivenNames s2
  have h2 : Foot μ s₀ s2 := foot_forwardTo h (sub em rfl)
  clear_value s2
  extract_lets -merge -useContext +onlyGivenNames s3
  have h3 : Foot μ s₀ s3 := foot_dropAllPartials (foot_clearFlits h2 (sub em rfl)) (sub em rfl)
  clear_value s3
  extract_lets -merge -useContext +onlyGivenNames s4
  have h4 : Foot μ s₀ s4 := foot_setPort h3 (sub em rfl)
  clear_value s4
  exact foot_raise (foot_incFldAt h4 (fun i hi => .inr ⟨78, bit em rfl, i, hi, rfl⟩)) (sub em rfl)

theorem foot_takePiece {a1 a2} (h : Foot μ s₀ s) (em : 0x141000000078000000000010000e000000020a0 ||| μ = μ) : Foot μ s₀ (takePiece a1 a2 s) := by
  unfold takePiece
  extract_lets -merge -useContext +onlyGivenNames x1
  clear_value x1
  extract_lets -merge -useContext +onlyGivenNames x2
  clear_value x2
  extract_lets -merge -useContext +onlyGivenNames x3
  clear_value x3
  extract_lets -merge -useContext +onlyGivenNames x4
  clear_value x4
  extract_lets -merge -useContext +onlyGivenNames x5
  clear_value x5
  extract_lets -merge -useContext +onlyGivenNames x6
  clear_value x6
  extract_lets -merge -useContext +onlyGivenNames x7
  split
  · exact Foot.ite (foot_finishMessage h (sub em rfl)) (Foot.ite (foot_finishMessage (foot_dropPartial h (sub em rfl)) (sub em rfl)) (foot_dropPartial h (sub em rfl)))
  · exact Foot.ite (foot_finishMessage h (sub em rfl)) h

theorem foot_journalFailed {a1 a2} (h : Foot μ s₀ s) (em : 0xc441000000000000000000010004e00000200020 ||| μ = μ) : Foot μ s₀ (journalFailed a1 a2 s) := by
  unfold journalFailed
  exact Foot.ite (foot_journalGap h (sub em rfl)) h

theorem foot_takeVoid {a1} (h : Foot μ s₀ s) (em : 0x41000000044000000000010000e000008000e0 ||| μ = μ) : Foot μ s₀ (takeVoid a1 s) := by
  unfold takeVoid
  extract_lets -merge -useContext +onlyGivenNames s1
  have h1 : Foot μ s₀ s1 := foot_when (fun _ h1 => foot_skipIdle h1 (sub em rfl)) h
  clear_value s1
  split
  · exact h1
  · exact Foot.ite (foot_loseFraming h1 (sub em rfl)) h1

theorem foot_cutOpen {a1} (h : Foot μ s₀ s) (em : 0x41000000047f00000000010000e000008020e0 ||| μ = μ) : Foot μ s₀ (cutOpen a1 s) := by
  unfold cutOpen
  split
  · exact h
  · refine Foot.ite (foot_clearFlits h (sub em rfl)) ?_
    · refine Foot.ite (foot_clearFlits (foot_loseFraming h (sub em rfl)) (sub em rfl)) ?_
      · extract_lets -merge -useContext +onlyGivenNames x2
        clear_value x2
        extract_lets -merge -useContext +onlyGivenNames x3
        clear_value x3
        extract_lets -merge -useContext +onlyGivenNames x4
        clear_value x4
        extract_lets -merge -useContext +onlyGivenNames x5
        clear_value x5
        extract_lets -merge -useContext +onlyGivenNames x6
        clear_value x6
        extract_lets -merge -useContext +onlyGivenNames x7
        clear_value x7
        extract_lets -merge -useContext +onlyGivenNames s8
        have h8 : Foot μ s₀ s8 := foot_poolTakes (foot_forwardTo (foot_clearFlits h (sub em rfl)) (sub em rfl)) (sub em rfl)
        clear_value s8
        extract_lets -merge -useContext +onlyGivenNames s9
        have h9 : Foot μ s₀ s9 := Foot.ite (foot_countOutcome h8 (sub em rfl)) (foot_raise (foot_incFldAt h8 (fun i hi => .inr ⟨76, bit em rfl, i, hi, rfl⟩)) (sub em rfl))
        clear_value s9
        exact foot_dropFailed h9 (sub em rfl)

theorem foot_consumePacket {a1 a2 a3} (h : Foot μ s₀ s) (em : 0x141000000078000000000010030e000000020a0 ||| μ = μ) : Foot μ s₀ (consumePacket a1 a2 a3 s) := by
  unfold consumePacket
  extract_lets -merge -useContext +onlyGivenNames x1
  clear_value x1
  refine Foot.ite h ?_
  · split
    · split
      · exact Foot.ite (foot_deliver (Foot.ofSnd (foot_sillage h (sub em rfl)) ‹_›) (sub em rfl)) (Foot.ofSnd (foot_sillage h (sub em rfl)) ‹_›)
    · split
      · extract_lets -merge -useContext +onlyGivenNames s4
        have h4 : Foot μ s₀ s4 := foot_when (fun _ h4 => foot_heartMark h4 (sub em rfl)) (Foot.ofSnd (foot_sillage h (sub em rfl)) ‹_›)
        clear_value s4
        exact Foot.ite (foot_deliverHeart h4 (sub em rfl)) h4
    · exact foot_takePiece h (sub em rfl)

theorem foot_markerBoundary {a1} (h : Foot μ s₀ s) (em : 0x41000000044000000000010000e000008000e0 ||| μ = μ) : Foot μ s₀ (markerBoundary a1 s) := by
  unfold markerBoundary
  extract_lets -merge -useContext +onlyGivenNames s1
  have h1 : Foot μ s₀ s1 := foot_when (fun _ h1 => foot_skipIdle h1 (sub em rfl)) h
  clear_value s1
  extract_lets -merge -useContext +onlyGivenNames s2
  have h2 : Foot μ s₀ s2 := foot_when (fun _ h2 => foot_loseFraming h2 (sub em rfl)) h1
  clear_value s2
  exact foot_setPort (foot_clearFlits h2 (sub em rfl)) (sub em rfl)

theorem foot_execVoidFlitReceive {a1} (h : Foot μ s₀ s) (em : 0x41000000044000000000010000e000008000e0 ||| μ = μ) : ∀ t, execVoidFlitReceive a1 s = .next t → Foot μ s₀ t := by
  intro t e
  unfold execVoidFlitReceive at e
  injection e with e
  subst e
  exact foot_whenOn (fun _ h1 => foot_takeVoid h1 (sub em rfl)) h

theorem foot_endPacket {a1} (h : Foot μ s₀ s) (em : 0xc54100000007ef00000000010034e00000a020e0 ||| μ = μ) : Foot μ s₀ (endPacket a1 s) := by
  unfold endPacket
  extract_lets -merge -useContext +onlyGivenNames s1
  have h1 : Foot μ s₀ s1 := foot_when (fun _ h1 => foot_skipIdle h1 (sub em rfl)) h
  clear_value s1
  split
  · exact h1
  · refine Foot.ite h1 ?_
    · refine Foot.ite (foot_loseFraming h1 (sub em rfl)) ?_
      · extract_lets -merge -useContext +onlyGivenNames x3
        clear_value x3
        extract_lets -merge -useContext +onlyGivenNames x4
        clear_value x4
        extract_lets -merge -useContext +onlyGivenNames s5
        have h5 : Foot μ s₀ s5 := foot_poolTakes h1 (sub em rfl)
        clear_value s5
        refine Foot.ite h5 ?_
        · extract_lets -merge -useContext +onlyGivenNames x6
          clear_value x6
          split
          · extract_lets -merge -useContext +onlyGivenNames s8
            have h8 : Foot μ s₀ s8 := foot_poolTakes h5 (sub em rfl)
            clear_value s8
            exact foot_loseFraming (foot_popFlits (foot_forwardTo h8 (sub em rfl)) (sub em rfl)) (sub em rfl)
          · extract_lets -merge -useContext +onlyGivenNames s8
            have h8 : Foot μ s₀ s8 := foot_popFlits h5 (sub em rfl)
            clear_value s8
            extract_lets -merge -useContext +onlyGivenNames s9
            have h9 : Foot μ s₀ s9 := Foot.ite h8 (foot_forwardTo h8 (sub em rfl))
            clear_value s9
            extract_lets -merge -useContext +onlyGivenNames s10
            have h10 : Foot μ s₀ s10 := foot_when (fun _ h10 => foot_setPort h10 (sub em rfl)) h9
            clear_value s10
            exact foot_consumePacket (foot_countOutcome h10 (sub em rfl)) (sub em rfl)
          · extract_lets -merge -useContext +onlyGivenNames s8
            have h8 : Foot μ s₀ s8 := foot_poolTakes (foot_forwardTo (foot_popFlits h5 (sub em rfl)) (sub em rfl)) (sub em rfl)
            clear_value s8
            extract_lets -merge -useContext +onlyGivenNames s9
            have h9 : Foot μ s₀ s9 := foot_journalFailed (foot_countOutcome h8 (sub em rfl)) (sub em rfl)
            clear_value s9
            exact foot_dropFailed h9 (sub em rfl)

theorem foot_cutPacket {a1} (h : Foot μ s₀ s) (em : 0xc54100000007ff00000000010034e00000a020e0 ||| μ = μ) : Foot μ s₀ (cutPacket a1 s) := by
  unfold cutPacket
  extract_lets -merge -useContext +onlyGivenNames s1
  have h1 : Foot μ s₀ s1 := foot_forEach (fun _ _ h1 => foot_endPacket h1 (sub em rfl)) h
  clear_value s1
  exact foot_cutOpen (foot_when (fun _ h2 => foot_skipIdle h2 (sub em rfl)) h1) (sub em rfl)

end Sys2Proof.Machine
end

