-- ==== Sys2Proof/Laws/Foot2.lean ====
section
/-! SUPPORT. The relation Foot holds of each operation of Machine/: Slots, Enumerate, Coushlink. -/

namespace Sys2Proof.Machine

variable {μ : Nat} {s₀ s t : State}

/-! ### Machine/Slots.lean -/

theorem foot_sendTop {a1 a2 a3 a4 a5 a6 a7} (h : Foot μ s₀ s) (em : 0x80 ||| μ = μ) : Foot μ s₀ (sendTop a1 a2 a3 a4 a5 a6 a7 s) := by
  unfold sendTop
  exact foot_setPort h (sub em rfl)

theorem foot_setTx {a1 a2} (h : Foot μ s₀ s) (em : 0x80 ||| μ = μ) : Foot μ s₀ (setTx a1 a2 s) := by
  unfold setTx
  exact foot_setPort h (sub em rfl)

theorem foot_startHeart {a1} (h : Foot μ s₀ s) (em : 0x80 ||| μ = μ) : Foot μ s₀ (startHeart a1 s) := by
  unfold startHeart
  split
  · exact foot_setTx h (sub em rfl)
  · exact foot_setTx h (sub em rfl)
  · exact h

theorem foot_freshSeq (h : Foot μ s₀ s) (em : 0x2000 ||| μ = μ) : Foot μ s₀ (freshSeq s).2 := by
  unfold freshSeq
  exact Foot.pkt h (bit em rfl)

theorem foot_stampTop {a1 a2 a3} (h : Foot μ s₀ s) (em : 0x80 ||| μ = μ) : Foot μ s₀ (stampTop a1 a2 a3 s).2 := by
  unfold stampTop
  extract_lets -merge -useContext +onlyGivenNames x1
  clear_value x1
  split
  · exact h
  · exact foot_setPort h (sub em rfl)
  · exact h
  · exact h

theorem foot_replySent {a1} (h : Foot μ s₀ s) (em : 0x1000 ||| μ = μ) : Foot μ s₀ (replySent a1 s) := by
  unfold replySent
  exact Foot.ite h (Foot.cmd h (bit em rfl))

theorem foot_sendTopOwn {a1 a2 a3 a4 a5} (h : Foot μ s₀ s) (em : 0x2080 ||| μ = μ) : Foot μ s₀ (sendTopOwn a1 a2 a3 a4 a5 s) := by
  unfold sendTopOwn
  split
  · exact foot_sendTop (Foot.ofSnd (foot_freshSeq h (sub em rfl)) ‹_›) (sub em rfl)

theorem foot_sendBase {a1 a2 a3 a4 a5 a6 a7} (h : Foot μ s₀ s) (em : 0x80 ||| μ = μ) : Foot μ s₀ (sendBase a1 a2 a3 a4 a5 a6 a7 s) := by
  unfold sendBase
  exact foot_setPort h (sub em rfl)

theorem foot_sendBaseOwn {a1 a2 a3 a4 a5} (h : Foot μ s₀ s) (em : 0x2080 ||| μ = μ) : Foot μ s₀ (sendBaseOwn a1 a2 a3 a4 a5 s) := by
  unfold sendBaseOwn
  split
  · exact foot_sendBase (Foot.ofSnd (foot_freshSeq h (sub em rfl)) ‹_›) (sub em rfl)

theorem foot_startBase {a1} (h : Foot μ s₀ s) (em : 0x800000000000000000080 ||| μ = μ) : Foot μ s₀ (startBase a1 s) := by
  unfold startBase
  split
  · exact foot_setTx h (sub em rfl)
  · extract_lets -merge -useContext +onlyGivenNames x2
    clear_value x2
    extract_lets -merge -useContext +onlyGivenNames s3
    have h3 : Foot μ s₀ s3 := foot_when (fun _ h3 => foot_setFldAt h3 (fun i hi => .inr ⟨51, bit em rfl, i, hi, rfl⟩)) h
    clear_value s3
    exact foot_setTx h3 (sub em rfl)
  · exact h

theorem foot_endPiece {a1 a2 a3 a4 a5} (h : Foot μ s₀ s) (em : 0x800000000000000801080 ||| μ = μ) : Foot μ s₀ (endPiece a1 a2 a3 a4 a5 s) := by
  unfold endPiece
  extract_lets -merge -useContext +onlyGivenNames s1
  have h1 : Foot μ s₀ s1 := foot_putFlits h (sub em rfl)
  clear_value s1
  extract_lets -merge -useContext +onlyGivenNames x2
  clear_value x2
  extract_lets -merge -useContext +onlyGivenNames s3
  have h3 : Foot μ s₀ s3 := foot_when (fun _ h3 => foot_incFldAt h3 (fun i hi => .inr ⟨51, bit em rfl, i, hi, rfl⟩)) h1
  clear_value s3
  extract_lets -merge -useContext +onlyGivenNames s4
  have h4 : Foot μ s₀ s4 := foot_setTx h3 (sub em rfl)
  clear_value s4
  exact Foot.ite (foot_replySent h4 (sub em rfl)) h4

theorem foot_startTop {a1} (h : Foot μ s₀ s) (em : 0x800080 ||| μ = μ) : Foot μ s₀ (startTop a1 s) := by
  unfold startTop
  split
  · exact h
  · split
    · exact foot_putFlits (foot_setTx (Foot.ofSnd (foot_stampTop h (sub em rfl)) ‹_›) (sub em rfl)) (sub em rfl)

theorem foot_insertRun {f p c run : Nat} (h : Foot μ s₀ s) (em : 0x800000000000000801080 ||| μ = μ) : Foot μ s₀ (insertRun f p c run s) := by
  induction f generalizing c run s with
  | zero => exact h
  | succ f ih =>
    unfold insertRun
    dsimp only
    split
    · split
      · exact ih (foot_putFlits (foot_setTx (foot_stampTop h (sub em rfl)) (sub em rfl)) (sub em rfl))
      · exact h
    · split
      · exact h
      · split
        · exact h
        · exact ih (foot_endPiece (Foot.ite h (foot_setTx h (sub em rfl))) (sub em rfl))

theorem foot_pieceFlit {a1 a2 a3} (h : Foot μ s₀ s) (em : 0x800000000000000801080 ||| μ = μ) : Foot μ s₀ (pieceFlit a1 a2 a3 s) := by
  unfold pieceFlit
  split
  · exact foot_endPiece h (sub em rfl)
  · exact foot_setTx h (sub em rfl)

theorem foot_fillSlot {a1} (h : Foot μ s₀ s) (em : 0x800000000000000801080 ||| μ = μ) : Foot μ s₀ (fillSlot a1 s) := by
  unfold fillSlot
  extract_lets -merge -useContext +onlyGivenNames x1
  clear_value x1
  extract_lets -merge -useContext +onlyGivenNames x2
  clear_value x2
  extract_lets -merge -useContext +onlyGivenNames x3
  clear_value x3
  extract_lets -merge -useContext +onlyGivenNames x4
  clear_value x4
  extract_lets -merge -useContext +onlyGivenNames x5
  clear_value x5
  extract_lets -merge -useContext +onlyGivenNames x6
  clear_value x6
  extract_lets -merge -useContext +onlyGivenNames x7
  clear_value x7
  extract_lets -merge -useContext +onlyGivenNames x8
  clear_value x8
  extract_lets -merge -useContext +onlyGivenNames x9
  clear_value x9
  extract_lets -merge -useContext +onlyGivenNames s10
  have h10 : Foot μ s₀ s10 := foot_when (fun _ h10 => foot_setTx (foot_incFldAt h10 (fun i hi => .inr ⟨51, bit em rfl, i, hi, rfl⟩)) (sub em rfl)) h
  clear_value s10
  extract_lets -merge -useContext +onlyGivenNames _ s11
  have h11 : Foot μ s₀ s11 := by
    refine Foot.ite (foot_putFlits h10 (sub em rfl)) ?_
    · refine Foot.ite (foot_putFlits (foot_setTx h10 (sub em rfl)) (sub em rfl)) ?_
      · split
        · exact Foot.ite (foot_pieceFlit h10 (sub em rfl)) (Foot.ite (foot_setTx (foot_endPiece h10 (sub em rfl)) (sub em rfl)) (Foot.ite (foot_endPiece h10 (sub em rfl)) (Foot.ite (foot_endPiece h10 (sub em rfl)) (foot_pieceFlit h10 (sub em rfl)))))
        · exact Foot.ite (foot_startTop h10 (sub em rfl)) (Foot.ite (foot_startHeart h10 (sub em rfl)) (Foot.ite (foot_startBase h10 (sub em rfl)) (foot_putFlits h10 (sub em rfl))))
  clear_value s11
  exact foot_setTx h11 (sub em rfl)

/-! ### Machine/Enumerate.lean -/

theorem foot_setRing {a1 a2} (h : Foot μ s₀ s) (em : 0x800 ||| μ = μ) : Foot μ s₀ (setRing a1 a2 s) := by
  unfold setRing
  exact Foot.enumr h (bit em rfl)

theorem foot_tileRound {a1} (h : Foot μ s₀ s) (em : 0x100000000800 ||| μ = μ) : Foot μ s₀ (tileRound a1 s) := by
  unfold tileRound
  extract_lets -merge -useContext +onlyGivenNames x1
  clear_value x1
  extract_lets -merge -useContext +onlyGivenNames _ s2
  have h2 : Foot μ s₀ s2 := Foot.ite h (Foot.enumr h (bit em rfl))
  clear_value s2
  extract_lets -merge -useContext +onlyGivenNames x3
  clear_value x3
  extract_lets -merge -useContext +onlyGivenNames _ s4
  have h4 : Foot μ s₀ s4 := Foot.enumr h2 (bit em rfl)
  clear_value s4
  extract_lets -merge -useContext +onlyGivenNames s5
  have h5 : Foot μ s₀ s5 := foot_setFld h4 (fun i hi => .inr ⟨12, bit em rfl, i, hi, rfl⟩)
  clear_value s5
  extract_lets -merge -useContext +onlyGivenNames s6
  have h6 : Foot μ s₀ s6 := foot_setFld h5 (fun i hi => .inr ⟨12, bit em rfl, i, hi, rfl⟩)
  clear_value s6
  exact foot_setFld h6 (fun i hi => .inr ⟨12, bit em rfl, i, hi, rfl⟩)

theorem foot_takeInbox {want : Delivered → Bool} (h : Foot μ s₀ s) (em : 0x2000 ||| μ = μ) : ∀ r, takeInbox want s = some r → Foot μ s₀ r.2 := by
  intro r e
  unfold takeInbox at e
  split at e
  · cases e
  · cases e
    exact Foot.pkt h (bit em rfl)

theorem foot_sendEnum {a1 a2 a3} (h : Foot μ s₀ s) (em : 0x2080 ||| μ = μ) : Foot μ s₀ (sendEnum a1 a2 a3 s) := by
  unfold sendEnum
  exact Foot.ite (foot_sendTopOwn h (sub em rfl)) h

theorem foot_runRound {a1 a2 a3} (h : Foot μ s₀ s) (em : 0x80000000000000000002880 ||| μ = μ) : Foot μ s₀ (runRound a1 a2 a3 s) := by
  unfold runRound
  extract_lets -merge -useContext +onlyGivenNames x1
  clear_value x1
  extract_lets -merge -useContext +onlyGivenNames s2
  have h2 : Foot μ s₀ s2 := foot_setInst h (fun i hi => .inr ⟨59, bit em rfl, i, hi, rfl⟩)
  clear_value s2
  extract_lets -merge -useContext +onlyGivenNames s3
  have h3 : Foot μ s₀ s3 := foot_setRing h2 (sub em rfl)
  clear_value s3
  exact foot_sendEnum h3 (sub em rfl)

theorem foot_enumDoneLate {a1} (h : Foot μ s₀ s) (em : 0x80000000000000000000000 ||| μ = μ) : Foot μ s₀ (enumDoneLate a1 s) := by
  unfold enumDoneLate
  exact Foot.ite (foot_setFlagAt (foot_setFlagAt h (fun i hi => .inr ⟨59, bit em rfl, i, hi, rfl⟩)) (fun i hi => .inr ⟨59, bit em rfl, i, hi, rfl⟩)) h

theorem foot_execEnumDoneTimeout {a1} (h : Foot μ s₀ s) (em : 0x80000000000000000000000 ||| μ = μ) : ∀ t, execEnumDoneTimeout a1 s = .next t → Foot μ s₀ t := by
  intro t e
  unfold execEnumDoneTimeout at e
  injection e with e
  subst e
  exact foot_whenOn (fun _ h1 => foot_enumDoneLate h1 (sub em rfl)) h

theorem foot_sendLen {a1 a2 a3} (h : Foot μ s₀ s) (em : 0x2880 ||| μ = μ) : Foot μ s₀ (sendLen a1 a2 a3 s) := by
  unfold sendLen
  extract_lets -merge -useContext +onlyGivenNames x1
  clear_value x1
  extract_lets -merge -useContext +onlyGivenNames s2
  have h2 : Foot μ s₀ s2 := foot_setRing h (sub em rfl)
  clear_value s2
  exact foot_sendEnum h2 (sub em rfl)

theorem foot_startRound {a1 a2} (h : Foot μ s₀ s) (em : 0x80000000000000000002880 ||| μ = μ) : Foot μ s₀ (startRound a1 a2 s).1 := by
  unfold startRound
  exact foot_runRound (Foot.enumr h (bit em rfl)) (sub em rfl)

theorem foot_enumTrigger {a1 a2} (h : Foot μ s₀ s) (em : 0x80000000000000000002880 ||| μ = μ) : Foot μ s₀ (enumTrigger a1 a2 s) := by
  unfold enumTrigger
  refine Foot.ite h ?_
  · refine Foot.ite ?_ (foot_startRound h (sub em rfl))
    · refine Foot.ite ?_ (foot_sendEnum h (sub em rfl))
      · split
        · exact foot_sendEnum (Foot.ofFst (foot_startRound h (sub em rfl)) ‹_›) (sub em rfl)

theorem foot_enumCountTile {a1} (h : Foot μ s₀ s) (em : 0x41000000000000000000010000f000008028a0 ||| μ = μ) : Foot μ s₀ (enumCountTile a1 s) := by
  unfold enumCountTile
  split
  · exact h
  · extract_lets -merge -useContext +onlyGivenNames s2
    have h2 : Foot μ s₀ s2 := foot_tileRound (Foot.ofSome (foot_takeInbox h (sub em rfl)) ‹_›) (sub em rfl)
    clear_value s2
    extract_lets -merge -useContext +onlyGivenNames x3
    clear_value x3
    extract_lets -merge -useContext +onlyGivenNames x4
    clear_value x4
    extract_lets -merge -useContext +onlyGivenNames x5
    clear_value x5
    extract_lets -merge -useContext +onlyGivenNames s6
    have h6 : Foot μ s₀ s6 := Foot.ite h2 (foot_forwardTo h2 (sub em rfl))
    clear_value s6
    extract_lets -merge -useContext +onlyGivenNames x7
    clear_value x7
    refine Foot.ite (Foot.enumr h6 (bit em rfl)) ?_
    · extract_lets -merge -useContext +onlyGivenNames _ s8
      have h8 : Foot μ s₀ s8 := Foot.enumr h6 (bit em rfl)
      clear_value s8
      exact foot_when (fun _ h9 => foot_raise h9 (sub em rfl)) h8

theorem foot_enumDecide (h : Foot μ s₀ s) (em : 0x2041000000000000000000010000e00000000820 ||| μ = μ) : Foot μ s₀ (enumDecide s) := by
  unfold enumDecide
  extract_lets -merge -useContext +onlyGivenNames x1
  clear_value x1
  split
  · extract_lets -merge -useContext +onlyGivenNames x3
    clear_value x3
    extract_lets -merge -useContext +onlyGivenNames s4
    have h4 : Foot μ s₀ s4 := Foot.ite h (foot_setFlag (foot_setFld h (fun i hi => .inr ⟨125, bit em rfl, i, hi, rfl⟩)) (fun i hi => .inr ⟨125, bit em rfl, i, hi, rfl⟩))
    clear_value s4
    extract_lets -merge -useContext +onlyGivenNames s5
    have h5 : Foot μ s₀ s5 := foot_setFlag h4 (fun i hi => .inr ⟨125, bit em rfl, i, hi, rfl⟩)
    clear_value s5
    extract_lets -merge -useContext +onlyGivenNames x6
    clear_value x6
    extract_lets -merge -useContext +onlyGivenNames x7
    clear_value x7
    extract_lets -merge -useContext +onlyGivenNames x8
    clear_value x8
    extract_lets -merge -useContext +onlyGivenNames s9
    have h9 : Foot μ s₀ s9 := foot_setFlag h5 (fun i hi => .inr ⟨125, bit em rfl, i, hi, rfl⟩)
    clear_value s9
    extract_lets -merge -useContext +onlyGivenNames s10
    have h10 : Foot μ s₀ s10 := foot_setFld (foot_setFlag h9 (fun i hi => .inr ⟨125, bit em rfl, i, hi, rfl⟩)) (fun i hi => .inr ⟨125, bit em rfl, i, hi, rfl⟩)
    clear_value s10
    extract_lets -merge -useContext +onlyGivenNames _ s11
    have h11 : Foot μ s₀ s11 := Foot.ite (foot_raise (Foot.enumr h10 (bit em rfl)) (sub em rfl)) h10
    clear_value s11
    exact foot_syncDry h11 (sub em rfl)

theorem foot_execEnumCcwTile (h : Foot μ s₀ s) (em : 0x41000000000000000000010000f000008028a0 ||| μ = μ) : ∀ t, execEnumCcwTile s = .next t → Foot μ s₀ t := by
  intro t e
  unfold execEnumCcwTile at e
  injection e with e
  subst e
  exact Foot.ite (foot_enumCountTile h (sub em rfl)) h

theorem foot_execEnumCwTile (h : Foot μ s₀ s) (em : 0x41000000000000000000010000f000008028a0 ||| μ = μ) : ∀ t, execEnumCwTile s = .next t → Foot μ s₀ t := by
  intro t e
  unfold execEnumCwTile at e
  injection e with e
  subst e
  exact Foot.ite (foot_enumCountTile h (sub em rfl)) h

theorem foot_enumTie (h : Foot μ s₀ s) (em : 0x80000000000000000002880 ||| μ = μ) : Foot μ s₀ (enumTie s) := by
  unfold enumTie
  split
  · exact h
  · exact Foot.ite (Foot.ofSome (foot_takeInbox h (sub em rfl)) ‹_›) (Foot.ite (Foot.ite (foot_enumTrigger (Foot.ofSome (foot_takeInbox h (sub em rfl)) ‹_›) (sub em rfl)) (Foot.ofSome (foot_takeInbox h (sub em rfl)) ‹_›)) (foot_runRound (Foot.ofSome (foot_takeInbox h (sub em rfl)) ‹_›) (sub em rfl)))

theorem foot_finishRound {a1} (h : Foot μ s₀ s) (em : 0x41000000000000080000010000e00000000020 ||| μ = μ) : Foot μ s₀ (finishRound a1 s) := by
  unfold finishRound
  split
  · extract_lets -merge -useContext +onlyGivenNames s2
    have h2 : Foot μ s₀ s2 := foot_setFlagAt (foot_setFlagAt h (fun i hi => .inr ⟨59, bit em rfl, i, hi, rfl⟩)) (fun i hi => .inr ⟨59, bit em rfl, i, hi, rfl⟩)
    clear_value s2
    exact Foot.ite (foot_raise (foot_setFlagAt h2 (fun i hi => .inr ⟨59, bit em rfl, i, hi, rfl⟩)) (sub em rfl)) h2
  · exact h

theorem foot_enumCountLate {a1} (h : Foot μ s₀ s) (em : 0x41000000000000080000010000e000000028a0 ||| μ = μ) : Foot μ s₀ (enumCountLate a1 s) := by
  unfold enumCountLate
  refine Foot.ite ?_ h
  · extract_lets -merge -useContext +onlyGivenNames s1
    have h1 : Foot μ s₀ s1 := foot_sendLen h (sub em rfl)
    clear_value s1
    exact foot_finishRound (foot_raise (foot_setFlagAt h1 (fun i hi => .inr ⟨59, bit em rfl, i, hi, rfl⟩)) (sub em rfl)) (sub em rfl)

theorem foot_enumLenAtTile (h : Foot μ s₀ s) (em : 0x2041000000000000000000010000f00000002820 ||| μ = μ) : Foot μ s₀ (enumLenAtTile s) := by
  unfold enumLenAtTile
  split
  · exact h
  · extract_lets -merge -useContext +onlyGivenNames s2
    have h2 : Foot μ s₀ s2 := foot_tileRound (Foot.ofSome (foot_takeInbox h (sub em rfl)) ‹_›) (sub em rfl)
    clear_value s2
    extract_lets -merge -useContext +onlyGivenNames x3
    clear_value x3
    extract_lets -merge -useContext +onlyGivenNames x4
    clear_value x4
    extract_lets -merge -useContext +onlyGivenNames x5
    clear_value x5
    extract_lets -merge -useContext +onlyGivenNames _ s6
    have h6 : Foot μ s₀ s6 := Foot.enumr h2 (bit em rfl)
    clear_value s6
    exact foot_enumDecide (foot_setFld h6 (fun i hi => .inr ⟨125, bit em rfl, i, hi, rfl⟩)) (sub em rfl)

theorem foot_enumLenAtSender (h : Foot μ s₀ s) (em : 0x41000000000000080000010000e00000002820 ||| μ = μ) : Foot μ s₀ (enumLenAtSender s) := by
  unfold enumLenAtSender
  split
  · exact h
  · extract_lets -merge -useContext +onlyGivenNames x2
    clear_value x2
    refine Foot.ite (Foot.ofSome (foot_takeInbox h (sub em rfl)) ‹_›) ?_
    · extract_lets -merge -useContext +onlyGivenNames s3
      have h3 : Foot μ s₀ s3 := foot_when (fun _ h3 => foot_setFlagAt h3 (fun i hi => .inr ⟨59, bit em rfl, i, hi, rfl⟩)) (Foot.ofSome (foot_takeInbox h (sub em rfl)) ‹_›)
      clear_value s3
      exact foot_finishRound (foot_setRing h3 (sub em rfl)) (sub em rfl)

theorem foot_enumCountAtSender (h : Foot μ s₀ s) (em : 0x41000000000000080000010000e000000028a0 ||| μ = μ) : Foot μ s₀ (enumCountAtSender s) := by
  unfold enumCountAtSender
  split
  · exact h
  · extract_lets -merge -useContext +onlyGivenNames x2
    clear_value x2
    refine Foot.ite (Foot.ofSome (foot_takeInbox h (sub em rfl)) ‹_›) ?_
    · extract_lets -merge -useContext +onlyGivenNames x3
      clear_value x3
      extract_lets -merge -useContext +onlyGivenNames x4
      clear_value x4
      extract_lets -merge -useContext +onlyGivenNames s5
      have h5 : Foot μ s₀ s5 := foot_setFldAt (Foot.ofSome (foot_takeInbox h (sub em rfl)) ‹_›) (fun i hi => .inr ⟨59, bit em rfl, i, hi, rfl⟩)
      clear_value s5
      extract_lets -merge -useContext +onlyGivenNames s6
      have h6 : Foot μ s₀ s6 := foot_setRing h5 (sub em rfl)
      clear_value s6
      extract_lets -merge -useContext +onlyGivenNames s7
      have h7 : Foot μ s₀ s7 := foot_when (fun _ h7 => foot_setFlagAt h7 (fun i hi => .inr ⟨59, bit em rfl, i, hi, rfl⟩)) h6
      clear_value s7
      extract_lets -merge -useContext +onlyGivenNames s8
      have h8 : Foot μ s₀ s8 := foot_when (fun _ h8 => foot_raise (foot_setFlagAt h8 (fun i hi => .inr ⟨59, bit em rfl, i, hi, rfl⟩)) (sub em rfl)) h7
      clear_value s8
      extract_lets -merge -useContext +onlyGivenNames s9
      have h9 : Foot μ s₀ s9 := Foot.ite (foot_sendLen h8 (sub em rfl)) h8
      clear_value s9
      exact foot_finishRound h9 (sub em rfl)

theorem foot_execEnumTieReceive (h : Foot μ s₀ s) (em : 0x80000000000000000002880 ||| μ = μ) : ∀ t, execEnumTieReceive s = .next t → Foot μ s₀ t := by
  intro t e
  unfold execEnumTieReceive at e
  injection e with e
  subst e
  exact Foot.ite (foot_enumTie h (sub em rfl)) h

theorem foot_execEnumLenSender (h : Foot μ s₀ s) (em : 0x41000000000000080000010000e00000002820 ||| μ = μ) : ∀ t, execEnumLenSender s = .next t → Foot μ s₀ t := by
  intro t e
  unfold execEnumLenSender at e
  injection e with e
  subst e
  exact Foot.ite (foot_enumLenAtSender h (sub em rfl)) h

theorem foot_execEnumCountSender (h : Foot μ s₀ s) (em : 0x41000000000000080000010000e000000028a0 ||| μ = μ) : ∀ t, execEnumCountSender s = .next t → Foot μ s₀ t := by
  intro t e
  unfold execEnumCountSender at e
  injection e with e
  subst e
  exact Foot.ite (foot_enumCountAtSender h (sub em rfl)) h

theorem foot_execEnumCountTimeout {a1} (h : Foot μ s₀ s) (em : 0x41000000000000080000010000e000000028a0 ||| μ = μ) : ∀ t, execEnumCountTimeout a1 s = .next t → Foot μ s₀ t := by
  intro t e
  unfold execEnumCountTimeout at e
  injection e with e
  subst e
  exact foot_whenOn (fun _ h1 => foot_enumCountLate h1 (sub em rfl)) h

theorem foot_execEnumLenTile (h : Foot μ s₀ s) (em : 0x2041000000000000000000010000f00000002820 ||| μ = μ) : ∀ t, execEnumLenTile s = .next t → Foot μ s₀ t := by
  intro t e
  unfold execEnumLenTile at e
  injection e with e
  subst e
  exact Foot.ite (foot_enumLenAtTile h (sub em rfl)) h

/-! ### Machine/Coushlink.lean -/

theorem foot_receivedBlock {a1 a2 a3} (h : Foot μ s₀ s) (em : 0x40 ||| μ = μ) : Foot μ s₀ (receivedBlock a1 a2 a3 s).2 := by
  unfold receivedBlock
  exact Foot.iteSnd (foot_setLane h (sub em rfl)) h

theorem foot_withdrawReq {a1} (h : Foot μ s₀ s) (em : 0x40 ||| μ = μ) : Foot μ s₀ (withdrawReq a1 s) := by
  unfold withdrawReq
  exact foot_setLane h (sub em rfl)

theorem foot_sendBlock {a1 a2 a3} (h : Foot μ s₀ s) (em : 0x800040 ||| μ = μ) : Foot μ s₀ (sendBlock a1 a2 a3 s) := by
  unfold sendBlock
  extract_lets -merge -useContext +onlyGivenNames x1
  clear_value x1
  split
  · exact h
  · exact foot_emit (foot_setLane h (sub em rfl)) (sub em rfl)
  · exact foot_emit h (sub em rfl)

theorem foot_laneEnter {a1 a2} (h : Foot μ s₀ s) (em : 0x200000000000040 ||| μ = μ) : Foot μ s₀ (laneEnter a1 a2 s) := by
  unfold laneEnter
  extract_lets -merge -useContext +onlyGivenNames s1
  have h1 : Foot μ s₀ s1 := foot_setFldAt h (fun i hi => .inr ⟨25, bit em rfl, i, hi, rfl⟩)
  clear_value s1
  exact foot_setLane h1 (sub em rfl)

theorem foot_laneClearCounts {a1} (h : Foot μ s₀ s) (em : 0x3e0000000000000000 ||| μ = μ) : Foot μ s₀ (laneClearCounts a1 s) := by
  unfold laneClearCounts
  exact foot_setFldAt (foot_setFldAt (foot_setFldAt (foot_setFldAt (foot_setFldAt h (fun i hi => .inr ⟨37, bit em rfl, i, hi, rfl⟩)) (fun i hi => .inr ⟨36, bit em rfl, i, hi, rfl⟩)) (fun i hi => .inr ⟨35, bit em rfl, i, hi, rfl⟩)) (fun i hi => .inr ⟨34, bit em rfl, i, hi, rfl⟩)) (fun i hi => .inr ⟨33, bit em rfl, i, hi, rfl⟩)

theorem foot_trainingRetry {a1} (h : Foot μ s₀ s) (em : 0x40 ||| μ = μ) : Foot μ s₀ (trainingRetry a1 s) := by
  unfold trainingRetry
  exact foot_setLane h (sub em rfl)

theorem foot_resyncStart {a1} (h : Foot μ s₀ s) (em : 0x4000000000000000080 ||| μ = μ) : Foot μ s₀ (resyncStart a1 s) := by
  unfold resyncStart
  exact Foot.ite (Foot.ite (foot_setPort h (sub em rfl)) (foot_setFlagAt (foot_setPort h (sub em rfl)) (fun i hi => .inr ⟨42, bit em rfl, i, hi, rfl⟩))) h

theorem foot_laneDisable {a1} (h : Foot μ s₀ s) (em : 0x200000000000040 ||| μ = μ) : Foot μ s₀ (laneDisable a1 s) := by
  unfold laneDisable
  exact foot_laneEnter (foot_setFlagAt (foot_setFlagAt h (fun i hi => .inr ⟨25, bit em rfl, i, hi, rfl⟩)) (fun i hi => .inr ⟨25, bit em rfl, i, hi, rfl⟩)) (sub em rfl)

theorem foot_sendData {a1} (h : Foot μ s₀ s) (em : 0x8000c0 ||| μ = μ) : Foot μ s₀ (sendData a1 s) := by
  unfold sendData
  extract_lets -merge -useContext +onlyGivenNames x1
  clear_value x1
  extract_lets -merge -useContext +onlyGivenNames x2
  clear_value x2
  extract_lets -merge -useContext +onlyGivenNames s3
  have h3 : Foot μ s₀ s3 := foot_setTx h (sub em rfl)
  clear_value s3
  refine foot_forEach ?_ h3
  · intro _ _ h4
    refine Foot.foldlSnd ?_ h4
    · intro _ _ h5
      split
      · exact foot_sendBlock h5 (sub em rfl)

theorem foot_lockAcquired {a1} (h : Foot μ s₀ s) (em : 0x200000000000080 ||| μ = μ) : Foot μ s₀ (lockAcquired a1 s) := by
  unfold lockAcquired
  extract_lets -merge -useContext +onlyGivenNames s1
  have h1 : Foot μ s₀ s1 := foot_setFlagAt h (fun i hi => .inr ⟨25, bit em rfl, i, hi, rfl⟩)
  clear_value s1
  refine Foot.ite (foot_setFldAt h1 (fun i hi => .inr ⟨25, bit em rfl, i, hi, rfl⟩)) ?_
  · refine Foot.ite ?_ h1
    · split
      · exact foot_setPort h1 (sub em rfl)
      · exact h1

theorem foot_loopFar {a1 a2} (h : Foot μ s₀ s) (em : 0x800000 ||| μ = μ) : Foot μ s₀ (loopFar a1 a2 s) := by
  unfold loopFar
  exact Foot.ite (foot_emit h (sub em rfl)) h

theorem foot_execResyncStart {a1} (h : Foot μ s₀ s) (em : 0x4000000000000000080 ||| μ = μ) : ∀ t, execResyncStart a1 s = .next t → Foot μ s₀ t := by
  intro t e
  unfold execResyncStart at e
  injection e with e
  subst e
  exact foot_whenOn (fun _ h1 => foot_resyncStart h1 (sub em rfl)) h

theorem foot_markerFields {a1 a2} (h : Foot μ s₀ s) (em : 0x200000000000040 ||| μ = μ) : Foot μ s₀ (markerFields a1 a2 s) := by
  unfold markerFields
  extract_lets -merge -useContext +onlyGivenNames s1
  have h1 : Foot μ s₀ s1 := foot_setFldAt h (fun i hi => .inr ⟨25, bit em rfl, i, hi, rfl⟩)
  clear_value s1
  exact foot_setLane h1 (sub em rfl)

theorem foot_corrEnd (h : Foot μ s₀ s) (em : 0x40 ||| μ = μ) : Foot μ s₀ (corrEnd s) := by
  unfold corrEnd
  exact foot_forEach (fun _ _ h1 => foot_setLane h1 (sub em rfl)) h

theorem foot_startBurst {a1} (h : Foot μ s₀ s) (em : 0x800040 ||| μ = μ) : Foot μ s₀ (startBurst a1 s) := by
  unfold startBurst
  exact foot_emit (foot_setLane h (sub em rfl)) (sub em rfl)

theorem foot_execTrainingRetry {a1} (h : Foot μ s₀ s) (em : 0x40 ||| μ = μ) : ∀ t, execTrainingRetry a1 s = .next t → Foot μ s₀ t := by
  intro t e
  unfold execTrainingRetry at e
  injection e with e
  subst e
  exact foot_whenOn (fun _ h1 => foot_trainingRetry h1 (sub em rfl)) h

theorem foot_eidleStop {a1} (h : Foot μ s₀ s) (em : 0x80000000000000000000000000800040 ||| μ = μ) : Foot μ s₀ (eidleStop a1 s) := by
  unfold eidleStop
  extract_lets -merge -useContext +onlyGivenNames s1
  have h1 : Foot μ s₀ s1 := foot_setFlagAt h (fun i hi => .inr ⟨95, bit em rfl, i, hi, rfl⟩)
  clear_value s1
  refine Foot.ite (Foot.ite h1 (foot_startBurst h1 (sub em rfl))) ?_
  · split
    · exact foot_forEach (fun _ _ h3 => foot_withdrawReq h3 (sub em rfl)) h1
    · exact foot_withdrawReq h1 (sub em rfl)

theorem foot_sendTraining {a1} (h : Foot μ s₀ s) (em : 0xc00040 ||| μ = μ) : Foot μ s₀ (sendTraining a1 s) := by
  unfold sendTraining
  split
  · exact h
  · split
    · exact foot_emit (foot_setLane (Foot.ofSnd (foot_freshIdx h (sub em rfl)) ‹_›) (sub em rfl)) (sub em rfl)

theorem foot_burstEnd {a1} (h : Foot μ s₀ s) (em : 0x80000000000000000200000000000040 ||| μ = μ) : Foot μ s₀ (burstEnd a1 s) := by
  unfold burstEnd
  exact Foot.ite (foot_setFlagAt (foot_setLane (foot_laneEnter h (sub em rfl)) (sub em rfl)) (fun i hi => .inr ⟨95, bit em rfl, i, hi, rfl⟩)) h

theorem foot_execCorrIntervalEnd (h : Foot μ s₀ s) (em : 0x40 ||| μ = μ) : ∀ t, execCorrIntervalEnd s = .next t → Foot μ s₀ t := by
  intro t e
  unfold execCorrIntervalEnd at e
  injection e with e
  subst e
  exact foot_whenOn (fun _ h1 => foot_corrEnd h1 (sub em rfl)) h

theorem foot_execWakeBurstEnd {a1} (h : Foot μ s₀ s) (em : 0x80000000000000000200000000000040 ||| μ = μ) : ∀ t, execWakeBurstEnd a1 s = .next t → Foot μ s₀ t := by
  intro t e
  unfold execWakeBurstEnd at e
  injection e with e
  subst e
  exact foot_whenOn (fun _ h1 => foot_burstEnd h1 (sub em rfl)) h

theorem foot_bothReady {a1} (h : Foot μ s₀ s) (em : 0x200000000000040 ||| μ = μ) : Foot μ s₀ (bothReady a1 s) := by
  unfold bothReady
  exact Foot.ite (foot_laneEnter h (sub em rfl)) h

theorem foot_laneDetect {a1} (h : Foot μ s₀ s) (em : 0x200200000000c00040 ||| μ = μ) : Foot μ s₀ (laneDetect a1 s) := by
  unfold laneDetect
  extract_lets -merge -useContext +onlyGivenNames x1
  clear_value x1
  extract_lets -merge -useContext +onlyGivenNames s2
  have h2 : Foot μ s₀ s2 := foot_when (fun _ h2 => foot_incFldAt h2 (fun i hi => .inr ⟨37, bit em rfl, i, hi, rfl⟩)) h
  clear_value s2
  extract_lets -merge -useContext +onlyGivenNames s3
  have h3 : Foot μ s₀ s3 := foot_setFlagAt (foot_setFlagAt h2 (fun i hi => .inr ⟨25, bit em rfl, i, hi, rfl⟩)) (fun i hi => .inr ⟨25, bit em rfl, i, hi, rfl⟩)
  clear_value s3
  exact foot_sendTraining (foot_laneEnter h3 (sub em rfl)) (sub em rfl)

theorem foot_eidleAsk {a1} (h : Foot μ s₀ s) (em : 0x80000000000000000000000000000040 ||| μ = μ) : Foot μ s₀ (eidleAsk a1 s) := by
  unfold eidleAsk
  extract_lets -merge -useContext +onlyGivenNames s1
  have h1 : Foot μ s₀ s1 := foot_setFlagAt h (fun i hi => .inr ⟨95, bit em rfl, i, hi, rfl⟩)
  clear_value s1
  split
  · exact h1
  · exact Foot.ite (foot_forEach (fun _ _ h4 => foot_setLane h4 (sub em rfl)) h1) h1

theorem foot_closePeriod {a1} (h : Foot μ s₀ s) (em : 0x8000c0 ||| μ = μ) : Foot μ s₀ (closePeriod a1 s) := by
  unfold closePeriod
  exact foot_sendData (foot_putFlits h (sub em rfl)) (sub em rfl)

theorem foot_signalPresent {a1} (h : Foot μ s₀ s) (em : 0x200000000c00040 ||| μ = μ) : Foot μ s₀ (signalPresent a1 s) := by
  unfold signalPresent
  exact Foot.ite (foot_sendTraining (foot_laneEnter h (sub em rfl)) (sub em rfl)) h

theorem foot_execEqualiseReady {a1} (h : Foot μ s₀ s) (em : 0x200000000000040 ||| μ = μ) : ∀ t, execEqualiseReady a1 s = .next t → Foot μ s₀ t := by
  intro t e
  unfold execEqualiseReady at e
  injection e with e
  subst e
  exact foot_whenOn (fun _ h1 => foot_bothReady h1 (sub em rfl)) h

theorem foot_trainingFrame {a1 a2} (h : Foot μ s₀ s) (em : 0x200000000c00040 ||| μ = μ) : Foot μ s₀ (trainingFrame a1 a2 s) := by
  unfold trainingFrame
  exact Foot.ite (foot_sendTraining (foot_setLane (foot_setFldAt h (fun i hi => .inr ⟨25, bit em rfl, i, hi, rfl⟩)) (sub em rfl)) (sub em rfl)) h

theorem foot_cdrLocks {a1} (h : Foot μ s₀ s) (em : 0x200000000c00040 ||| μ = μ) : Foot μ s₀ (cdrLocks a1 s) := by
  unfold cdrLocks
  exact Foot.ite (foot_sendTraining (foot_setFlagAt (foot_laneEnter h (sub em rfl)) (fun i hi => .inr ⟨25, bit em rfl, i, hi, rfl⟩)) (sub em rfl)) (Foot.ite (foot_setFlagAt h (fun i hi => .inr ⟨25, bit em rfl, i, hi, rfl⟩)) h)

theorem foot_execSignalDetect {a1} (h : Foot μ s₀ s) (em : 0x200000000c00040 ||| μ = μ) : ∀ t, execSignalDetect a1 s = .next t → Foot μ s₀ t := by
  intro t e
  unfold execSignalDetect at e
  injection e with e
  subst e
  exact foot_whenOn (fun _ h1 => foot_signalPresent h1 (sub em rfl)) h

theorem foot_portUp {a1} (h : Foot μ s₀ s) (em : 0x41000000000000080004010000e000000028e0 ||| μ = μ) : Foot μ s₀ (portUp a1 s) := by
  unfold portUp
  extract_lets -merge -useContext +onlyGivenNames s1
  have h1 : Foot μ s₀ s1 := foot_setFlagAt (foot_clearFlits h (sub em rfl)) (fun i hi => .inr ⟨42, bit em rfl, i, hi, rfl⟩)
  clear_value s1
  extract_lets -merge -useContext +onlyGivenNames s2
  have h2 : Foot μ s₀ s2 := foot_setTx h1 (sub em rfl)
  clear_value s2
  extract_lets -merge -useContext +onlyGivenNames s3
  have h3 : Foot μ s₀ s3 := foot_raise h2 (sub em rfl)
  clear_value s3
  exact Foot.ite (foot_enumTrigger h3 (sub em rfl)) h3

theorem foot_countBlock {a1 a2} (h : Foot μ s₀ s) (em : 0x410000000000000000000f0000e00000000060 ||| μ = μ) : Foot μ s₀ (countBlock a1 a2 s) := by
  unfold countBlock
  extract_lets -merge -useContext +onlyGivenNames s1
  have h1 : Foot μ s₀ s1 := foot_when (fun _ h1 => foot_addFldAt (foot_incFldAt h1 (fun i hi => .inr ⟨34, bit em rfl, i, hi, rfl⟩)) (fun i hi => .inr ⟨33, bit em rfl, i, hi, rfl⟩)) h
  clear_value s1
  extract_lets -merge -useContext +onlyGivenNames s2
  have h2 : Foot μ s₀ s2 := foot_when (fun _ h2 => foot_raise (foot_incFldAt h2 (fun i hi => .inr ⟨35, bit em rfl, i, hi, rfl⟩)) (sub em rfl)) h1
  clear_value s2
  extract_lets -merge -useContext +onlyGivenNames s3
  have h3 : Foot μ s₀ s3 := foot_setLane h2 (sub em rfl)
  clear_value s3
  exact Foot.ite (foot_raise (foot_setLane h3 (sub em rfl)) (sub em rfl)) h3

theorem foot_burstSeen {a1} (h : Foot μ s₀ s) (em : 0x41000080000000000000010000e00000800060 ||| μ = μ) : Foot μ s₀ (burstSeen a1 s) := by
  unfold burstSeen
  refine Foot.ite ?_ (Foot.ite (foot_raise (foot_setFlagAt (foot_setLane h (sub em rfl)) (fun i hi => .inr ⟨95, bit em rfl, i, hi, rfl⟩)) (sub em rfl)) h)
  · extract_lets -merge -useContext +onlyGivenNames s1
    have h1 : Foot μ s₀ s1 := foot_raise h (sub em rfl)
    clear_value s1
    exact Foot.ite h1 (foot_startBurst h1 (sub em rfl))

theorem foot_eidleLapse {a1} (h : Foot μ s₀ s) (em : 0x41000080000000000000010200e00000000060 ||| μ = μ) : Foot μ s₀ (eidleLapse a1 s) := by
  unfold eidleLapse
  extract_lets -merge -useContext +onlyGivenNames s1
  have h1 : Foot μ s₀ s1 := foot_setLane h (sub em rfl)
  clear_value s1
  extract_lets -merge -useContext +onlyGivenNames s2
  have h2 : Foot μ s₀ s2 := foot_setFlagAt (foot_setFlagAt h1 (fun i hi => .inr ⟨25, bit em rfl, i, hi, rfl⟩)) (fun i hi => .inr ⟨95, bit em rfl, i, hi, rfl⟩)
  clear_value s2
  exact foot_raise h2 (sub em rfl)

theorem foot_tieLost (h : Foot μ s₀ s) (em : 0x41000000000000000000010004e00000200020 ||| μ = μ) : Foot μ s₀ (tieLost s) := by
  unfold tieLost
  extract_lets -merge -useContext +onlyGivenNames _ s1
  have h1 : Foot μ s₀ s1 := foot_setFlag (Foot.red h (bit em rfl)) (fun i hi => .inr ⟨18, bit em rfl, i, hi, rfl⟩)
  clear_value s1
  exact Foot.ite (foot_raise (foot_setFlag h1 (fun i hi => .inr ⟨18, bit em rfl, i, hi, rfl⟩)) (sub em rfl)) h1

theorem foot_execTrainingFrameReceive {a1 a2} (h : Foot μ s₀ s) (em : 0x200000000c00040 ||| μ = μ) : ∀ t, execTrainingFrameReceive a1 a2 s = .next t → Foot μ s₀ t := by
  intro t e
  unfold execTrainingFrameReceive at e
  injection e with e
  subst e
  exact foot_whenOn (fun _ h1 => foot_trainingFrame h1 (sub em rfl)) h

theorem foot_negotiate {a1} (h : Foot μ s₀ s) (em : 0x41000000000000080004010200e000000028e0 ||| μ = μ) : Foot μ s₀ (negotiate a1 s) := by
  unfold negotiate
  extract_lets -merge -useContext +onlyGivenNames x1
  clear_value x1
  refine Foot.ite ?_ h
  · refine Foot.ite ?_ (Foot.ite h (foot_raise (foot_setFlagAt h (fun i hi => .inr ⟨42, bit em rfl, i, hi, rfl⟩)) (sub em rfl)))
    · extract_lets -merge -useContext +onlyGivenNames s2
      have h2 : Foot μ s₀ s2 := foot_setFlagAt h (fun i hi => .inr ⟨42, bit em rfl, i, hi, rfl⟩)
      clear_value s2
      extract_lets -merge -useContext +onlyGivenNames s3
      have h3 : Foot μ s₀ s3 := foot_forEach (fun _ _ h3 => foot_setFldAt (foot_setLane (foot_setFldAt h3 (fun i hi => .inr ⟨25, bit em rfl, i, hi, rfl⟩)) (sub em rfl)) (fun i hi => .inr ⟨25, bit em rfl, i, hi, rfl⟩)) h2
      clear_value s3
      exact foot_portUp h3 (sub em rfl)

theorem foot_execEidleTimeout {a1} (h : Foot μ s₀ s) (em : 0x41000080000000000000010200e00000000060 ||| μ = μ) : ∀ t, execEidleTimeout a1 s = .next t → Foot μ s₀ t := by
  intro t e
  unfold execEidleTimeout at e
  injection e with e
  subst e
  exact Foot.ite (foot_eidleLapse h (sub em rfl)) h

theorem foot_execCdrLock {a1} (h : Foot μ s₀ s) (em : 0x200000000c00040 ||| μ = μ) : ∀ t, execCdrLock a1 s = .next t → Foot μ s₀ t := by
  intro t e
  unfold execCdrLock at e
  injection e with e
  subst e
  exact foot_whenOn (fun _ h1 => foot_cdrLocks h1 (sub em rfl)) h

theorem foot_restartLinkFilter {a1} (h : Foot μ s₀ s) (em : 0x400041000000000000000000010000e000000000a0 ||| μ = μ) : Foot μ s₀ (restartLinkFilter a1 s) := by
  unfold restartLinkFilter
  extract_lets -merge -useContext +onlyGivenNames s1
  have h1 : Foot μ s₀ s1 := foot_setPort h (sub em rfl)
  clear_value s1
  exact Foot.ite (foot_raise (foot_setFlagAt h1 (fun i hi => .inr ⟨134, bit em rfl, i, hi, rfl⟩)) (sub em rfl)) h1

theorem foot_replaceRun {a1 a2} (h : Foot μ s₀ s) (em : 0x8000000000000008010c0 ||| μ = μ) : Foot μ s₀ (replaceRun a1 a2 s) := by
  unfold replaceRun
  extract_lets -merge -useContext +onlyGivenNames x1
  clear_value x1
  extract_lets -merge -useContext +onlyGivenNames x2
  clear_value x2
  extract_lets -merge -useContext +onlyGivenNames s3
  have h3 : Foot μ s₀ s3 := foot_insertRun h (sub em rfl)
  clear_value s3
  exact foot_popFlits h3 (sub em rfl)

theorem foot_wakeDone {a1} (h : Foot μ s₀ s) (em : 0x41000000000000080004010200e000000028e0 ||| μ = μ) : Foot μ s₀ (wakeDone a1 s) := by
  unfold wakeDone
  refine Foot.ite ?_ h
  · extract_lets -merge -useContext +onlyGivenNames s1
    have h1 : Foot μ s₀ s1 := foot_setFldAt (foot_setFldAt h (fun i hi => .inr ⟨25, bit em rfl, i, hi, rfl⟩)) (fun i hi => .inr ⟨25, bit em rfl, i, hi, rfl⟩)
    clear_value s1
    split
    · exact Foot.ite (foot_portUp h1 (sub em rfl)) h1
    · exact h1

theorem foot_portTakeEffect {a1} (h : Foot μ s₀ s) (em : 0x41000000000000000004210200e00000c000e0 ||| μ = μ) : Foot μ s₀ (portTakeEffect a1 s) := by
  unfold portTakeEffect
  extract_lets -merge -useContext +onlyGivenNames x1
  clear_value x1
  split
  · refine Foot.ite (foot_raise (foot_setFlagAt (foot_setPort h (sub em rfl)) (fun i hi => .inr ⟨42, bit em rfl, i, hi, rfl⟩)) (sub em rfl)) ?_
    · extract_lets -merge -useContext +onlyGivenNames s3
      have h3 : Foot μ s₀ s3 := foot_setPort h (sub em rfl)
      clear_value s3
      extract_lets -merge -useContext +onlyGivenNames s4
      have h4 : Foot μ s₀ s4 := foot_setFlagAt (foot_setFlagAt h3 (fun i hi => .inr ⟨42, bit em rfl, i, hi, rfl⟩)) (fun i hi => .inr ⟨42, bit em rfl, i, hi, rfl⟩)
      clear_value s4
      exact foot_forEach (fun _ _ h5 => foot_laneDetect h5 (sub em rfl)) h4
  · exact foot_raise (foot_setFlagAt (foot_setPort h (sub em rfl)) (fun i hi => .inr ⟨42, bit em rfl, i, hi, rfl⟩)) (sub em rfl)

theorem foot_dataBlock {a1 a2} (h : Foot μ s₀ s) (em : 0x410000000000000000000f0000e000008000e0 ||| μ = μ) : Foot μ s₀ (dataBlock a1 a2 s) := by
  unfold dataBlock
  extract_lets -merge -useContext +onlyGivenNames x1
  clear_value x1
  refine Foot.ite h ?_
  · extract_lets -merge -useContext +onlyGivenNames x2
    clear_value x2
    extract_lets -merge -useContext +onlyGivenNames x3
    clear_value x3
    extract_lets -merge -useContext +onlyGivenNames s4
    have h4 : Foot μ s₀ s4 := foot_loopFar (foot_countBlock h (sub em rfl)) (sub em rfl)
    clear_value s4
    split
    · extract_lets -merge -useContext +onlyGivenNames s6
      have h6 : Foot μ s₀ s6 := foot_setLane h4 (sub em rfl)
      clear_value s6
      split
      · exact Foot.ite h6 (Foot.ite (foot_forwardTo h6 (sub em rfl)) (foot_setLane h6 (sub em rfl)))
      · exact h6

theorem foot_execWakeComplete {a1} (h : Foot μ s₀ s) (em : 0x41000000000000080004010200e000000028e0 ||| μ = μ) : ∀ t, execWakeComplete a1 s = .next t → Foot μ s₀ t := by
  intro t e
  unfold execWakeComplete at e
  injection e with e
  subst e
  exact foot_whenOn (fun _ h1 => foot_wakeDone h1 (sub em rfl)) h

theorem foot_portRetrained {a1} (h : Foot μ s₀ s) (em : 0x41000000000000000004210200e00000c000e0 ||| μ = μ) : Foot μ s₀ (portRetrained a1 s) := by
  unfold portRetrained
  exact Foot.ite (foot_portTakeEffect (foot_forEach (fun _ _ h2 => foot_laneDisable h2 (sub em rfl)) h) (sub em rfl)) h

theorem foot_failAttempt {a1} (h : Foot μ s₀ s) (em : 0x41000000000000000000010200e00000000060 ||| μ = μ) : Foot μ s₀ (failAttempt a1 s) := by
  unfold failAttempt
  extract_lets -merge -useContext +onlyGivenNames s1
  have h1 : Foot μ s₀ s1 := foot_incFldAt h (fun i hi => .inr ⟨25, bit em rfl, i, hi, rfl⟩)
  clear_value s1
  extract_lets -merge -useContext +onlyGivenNames x2
  clear_value x2
  extract_lets -merge -useContext +onlyGivenNames s3
  have h3 : Foot μ s₀ s3 := foot_when (fun _ h3 => foot_raise h3 (sub em rfl)) h1
  clear_value s3
  exact foot_setLane h3 (sub em rfl)

theorem foot_dataReceived {a1 a2} (h : Foot μ s₀ s) (em : 0x410000000000000000000f0000e000008000e0 ||| μ = μ) : Foot μ s₀ (dataReceived a1 a2 s) := by
  unfold dataReceived
  split
  · exact foot_dataBlock (Foot.ofSnd (foot_receivedBlock h (sub em rfl)) ‹_›) (sub em rfl)
  · exact Foot.ofSnd (foot_receivedBlock h (sub em rfl)) ‹_›

theorem foot_widthRecheck (h : Foot μ s₀ s) (em : 0x41000000000000080004010200e000000028e0 ||| μ = μ) : Foot μ s₀ (widthRecheck s) := by
  unfold widthRecheck
  exact foot_forEach (fun _ _ h1 => Foot.ite (foot_negotiate h1 (sub em rfl)) h1) h

theorem foot_deskewDone {a1 a2} (h : Foot μ s₀ s) (em : 0x41000000000000000004210200e00000c000e0 ||| μ = μ) : Foot μ s₀ (deskewDone a1 a2 s) := by
  unfold deskewDone
  extract_lets -merge -useContext +onlyGivenNames x1
  clear_value x1
  refine Foot.ite ?_ h
  · extract_lets -merge -useContext +onlyGivenNames x2
    clear_value x2
    refine Foot.ite ?_ (foot_portRetrained (foot_raise (foot_setFlagAt (foot_forEach (fun _ _ h3 => foot_laneDetect h3 (sub em rfl)) h) (fun i hi => .inr ⟨42, bit em rfl, i, hi, rfl⟩)) (sub em rfl)) (sub em rfl))
    · extract_lets -merge -useContext +onlyGivenNames s3
      have h3 : Foot μ s₀ s3 := foot_setFlagAt (foot_setFldAt h (fun i hi => .inr ⟨42, bit em rfl, i, hi, rfl⟩)) (fun i hi => .inr ⟨42, bit em rfl, i, hi, rfl⟩)
      clear_value s3
      exact foot_forEach (fun _ _ h4 => foot_setFldAt h4 (fun i hi => .inr ⟨25, bit em rfl, i, hi, rfl⟩)) h3

theorem foot_execNegotiateComplete {a1} (h : Foot μ s₀ s) (em : 0x41000000000000080004010200e000000028e0 ||| μ = μ) : ∀ t, execNegotiateComplete a1 s = .next t → Foot μ s₀ t := by
  intro t e
  unfold execNegotiateComplete at e
  injection e with e
  subst e
  exact foot_whenOn (fun _ h1 => foot_negotiate h1 (sub em rfl)) h

theorem foot_execDeskewComplete {a1 a2} (h : Foot μ s₀ s) (em : 0x41000000000000000004210200e00000c000e0 ||| μ = μ) : ∀ t, execDeskewComplete a1 a2 s = .next t → Foot μ s₀ t := by
  intro t e
  unfold execDeskewComplete at e
  injection e with e
  subst e
  exact foot_whenOn (fun _ h1 => foot_deskewDone h1 (sub em rfl)) h

theorem foot_laneRetrained {a1} (h : Foot μ s₀ s) (em : 0x41000000000000000004210200e00000c000e0 ||| μ = μ) : Foot μ s₀ (laneRetrained a1 s) := by
  unfold laneRetrained
  extract_lets -merge -useContext +onlyGivenNames s1
  have h1 : Foot μ s₀ s1 := foot_laneDetect h (sub em rfl)
  clear_value s1
  split
  · exact foot_portRetrained h1 (sub em rfl)
  · exact h1

theorem foot_execDataBlockDecode {a1 a2} (h : Foot μ s₀ s) (em : 0x410000000000000000000f0000e000008000e0 ||| μ = μ) : ∀ t, execDataBlockDecode a1 a2 s = .next t → Foot μ s₀ t := by
  intro t e
  unfold execDataBlockDecode at e
  injection e with e
  subst e
  exact foot_whenOn (fun _ h1 => foot_dataReceived h1 (sub em rfl)) h

theorem foot_trainingLate {a1} (h : Foot μ s₀ s) (em : 0x41000000000000000004210200e00000c000e0 ||| μ = μ) : Foot μ s₀ (trainingLate a1 s) := by
  unfold trainingLate
  extract_lets -merge -useContext +onlyGivenNames x1
  clear_value x1
  refine Foot.ite (foot_failAttempt (foot_laneRetrained h (sub em rfl)) (sub em rfl)) ?_
  · refine Foot.ite ?_ h
    · split
      · exact h
      · exact foot_portRetrained (foot_raise (foot_setFlagAt (foot_forEach (fun _ _ h3 => foot_laneDetect h3 (sub em rfl)) h) (fun i hi => .inr ⟨42, bit em rfl, i, hi, rfl⟩)) (sub em rfl)) (sub em rfl)

theorem foot_execWidthRecheck (h : Foot μ s₀ s) (em : 0x41000000000000080004010200e000000028e0 ||| μ = μ) : ∀ t, execWidthRecheck s = .next t → Foot μ s₀ t := by
  intro t e
  unfold execWidthRecheck at e
  injection e with e
  subst e
  exact foot_whenOn (fun _ h1 => foot_widthRecheck h1 (sub em rfl)) h

theorem foot_execTrainingTimeout {a1} (h : Foot μ s₀ s) (em : 0x41000000000000000004210200e00000c000e0 ||| μ = μ) : ∀ t, execTrainingTimeout a1 s = .next t → Foot μ s₀ t := by
  intro t e
  unfold execTrainingTimeout at e
  injection e with e
  subst e
  exact foot_whenOn (fun _ h1 => foot_trainingLate h1 (sub em rfl)) h

theorem foot_wakeLate {a1} (h : Foot μ s₀ s) (em : 0x41000000000000000004210200e00000c000e0 ||| μ = μ) : Foot μ s₀ (wakeLate a1 s) := by
  unfold wakeLate
  exact Foot.ite (foot_laneRetrained h (sub em rfl)) h

theorem foot_upstreamLoss {a1} (h : Foot μ s₀ s) (em : 0xc54100000007ff00000004010034e00000a020e0 ||| μ = μ) : Foot μ s₀ (upstreamLoss a1 s) := by
  unfold upstreamLoss
  refine Foot.ite ?_ (foot_cutPacket h (sub em rfl))
  · extract_lets -merge -useContext +onlyGivenNames x1
    clear_value x1
    extract_lets -merge -useContext +onlyGivenNames s2
    have h2 : Foot μ s₀ s2 := foot_cutPacket h (sub em rfl)
    clear_value s2
    extract_lets -merge -useContext +onlyGivenNames s3
    have h3 : Foot μ s₀ s3 := foot_setFlagAt h2 (fun i hi => .inr ⟨42, bit em rfl, i, hi, rfl⟩)
    clear_value s3
    extract_lets -merge -useContext +onlyGivenNames s4
    have h4 : Foot μ s₀ s4 := foot_setPort h3 (sub em rfl)
    clear_value s4
    exact foot_raise h4 (sub em rfl)

theorem foot_execWakeTimeout {a1} (h : Foot μ s₀ s) (em : 0x41000000000000000004210200e00000c000e0 ||| μ = μ) : ∀ t, execWakeTimeout a1 s = .next t → Foot μ s₀ t := by
  intro t e
  unfold execWakeTimeout at e
  injection e with e
  subst e
  exact foot_whenOn (fun _ h1 => foot_wakeLate h1 (sub em rfl)) h

theorem foot_portLeft {a1 a2} (h : Foot μ s₀ s) (em : 0x40c54100000007ff00000004010034e00000a020e0 ||| μ = μ) : Foot μ s₀ (portLeft a1 a2 s) := by
  unfold portLeft
  extract_lets -merge -useContext +onlyGivenNames s1
  have h1 : Foot μ s₀ s1 := foot_setFlagAt (foot_setFlagAt h (fun i hi => .inr ⟨42, bit em rfl, i, hi, rfl⟩)) (fun i hi => .inr ⟨42, bit em rfl, i, hi, rfl⟩)
  clear_value s1
  extract_lets -merge -useContext +onlyGivenNames s2
  have h2 : Foot μ s₀ s2 := foot_when (fun _ h2 => foot_raise h2 (sub em rfl)) h1
  clear_value s2
  extract_lets -merge -useContext +onlyGivenNames s3
  have h3 : Foot μ s₀ s3 := foot_upstreamLoss h2 (sub em rfl)
  clear_value s3
  extract_lets -merge -useContext +onlyGivenNames s4
  have h4 : Foot μ s₀ s4 := foot_restartLinkFilter h3 (sub em rfl)
  clear_value s4
  exact Foot.ite (foot_tieLost h4 (sub em rfl)) h4

theorem foot_portDetect {a1} (h : Foot μ s₀ s) (em : 0x40c54100000007ff00000004210234e00000e020e0 ||| μ = μ) : Foot μ s₀ (portDetect a1 s) := by
  unfold portDetect
  refine Foot.ite h ?_
  · extract_lets -merge -useContext +onlyGivenNames s1
    have h1 : Foot μ s₀ s1 := Foot.ite (foot_portLeft h (sub em rfl)) h
    clear_value s1
    exact foot_portRetrained (foot_setFlagAt (foot_forEach (fun _ _ h2 => foot_laneDetect h2 (sub em rfl)) h1) (fun i hi => .inr ⟨42, bit em rfl, i, hi, rfl⟩)) (sub em rfl)

theorem foot_lanePortDetect {a1} (h : Foot μ s₀ s) (em : 0x40c54100000007ff00000004210234e00000e020e0 ||| μ = μ) : Foot μ s₀ (lanePortDetect a1 s) := by
  unfold lanePortDetect
  split
  · exact foot_portDetect h (sub em rfl)
  · exact h

theorem foot_lockLost {a1} (h : Foot μ s₀ s) (em : 0x40c54100000007ff00000004310234e00000e020e0 ||| μ = μ) : Foot μ s₀ (lockLost a1 s) := by
  unfold lockLost
  extract_lets -merge -useContext +onlyGivenNames s1
  have h1 : Foot μ s₀ s1 := foot_incFldAt (foot_setFlagAt h (fun i hi => .inr ⟨25, bit em rfl, i, hi, rfl⟩)) (fun i hi => .inr ⟨36, bit em rfl, i, hi, rfl⟩)
  clear_value s1
  refine Foot.ite h1 ?_
  · refine Foot.ite (foot_lanePortDetect h1 (sub em rfl)) ?_
    · split
      · exact foot_when (fun _ h3 => foot_setPort h3 (sub em rfl)) h1
      · exact h1

theorem foot_resyncLate {a1} (h : Foot μ s₀ s) (em : 0x40c54100000007ff00000004210234e00000e020e0 ||| μ = μ) : Foot μ s₀ (resyncLate a1 s) := by
  unfold resyncLate
  exact Foot.ite (foot_lanePortDetect h (sub em rfl)) h

theorem foot_laneRetrain {a1} (h : Foot μ s₀ s) (em : 0x40c54100000007ff00000004210234e00000e020e0 ||| μ = μ) : Foot μ s₀ (laneRetrain a1 s) := by
  unfold laneRetrain
  split
  · exact foot_portDetect h (sub em rfl)
  · exact foot_portTakeEffect h (sub em rfl)
  · exact h

theorem foot_portWidth {a1 a2} (h : Foot μ s₀ s) (em : 0x40c54100000007ff00000004210234e00000e020e0 ||| μ = μ) : Foot μ s₀ (portWidth a1 a2 s) := by
  unfold portWidth
  extract_lets -merge -useContext +onlyGivenNames s1
  have h1 : Foot μ s₀ s1 := foot_setFldAt h (fun i hi => .inr ⟨42, bit em rfl, i, hi, rfl⟩)
  clear_value s1
  exact Foot.ite (foot_portDetect h1 (sub em rfl)) h1

theorem foot_execResyncTimeout {a1} (h : Foot μ s₀ s) (em : 0x40c54100000007ff00000004210234e00000e020e0 ||| μ = μ) : ∀ t, execResyncTimeout a1 s = .next t → Foot μ s₀ t := by
  intro t e
  unfold execResyncTimeout at e
  injection e with e
  subst e
  exact foot_whenOn (fun _ h1 => foot_resyncLate h1 (sub em rfl)) h

theorem foot_markerState {a1 a2} (h : Foot μ s₀ s) (em : 0x40c54100008007ff00000004210234e00000e020e0 ||| μ = μ) : Foot μ s₀ (markerState a1 a2 s) := by
  unfold markerState
  extract_lets -merge -useContext +onlyGivenNames x1
  clear_value x1
  extract_lets -merge -useContext +onlyGivenNames x2
  clear_value x2
  extract_lets -merge -useContext +onlyGivenNames s3
  have h3 : Foot μ s₀ s3 := foot_when (fun _ h3 => foot_setFlagAt h3 (fun i hi => .inr ⟨42, bit em rfl, i, hi, rfl⟩)) h
  clear_value s3
  extract_lets -merge -useContext +onlyGivenNames s4
  have h4 : Foot μ s₀ s4 := foot_when (fun _ h4 => foot_setPort h4 (sub em rfl)) h3
  clear_value s4
  extract_lets -merge -useContext +onlyGivenNames s5
  have h5 : Foot μ s₀ s5 := foot_when (fun _ h5 => foot_setLane h5 (sub em rfl)) h4
  clear_value s5
  split
  · exact foot_setLane h5 (sub em rfl)
  · exact foot_setLane h5 (sub em rfl)
  · exact Foot.ite (foot_setLane h5 (sub em rfl)) h5
  · exact Foot.ite (foot_eidleLapse h5 (sub em rfl)) h5
  · exact foot_raise (foot_setFlagAt h5 (fun i hi => .inr ⟨42, bit em rfl, i, hi, rfl⟩)) (sub em rfl)
  · exact foot_setLane h5 (sub em rfl)
  · exact Foot.ite (foot_portDetect h5 (sub em rfl)) h5
  · exact Foot.ite (foot_portDetect h5 (sub em rfl)) h5
  · exact h5

theorem foot_deskewDrift {a1} (h : Foot μ s₀ s) (em : 0x40c54100000007ff00000004210234e00000e020e0 ||| μ = μ) : Foot μ s₀ (deskewDrift a1 s) := by
  unfold deskewDrift
  exact Foot.ite (foot_portDetect (foot_raise (foot_setFlagAt h (fun i hi => .inr ⟨42, bit em rfl, i, hi, rfl⟩)) (sub em rfl)) (sub em rfl)) h

theorem foot_portEnable {a1 a2} (h : Foot μ s₀ s) (em : 0x40c54100000007ff00000004210234e00000e020e0 ||| μ = μ) : Foot μ s₀ (portEnable a1 a2 s) := by
  unfold portEnable
  extract_lets -merge -useContext +onlyGivenNames x1
  clear_value x1
  extract_lets -merge -useContext +onlyGivenNames s2
  have h2 : Foot μ s₀ s2 := foot_setFlagAt h (fun i hi => .inr ⟨42, bit em rfl, i, hi, rfl⟩)
  clear_value s2
  refine Foot.ite ?_ ?_
  · extract_lets -merge -useContext +onlyGivenNames s3
    have h3 : Foot μ s₀ s3 := foot_when (fun _ h3 => foot_setFlagAt h3 (fun i hi => .inr ⟨42, bit em rfl, i, hi, rfl⟩)) h2
    clear_value s3
    exact foot_portTakeEffect h3 (sub em rfl)
  · refine Foot.ite ?_ h2
    · extract_lets -merge -useContext +onlyGivenNames s3
      have h3 : Foot μ s₀ s3 := Foot.ite (foot_portLeft h2 (sub em rfl)) h2
      clear_value s3
      extract_lets -merge -useContext +onlyGivenNames s4
      have h4 : Foot μ s₀ s4 := foot_when (fun _ h4 => foot_forEach (fun _ _ h5 => foot_laneDisable h5 (sub em rfl)) h4) h3
      clear_value s4
      extract_lets -merge -useContext +onlyGivenNames s5
      have h5 : Foot μ s₀ s5 := foot_setFlagAt (foot_setFlagAt h4 (fun i hi => .inr ⟨42, bit em rfl, i, hi, rfl⟩)) (fun i hi => .inr ⟨42, bit em rfl, i, hi, rfl⟩)
      clear_value s5
      exact foot_setPort h5 (sub em rfl)

theorem foot_enterEidle {a1} (h : Foot μ s₀ s) (em : 0x40c54100000007ff00000004010234e00000a020e0 ||| μ = μ) : Foot μ s₀ (enterEidle a1 s) := by
  unfold enterEidle
  extract_lets -merge -useContext +onlyGivenNames x1
  clear_value x1
  extract_lets -merge -useContext +onlyGivenNames x2
  clear_value x2
  extract_lets -merge -useContext +onlyGivenNames s3
  have h3 : Foot μ s₀ s3 := by
    unfold s3
    split
    · exact Foot.ite (foot_portLeft h (sub em rfl)) h
    · exact h
  clear_value s3
  extract_lets -merge -useContext +onlyGivenNames s4
  have h4 : Foot μ s₀ s4 := foot_setFlagAt (foot_setFlagAt h3 (fun i hi => .inr ⟨25, bit em rfl, i, hi, rfl⟩)) (fun i hi => .inr ⟨25, bit em rfl, i, hi, rfl⟩)
  clear_value s4
  exact foot_when (fun _ h5 => foot_startBurst h5 (sub em rfl)) (foot_setLane (foot_laneEnter h4 (sub em rfl)) (sub em rfl))

theorem foot_signalLost {a1} (h : Foot μ s₀ s) (em : 0x40c54100000007ff00000004210234e00000e020e0 ||| μ = μ) : Foot μ s₀ (signalLost a1 s) := by
  unfold signalLost
  exact Foot.ite (foot_lanePortDetect h (sub em rfl)) h

theorem foot_negotiateLate {a1} (h : Foot μ s₀ s) (em : 0x40c54100000007ff00000004210234e00000e020e0 ||| μ = μ) : Foot μ s₀ (negotiateLate a1 s) := by
  unfold negotiateLate
  refine Foot.ite ?_ h
  · split
    · exact foot_portDetect h (sub em rfl)
    · exact h

theorem foot_execDeskewDriftFail {a1} (h : Foot μ s₀ s) (em : 0x40c54100000007ff00000004210234e00000e020e0 ||| μ = μ) : ∀ t, execDeskewDriftFail a1 s = .next t → Foot μ s₀ t := by
  intro t e
  unfold execDeskewDriftFail at e
  injection e with e
  subst e
  exact foot_whenOn (fun _ h1 => foot_deskewDrift h1 (sub em rfl)) h

theorem foot_eidleMarkerSent {a1} (h : Foot μ s₀ s) (em : 0x40c54100000007ff00000004010234e00000a020e0 ||| μ = μ) : Foot μ s₀ (eidleMarkerSent a1 s) := by
  unfold eidleMarkerSent
  exact Foot.ite (foot_enterEidle h (sub em rfl)) (foot_setLane h (sub em rfl))

theorem foot_execNegotiateMarkerTimeout {a1} (h : Foot μ s₀ s) (em : 0x40c54100000007ff00000004210234e00000e020e0 ||| μ = μ) : ∀ t, execNegotiateMarkerTimeout a1 s = .next t → Foot μ s₀ t := by
  intro t e
  unfold execNegotiateMarkerTimeout at e
  injection e with e
  subst e
  exact foot_whenOn (fun _ h1 => foot_negotiateLate h1 (sub em rfl)) h

theorem foot_execLaneSignalLoss {a1} (h : Foot μ s₀ s) (em : 0x40c54100000007ff00000004210234e00000e020e0 ||| μ = μ) : ∀ t, execLaneSignalLoss a1 s = .next t → Foot μ s₀ t := by
  intro t e
  unfold execLaneSignalLoss at e
  injection e with e
  subst e
  exact foot_whenOn (fun _ h1 => foot_signalLost h1 (sub em rfl)) h

theorem foot_sendMarker {a1} (h : Foot μ s₀ s) (em : 0x40c54100000007ff00000004010234e00000a020e0 ||| μ = μ) : Foot μ s₀ (sendMarker a1 s) := by
  unfold sendMarker
  extract_lets -merge -useContext +onlyGivenNames x1
  clear_value x1
  extract_lets -merge -useContext +onlyGivenNames x2
  clear_value x2
  extract_lets -merge -useContext +onlyGivenNames x3
  clear_value x3
  extract_lets -merge -useContext +onlyGivenNames s4
  have h4 : Foot μ s₀ s4 := foot_forEach (fun _ _ h4 => foot_sendBlock h4 (sub em rfl)) h
  clear_value s4
  exact foot_forEach (fun _ _ h5 => foot_eidleMarkerSent h5 (sub em rfl)) (foot_setPort h4 (sub em rfl))

theorem foot_senderSlot {a1} (h : Foot μ s₀ s) (em : 0x40c54100000007ff00000804010234e00000a030e0 ||| μ = μ) : Foot μ s₀ (senderSlot a1 s) := by
  unfold senderSlot
  extract_lets -merge -useContext +onlyGivenNames s1
  have h1 : Foot μ s₀ s1 := foot_when (fun _ h1 => foot_sendMarker h1 (sub em rfl)) h
  clear_value s1
  refine Foot.ite h1 ?_
  · extract_lets -merge -useContext +onlyGivenNames s2
    have h2 : Foot μ s₀ s2 := Foot.ite (foot_fillSlot h1 (sub em rfl)) (foot_setTx (foot_putFlits h1 (sub em rfl)) (sub em rfl))
    clear_value s2
    exact Foot.ite (foot_sendData h2 (sub em rfl)) h2

theorem foot_egressBoundary {a1} (h : Foot μ s₀ s) (em : 0x40c54100000007ff00000004010234e00000a020e0 ||| μ = μ) : Foot μ s₀ (egressBoundary a1 s) := by
  unfold egressBoundary
  exact Foot.ite (foot_sendMarker (foot_sendData h (sub em rfl)) (sub em rfl)) h

theorem foot_execSenderSlotFill {a1} (h : Foot μ s₀ s) (em : 0x40c54100000007ff00000804010234e00000a030e0 ||| μ = μ) : ∀ t, execSenderSlotFill a1 s = .next t → Foot μ s₀ t := by
  intro t e
  unfold execSenderSlotFill at e
  injection e with e
  subst e
  exact Foot.ite (foot_senderSlot h (sub em rfl)) h

theorem foot_phaseMove {a1} (h : Foot μ s₀ s) (em : 0x40c54100000007ff00000004010234e00000a020e0 ||| μ = μ) : Foot μ s₀ (phaseMove a1 s) := by
  unfold phaseMove
  refine Foot.ite ?_ h
  · extract_lets -merge -useContext +onlyGivenNames s1
    have h1 : Foot μ s₀ s1 := foot_forEach (fun _ _ h1 => foot_sendMarker (foot_closePeriod h1 (sub em rfl)) (sub em rfl)) h
    clear_value s1
    extract_lets -merge -useContext +onlyGivenNames s2
    have h2 : Foot μ s₀ s2 := foot_setPort (foot_closePeriod h1 (sub em rfl)) (sub em rfl)
    clear_value s2
    exact foot_raise (foot_setFlagAt h2 (fun i hi => .inr ⟨42, bit em rfl, i, hi, rfl⟩)) (sub em rfl)

theorem foot_ownRun {a1 a2} (h : Foot μ s₀ s) (em : 0x40c54100000007ff00000804010234e00000a030e0 ||| μ = μ) : Foot μ s₀ (ownRun a1 a2 s) := by
  unfold ownRun
  extract_lets -merge -useContext +onlyGivenNames s1
  have h1 : Foot μ s₀ s1 := foot_when (fun _ h1 => foot_sendMarker h1 (sub em rfl)) h
  clear_value s1
  refine Foot.ite h1 ?_
  · extract_lets -merge -useContext +onlyGivenNames x2
    clear_value x2
    extract_lets -merge -useContext +onlyGivenNames x3
    clear_value x3
    extract_lets -merge -useContext +onlyGivenNames x4
    clear_value x4
    extract_lets -merge -useContext +onlyGivenNames s5
    have h5 : Foot μ s₀ s5 := Foot.ite (foot_insertRun h1 (sub em rfl)) h1
    clear_value s5
    extract_lets -merge -useContext +onlyGivenNames x6
    clear_value x6
    extract_lets -merge -useContext +onlyGivenNames s7
    have h7 : Foot μ s₀ s7 := foot_putFlits h5 (sub em rfl)
    clear_value s7
    extract_lets -merge -useContext +onlyGivenNames s8
    have h8 : Foot μ s₀ s8 := foot_setTx h7 (sub em rfl)
    clear_value s8
    exact Foot.ite (foot_sendData h8 (sub em rfl)) h8

theorem foot_tileRun {a1 a2} (h : Foot μ s₀ s) (em : 0x40c54100000007ff00000804010234e00000a030e0 ||| μ = μ) : Foot μ s₀ (tileRun a1 a2 s) := by
  unfold tileRun
  exact Foot.ite (foot_replaceRun h (sub em rfl)) (foot_ownRun h (sub em rfl))

theorem foot_markerBlock {a1 a2} (h : Foot μ s₀ s) (em : 0x40c54100008007ff000000043f0234e00000e020e0 ||| μ = μ) : Foot μ s₀ (markerBlock a1 a2 s) := by
  unfold markerBlock
  extract_lets -merge -useContext +onlyGivenNames x1
  clear_value x1
  refine Foot.ite h ?_
  · extract_lets -merge -useContext +onlyGivenNames x2
    clear_value x2
    extract_lets -merge -useContext +onlyGivenNames x3
    clear_value x3
    extract_lets -merge -useContext +onlyGivenNames x4
    clear_value x4
    extract_lets -merge -useContext +onlyGivenNames x5
    clear_value x5
    extract_lets -merge -useContext +onlyGivenNames x6
    clear_value x6
    extract_lets -merge -useContext +onlyGivenNames s7
    have h7 : Foot μ s₀ s7 := foot_when (fun _ h7 => foot_setFlagAt h7 (fun i hi => .inr ⟨25, bit em rfl, i, hi, rfl⟩)) h
    clear_value s7
    extract_lets -merge -useContext +onlyGivenNames x8
    clear_value x8
    extract_lets -merge -useContext +onlyGivenNames s9
    have h9 : Foot μ s₀ s9 := foot_loopFar (foot_countBlock h7 (sub em rfl)) (sub em rfl)
    clear_value s9
    extract_lets -merge -useContext +onlyGivenNames s10
    have h10 : Foot μ s₀ s10 := foot_setLane h9 (sub em rfl)
    clear_value s10
    extract_lets -merge -useContext +onlyGivenNames x11
    clear_value x11
    extract_lets -merge -useContext +onlyGivenNames s12
    have h12 : Foot μ s₀ s12 := by
      unfold s12
      split
      · exact foot_markerBoundary h10 (sub em rfl)
      · exact h10
    clear_value s12
    extract_lets -merge -useContext +onlyGivenNames _ _ _ _ _ s13
    have h13 : Foot μ s₀ s13 := Foot.ite (Foot.ite (foot_markerState (foot_markerFields (foot_when (fun _ h13 => foot_lockAcquired h13 (sub em rfl)) (foot_setLane h12 (sub em rfl))) (sub em rfl)) (sub em rfl)) (foot_markerFields (foot_when (fun _ h13 => foot_lockAcquired h13 (sub em rfl)) (foot_setLane h12 (sub em rfl))) (sub em rfl))) (Foot.ite (foot_lockLost (foot_setLane h12 (sub em rfl)) (sub em rfl)) (foot_setLane h12 (sub em rfl)))
    clear_value s13
    split
    · exact foot_egressBoundary h13 (sub em rfl)
    · exact h13

theorem foot_execTileSlotInsert {a1 a2} (h : Foot μ s₀ s) (em : 0x40c54100000007ff00000804010234e00000a030e0 ||| μ = μ) : ∀ t, execTileSlotInsert a1 a2 s = .next t → Foot μ s₀ t := by
  intro t e
  unfold execTileSlotInsert at e
  injection e with e
  subst e
  exact Foot.ite (foot_tileRun h (sub em rfl)) h

theorem foot_execEgressPhaseMove {a1} (h : Foot μ s₀ s) (em : 0x40c54100000007ff00000004010234e00000a020e0 ||| μ = μ) : ∀ t, execEgressPhaseMove a1 s = .next t → Foot μ s₀ t := by
  intro t e
  unfold execEgressPhaseMove at e
  injection e with e
  subst e
  exact foot_whenOn (fun _ h1 => foot_phaseMove h1 (sub em rfl)) h

theorem foot_markerReceived {a1 a2} (h : Foot μ s₀ s) (em : 0x40c54100008007ff000000043f0234e00000e020e0 ||| μ = μ) : Foot μ s₀ (markerReceived a1 a2 s) := by
  unfold markerReceived
  split
  · exact foot_markerBlock (Foot.ofSnd (foot_receivedBlock h (sub em rfl)) ‹_›) (sub em rfl)
  · exact Foot.ofSnd (foot_receivedBlock h (sub em rfl)) ‹_›

theorem foot_execMarkerBlockReceive {a1 a2} (h : Foot μ s₀ s) (em : 0x40c54100008007ff000000043f0234e00000e020e0 ||| μ = μ) : ∀ t, execMarkerBlockReceive a1 a2 s = .next t → Foot μ s₀ t := by
  intro t e
  unfold execMarkerBlockReceive at e
  injection e with e
  subst e
  exact foot_whenOn (fun _ h1 => foot_markerReceived h1 (sub em rfl)) h

end Sys2Proof.Machine
end

