-- ==== Sys2Proof/Laws/Foot3.lean ====
section
/-! SUPPORT. The relation Foot holds of each operation of Machine/: TimeUnit, EthFrames, DramPorts, Surfaces, ScanPlan, WallTiming. -/

namespace Sys2Proof.Machine

variable {μ : Nat} {s₀ s t : State}

/-! ### Machine/TimeUnit.lean -/

theorem foot_showIn {a1} (h : Foot μ s₀ s) (em : 0xf00000000 ||| μ = μ) : Foot μ s₀ (showIn a1 s) := by
  unfold showIn
  extract_lets -merge -useContext +onlyGivenNames x1
  clear_value x1
  extract_lets -merge -useContext +onlyGivenNames s2
  have h2 : Foot μ s₀ s2 := foot_setFldAt h (fun i hi => .inr ⟨0, bit em rfl, i, hi, rfl⟩)
  clear_value s2
  split
  · exact foot_setFldAt (foot_setFldAt (foot_setInst h2 (fun i hi => .inr ⟨3, bit em rfl, i, hi, rfl⟩)) (fun i hi => .inr ⟨2, bit em rfl, i, hi, rfl⟩)) (fun i hi => .inr ⟨1, bit em rfl, i, hi, rfl⟩)
  · extract_lets -merge -useContext +onlyGivenNames s4
    have h4 : Foot μ s₀ s4 := foot_setFldAt h2 (fun i hi => .inr ⟨1, bit em rfl, i, hi, rfl⟩)
    clear_value s4
    extract_lets -merge -useContext +onlyGivenNames s5
    have h5 : Foot μ s₀ s5 := foot_setFldAt h4 (fun i hi => .inr ⟨2, bit em rfl, i, hi, rfl⟩)
    clear_value s5
    exact foot_setInst h5 (fun i hi => .inr ⟨3, bit em rfl, i, hi, rfl⟩)

theorem foot_setWt {a1} (h : Foot μ s₀ s) (em : 0x200 ||| μ = μ) : Foot μ s₀ (setWt a1 s) := by
  unfold setWt
  exact Foot.wt h (bit em rfl)

theorem foot_setTime {a1} (h : Foot μ s₀ s) (em : 0x100 ||| μ = μ) : Foot μ s₀ (setTime a1 s) := by
  unfold setTime
  exact Foot.time h (bit em rfl)

theorem foot_sleepCapture (h : Foot μ s₀ s) (em : 0x100 ||| μ = μ) : Foot μ s₀ (sleepCapture s) := by
  unfold sleepCapture
  exact Foot.ite (foot_setTime h (sub em rfl)) h

theorem foot_delayAnswer (h : Foot μ s₀ s) (em : 0x2080 ||| μ = μ) : Foot μ s₀ (delayAnswer s) := by
  unfold delayAnswer
  split
  · exact h
  · extract_lets -merge -useContext +onlyGivenNames s2
    have h2 : Foot μ s₀ s2 := foot_sendTopOwn (Foot.ofSome (foot_takeInbox h (sub em rfl)) ‹_›) (sub em rfl)
    clear_value s2
    exact foot_setPort h2 (sub em rfl)

theorem foot_setOut {a1 a2} (h : Foot μ s₀ s) (em : 0x100 ||| μ = μ) : Foot μ s₀ (setOut a1 a2 s) := by
  unfold setOut
  exact foot_setTime h (sub em rfl)

theorem foot_delaySend {a1} (h : Foot μ s₀ s) (em : 0x402080 ||| μ = μ) : Foot μ s₀ (delaySend a1 s) := by
  unfold delaySend
  refine Foot.ite ?_ h
  · split
    · extract_lets -merge -useContext +onlyGivenNames x2
      clear_value x2
      extract_lets -merge -useContext +onlyGivenNames s3
      have h3 : Foot μ s₀ s3 := foot_setPort (Foot.ofSnd (foot_freshIdx h (sub em rfl)) ‹_›) (sub em rfl)
      clear_value s3
      exact foot_sendTopOwn h3 (sub em rfl)

theorem foot_adjustGo (h : Foot μ s₀ s) (em : 0x200000000000000000000100 ||| μ = μ) : Foot μ s₀ (adjustGo s) := by
  unfold adjustGo
  exact foot_setFlag (foot_setTime h (sub em rfl)) (fun i hi => .inr ⟨61, bit em rfl, i, hi, rfl⟩)

theorem foot_outLevel {a1} (h : Foot μ s₀ s) (em : 0x800000000000000000800000 ||| μ = μ) : Foot μ s₀ (outLevel a1 s) := by
  unfold outLevel
  exact foot_emit (foot_setFlagAt h (fun i hi => .inr ⟨63, bit em rfl, i, hi, rfl⟩)) (sub em rfl)

theorem foot_execDelayReqSend {a1} (h : Foot μ s₀ s) (em : 0x402080 ||| μ = μ) : ∀ t, execDelayReqSend a1 s = .next t → Foot μ s₀ t := by
  intro t e
  unfold execDelayReqSend at e
  injection e with e
  subst e
  exact foot_whenOn (fun _ h1 => foot_delaySend h1 (sub em rfl)) h

theorem foot_syncAtSender (h : Foot μ s₀ s) (em : 0x1c000000000000000000002000 ||| μ = μ) : Foot μ s₀ (syncAtSender s) := by
  unfold syncAtSender
  split
  · exact h
  · extract_lets -merge -useContext +onlyGivenNames x2
    clear_value x2
    extract_lets -merge -useContext +onlyGivenNames x3
    clear_value x3
    extract_lets -merge -useContext +onlyGivenNames s4
    have h4 : Foot μ s₀ s4 := foot_setFldAt (Foot.ofSome (foot_takeInbox h (sub em rfl)) ‹_›) (fun i hi => .inr ⟨66, bit em rfl, i, hi, rfl⟩)
    clear_value s4
    refine Foot.ite h4 ?_
    · extract_lets -merge -useContext +onlyGivenNames x5
      clear_value x5
      extract_lets -merge -useContext +onlyGivenNames s6
      have h6 : Foot μ s₀ s6 := foot_setFldAt h4 (fun i hi => .inr ⟨67, bit em rfl, i, hi, rfl⟩)
      clear_value s6
      extract_lets -merge -useContext +onlyGivenNames s7
      have h7 : Foot μ s₀ s7 := foot_setFldAt h6 (fun i hi => .inr ⟨67, bit em rfl, i, hi, rfl⟩)
      clear_value s7
      extract_lets -merge -useContext +onlyGivenNames s8
      have h8 : Foot μ s₀ s8 := foot_setFldAt h7 (fun i hi => .inr ⟨68, bit em rfl, i, hi, rfl⟩)
      clear_value s8
      exact foot_setFldAt h8 (fun i hi => .inr ⟨68, bit em rfl, i, hi, rfl⟩)

theorem foot_syncSend (h : Foot μ s₀ s) (em : 0x2080 ||| μ = μ) : Foot μ s₀ (syncSend s) := by
  unfold syncSend
  exact Foot.ite (foot_forEach (fun _ _ h5 => foot_sendTopOwn h5 (sub em rfl)) h) h

theorem foot_execDelayReqReceive (h : Foot μ s₀ s) (em : 0x2080 ||| μ = μ) : ∀ t, execDelayReqReceive s = .next t → Foot μ s₀ t := by
  intro t e
  unfold execDelayReqReceive at e
  injection e with e
  subst e
  exact foot_whenOn (fun _ h1 => foot_delayAnswer h1 (sub em rfl)) h

theorem foot_setIn {a1 a2} (h : Foot μ s₀ s) (em : 0xf00000100 ||| μ = μ) : Foot μ s₀ (setIn a1 a2 s) := by
  unfold setIn
  exact foot_showIn (foot_setTime h (sub em rfl)) (sub em rfl)

theorem foot_pulse {a1 a2 a3} (h : Foot μ s₀ s) (em : 0x1000000000800000000000000000800100 ||| μ = μ) : Foot μ s₀ (pulse a1 a2 a3 s) := by
  unfold pulse
  exact Foot.ite h (foot_outLevel (foot_wrapFldAt (foot_setOut h (sub em rfl)) (fun i hi => .inr ⟨100, bit em rfl, i, hi, rfl⟩)) (sub em rfl))

theorem foot_takeShadow {a1} (h : Foot μ s₀ s) (em : 0x100 ||| μ = μ) : Foot μ s₀ (takeShadow a1 s) := by
  unfold takeShadow
  exact foot_setTime h (sub em rfl)

theorem foot_execTimeSyncSend (h : Foot μ s₀ s) (em : 0x2080 ||| μ = μ) : ∀ t, execTimeSyncSend s = .next t → Foot μ s₀ t := by
  intro t e
  unfold execTimeSyncSend at e
  injection e with e
  subst e
  exact foot_whenOn (fun _ h1 => foot_syncSend h1 (sub em rfl)) h

theorem foot_inPop {a1} (h : Foot μ s₀ s) (em : 0xf00000100 ||| μ = μ) : Foot μ s₀ (inPop a1 s) := by
  unfold inPop
  exact foot_setIn h (sub em rfl)

theorem foot_execAonSleepCapture (h : Foot μ s₀ s) (em : 0x100 ||| μ = μ) : ∀ t, execAonSleepCapture s = .next t → Foot μ s₀ t := by
  intro t e
  unfold execAonSleepCapture at e
  injection e with e
  subst e
  exact foot_sleepCapture h (sub em rfl)

theorem foot_execTimeSyncFarEnd (h : Foot μ s₀ s) (em : 0x1c000000000000000000002000 ||| μ = μ) : ∀ t, execTimeSyncFarEnd s = .next t → Foot μ s₀ t := by
  intro t e
  unfold execTimeSyncFarEnd at e
  injection e with e
  subst e
  exact Foot.ite (foot_syncAtSender h (sub em rfl)) h

theorem foot_adjustEnd (h : Foot μ s₀ s) (em : 0x100000000000200000000000000000000100 ||| μ = μ) : Foot μ s₀ (adjustEnd s) := by
  unfold adjustEnd
  exact Foot.ite (foot_runCycles h (sub em rfl)) h

theorem foot_execTimeAdjustEnd (h : Foot μ s₀ s) (em : 0x100000000000200000000000000000000100 ||| μ = μ) : ∀ t, execTimeAdjustEnd s = .next t → Foot μ s₀ t := by
  intro t e
  unfold execTimeAdjustEnd at e
  injection e with e
  subst e
  exact foot_whenOn (fun _ h1 => foot_adjustEnd h1 (sub em rfl)) h

theorem foot_forwardSync {a1} (h : Foot μ s₀ s) (em : 0x800080 ||| μ = μ) : Foot μ s₀ (forwardSync a1 s) := by
  unfold forwardSync
  exact Foot.ite (foot_forwardTo h (sub em rfl)) h

theorem foot_loseLock (h : Foot μ s₀ s) (em : 0x41000000000000200080010000e00000000120 ||| μ = μ) : Foot μ s₀ (loseLock s) := by
  unfold loseLock
  extract_lets -merge -useContext +onlyGivenNames s1
  have h1 : Foot μ s₀ s1 := foot_setTime (foot_setFlag h (fun i hi => .inr ⟨61, bit em rfl, i, hi, rfl⟩)) (sub em rfl)
  clear_value s1
  extract_lets -merge -useContext +onlyGivenNames s2
  have h2 : Foot μ s₀ s2 := foot_raise h1 (sub em rfl)
  clear_value s2
  exact Foot.ite (foot_syncTiming (foot_raise (foot_setFlag h2 (fun i hi => .inr ⟨47, bit em rfl, i, hi, rfl⟩)) (sub em rfl)) (sub em rfl)) h2

theorem foot_inEdge {a1 a2} (h : Foot μ s₀ s) (em : 0x41000000000000000000010000e00f00000120 ||| μ = μ) : Foot μ s₀ (inEdge a1 a2 s) := by
  unfold inEdge
  extract_lets -merge -useContext +onlyGivenNames x1
  clear_value x1
  extract_lets -merge -useContext +onlyGivenNames x2
  clear_value x2
  extract_lets -merge -useContext +onlyGivenNames x3
  clear_value x3
  extract_lets -merge -useContext +onlyGivenNames x4
  clear_value x4
  refine Foot.ite h ?_
  · extract_lets -merge -useContext +onlyGivenNames s5
    have h5 : Foot μ s₀ s5 := foot_setTime h (sub em rfl)
    clear_value s5
    refine Foot.ite h5 ?_
    · refine Foot.ite (foot_raise (foot_incFldAt (foot_setIn h5 (sub em rfl)) (fun i hi => .inr ⟨0, bit em rfl, i, hi, rfl⟩)) (sub em rfl)) ?_
      · extract_lets -merge -useContext +onlyGivenNames s6
        have h6 : Foot μ s₀ s6 := foot_setIn h5 (sub em rfl)
        clear_value s6
        exact Foot.ite (foot_raise h6 (sub em rfl)) h6

theorem foot_gainLock (h : Foot μ s₀ s) (em : 0x41000000000000200080010000e00000000220 ||| μ = μ) : Foot μ s₀ (gainLock s) := by
  unfold gainLock
  extract_lets -merge -useContext +onlyGivenNames s1
  have h1 : Foot μ s₀ s1 := foot_setFlag (foot_setFlag h (fun i hi => .inr ⟨61, bit em rfl, i, hi, rfl⟩)) (fun i hi => .inr ⟨61, bit em rfl, i, hi, rfl⟩)
  clear_value s1
  extract_lets -merge -useContext +onlyGivenNames s2
  have h2 : Foot μ s₀ s2 := foot_raise h1 (sub em rfl)
  clear_value s2
  exact foot_syncTiming (foot_setWt (foot_setFlag h2 (fun i hi => .inr ⟨47, bit em rfl, i, hi, rfl⟩)) (sub em rfl)) (sub em rfl)

theorem foot_outLate {a1} (h : Foot μ s₀ s) (em : 0x41000000000000800000010000e00000000120 ||| μ = μ) : Foot μ s₀ (outLate a1 s) := by
  unfold outLate
  exact foot_raise (foot_setFlagAt (foot_setOut h (sub em rfl)) (fun i hi => .inr ⟨63, bit em rfl, i, hi, rfl⟩)) (sub em rfl)

theorem foot_outPulse {a1} (h : Foot μ s₀ s) (em : 0x101000000000a00000000000000000800100 ||| μ = μ) : Foot μ s₀ (outPulse a1 s) := by
  unfold outPulse
  extract_lets -merge -useContext +onlyGivenNames x1
  clear_value x1
  refine Foot.ite h ?_
  · refine Foot.ite (foot_pulse (foot_runTo (foot_setOut h (sub em rfl)) (sub em rfl)) (sub em rfl)) ?_
    · refine Foot.ite (foot_pulse (foot_runTo (foot_setOut h (sub em rfl)) (sub em rfl)) (sub em rfl)) ?_
      · refine Foot.ite h ?_
        · split
          · exact h
          · exact foot_pulse (foot_runTo (foot_setOut h (sub em rfl)) (sub em rfl)) (sub em rfl)

theorem foot_samplesStop (h : Foot μ s₀ s) (em : 0x41000000000000200080010000e00000000120 ||| μ = μ) : Foot μ s₀ (samplesStop s) := by
  unfold samplesStop
  extract_lets -merge -useContext +onlyGivenNames s1
  have h1 : Foot μ s₀ s1 := foot_setFlag h (fun i hi => .inr ⟨61, bit em rfl, i, hi, rfl⟩)
  clear_value s1
  exact Foot.ite (foot_loseLock h1 (sub em rfl)) h1

theorem foot_outStepped {a1} (h : Foot μ s₀ s) (em : 0x41001000000000800000010000e00000000120 ||| μ = μ) : Foot μ s₀ (outStepped a1 s) := by
  unfold outStepped
  exact foot_forEach (fun _ _ h1 => Foot.ite h1 (Foot.ite (Foot.ite (foot_outLate h1 (sub em rfl)) h1) (Foot.ite (foot_addFldAt (foot_setOut h1 (sub em rfl)) (fun i hi => .inr ⟨100, bit em rfl, i, hi, rfl⟩)) (foot_setOut h1 (sub em rfl))))) h

theorem foot_wakeRestore {a1} (h : Foot μ s₀ s) (em : 0x841001000000000a00080010000e00000000320 ||| μ = μ) : Foot μ s₀ (wakeRestore a1 s) := by
  unfold wakeRestore
  split
  · exact h
  · refine Foot.ite h ?_
    · extract_lets -merge -useContext +onlyGivenNames x2
      clear_value x2
      extract_lets -merge -useContext +onlyGivenNames x3
      clear_value x3
      extract_lets -merge -useContext +onlyGivenNames x4
      clear_value x4
      extract_lets -merge -useContext +onlyGivenNames x5
      clear_value x5
      extract_lets -merge -useContext +onlyGivenNames s6
      have h6 : Foot μ s₀ s6 := foot_setTime h (sub em rfl)
      clear_value s6
      extract_lets -merge -useContext +onlyGivenNames s7
      have h7 : Foot μ s₀ s7 := foot_setFld (foot_setFld h6 (fun i hi => .inr ⟨123, bit em rfl, i, hi, rfl⟩)) (fun i hi => .inr ⟨123, bit em rfl, i, hi, rfl⟩)
      clear_value s7
      extract_lets -merge -useContext +onlyGivenNames s8
      have h8 : Foot μ s₀ s8 := foot_setFlag h7 (fun i hi => .inr ⟨61, bit em rfl, i, hi, rfl⟩)
      clear_value s8
      extract_lets -merge -useContext +onlyGivenNames s9
      have h9 : Foot μ s₀ s9 := foot_setWt h8 (sub em rfl)
      clear_value s9
      extract_lets -merge -useContext +onlyGivenNames s10
      have h10 : Foot μ s₀ s10 := foot_raise h9 (sub em rfl)
      clear_value s10
      extract_lets -merge -useContext +onlyGivenNames s11
      have h11 : Foot μ s₀ s11 := foot_when (fun _ h11 => foot_raise h11 (sub em rfl)) h10
      clear_value s11
      exact foot_syncTiming (foot_outStepped h11 (sub em rfl)) (sub em rfl)

theorem foot_outPulseEnd {a1} (h : Foot μ s₀ s) (em : 0x100000000000a00000000000000000800100 ||| μ = μ) : Foot μ s₀ (outPulseEnd a1 s) := by
  unfold outPulseEnd
  split
  · exact h
  · exact foot_outLevel (foot_setOut (foot_runTo h (sub em rfl)) (sub em rfl)) (sub em rfl)

theorem foot_outWritten {a1} (h : Foot μ s₀ s) (em : 0x41000000000000800000010000e00000800120 ||| μ = μ) : Foot μ s₀ (outWritten a1 s) := by
  unfold outWritten
  extract_lets -merge -useContext +onlyGivenNames s1
  have h1 : Foot μ s₀ s1 := foot_setOut h (sub em rfl)
  clear_value s1
  extract_lets -merge -useContext +onlyGivenNames _ _ _ _ _ _ _ _ _ s2
  have h2 : Foot μ s₀ s2 := Foot.ite h1 (Foot.ite (Foot.ite (foot_outLate (foot_setOut h1 (sub em rfl)) (sub em rfl)) (foot_setOut h1 (sub em rfl))) (Foot.ite (foot_setOut h1 (sub em rfl)) (Foot.ite (foot_setOut h1 (sub em rfl)) h1)))
  clear_value s2
  exact foot_outLevel h2 (sub em rfl)

theorem foot_execTimeSampleTimeout (h : Foot μ s₀ s) (em : 0x41000000000000200080010000e00000000120 ||| μ = μ) : ∀ t, execTimeSampleTimeout s = .next t → Foot μ s₀ t := by
  intro t e
  unfold execTimeSampleTimeout at e
  injection e with e
  subst e
  exact foot_whenOn (fun _ h1 => foot_samplesStop h1 (sub em rfl)) h

theorem foot_execEvtOutPulse {a1} (h : Foot μ s₀ s) (em : 0x101000000000a00000000000000000800100 ||| μ = μ) : ∀ t, execEvtOutPulse a1 s = .next t → Foot μ s₀ t := by
  intro t e
  unfold execEvtOutPulse at e
  injection e with e
  subst e
  exact foot_whenOn (fun _ h1 => foot_outPulse h1 (sub em rfl)) h

theorem foot_sourceSwitch {a1 a2} (h : Foot μ s₀ s) (em : 0x841000000000000000000010000e00000000120 ||| μ = μ) : Foot μ s₀ (sourceSwitch a1 a2 s) := by
  unfold sourceSwitch
  refine Foot.ite h ?_
  · extract_lets -merge -useContext +onlyGivenNames s1
    have h1 : Foot μ s₀ s1 := foot_setFlag h (fun i hi => .inr ⟨123, bit em rfl, i, hi, rfl⟩)
    clear_value s1
    split
    · exact foot_raise h1 (sub em rfl)
    · exact Foot.ite (foot_setTime h1 (sub em rfl)) (foot_setFlag (foot_setTime h1 (sub em rfl)) (fun i hi => .inr ⟨123, bit em rfl, i, hi, rfl⟩))

theorem foot_checkAgree {a1 a2} (h : Foot μ s₀ s) (em : 0x41000000000000000000010000e00000000120 ||| μ = μ) : Foot μ s₀ (checkAgree a1 a2 s) := by
  unfold checkAgree
  split
  · exact h
  · exact Foot.ite (foot_raise (foot_setTime h (sub em rfl)) (sub em rfl)) h

theorem foot_retime {a1 a2} (h : Foot μ s₀ s) (em : 0x10000041001000000000800000010000e00000000320 ||| μ = μ) : Foot μ s₀ (retime a1 a2 s) := by
  unfold retime
  extract_lets -merge -useContext +onlyGivenNames x1
  clear_value x1
  extract_lets -merge -useContext +onlyGivenNames s2
  have h2 : Foot μ s₀ s2 := foot_setWt h (sub em rfl)
  clear_value s2
  extract_lets -merge -useContext +onlyGivenNames s3
  have h3 : Foot μ s₀ s3 := foot_raise (foot_setTime h2 (sub em rfl)) (sub em rfl)
  clear_value s3
  extract_lets -merge -useContext +onlyGivenNames x4
  clear_value x4
  extract_lets -merge -useContext +onlyGivenNames s5
  have h5 : Foot μ s₀ s5 := Foot.ite (foot_incFld h3 (fun i hi => .inr ⟨140, bit em rfl, i, hi, rfl⟩)) (foot_raise (foot_setWt h3 (sub em rfl)) (sub em rfl))
  clear_value s5
  extract_lets -merge -useContext +onlyGivenNames s6
  have h6 : Foot μ s₀ s6 := foot_setWt h5 (sub em rfl)
  clear_value s6
  exact foot_outStepped h6 (sub em rfl)

theorem foot_syncForwardNext (h : Foot μ s₀ s) (em : 0x802080 ||| μ = μ) : Foot μ s₀ (syncForwardNext s) := by
  unfold syncForwardNext
  extract_lets -merge -useContext +onlyGivenNames x1
  split
  · exact h
  · extract_lets -merge -useContext +onlyGivenNames s3
    have h3 : Foot μ s₀ s3 := foot_forwardSync h (sub em rfl)
    clear_value s3
    exact Foot.pkt h3 (bit em rfl)

theorem foot_execEvtOutPulseEnd {a1} (h : Foot μ s₀ s) (em : 0x100000000000a00000000000000000800100 ||| μ = μ) : ∀ t, execEvtOutPulseEnd a1 s = .next t → Foot μ s₀ t := by
  intro t e
  unfold execEvtOutPulseEnd at e
  injection e with e
  subst e
  exact foot_whenOn (fun _ h1 => foot_outPulseEnd h1 (sub em rfl)) h

theorem foot_execTimeWakeRestore {a1} (h : Foot μ s₀ s) (em : 0x841001000000000a00080010000e00000000320 ||| μ = μ) : ∀ t, execTimeWakeRestore a1 s = .next t → Foot μ s₀ t := by
  intro t e
  unfold execTimeWakeRestore at e
  injection e with e
  subst e
  exact foot_wakeRestore h (sub em rfl)

theorem foot_filterSample {a1 a2} (h : Foot μ s₀ s) (em : 0x400041000000000000000000010000e000000000a0 ||| μ = μ) : Foot μ s₀ (filterSample a1 a2 s) := by
  unfold filterSample
  extract_lets -merge -useContext +onlyGivenNames x1
  clear_value x1
  extract_lets -merge -useContext +onlyGivenNames x2
  clear_value x2
  extract_lets -merge -useContext +onlyGivenNames x3
  clear_value x3
  extract_lets -merge -useContext +onlyGivenNames x4
  clear_value x4
  refine Foot.ite (Foot.ite (foot_restartLinkFilter h (sub em rfl)) (foot_setPort h (sub em rfl))) ?_
  · extract_lets -merge -useContext +onlyGivenNames x5
    clear_value x5
    extract_lets -merge -useContext +onlyGivenNames s6
    have h6 : Foot μ s₀ s6 := foot_setPort h (sub em rfl)
    clear_value s6
    extract_lets -merge -useContext +onlyGivenNames x7
    clear_value x7
    extract_lets -merge -useContext +onlyGivenNames s8
    have h8 : Foot μ s₀ s8 := foot_setFldAt h6 (fun i hi => .inr ⟨134, bit em rfl, i, hi, rfl⟩)
    clear_value s8
    exact foot_when (fun _ h9 => foot_setFlagAt h9 (fun i hi => .inr ⟨134, bit em rfl, i, hi, rfl⟩)) h8

theorem foot_stepBy {a1} (h : Foot μ s₀ s) (em : 0x10000041001000000000800000010000e00000000320 ||| μ = μ) : Foot μ s₀ (stepBy a1 s) := by
  unfold stepBy
  exact foot_retime h (sub em rfl)

theorem foot_timeLoad (h : Foot μ s₀ s) (em : 0x10000041001000000000800000010000e00000000320 ||| μ = μ) : Foot μ s₀ (timeLoad s) := by
  unfold timeLoad
  exact foot_retime h (sub em rfl)

theorem foot_execAonSourceSwitch {a1 a2} (h : Foot μ s₀ s) (em : 0x841000000000000000000010000e00000000120 ||| μ = μ) : ∀ t, execAonSourceSwitch a1 a2 s = .next t → Foot μ s₀ t := by
  intro t e
  unfold execAonSourceSwitch at e
  injection e with e
  subst e
  exact foot_sourceSwitch h (sub em rfl)

theorem foot_execTimeSyncForward (h : Foot μ s₀ s) (em : 0x802080 ||| μ = μ) : ∀ t, execTimeSyncForward s = .next t → Foot μ s₀ t := by
  intro t e
  unfold execTimeSyncForward at e
  injection e with e
  subst e
  exact Foot.ite (foot_syncForwardNext h (sub em rfl)) h

theorem foot_delayTake (h : Foot μ s₀ s) (em : 0x400041000000000000000000010000e000000020a0 ||| μ = μ) : Foot μ s₀ (delayTake s) := by
  unfold delayTake
  split
  · exact h
  · split
    · refine Foot.ite (Foot.ofSome (foot_takeInbox h (sub em rfl)) ‹_›) ?_
      · extract_lets -merge -useContext +onlyGivenNames s3
        have h3 : Foot μ s₀ s3 := foot_setPort (Foot.ofSome (foot_takeInbox h (sub em rfl)) ‹_›) (sub em rfl)
        clear_value s3
        exact Foot.ite h3 (foot_filterSample h3 (sub em rfl))
    · exact Foot.ofSome (foot_takeInbox h (sub em rfl)) ‹_›

theorem foot_timeStep (h : Foot μ s₀ s) (em : 0x10000041001000000000800000010000e00000000320 ||| μ = μ) : Foot μ s₀ (timeStep s) := by
  unfold timeStep
  exact foot_stepBy h (sub em rfl)

theorem foot_execDelayRespReceive (h : Foot μ s₀ s) (em : 0x400041000000000000000000010000e000000020a0 ||| μ = μ) : ∀ t, execDelayRespReceive s = .next t → Foot μ s₀ t := by
  intro t e
  unfold execDelayRespReceive at e
  injection e with e
  subst e
  exact foot_whenOn (fun _ h1 => foot_delayTake h1 (sub em rfl)) h

theorem foot_timeCtrlWritten {a1} (h : Foot μ s₀ s) (em : 0x10000041001000000000800000010000e00000000320 ||| μ = μ) : Foot μ s₀ (timeCtrlWritten a1 s) := by
  unfold timeCtrlWritten
  exact Foot.ite (foot_timeLoad h (sub em rfl)) (Foot.ite (foot_timeStep h (sub em rfl)) h)

theorem foot_timeSample {a1 a2} (h : Foot μ s₀ s) (em : 0x10000041001000000000a000a0010000e00000000720 ||| μ = μ) : Foot μ s₀ (timeSample a1 a2 s) := by
  unfold timeSample
  extract_lets -merge -useContext +onlyGivenNames s1
  have h1 : Foot μ s₀ s1 := foot_setFlag h (fun i hi => .inr ⟨61, bit em rfl, i, hi, rfl⟩)
  clear_value s1
  refine Foot.ite (foot_stepBy (foot_setTime h1 (sub em rfl)) (sub em rfl)) ?_
  · extract_lets -merge -useContext +onlyGivenNames x2
    clear_value x2
    extract_lets -merge -useContext +onlyGivenNames s3
    have h3 : Foot μ s₀ s3 := foot_setTime h1 (sub em rfl)
    clear_value s3
    extract_lets -merge -useContext +onlyGivenNames s4
    have h4 : Foot μ s₀ s4 := foot_ceBlockSample h3 (sub em rfl)
    clear_value s4
    exact Foot.ite (Foot.ite (foot_gainLock h4 (sub em rfl)) h4) (Foot.ite (foot_loseLock h4 (sub em rfl)) h4)

theorem foot_timeErrWritten (h : Foot μ s₀ s) (em : 0x10000041001000000000a000a0010000e00000000720 ||| μ = μ) : Foot μ s₀ (timeErrWritten s) := by
  unfold timeErrWritten
  exact foot_timeSample h (sub em rfl)

theorem foot_syncAtTile (h : Foot μ s₀ s) (em : 0x1000010000041001000000004a000a0010000e000008027a0 ||| μ = μ) : Foot μ s₀ (syncAtTile s) := by
  unfold syncAtTile
  split
  · exact h
  · extract_lets -merge -useContext +onlyGivenNames s2
    have h2 : Foot μ s₀ s2 := foot_forwardSync (Foot.ofSome (foot_takeInbox h (sub em rfl)) ‹_›) (sub em rfl)
    clear_value s2
    extract_lets -merge -useContext +onlyGivenNames x3
    clear_value x3
    extract_lets -merge -useContext +onlyGivenNames x4
    clear_value x4
    extract_lets -merge -useContext +onlyGivenNames x5
    clear_value x5
    extract_lets -merge -useContext +onlyGivenNames x6
    clear_value x6
    extract_lets -merge -useContext +onlyGivenNames s7
    have h7 : Foot μ s₀ s7 := foot_checkAgree (foot_setFldAt h2 (fun i hi => .inr ⟨66, bit em rfl, i, hi, rfl⟩)) (sub em rfl)
    clear_value s7
    extract_lets -merge -useContext +onlyGivenNames x8
    clear_value x8
    extract_lets -merge -useContext +onlyGivenNames s9
    have h9 : Foot μ s₀ s9 := foot_setTime h7 (sub em rfl)
    clear_value s9
    extract_lets -merge -useContext +onlyGivenNames x10
    clear_value x10
    extract_lets -merge -useContext +onlyGivenNames s11
    have h11 : Foot μ s₀ s11 := foot_setFlag h9 (fun i hi => .inr ⟨61, bit em rfl, i, hi, rfl⟩)
    clear_value s11
    refine Foot.ite ?_ h11
    · extract_lets -merge -useContext +onlyGivenNames s12
      have h12 : Foot μ s₀ s12 := foot_setTime h11 (sub em rfl)
      clear_value s12
      exact foot_timeSample (foot_setFlag (foot_setFld h12 (fun i hi => .inr ⟨160, bit em rfl, i, hi, rfl⟩)) (fun i hi => .inr ⟨61, bit em rfl, i, hi, rfl⟩)) (sub em rfl)

theorem foot_execTimeSyncReceive (h : Foot μ s₀ s) (em : 0x1000010000041001000000004a000a0010000e000008027a0 ||| μ = μ) : ∀ t, execTimeSyncReceive s = .next t → Foot μ s₀ t := by
  intro t e
  unfold execTimeSyncReceive at e
  injection e with e
  subst e
  exact Foot.ite (foot_syncAtTile h (sub em rfl)) h

/-! ### Machine/EthFrames.lean -/

theorem foot_igmpReceived {a1 a2} (h : Foot μ s₀ s) (em : 0x8 ||| μ = μ) : Foot μ s₀ (igmpReceived a1 a2 s) := by
  unfold igmpReceived
  extract_lets -merge -useContext +onlyGivenNames x1
  clear_value x1
  refine Foot.ite h ?_
  · extract_lets -merge -useContext +onlyGivenNames _ s2
    have h2 : Foot μ s₀ s2 := Foot.ite (Foot.eth h (bit em rfl)) h
    clear_value s2
    exact Foot.eth h2 (bit em rfl)

theorem foot_sendUdp {a1 a2 a3 a4 a5} (h : Foot μ s₀ s) (em : 0xc00000 ||| μ = μ) : Foot μ s₀ (sendUdp a1 a2 a3 a4 a5 s) := by
  unfold sendUdp
  split
  · exact foot_forEach (fun _ _ h3 => foot_emit h3 (sub em rfl)) (Foot.ofSnd (foot_freshIdx h (sub em rfl)) ‹_›)

theorem foot_answerEcho {a1 a2 a3} (h : Foot μ s₀ s) (em : 0x800008 ||| μ = μ) : Foot μ s₀ (answerEcho a1 a2 a3 s) := by
  unfold answerEcho
  extract_lets -merge -useContext +onlyGivenNames x1
  clear_value x1
  split
  · extract_lets -merge -useContext +onlyGivenNames x3
    clear_value x3
    refine Foot.ite ?_ h
    · extract_lets -merge -useContext +onlyGivenNames x4
      clear_value x4
      extract_lets -merge -useContext +onlyGivenNames x5
      clear_value x5
      extract_lets -merge -useContext +onlyGivenNames _ s6
      have h6 : Foot μ s₀ s6 := Foot.eth h (bit em rfl)
      clear_value s6
      exact foot_emit h6 (sub em rfl)

theorem foot_answerArp {a1 a2} (h : Foot μ s₀ s) (em : 0x800000 ||| μ = μ) : Foot μ s₀ (answerArp a1 a2 s) := by
  unfold answerArp
  exact Foot.ite (foot_emit h (sub em rfl)) h

theorem foot_sendReport {a1} (h : Foot μ s₀ s) (em : 0x800000 ||| μ = μ) : Foot μ s₀ (sendReport a1 s) := by
  unfold sendReport
  exact Foot.ite (foot_emit h (sub em rfl)) h

theorem foot_gratuitousArp {a1} (h : Foot μ s₀ s) (em : 0x800000 ||| μ = μ) : Foot μ s₀ (gratuitousArp a1 s) := by
  unfold gratuitousArp
  exact Foot.ite h (foot_emit h (sub em rfl))

theorem foot_igmpTimer (h : Foot μ s₀ s) (em : 0x800008 ||| μ = μ) : Foot μ s₀ (igmpTimer s) := by
  unfold igmpTimer
  split
  · exact h
  · exact foot_sendReport (Foot.eth h (bit em rfl)) (sub em rfl)

theorem foot_membershipsChanged {a1} (h : Foot μ s₀ s) (em : 0x800008 ||| μ = μ) : Foot μ s₀ (membershipsChanged a1 s) := by
  unfold membershipsChanged
  extract_lets -merge -useContext +onlyGivenNames x1
  clear_value x1
  extract_lets -merge -useContext +onlyGivenNames x2
  extract_lets -merge -useContext +onlyGivenNames x3
  extract_lets -merge -useContext +onlyGivenNames x4
  clear_value x4
  extract_lets -merge -useContext +onlyGivenNames x5
  clear_value x5
  extract_lets -merge -useContext +onlyGivenNames s6
  have h6 : Foot μ s₀ s6 := foot_forEach (fun _ _ h6 => foot_sendReport h6 (sub em rfl)) h
  clear_value s6
  extract_lets -merge -useContext +onlyGivenNames _ s7
  have h7 : Foot μ s₀ s7 := Foot.eth h6 (bit em rfl)
  clear_value s7
  extract_lets -merge -useContext +onlyGivenNames s8
  have h8 : Foot μ s₀ s8 := foot_forEach (fun _ _ h8 => foot_sendReport h8 (sub em rfl)) h7
  clear_value s8
  exact Foot.eth h8 (bit em rfl)

/-! ### Machine/DramPorts.lean -/

theorem foot_setDramc {a1} (h : Foot μ s₀ s) (em : 0x20000 ||| μ = μ) : Foot μ s₀ (setDramc a1 s) := by
  unfold setDramc
  exact Foot.dramc h (bit em rfl)

theorem foot_setChan {a1 a2} (h : Foot μ s₀ s) (em : 0x20000 ||| μ = μ) : Foot μ s₀ (setChan a1 a2 s) := by
  unfold setChan
  exact foot_setDramc h (sub em rfl)

theorem foot_countMoved {a1} (h : Foot μ s₀ s) (em : 0x20000 ||| μ = μ) : Foot μ s₀ (countMoved a1 s) := by
  unfold countMoved
  exact foot_setChan h (sub em rfl)

theorem foot_activate {a1 a2 a3} (h : Foot μ s₀ s) (em : 0x20000 ||| μ = μ) : Foot μ s₀ (activate a1 a2 a3 s) := by
  unfold activate
  extract_lets -merge -useContext +onlyGivenNames s1
  have h1 : Foot μ s₀ s1 := foot_setChan h (sub em rfl)
  clear_value s1
  refine Foot.ite h1 ?_
  · split
    · extract_lets -merge -useContext +onlyGivenNames s3
      have h3 : Foot μ s₀ s3 := foot_setChan h1 (sub em rfl)
      clear_value s3
      extract_lets -merge -useContext +onlyGivenNames s4
      have h4 : Foot μ s₀ s4 := Foot.ite (foot_setChan h3 (sub em rfl)) h3
      clear_value s4
      exact Foot.ite (foot_setChan h4 (sub em rfl)) h4

theorem foot_moveGranule {a1} (h : Foot μ s₀ s) (em : 0x20000 ||| μ = μ) : Foot μ s₀ (moveGranule a1 s) := by
  unfold moveGranule
  split
  · exact foot_countMoved (Foot.ite h (foot_activate h (sub em rfl))) (sub em rfl)

theorem foot_dramWake (h : Foot μ s₀ s) (em : 0x80000000000000000000000000 ||| μ = μ) : Foot μ s₀ (dramWake s) := by
  unfold dramWake
  exact Foot.ite (foot_setFlag h (fun i hi => .inr ⟨71, bit em rfl, i, hi, rfl⟩)) h

theorem foot_portTraffic {a1 a2 a3 a4} (h : Foot μ s₀ s) (em : 0x80000000000000000000020000 ||| μ = μ) : Foot μ s₀ (portTraffic a1 a2 a3 a4 s) := by
  unfold portTraffic
  refine Foot.ite h ?_
  · extract_lets -merge -useContext +onlyGivenNames s1
    have h1 : Foot μ s₀ s1 := foot_setDramc (foot_dramWake h (sub em rfl)) (sub em rfl)
    clear_value s1
    exact foot_forEach (fun _ _ h2 => foot_moveGranule h2 (sub em rfl)) h1

theorem foot_portWrite {a1 a2 a3 a4} (h : Foot μ s₀ s) (em : 0x80000000000000000000020006 ||| μ = μ) : Foot μ s₀ (portWrite a1 a2 a3 a4 s) := by
  unfold portWrite
  exact foot_setMemBytes (foot_portTraffic h (sub em rfl)) (sub em rfl)

/-! ### Machine/Surfaces.lean -/

theorem foot_showFill (h : Foot μ s₀ s) (em : 0x40000000000000 ||| μ = μ) : Foot μ s₀ (showFill s) := by
  unfold showFill
  exact foot_setFld h (fun i hi => .inr ⟨22, bit em rfl, i, hi, rfl⟩)

theorem foot_latchFlacon {a1 a2 a3} (h : Foot μ s₀ s) (em : 0x4000000000000010 ||| μ = μ) : Foot μ s₀ (latchFlacon a1 a2 a3 s) := by
  unfold latchFlacon
  extract_lets -merge -useContext +onlyGivenNames s1
  have h1 : Foot μ s₀ s1 := foot_setFlagAt (foot_setFldAt h (fun i hi => .inr ⟨30, bit em rfl, i, hi, rfl⟩)) (fun i hi => .inr ⟨30, bit em rfl, i, hi, rfl⟩)
  clear_value s1
  exact Foot.flac h1 (bit em rfl)

theorem foot_clearFence {a1} (h : Foot μ s₀ s) (em : 0x4000000000000000 ||| μ = μ) : Foot μ s₀ (clearFence a1 s) := by
  unfold clearFence
  extract_lets -merge -useContext +onlyGivenNames s1
  have h1 : Foot μ s₀ s1 := foot_setFlagAt h (fun i hi => .inr ⟨30, bit em rfl, i, hi, rfl⟩)
  clear_value s1
  exact Foot.ite (foot_setFldAt h1 (fun i hi => .inr ⟨30, bit em rfl, i, hi, rfl⟩)) h1

theorem foot_settleFences (h : Foot μ s₀ s) (em : 0x4000000000000000 ||| μ = μ) : Foot μ s₀ (settleFences s) := by
  unfold settleFences
  exact foot_forEach (fun _ _ h1 => foot_when (fun _ h2 => foot_clearFence h2 (sub em rfl)) h1) h

theorem foot_execFenceClear {a1} (h : Foot μ s₀ s) (em : 0x4000000000000000 ||| μ = μ) : ∀ t, execFenceClear a1 s = .next t → Foot μ s₀ t := by
  intro t e
  unfold execFenceClear at e
  injection e with e
  subst e
  exact foot_whenOn (fun _ h1 => foot_when (fun _ h2 => foot_clearFence h2 (sub em rfl)) (foot_settleFences h1 (sub em rfl))) h

theorem foot_bindSurface {a1} (h : Foot μ s₀ s) (em : 0x80000000000000000000020006 ||| μ = μ) : Foot μ s₀ (bindSurface a1 s) := by
  unfold bindSurface
  refine Foot.ite ?_ h
  · extract_lets -merge -useContext +onlyGivenNames s1
    have h1 : Foot μ s₀ s1 := foot_portWrite h (sub em rfl)
    clear_value s1
    exact Foot.ite (foot_forEach (fun _ _ h6 => foot_portWrite (foot_portWrite h6 (sub em rfl)) (sub em rfl)) h1) h1

theorem foot_refuseLatch {a1} (h : Foot μ s₀ s) (em : 0x41000000000000000000010000e00000000030 ||| μ = μ) : Foot μ s₀ (refuseLatch a1 s) := by
  unfold refuseLatch
  exact Foot.ite h (foot_raise (Foot.flac h (bit em rfl)) (sub em rfl))

theorem foot_abandonFrame {a1} (h : Foot μ s₀ s) (em : 0x41000000000000000000812040e00000000028 ||| μ = μ) : Foot μ s₀ (abandonFrame a1 s) := by
  unfold abandonFrame
  refine foot_forEach ?_ h
  · intro _ _ h1
    split
    · refine Foot.ite ?_ h1
      · extract_lets -merge -useContext +onlyGivenNames x3
        clear_value x3
        extract_lets -merge -useContext +onlyGivenNames _ s4
        have h4 : Foot μ s₀ s4 := Foot.eth h1 (bit em rfl)
        clear_value s4
        extract_lets -merge -useContext +onlyGivenNames s5
        have h5 : Foot μ s₀ s5 := foot_showFill (foot_addFldAt h4 (fun i hi => .inr ⟨39, bit em rfl, i, hi, rfl⟩)) (sub em rfl)
        clear_value s5
        exact foot_raise (foot_incFldAt h5 (fun i hi => .inr ⟨29, bit em rfl, i, hi, rfl⟩)) (sub em rfl)
    · exact h1

theorem foot_bindFlacon {a1 a2 a3 a4 a5} (h : Foot μ s₀ s) (em : 0x3c00000041000000000080000000816040e0000002002e ||| μ = μ) : Foot μ s₀ (bindFlacon a1 a2 a3 a4 a5 s) := by
  unfold bindFlacon
  extract_lets -merge -useContext +onlyGivenNames x1
  clear_value x1
  extract_lets -merge -useContext +onlyGivenNames s2
  have h2 : Foot μ s₀ s2 := foot_setInst h (fun i hi => .inr ⟨146, bit em rfl, i, hi, rfl⟩)
  clear_value s2
  extract_lets -merge -useContext +onlyGivenNames s3
  have h3 : Foot μ s₀ s3 := foot_setInst h2 (fun i hi => .inr ⟨147, bit em rfl, i, hi, rfl⟩)
  clear_value s3
  extract_lets -merge -useContext +onlyGivenNames s4
  have h4 : Foot μ s₀ s4 := foot_setInst h3 (fun i hi => .inr ⟨148, bit em rfl, i, hi, rfl⟩)
  clear_value s4
  extract_lets -merge -useContext +onlyGivenNames s5
  have h5 : Foot μ s₀ s5 := foot_setFldAt h4 (fun i hi => .inr ⟨149, bit em rfl, i, hi, rfl⟩)
  clear_value s5
  extract_lets -merge -useContext +onlyGivenNames s6
  have h6 : Foot μ s₀ s6 := foot_bindSurface h5 (sub em rfl)
  clear_value s6
  extract_lets -merge -useContext +onlyGivenNames s7
  have h7 : Foot μ s₀ s7 := foot_when (fun _ h7 => foot_abandonFrame h7 (sub em rfl)) h6
  clear_value s7
  exact foot_setFlagAt (foot_setFldAt h7 (fun i hi => .inr ⟨30, bit em rfl, i, hi, rfl⟩)) (fun i hi => .inr ⟨30, bit em rfl, i, hi, rfl⟩)

theorem foot_releaseFlacon {a1} (h : Foot μ s₀ s) (em : 0x41000000000000000000816040e00000000028 ||| μ = μ) : Foot μ s₀ (releaseFlacon a1 s) := by
  unfold releaseFlacon
  extract_lets -merge -useContext +onlyGivenNames x1
  clear_value x1
  refine Foot.ite h ?_
  · refine Foot.ite ?_ (foot_setFldAt (foot_when (fun _ h2 => foot_abandonFrame h2 (sub em rfl)) h) (fun i hi => .inr ⟨30, bit em rfl, i, hi, rfl⟩))
    · extract_lets -merge -useContext +onlyGivenNames s2
      have h2 : Foot μ s₀ s2 := foot_when (fun _ h2 => foot_abandonFrame h2 (sub em rfl)) h
      clear_value s2
      exact foot_raise (foot_setFlagAt (foot_setFldAt h2 (fun i hi => .inr ⟨30, bit em rfl, i, hi, rfl⟩)) (fun i hi => .inr ⟨30, bit em rfl, i, hi, rfl⟩)) (sub em rfl)

/-! ### Machine/ScanPlan.lean -/

theorem foot_adoptFrom {a1 a2} (h : Foot μ s₀ s) (em : 0x1000000000000000000000200 ||| μ = μ) : Foot μ s₀ (adoptFrom a1 a2 s) := by
  unfold adoptFrom
  exact foot_showPhase (Foot.wt h (bit em rfl)) (sub em rfl)

/-! ### Machine/WallTiming.lean -/

theorem foot_settleRate (h : Foot μ s₀ s) (em : 0x200 ||| μ = μ) : Foot μ s₀ (settleRate s) := by
  unfold settleRate
  exact Foot.ite h (foot_setWt h (sub em rfl))

theorem foot_renumber {a1 a2} (h : Foot μ s₀ s) (em : 0x214200 ||| μ = μ) : Foot μ s₀ (renumber a1 a2 s) := by
  unfold renumber
  exact Foot.change h (Keeps.same (Keeps.refl _) rfl rfl rfl rfl rfl rfl rfl rfl rfl rfl rfl rfl rfl) rfl (fun p k => by cases p <;> first | rfl | exact absurd ((bit em rfl : μ.testBit _ = true).symm.trans k) (by decide))

theorem foot_dropRate (h : Foot μ s₀ s) (em : 0x214200 ||| μ = μ) : Foot μ s₀ (dropRate s) := by
  unfold dropRate
  split
  · exact foot_setWt (foot_renumber h (sub em rfl)) (sub em rfl)
  · exact h

theorem foot_takeRate (h : Foot μ s₀ s) (em : 0x200 ||| μ = μ) : Foot μ s₀ (takeRate s) := by
  unfold takeRate
  extract_lets -merge -useContext +onlyGivenNames s1
  have h1 : Foot μ s₀ s1 := foot_setWt h (sub em rfl)
  clear_value s1
  exact foot_setWt h1 (sub em rfl)

theorem foot_recordWritten (h : Foot μ s₀ s) (em : 0x80000000000000000000 ||| μ = μ) : Foot μ s₀ (recordWritten s) := by
  unfold recordWritten
  exact Foot.ite (foot_setFlag h (fun i hi => .inr ⟨47, bit em rfl, i, hi, rfl⟩)) h

theorem foot_noMaster (h : Foot μ s₀ s) (em : 0x80000000000000000000 ||| μ = μ) : Foot μ s₀ (noMaster s) := by
  unfold noMaster
  exact Foot.ite (foot_setFlag h (fun i hi => .inr ⟨47, bit em rfl, i, hi, rfl⟩)) h

theorem foot_queueRate {a1} (h : Foot μ s₀ s) (em : 0x214200 ||| μ = μ) : Foot μ s₀ (queueRate a1 s) := by
  unfold queueRate
  extract_lets -merge -useContext +onlyGivenNames s1
  have h1 : Foot μ s₀ s1 := foot_dropRate h (sub em rfl)
  clear_value s1
  extract_lets -merge -useContext +onlyGivenNames x2
  clear_value x2
  refine Foot.ite h1 ?_
  · split
    · exact foot_setWt (foot_renumber h1 (sub em rfl)) (sub em rfl)
    · exact foot_setWt h1 (sub em rfl)

theorem foot_latchFrame (h : Foot μ s₀ s) (em : 0x600000000000000000000000000000000000 ||| μ = μ) : Foot μ s₀ (latchFrame s) := by
  unfold latchFrame
  exact foot_setPair h (fun i hi => .inr ⟨110, bit em rfl, i, hi, rfl⟩) (fun i hi => .inr ⟨109, bit em rfl, i, hi, rfl⟩)

theorem foot_senderRate (h : Foot μ s₀ s) (em : 0x1000000000000000000214200 ||| μ = μ) : Foot μ s₀ (senderRate s) := by
  unfold senderRate
  extract_lets -merge -useContext +onlyGivenNames s1
  have h1 : Foot μ s₀ s1 := foot_takeRate (foot_dropRate h (sub em rfl)) (sub em rfl)
  clear_value s1
  exact foot_adoptFrom h1 (sub em rfl)

theorem foot_holdoverPast (h : Foot μ s₀ s) (em : 0x80010000000000000200 ||| μ = μ) : Foot μ s₀ (holdoverPast s) := by
  unfold holdoverPast
  exact Foot.ite (foot_syncTiming (foot_setWt h (sub em rfl)) (sub em rfl)) h

theorem foot_execHoldoverExpire (h : Foot μ s₀ s) (em : 0x80010000000000000200 ||| μ = μ) : ∀ t, execHoldoverExpire s = .next t → Foot μ s₀ t := by
  intro t e
  unfold execHoldoverExpire at e
  injection e with e
  subst e
  exact foot_whenOn (fun _ h1 => foot_holdoverPast h1 (sub em rfl)) h

theorem foot_senderAdopt {a1} (h : Foot μ s₀ s) (em : 0x1000000000000000000000200 ||| μ = μ) : Foot μ s₀ (senderAdopt a1 s) := by
  unfold senderAdopt
  exact Foot.ite h (foot_adoptFrom h (sub em rfl))

theorem foot_execNoMasterTimeout (h : Foot μ s₀ s) (em : 0x80000000000000000000 ||| μ = μ) : ∀ t, execNoMasterTimeout s = .next t → Foot μ s₀ t := by
  intro t e
  unfold execNoMasterTimeout at e
  injection e with e
  subst e
  exact foot_whenOn (fun _ h1 => foot_noMaster h1 (sub em rfl)) h

theorem foot_detectChange {a1} (h : Foot μ s₀ s) (em : 0x41000000000000000080010000e00000000220 ||| μ = μ) : Foot μ s₀ (detectChange a1 s) := by
  unfold detectChange
  extract_lets -merge -useContext +onlyGivenNames x1
  clear_value x1
  refine Foot.ite h ?_
  · extract_lets -merge -useContext +onlyGivenNames s2
    have h2 : Foot μ s₀ s2 := foot_raise h (sub em rfl)
    clear_value s2
    extract_lets -merge -useContext +onlyGivenNames x3
    clear_value x3
    extract_lets -merge -useContext +onlyGivenNames s4
    have h4 : Foot μ s₀ s4 := foot_setWt h2 (sub em rfl)
    clear_value s4
    exact foot_syncTiming h4 (sub em rfl)

theorem foot_pendWritten (h : Foot μ s₀ s) (em : 0x41000000000000000080010000e00000000020 ||| μ = μ) : Foot μ s₀ (pendWritten s) := by
  unfold pendWritten
  exact Foot.ite h (Foot.ite (foot_setFlag h (fun i hi => .inr ⟨47, bit em rfl, i, hi, rfl⟩)) (Foot.ite (foot_setFld (foot_setFlag h (fun i hi => .inr ⟨47, bit em rfl, i, hi, rfl⟩)) (fun i hi => .inr ⟨47, bit em rfl, i, hi, rfl⟩)) (foot_raise (foot_setFld (foot_setFlag h (fun i hi => .inr ⟨47, bit em rfl, i, hi, rfl⟩)) (fun i hi => .inr ⟨47, bit em rfl, i, hi, rfl⟩)) (sub em rfl))))

theorem foot_adoptChecked {a1 a2} (h : Foot μ s₀ s) (em : 0x41000000000001000080010000e04000010220 ||| μ = μ) : Foot μ s₀ (adoptChecked a1 a2 s) := by
  unfold adoptChecked
  refine Foot.ite (foot_adoptFrom h (sub em rfl)) ?_
  · extract_lets -merge -useContext +onlyGivenNames x1
    extract_lets -merge -useContext +onlyGivenNames x2
    extract_lets -merge -useContext +onlyGivenNames x3
    clear_value x3
    refine Foot.ite (foot_setWt (foot_raise (foot_setFld h (fun i hi => .inr ⟨47, bit em rfl, i, hi, rfl⟩)) (sub em rfl)) (sub em rfl)) ?_
    · extract_lets -merge -useContext +onlyGivenNames s4
      have h4 : Foot μ s₀ s4 := foot_when (fun _ h4 => foot_raise (foot_setFld h4 (fun i hi => .inr ⟨47, bit em rfl, i, hi, rfl⟩)) (sub em rfl)) h
      clear_value s4
      refine Foot.ite (foot_adoptFrom h4 (sub em rfl)) ?_
      · extract_lets -merge -useContext +onlyGivenNames x5
        clear_value x5
        extract_lets -merge -useContext +onlyGivenNames s6
        have h6 : Foot μ s₀ s6 := foot_setFld h4 (fun i hi => .inr ⟨6, bit em rfl, i, hi, rfl⟩)
        clear_value s6
        refine Foot.ite (foot_adoptFrom (Foot.lamp h6 (bit em rfl)) (sub em rfl)) ?_
        · extract_lets -merge -useContext +onlyGivenNames s7
          have h7 : Foot μ s₀ s7 := foot_raise h6 (sub em rfl)
          clear_value s7
          exact Foot.ite (foot_setWt h7 (sub em rfl)) (foot_adoptFrom h7 (sub em rfl))

theorem foot_stageAdopt {a1} (h : Foot μ s₀ s) (em : 0x41000000000001000080010000e04000214220 ||| μ = μ) : Foot μ s₀ (stageAdopt a1 s) := by
  unfold stageAdopt
  extract_lets -merge -useContext +onlyGivenNames x1
  clear_value x1
  refine Foot.ite h ?_
  · extract_lets -merge -useContext +onlyGivenNames s2
    have h2 : Foot μ s₀ s2 := foot_when (fun _ h2 => foot_queueRate (foot_recordWritten h2 (sub em rfl)) (sub em rfl)) h
    clear_value s2
    extract_lets -merge -useContext +onlyGivenNames s3
    have h3 : Foot μ s₀ s3 := foot_adoptChecked h2 (sub em rfl)
    clear_value s3
    exact foot_when (fun _ h4 => foot_setWt h4 (sub em rfl)) h3

theorem foot_pendApply (h : Foot μ s₀ s) (em : 0x300041000000000001000080010000e04000214220 ||| μ = μ) : Foot μ s₀ (pendApply s) := by
  unfold pendApply
  refine Foot.ite ?_ h
  · extract_lets -merge -useContext +onlyGivenNames x1
    clear_value x1
    extract_lets -merge -useContext +onlyGivenNames s2
    have h2 : Foot μ s₀ s2 := foot_setInst h (fun i hi => .inr ⟨132, bit em rfl, i, hi, rfl⟩)
    clear_value s2
    extract_lets -merge -useContext +onlyGivenNames s3
    have h3 : Foot μ s₀ s3 := foot_setInst h2 (fun i hi => .inr ⟨133, bit em rfl, i, hi, rfl⟩)
    clear_value s3
    extract_lets -merge -useContext +onlyGivenNames s4
    have h4 : Foot μ s₀ s4 := foot_setFlag (foot_setFlag h3 (fun i hi => .inr ⟨47, bit em rfl, i, hi, rfl⟩)) (fun i hi => .inr ⟨47, bit em rfl, i, hi, rfl⟩)
    clear_value s4
    extract_lets -merge -useContext +onlyGivenNames s5
    have h5 : Foot μ s₀ s5 := foot_queueRate h4 (sub em rfl)
    clear_value s5
    extract_lets -merge -useContext +onlyGivenNames s6
    have h6 : Foot μ s₀ s6 := foot_adoptChecked h5 (sub em rfl)
    clear_value s6
    exact foot_when (fun _ h7 => foot_setWt h7 (sub em rfl)) h6

theorem foot_changeApply (h : Foot μ s₀ s) (em : 0x41000000000001000080010000e04000214220 ||| μ = μ) : Foot μ s₀ (changeApply s) := by
  unfold changeApply
  split
  · exact h
  · refine Foot.ite h ?_
    · extract_lets -merge -useContext +onlyGivenNames s2
      have h2 : Foot μ s₀ s2 := foot_setWt h (sub em rfl)
      clear_value s2
      extract_lets -merge -useContext +onlyGivenNames x3
      clear_value x3
      extract_lets -merge -useContext +onlyGivenNames x4
      clear_value x4
      refine Foot.ite (foot_raise (foot_setFld (foot_setWt h2 (sub em rfl)) (fun i hi => .inr ⟨47, bit em rfl, i, hi, rfl⟩)) (sub em rfl)) ?_
      · extract_lets -merge -useContext +onlyGivenNames s5
        have h5 : Foot μ s₀ s5 := foot_setWt (foot_setFlag h2 (fun i hi => .inr ⟨47, bit em rfl, i, hi, rfl⟩)) (sub em rfl)
        clear_value s5
        split
        · extract_lets -merge -useContext +onlyGivenNames x7
          clear_value x7
          extract_lets -merge -useContext +onlyGivenNames s8
          have h8 : Foot μ s₀ s8 := foot_queueRate h5 (sub em rfl)
          clear_value s8
          exact foot_adoptChecked (foot_setWt h8 (sub em rfl)) (sub em rfl)
        · exact foot_adoptChecked h5 (sub em rfl)

theorem foot_timingLatch {a1} (h : Foot μ s₀ s) (em : 0x41000000000001000080010000e00000000220 ||| μ = μ) : Foot μ s₀ (timingLatch a1 s) := by
  unfold timingLatch
  extract_lets -merge -useContext +onlyGivenNames s1
  have h1 : Foot μ s₀ s1 := Foot.ite (foot_detectChange h (sub em rfl)) (foot_senderAdopt h (sub em rfl))
  clear_value s1
  extract_lets -merge -useContext +onlyGivenNames s2
  have h2 : Foot μ s₀ s2 := Foot.ite (foot_setWt h1 (sub em rfl)) h1
  clear_value s2
  extract_lets -merge -useContext +onlyGivenNames s3
  have h3 : Foot μ s₀ s3 := by
    unfold s3
    split
    · exact Foot.ite (foot_setWt h2 (sub em rfl)) h2
    · exact h2
  clear_value s3
  exact foot_syncTiming h3 (sub em rfl)

theorem foot_announceSend (h : Foot μ s₀ s) (em : 0x100000000000200000000000000000000180 ||| μ = μ) : Foot μ s₀ (announceSend s) := by
  unfold announceSend
  refine Foot.ite h ?_
  · extract_lets -merge -useContext +onlyGivenNames x1
    clear_value x1
    extract_lets -merge -useContext +onlyGivenNames s2
    have h2 : Foot μ s₀ s2 := foot_runTo h (sub em rfl)
    clear_value s2
    exact foot_forEach (fun _ _ h6 => foot_sendTop h6 (sub em rfl)) h2

theorem foot_execEpochAnnounceSend (h : Foot μ s₀ s) (em : 0x100000000000200000000000000000000180 ||| μ = μ) : ∀ t, execEpochAnnounceSend s = .next t → Foot μ s₀ t := by
  intro t e
  unfold execEpochAnnounceSend at e
  injection e with e
  subst e
  exact foot_whenOn (fun _ h1 => foot_announceSend h1 (sub em rfl)) h

theorem foot_adoptRecord {a1 a2} (h : Foot μ s₀ s) (em : 0x300041000000000001000080010000e04000010220 ||| μ = μ) : Foot μ s₀ (adoptRecord a1 a2 s) := by
  unfold adoptRecord
  extract_lets -merge -useContext +onlyGivenNames s1
  have h1 : Foot μ s₀ s1 := foot_setInst h (fun i hi => .inr ⟨132, bit em rfl, i, hi, rfl⟩)
  clear_value s1
  extract_lets -merge -useContext +onlyGivenNames s2
  have h2 : Foot μ s₀ s2 := foot_setInst h1 (fun i hi => .inr ⟨133, bit em rfl, i, hi, rfl⟩)
  clear_value s2
  extract_lets -merge -useContext +onlyGivenNames s3
  have h3 : Foot μ s₀ s3 := foot_setFlag h2 (fun i hi => .inr ⟨47, bit em rfl, i, hi, rfl⟩)
  clear_value s3
  extract_lets -merge -useContext +onlyGivenNames s4
  have h4 : Foot μ s₀ s4 := foot_adoptChecked (foot_setWt h3 (sub em rfl)) (sub em rfl)
  clear_value s4
  exact foot_setWt h4 (sub em rfl)

theorem foot_timingBoundary (h : Foot μ s₀ s) (em : 0x300041000000000001000080010000e04000214220 ||| μ = μ) : Foot μ s₀ (timingBoundary s) := by
  unfold timingBoundary
  exact foot_changeApply (foot_pendApply (foot_settleRate h (sub em rfl)) (sub em rfl)) (sub em rfl)

theorem foot_announceTake (h : Foot μ s₀ s) (em : 0xf0000300041000000000001000080010000e04000012220 ||| μ = μ) : Foot μ s₀ (announceTake s) := by
  unfold announceTake
  split
  · exact h
  · extract_lets -merge -useContext +onlyGivenNames x2
    clear_value x2
    extract_lets -merge -useContext +onlyGivenNames x3
    clear_value x3
    extract_lets -merge -useContext +onlyGivenNames x4
    clear_value x4
    extract_lets -merge -useContext +onlyGivenNames s5
    have h5 : Foot μ s₀ s5 := Foot.ite (Foot.ofSome (foot_takeInbox h (sub em rfl)) ‹_›) (foot_adoptRecord (Foot.ofSome (foot_takeInbox h (sub em rfl)) ‹_›) (sub em rfl))
    clear_value s5
    extract_lets -merge -useContext +onlyGivenNames _ _ s6
    have h6 : Foot μ s₀ s6 := Foot.ite (foot_setFlag (foot_setPair (foot_setFld (foot_setFld h5 (fun i hi => .inr ⟨152, bit em rfl, i, hi, rfl⟩)) (fun i hi => .inr ⟨153, bit em rfl, i, hi, rfl⟩)) (fun i hi => .inr ⟨155, bit em rfl, i, hi, rfl⟩) (fun i hi => .inr ⟨154, bit em rfl, i, hi, rfl⟩)) (fun i hi => .inr ⟨47, bit em rfl, i, hi, rfl⟩)) h5
    clear_value s6
    extract_lets -merge -useContext +onlyGivenNames _ s7
    have h7 : Foot μ s₀ s7 := Foot.ite (foot_setFlag (foot_setInst (foot_setInst h6 (fun i hi => .inr ⟨133, bit em rfl, i, hi, rfl⟩)) (fun i hi => .inr ⟨132, bit em rfl, i, hi, rfl⟩)) (fun i hi => .inr ⟨47, bit em rfl, i, hi, rfl⟩)) h6
    clear_value s7
    extract_lets -merge -useContext +onlyGivenNames _ _ s8
    have h8 : Foot μ s₀ s8 := Foot.ite (Foot.ite (foot_raise (foot_setWt (foot_setFld h7 (fun i hi => .inr ⟨47, bit em rfl, i, hi, rfl⟩)) (sub em rfl)) (sub em rfl)) (foot_setFld h7 (fun i hi => .inr ⟨47, bit em rfl, i, hi, rfl⟩))) h7
    clear_value s8
    exact foot_syncTiming h8 (sub em rfl)

theorem foot_execEpochAnnounceReceive (h : Foot μ s₀ s) (em : 0xf0000300041000000000001000080010000e04000012220 ||| μ = μ) : ∀ t, execEpochAnnounceReceive s = .next t → Foot μ s₀ t := by
  intro t e
  unfold execEpochAnnounceReceive at e
  injection e with e
  subst e
  exact Foot.ite (foot_announceTake h (sub em rfl)) h

end Sys2Proof.Machine
end

