-- ==== Sys2Proof/Laws/Foot4.lean ====
section
/-! SUPPORT. The relation Foot holds of each operation of Machine/: Accords, Colour, Pipeline, Ingest. -/

namespace Sys2Proof.Machine

variable {μ : Nat} {s₀ s t : State}

/-! ### Machine/Accords.lean -/

theorem foot_flowPublished {a1} (h : Foot μ s₀ s) (em : 0x100000000004000 ||| μ = μ) : Foot μ s₀ (flowPublished a1 s) := by
  unfold flowPublished
  extract_lets -merge -useContext +onlyGivenNames s1
  have h1 : Foot μ s₀ s1 := foot_when (fun _ h1 => foot_incFldAt h1 (fun i hi => .inr ⟨24, bit em rfl, i, hi, rfl⟩)) h
  clear_value s1
  exact Foot.comp h1 (bit em rfl)

theorem foot_showAccords {a1} (h : Foot μ s₀ s) (em : 0x2000000000000000000 ||| μ = μ) : Foot μ s₀ (showAccords a1 s) := by
  unfold showAccords
  exact foot_forEach (fun _ _ h1 => foot_setFlagAt h1 (fun i hi => .inr ⟨41, bit em rfl, i, hi, rfl⟩)) h

theorem foot_makePlans {a1 a2} (h : Foot μ s₀ s) (em : 0x40000000000000000000000000004000 ||| μ = μ) : Foot μ s₀ (makePlans a1 a2 s) := by
  unfold makePlans
  refine Foot.ite h ?_
  · extract_lets -merge -useContext +onlyGivenNames x1
    refine foot_forEach ?_ h
    · intro _ _ h2
      extract_lets -merge -useContext +onlyGivenNames x3
      clear_value x3
      extract_lets -merge -useContext +onlyGivenNames s4
      have h4 : Foot μ s₀ s4 := by
        unfold s4
        split
        · exact foot_setFldAt h2 (fun i hi => .inr ⟨94, bit em rfl, i, hi, rfl⟩)
        · exact h2
      clear_value s4
      exact Foot.comp h4 (bit em rfl)

theorem foot_latchFlow {a1 a2} (h : Foot μ s₀ s) (em : 0x100000000004000 ||| μ = μ) : Foot μ s₀ (latchFlow a1 a2 s) := by
  unfold latchFlow
  refine Foot.ite h ?_
  · extract_lets -merge -useContext +onlyGivenNames x1
    clear_value x1
    extract_lets -merge -useContext +onlyGivenNames s2
    have h2 : Foot μ s₀ s2 := foot_when (fun _ h2 => foot_incFldAt h2 (fun i hi => .inr ⟨24, bit em rfl, i, hi, rfl⟩)) h
    clear_value s2
    exact Foot.comp h2 (bit em rfl)

theorem foot_latchLayer {a1 a2} (h : Foot μ s₀ s) (em : 0x41000000000000000000014100e00000004030 ||| μ = μ) : Foot μ s₀ (latchLayer a1 a2 s).2 := by
  unfold latchLayer
  refine Foot.iteSnd h ?_
  · split
    · exact h
    · exact h
    · split
      · exact Foot.iteSnd (foot_raise (foot_refuseLatch h (sub em rfl)) (sub em rfl)) (foot_latchFlacon (foot_when (fun _ h3 => foot_latchFlow h3 (sub em rfl)) h) (sub em rfl))
      · exact foot_raise h (sub em rfl)

theorem foot_latchLayers {a1} {l : List LayerLatch} (h : Foot μ s₀ s) (em : 0x41000000000000000000014100e00000004030 ||| μ = μ) : Foot μ s₀ (latchLayers a1 l s).2 := by
  induction l generalizing s with
  | nil => exact h
  | cons x t ih => exact ih (foot_latchLayer h (sub em rfl))

theorem foot_keepView {a1 a2 a3 a4} (h : Foot μ s₀ s) (em : 0x41000000000000000000014100e00000004030 ||| μ = μ) : Foot μ s₀ (keepView a1 a2 a3 a4 s).2 := by
  unfold keepView
  split
  rename_i e
  refine Foot.comp ?_ (bit em rfl)
  split at e
  · cases e; exact h
  · split at e
    · cases e; exact h
    · split at e
      · cases e; exact h
      · cases e; exact foot_latchLayers h (sub em rfl)

theorem foot_latchSlot {a1 a2} (h : Foot μ s₀ s) (em : 0x41000000100000000002014100e00000004030 ||| μ = μ) : Foot μ s₀ (latchSlot a1 a2 s).2 := by
  unfold latchSlot
  extract_lets -merge -useContext +onlyGivenNames x1
  extract_lets -merge -useContext +onlyGivenNames x2
  clear_value x2
  extract_lets -merge -useContext +onlyGivenNames x3
  clear_value x3
  extract_lets -merge -useContext +onlyGivenNames s4
  have h4 : Foot μ s₀ s4 := foot_setFldAt (foot_setFlagAt h (fun i hi => .inr ⟨41, bit em rfl, i, hi, rfl⟩)) (fun i hi => .inr ⟨41, bit em rfl, i, hi, rfl⟩)
  clear_value s4
  refine Foot.iteSnd ?_ ?_
  · split
    · exact Foot.comp (Foot.ofSnd (foot_latchLayers h4 (sub em rfl)) ‹_›) (bit em rfl)
  · extract_lets -merge -useContext +onlyGivenNames s5
    have h5 : Foot μ s₀ s5 := foot_when (fun _ h5 => foot_raise (foot_incFld h5 (fun i hi => .inr ⟨84, bit em rfl, i, hi, rfl⟩)) (sub em rfl)) h4
    clear_value s5
    exact foot_raise h5 (sub em rfl)

theorem foot_latchViews {a1} {l : List (Nat × Nat)} {seen : List (Nat × Option ViewLatch)} (h : Foot μ s₀ s) (em : 0x41000000100000000002014100e00000004030 ||| μ = μ) :
    Foot μ s₀ (latchViews a1 seen l s).2 := by
  induction l generalizing seen s with
  | nil => exact h
  | cons x t ih =>
    refine ih (foot_keepView ?_ (sub em rfl))
    split
    · exact h
    · exact foot_latchSlot h (sub em rfl)

theorem foot_latchAccords {a1} (h : Foot μ s₀ s) (em : 0x20000041000040100000000002014100e00000006030 ||| μ = μ) : Foot μ s₀ (latchAccords a1 s).2 := by
  unfold latchAccords
  extract_lets -merge -useContext +onlyGivenNames x1
  clear_value x1
  extract_lets -merge -useContext +onlyGivenNames _ _ s2
  have h2 : Foot μ s₀ s2 := Foot.change h (Keeps.same (Keeps.refl _) rfl rfl rfl rfl rfl rfl rfl rfl rfl rfl rfl rfl rfl) rfl (fun p k => by cases p <;> first | rfl | exact absurd ((bit em rfl : μ.testBit _ = true).symm.trans k) (by decide))
  clear_value s2
  split
  · extract_lets -merge -useContext +onlyGivenNames s4
    have h4 : Foot μ s₀ s4 := foot_setFld (foot_showAccords (Foot.ofSnd (foot_latchViews h2 (sub em rfl)) ‹_›) (sub em rfl)) (fun i hi => .inr ⟨141, bit em rfl, i, hi, rfl⟩)
    clear_value s4
    extract_lets -merge -useContext +onlyGivenNames s5
    have h5 : Foot μ s₀ s5 := foot_when (fun _ h5 => Foot.pkt h5 (bit em rfl)) h4
    clear_value s5
    exact foot_makePlans h5 (sub em rfl)

/-! ### Machine/Colour.lean -/

theorem foot_tfFillBank {a1 a2} (h : Foot μ s₀ s) (em : 0x8000 ||| μ = μ) : Foot μ s₀ (tfFillBank a1 a2 s) := by
  unfold tfFillBank
  exact Foot.pipe h (bit em rfl)

theorem foot_setTfWord {a1 a2} (h : Foot μ s₀ s) (em : 0x8000 ||| μ = μ) : Foot μ s₀ (setTfWord a1 a2 s) := by
  unfold setTfWord
  exact Foot.pipe h (bit em rfl)

/-! ### Machine/Pipeline.lean -/

theorem foot_tempWritten (h : Foot μ s₀ s) (em : 0x8000 ||| μ = μ) : Foot μ s₀ (tempWritten s) := by
  unfold tempWritten
  exact Foot.pipe h (bit em rfl)

theorem foot_addFrame {a1} (h : Foot μ s₀ s) (em : 0x6000 ||| μ = μ) : Foot μ s₀ (addFrame a1 s) := by
  unfold addFrame
  exact Foot.change h (Keeps.same (Keeps.refl _) rfl rfl rfl rfl rfl rfl rfl rfl rfl rfl rfl rfl rfl) rfl (fun p k => by cases p <;> first | rfl | exact absurd ((bit em rfl : μ.testBit _ = true).symm.trans k) (by decide))

theorem foot_holdClusters {a1 a2} (h : Foot μ s₀ s) (em : 0x1000008000 ||| μ = μ) : Foot μ s₀ (holdClusters a1 a2 s) := by
  unfold holdClusters
  exact foot_setFld (Foot.pipe h (bit em rfl)) (fun i hi => .inr ⟨4, bit em rfl, i, hi, rfl⟩)

theorem foot_setFrame {a1 a2} (h : Foot μ s₀ s) (em : 0x4000 ||| μ = μ) : Foot μ s₀ (setFrame a1 a2 s) := by
  unfold setFrame
  exact Foot.comp h (bit em rfl)

theorem foot_tfRegen (h : Foot μ s₀ s) (em : 0x400000000000000000008000 ||| μ = μ) : Foot μ s₀ (tfRegen s) := by
  unfold tfRegen
  exact foot_setFlag (Foot.pipe h (bit em rfl)) (fun i hi => .inr ⟨62, bit em rfl, i, hi, rfl⟩)

theorem foot_latchGains (h : Foot μ s₀ s) (em : 0x2000000000000000000000000 ||| μ = μ) : Foot μ s₀ (latchGains s) := by
  unfold latchGains
  exact foot_forEach (fun _ _ h1 => foot_setFldAt h1 (fun i hi => .inr ⟨65, bit em rfl, i, hi, rfl⟩)) h

theorem foot_pipeClear (h : Foot μ s₀ s) (em : 0x20000000000000000000000000 ||| μ = μ) : Foot μ s₀ (pipeClear s) := by
  unfold pipeClear
  exact foot_setFld (foot_setFld h (fun i hi => .inr ⟨69, bit em rfl, i, hi, rfl⟩)) (fun i hi => .inr ⟨69, bit em rfl, i, hi, rfl⟩)

theorem foot_tfRefillDone (h : Foot μ s₀ s) (em : 0x400000000000000000008000 ||| μ = μ) : Foot μ s₀ (tfRefillDone s) := by
  unfold tfRefillDone
  split
  · exact h
  · exact foot_setFlag (foot_tfFillBank (Foot.pipe h (bit em rfl)) (sub em rfl)) (fun i hi => .inr ⟨62, bit em rfl, i, hi, rfl⟩)

theorem foot_execTfRefillDone (h : Foot μ s₀ s) (em : 0x400000000000000000008000 ||| μ = μ) : ∀ t, execTfRefillDone s = .next t → Foot μ s₀ t := by
  intro t e
  unfold execTfRefillDone at e
  injection e with e
  subst e
  exact foot_whenOn (fun _ h1 => foot_tfRefillDone h1 (sub em rfl)) h

theorem foot_noteTiles {a1 a2} (h : Foot μ s₀ s) (em : 0x41000000000000000000010000e00000004020 ||| μ = μ) : Foot μ s₀ (noteTiles a1 a2 s) := by
  unfold noteTiles
  refine foot_forEach ?_ h
  · intro _ _ h1
    extract_lets -merge -useContext +onlyGivenNames x2
    clear_value x2
    split
    · exact h1
    · exact Foot.ite h1 (foot_raise (foot_setFrame h1 (sub em rfl)) (sub em rfl))

theorem foot_checkMap {a1} (h : Foot μ s₀ s) (em : 0x41000000000020000000010000e00000008020 ||| μ = μ) : Foot μ s₀ (checkMap a1 s) := by
  unfold checkMap
  extract_lets -merge -useContext +onlyGivenNames x1
  clear_value x1
  extract_lets -merge -useContext +onlyGivenNames x2
  clear_value x2
  extract_lets -merge -useContext +onlyGivenNames s3
  have h3 : Foot μ s₀ s3 := foot_setFld (foot_setFlag h (fun i hi => .inr ⟨69, bit em rfl, i, hi, rfl⟩)) (fun i hi => .inr ⟨69, bit em rfl, i, hi, rfl⟩)
  clear_value s3
  exact Foot.ite (Foot.pipe h3 (bit em rfl)) (foot_raise h3 (sub em rfl))

theorem foot_strayPacket {a1 a2} (h : Foot μ s₀ s) (em : 0x41000000200000000000010000e00000006020 ||| μ = μ) : Foot μ s₀ (strayPacket a1 a2 s) := by
  unfold strayPacket
  extract_lets -merge -useContext +onlyGivenNames _ s1
  have h1 : Foot μ s₀ s1 := Foot.pkt h (bit em rfl)
  clear_value s1
  extract_lets -merge -useContext +onlyGivenNames s2
  have h2 : Foot μ s₀ s2 := foot_incFld h1 (fun i hi => .inr ⟨85, bit em rfl, i, hi, rfl⟩)
  clear_value s2
  split
  · exact Foot.ite h2 (foot_raise (foot_setFrame h2 (sub em rfl)) (sub em rfl))
  · exact foot_raise h2 (sub em rfl)

theorem foot_tempStale (h : Foot μ s₀ s) (em : 0x41000000000000000000010000e00000008020 ||| μ = μ) : Foot μ s₀ (tempStale s) := by
  unfold tempStale
  exact Foot.ite (foot_raise (Foot.pipe h (bit em rfl)) (sub em rfl)) h

theorem foot_countCorrupt {a1 a2} (h : Foot μ s₀ s) (em : 0x41000000000020000000010000e00000004020 ||| μ = μ) : Foot μ s₀ (countCorrupt a1 a2 s) := by
  unfold countCorrupt
  refine Foot.ite h ?_
  · extract_lets -merge -useContext +onlyGivenNames s1
    have h1 : Foot μ s₀ s1 := foot_addFldAt h (fun i hi => .inr ⟨69, bit em rfl, i, hi, rfl⟩)
    clear_value s1
    split
    · exact Foot.ite h1 (foot_raise (foot_setFrame h1 (sub em rfl)) (sub em rfl))
    · exact h1

theorem foot_countOverrun {a1} (h : Foot μ s₀ s) (em : 0x20000041000000000000000000010000e00000004020 ||| μ = μ) : Foot μ s₀ (countOverrun a1 s) := by
  unfold countOverrun
  extract_lets -merge -useContext +onlyGivenNames s1
  have h1 : Foot μ s₀ s1 := foot_incFld h (fun i hi => .inr ⟨141, bit em rfl, i, hi, rfl⟩)
  clear_value s1
  split
  · exact Foot.ite h1 (foot_raise (foot_setFrame h1 (sub em rfl)) (sub em rfl))
  · exact foot_raise h1 (sub em rfl)

theorem foot_heartIntake {a1} (h : Foot μ s₀ s) (em : 0x41000000200020000000010000e00000006020 ||| μ = μ) : Foot μ s₀ (heartIntake a1 s) := by
  unfold heartIntake
  extract_lets -merge -useContext +onlyGivenNames x1
  clear_value x1
  split
  · exact h
  · refine Foot.ite (Foot.pkt h (bit em rfl)) ?_
    · split
      · exact foot_strayPacket h (sub em rfl)
      · split
        · exact foot_strayPacket h (sub em rfl)
        · exact foot_countCorrupt h (sub em rfl)

theorem foot_execTcompStale (h : Foot μ s₀ s) (em : 0x41000000000000000000010000e00000008020 ||| μ = μ) : ∀ t, execTcompStale s = .next t → Foot μ s₀ t := by
  intro t e
  unfold execTcompStale at e
  injection e with e
  subst e
  exact foot_whenOn (fun _ h1 => foot_tempStale h1 (sub em rfl)) h

theorem foot_heartDue {a1} (h : Foot μ s₀ s) (em : 0x20000041100000000000200000010000e000000041a0 ||| μ = μ) : Foot μ s₀ (heartDue a1 s) := by
  unfold heartDue
  split
  · exact h
  · extract_lets -merge -useContext +onlyGivenNames s2
    have h2 : Foot μ s₀ s2 := foot_runTo h (sub em rfl)
    clear_value s2
    extract_lets -merge -useContext +onlyGivenNames x3
    split
    · exact Foot.comp h2 (bit em rfl)
    · refine Foot.ite (Foot.comp h2 (bit em rfl)) ?_
      · refine Foot.ite (Foot.ite h2 (foot_countOverrun (Foot.comp h2 (bit em rfl)) (sub em rfl))) ?_
        · refine Foot.ite h2 ?_
          · extract_lets -merge -useContext +onlyGivenNames x5
            clear_value x5
            extract_lets -merge -useContext +onlyGivenNames s6
            have h6 : Foot μ s₀ s6 := foot_noteTiles h2 (sub em rfl)
            clear_value s6
            exact Foot.comp (foot_setPort h6 (sub em rfl)) (bit em rfl)

theorem foot_lineDeadline {a1 a2} (h : Foot μ s₀ s) (em : 0x20000041100000080000200000010000e00000004120 ||| μ = μ) : Foot μ s₀ (lineDeadline a1 a2 s) := by
  unfold lineDeadline
  extract_lets -merge -useContext +onlyGivenNames x1
  clear_value x1
  extract_lets -merge -useContext +onlyGivenNames s2
  have h2 : Foot μ s₀ s2 := foot_runTo h (sub em rfl)
  clear_value s2
  extract_lets -merge -useContext +onlyGivenNames s3
  have h3 : Foot μ s₀ s3 := foot_setFrame h2 (sub em rfl)
  clear_value s3
  refine Foot.ite h3 ?_
  · extract_lets -merge -useContext +onlyGivenNames x4
    clear_value x4
    extract_lets -merge -useContext +onlyGivenNames x5
    clear_value x5
    extract_lets -merge -useContext +onlyGivenNames x6
    clear_value x6
    refine Foot.ite h3 ?_
    · extract_lets -merge -useContext +onlyGivenNames s7
      have h7 : Foot μ s₀ s7 := foot_setFrame h3 (sub em rfl)
      clear_value s7
      extract_lets -merge -useContext +onlyGivenNames s8
      have h8 : Foot μ s₀ s8 := foot_when (fun _ h8 => foot_countOverrun h8 (sub em rfl)) h7
      clear_value s8
      exact foot_raise (foot_incFld h8 (fun i hi => .inr ⟨83, bit em rfl, i, hi, rfl⟩)) (sub em rfl)

theorem foot_execLineDeadline {a1} (h : Foot μ s₀ s) (em : 0x20000041100000080000200000010000e00000004120 ||| μ = μ) : ∀ t, execLineDeadline a1 s = .next t → Foot μ s₀ t := by
  intro t e
  unfold execLineDeadline at e
  injection e with e
  subst e
  refine Foot.ite ?_ h
  · split
    · exact foot_lineDeadline h (sub em rfl)
    · exact h

theorem foot_execPacketEnd {a1} (h : Foot μ s₀ s) (em : 0xc54100000027ef20000000010034e00000a060e0 ||| μ = μ) : ∀ t, execPacketEnd a1 s = .next t → Foot μ s₀ t := by
  intro t e
  unfold execPacketEnd at e
  injection e with e
  subst e
  exact foot_whenOn (fun _ h1 => foot_heartIntake (foot_endPacket h1 (sub em rfl)) (sub em rfl)) h

theorem foot_execHeartPacketDue {a1} (h : Foot μ s₀ s) (em : 0x20000041100000000000200000010000e000000041a0 ||| μ = μ) : ∀ t, execHeartPacketDue a1 s = .next t → Foot μ s₀ t := by
  intro t e
  unfold execHeartPacketDue at e
  injection e with e
  subst e
  exact Foot.ite (foot_heartDue h (sub em rfl)) h

/-! ### Machine/Ingest.lean -/

theorem foot_setEth {a1} (h : Foot μ s₀ s) (em : 0x8 ||| μ = μ) : Foot μ s₀ (setEth a1 s) := by
  unfold setEth
  exact Foot.eth h (bit em rfl)

theorem foot_setFlow {a1 a2} (h : Foot μ s₀ s) (em : 0x8 ||| μ = μ) : Foot μ s₀ (setFlow a1 a2 s) := by
  unfold setFlow
  exact foot_setEth h (sub em rfl)

theorem foot_restoreTick (h : Foot μ s₀ s) (em : 0x8 ||| μ = μ) : Foot μ s₀ (restoreTick s) := by
  unfold restoreTick
  refine Foot.ite ?_ h
  · split
    · exact foot_setFlow h (sub em rfl)
    · exact h

theorem foot_ethClear (h : Foot μ s₀ s) (em : 0x60000000000 ||| μ = μ) : Foot μ s₀ (ethClear s) := by
  unfold ethClear
  exact foot_forEach (fun _ _ h1 => foot_setFldAt (foot_setFldAt h1 (fun i hi => .inr ⟨10, bit em rfl, i, hi, rfl⟩)) (fun i hi => .inr ⟨9, bit em rfl, i, hi, rfl⟩)) h

theorem foot_shedTick (h : Foot μ s₀ s) (em : 0x8 ||| μ = μ) : Foot μ s₀ (shedTick s) := by
  unfold shedTick
  refine Foot.ite ?_ h
  · split
    · exact foot_setFlow h (sub em rfl)
    · exact h

theorem foot_execIngestRestoreTick (h : Foot μ s₀ s) (em : 0x8 ||| μ = μ) : ∀ t, execIngestRestoreTick s = .next t → Foot μ s₀ t := by
  intro t e
  unfold execIngestRestoreTick at e
  injection e with e
  subst e
  exact foot_whenOn (fun _ h1 => foot_restoreTick h1 (sub em rfl)) h

theorem foot_ancRepair {a1 a2 a3} (h : Foot μ s₀ s) (em : 0x80000000000008 ||| μ = μ) : Foot μ s₀ (ancRepair a1 a2 a3 s) := by
  unfold ancRepair
  exact Foot.ite (Foot.ite h (Foot.ite (foot_setFlow h (sub em rfl)) (foot_incFldAt h (fun i hi => .inr ⟨23, bit em rfl, i, hi, rfl⟩)))) (foot_addFldAt (foot_setFlow h (sub em rfl)) (fun i hi => .inr ⟨23, bit em rfl, i, hi, rfl⟩))

theorem foot_publish {a1 a2} (h : Foot μ s₀ s) (em : 0x7d00000000004008 ||| μ = μ) : Foot μ s₀ (publish a1 a2 s) := by
  unfold publish
  extract_lets -merge -useContext +onlyGivenNames s1
  have h1 : Foot μ s₀ s1 := foot_setFldAt h (fun i hi => .inr ⟨26, bit em rfl, i, hi, rfl⟩)
  clear_value s1
  extract_lets -merge -useContext +onlyGivenNames s2
  have h2 : Foot μ s₀ s2 := foot_setFldAt h1 (fun i hi => .inr ⟨27, bit em rfl, i, hi, rfl⟩)
  clear_value s2
  extract_lets -merge -useContext +onlyGivenNames s3
  have h3 : Foot μ s₀ s3 := foot_setFldAt h2 (fun i hi => .inr ⟨28, bit em rfl, i, hi, rfl⟩)
  clear_value s3
  extract_lets -merge -useContext +onlyGivenNames s4
  have h4 : Foot μ s₀ s4 := foot_setFldAt (foot_setFldAt h3 (fun i hi => .inr ⟨30, bit em rfl, i, hi, rfl⟩)) (fun i hi => .inr ⟨29, bit em rfl, i, hi, rfl⟩)
  clear_value s4
  exact foot_flowPublished (foot_setFlow h4 (sub em rfl)) (sub em rfl)

theorem foot_flowClear {a1} (h : Foot μ s₀ s) (em : 0x1c02080000000000000 ||| μ = μ) : Foot μ s₀ (flowClear a1 s) := by
  unfold flowClear
  exact foot_setFldAt (foot_setFldAt (foot_setFldAt (foot_setFldAt (foot_setFldAt h (fun i hi => .inr ⟨40, bit em rfl, i, hi, rfl⟩)) (fun i hi => .inr ⟨39, bit em rfl, i, hi, rfl⟩)) (fun i hi => .inr ⟨23, bit em rfl, i, hi, rfl⟩)) (fun i hi => .inr ⟨38, bit em rfl, i, hi, rfl⟩)) (fun i hi => .inr ⟨29, bit em rfl, i, hi, rfl⟩)

theorem foot_pathLive {a1 a2} (h : Foot μ s₀ s) (em : 0x2000000000000000 ||| μ = μ) : Foot μ s₀ (pathLive a1 a2 s) := by
  unfold pathLive
  exact foot_setFlagAt h (FldIn.ite (fun i hi => .inr ⟨29, bit em rfl, i, hi, rfl⟩) (fun i hi => .inr ⟨29, bit em rfl, i, hi, rfl⟩))

theorem foot_ancWrite {a1 a2} (h : Foot μ s₀ s) (em : 0xa ||| μ = μ) : Foot μ s₀ (ancWrite a1 a2 s) := by
  unfold ancWrite
  exact Foot.foldl (fun _ _ h2 => foot_setFlow (foot_setStoreByte h2 (sub em rfl)) (sub em rfl)) h

theorem foot_ethDiscard {a1} (h : Foot μ s₀ s) (em : 0x40000000000 ||| μ = μ) : Foot μ s₀ (ethDiscard a1 s) := by
  unfold ethDiscard
  exact Foot.ite (foot_incFldAt h (fun i hi => .inr ⟨10, bit em rfl, i, hi, rfl⟩)) h

theorem foot_execIngestShedTick (h : Foot μ s₀ s) (em : 0x8 ||| μ = μ) : ∀ t, execIngestShedTick s = .next t → Foot μ s₀ t := by
  intro t e
  unfold execIngestShedTick at e
  injection e with e
  subst e
  exact foot_whenOn (fun _ h1 => foot_shedTick h1 (sub em rfl)) h

theorem foot_flowForget {a1} (h : Foot μ s₀ s) (em : 0x804040000000000008 ||| μ = μ) : Foot μ s₀ (flowForget a1 s) := by
  unfold flowForget
  extract_lets -merge -useContext +onlyGivenNames s1
  have h1 : Foot μ s₀ s1 := foot_addFldAt h (fun i hi => .inr ⟨39, bit em rfl, i, hi, rfl⟩)
  clear_value s1
  extract_lets -merge -useContext +onlyGivenNames s2
  have h2 : Foot μ s₀ s2 := by
    unfold s2
    split
    · exact Foot.ite (foot_setFldAt h1 (fun i hi => .inr ⟨30, bit em rfl, i, hi, rfl⟩)) h1
    · exact h1
  clear_value s2
  exact foot_showFill (foot_setFlow h2 (sub em rfl)) (sub em rfl)

theorem foot_ptpTaken {a1 a2 a3 a4} (h : Foot μ s₀ s) (em : 0xc00008 ||| μ = μ) : Foot μ s₀ (ptpTaken a1 a2 a3 a4 s) := by
  unfold ptpTaken
  split
  · exact Foot.ite (foot_sendUdp (foot_setEth (Foot.ofSnd (foot_freshIdx (foot_setEth h (sub em rfl)) (sub em rfl)) ‹_›) (sub em rfl)) (sub em rfl)) (Foot.ofSnd (foot_freshIdx (foot_setEth h (sub em rfl)) (sub em rfl)) ‹_›)

theorem foot_udpRules {a1 a2 a3} (h : Foot μ s₀ s) (em : 0x40000c00008 ||| μ = μ) : ∀ r, udpRules a1 a2 a3 s = some r → Foot μ s₀ r.1 := by
  intro r e
  unfold udpRules at e
  dsimp only at e
  split at e
  · cases e; exact foot_ethDiscard h (sub em rfl)
  · split at e
    · cases e
      exact foot_ptpTaken h (sub em rfl)
    · split at e
      · cases e; exact h
      · cases e

theorem foot_reasmTimeout {a1} (h : Foot μ s₀ s) (em : 0x40000000008 ||| μ = μ) : Foot μ s₀ (reasmTimeout a1 s) := by
  unfold reasmTimeout
  split
  · exact foot_ethDiscard (foot_setEth h (sub em rfl)) (sub em rfl)
  · exact h

theorem foot_execReassemblyTimeout {a1} (h : Foot μ s₀ s) (em : 0x40000000008 ||| μ = μ) : ∀ t, execReassemblyTimeout a1 s = .next t → Foot μ s₀ t := by
  intro t e
  unfold execReassemblyTimeout at e
  injection e with e
  subst e
  exact foot_whenOn (fun _ h1 => foot_reasmTimeout h1 (sub em rfl)) h

theorem foot_fragmentHeld {a1 a2 a3} (h : Foot μ s₀ s) (em : 0x40000c00008 ||| μ = μ) : Foot μ s₀ (fragmentHeld a1 a2 a3 s).1 := by
  unfold fragmentHeld
  dsimp only
  refine Foot.iteFst h (Foot.iteFst (foot_ethDiscard (foot_setEth h (sub em rfl)) (sub em rfl))
    (Foot.iteFst (foot_ethDiscard (foot_setEth (foot_setEth h (sub em rfl)) (sub em rfl)) (sub em rfl)) ?_))
  have hs : Foot μ s₀ (match s.eth.reasm.find? (fun r => r.src == a2.src && r.ident != a2.ident) with
      | some r => ethDiscard r.port (setEth (fun e => { e with reasm := e.reasm.erase r }) s)
      | none => s) := by
    split
    · exact foot_ethDiscard (foot_setEth h (sub em rfl)) (sub em rfl)
    · exact h
  split
  · dsimp only
    exact foot_setEth (foot_setEth hs (sub em rfl)) (sub em rfl)
  · split
    · exact foot_udpRules (foot_setEth hs (sub em rfl)) (sub em rfl) _ ‹_›
    · exact foot_ethDiscard (foot_setEth hs (sub em rfl)) (sub em rfl)

theorem foot_execIgmpReportTimer (h : Foot μ s₀ s) (em : 0x800008 ||| μ = μ) : ∀ t, execIgmpReportTimer s = .next t → Foot μ s₀ t := by
  intro t e
  unfold execIgmpReportTimer at e
  injection e with e
  subst e
  exact foot_whenOn (fun _ h1 => foot_igmpTimer h1 (sub em rfl)) h

theorem foot_keepPacket {a1 a2 a3} (h : Foot μ s₀ s) (em : 0x41000000000000000000812040e00000000028 ||| μ = μ) : Foot μ s₀ (keepPacket a1 a2 a3 s) := by
  unfold keepPacket
  extract_lets -merge -useContext +onlyGivenNames x1
  clear_value x1
  extract_lets -merge -useContext +onlyGivenNames x2
  clear_value x2
  extract_lets -merge -useContext +onlyGivenNames s3
  have h3 : Foot μ s₀ s3 := foot_setFlow h (sub em rfl)
  clear_value s3
  refine Foot.ite (foot_incFldAt (foot_setFlow h3 (sub em rfl)) (fun i hi => .inr ⟨39, bit em rfl, i, hi, rfl⟩)) ?_
  · refine Foot.ite h3 ?_
    · refine Foot.ite (foot_setFlow h3 (sub em rfl)) ?_
      · refine Foot.ite ?_ ?_
        · extract_lets -merge -useContext +onlyGivenNames s4
          have h4 : Foot μ s₀ s4 := foot_incFldAt h3 (fun i hi => .inr ⟨39, bit em rfl, i, hi, rfl⟩)
          clear_value s4
          exact Foot.ite h4 (foot_raise (foot_setEth h4 (sub em rfl)) (sub em rfl))
        · extract_lets -merge -useContext +onlyGivenNames s4
          have h4 : Foot μ s₀ s4 := foot_setFlow (foot_setEth h3 (sub em rfl)) (sub em rfl)
          clear_value s4
          exact foot_showFill (Foot.ite (foot_setFldAt h4 (fun i hi => .inr ⟨29, bit em rfl, i, hi, rfl⟩)) h4) (sub em rfl)

theorem foot_writeTile {a1 a2 a3} (h : Foot μ s₀ s) (em : 0x80000000000000000000020006 ||| μ = μ) : Foot μ s₀ (writeTile a1 a2 a3 s) := by
  unfold writeTile
  extract_lets -merge -useContext +onlyGivenNames x1
  clear_value x1
  extract_lets -merge -useContext +onlyGivenNames x2
  clear_value x2
  extract_lets -merge -useContext +onlyGivenNames x3
  clear_value x3
  refine Foot.ite ?_ (foot_portWrite h (sub em rfl))
  · split
    · exact foot_portWrite (foot_portWrite h (sub em rfl)) (sub em rfl)

theorem foot_copyBytes {a1 a2 a3 a4} (h : Foot μ s₀ s) (em : 0x80000000000000000000020006 ||| μ = μ) : Foot μ s₀ (copyBytes a1 a2 a3 a4 s) := by
  unfold copyBytes
  exact foot_portWrite (foot_portTraffic h (sub em rfl)) (sub em rfl)

theorem foot_flowBad {a1 a2} (h : Foot μ s₀ s) (em : 0x41000000000000000001010000e00000000028 ||| μ = μ) : Foot μ s₀ (flowBad a1 a2 s) := by
  unfold flowBad
  extract_lets -merge -useContext +onlyGivenNames s1
  have h1 : Foot μ s₀ s1 := foot_incFldAt h (fun i hi => .inr ⟨40, bit em rfl, i, hi, rfl⟩)
  clear_value s1
  exact Foot.ite h1 (foot_raise (foot_setFlow h1 (sub em rfl)) (sub em rfl))

theorem foot_enterShed {a1 a2} (h : Foot μ s₀ s) (em : 0x41000000000000000000816040e00000000028 ||| μ = μ) : Foot μ s₀ (enterShed a1 a2 s) := by
  unfold enterShed
  exact foot_raise (foot_setFldAt (foot_flowForget h (sub em rfl)) (fun i hi => .inr ⟨29, bit em rfl, i, hi, rfl⟩)) (sub em rfl)

theorem foot_settleFlow {a1 a2} (h : Foot μ s₀ s) (em : 0x41000000000000000000816040e00000000028 ||| μ = μ) : Foot μ s₀ (settleFlow a1 a2 s) := by
  unfold settleFlow
  exact Foot.ite (Foot.ite h (foot_setFlow (foot_setFldAt (foot_setFlagAt (foot_setFlagAt (foot_flowForget h (sub em rfl)) (fun i hi => .inr ⟨29, bit em rfl, i, hi, rfl⟩)) (fun i hi => .inr ⟨29, bit em rfl, i, hi, rfl⟩)) (fun i hi => .inr ⟨29, bit em rfl, i, hi, rfl⟩)) (sub em rfl))) (Foot.ite (foot_setFldAt (Foot.ite h (foot_flowForget h (sub em rfl))) (fun i hi => .inr ⟨29, bit em rfl, i, hi, rfl⟩)) (Foot.ite (Foot.ite (foot_setFldAt h (fun i hi => .inr ⟨29, bit em rfl, i, hi, rfl⟩)) (Foot.ite (foot_setFlow h (sub em rfl)) (Foot.ite (foot_setFlow h (sub em rfl)) h))) (Foot.ite (foot_setFlow h (sub em rfl)) (Foot.ite (foot_setFlow h (sub em rfl)) (foot_enterShed h (sub em rfl))))))

theorem foot_pathTimeout {a1 a2} (h : Foot μ s₀ s) (em : 0x41000000000000000000012000e00000000020 ||| μ = μ) : Foot μ s₀ (pathTimeout a1 a2 s) := by
  unfold pathTimeout
  exact Foot.ite (foot_raise (foot_setFlagAt h (FldIn.ite (fun i hi => .inr ⟨29, bit em rfl, i, hi, rfl⟩) (fun i hi => .inr ⟨29, bit em rfl, i, hi, rfl⟩))) (sub em rfl)) h

theorem foot_execFlowPathTimeout {a1 a2} (h : Foot μ s₀ s) (em : 0x41000000000000000000012000e00000000020 ||| μ = μ) : ∀ t, execFlowPathTimeout a1 a2 s = .next t → Foot μ s₀ t := by
  intro t e
  unfold execFlowPathTimeout at e
  injection e with e
  subst e
  exact foot_whenOn (fun _ h1 => foot_pathTimeout h1 (sub em rfl)) h

theorem foot_ancPacket {a1 a2 a3 a4 a5} (h : Foot μ s₀ s) (em : 0x41000000000000000001012080e0000000002a ||| μ = μ) : Foot μ s₀ (ancPacket a1 a2 a3 a4 a5 s) := by
  unfold ancPacket
  extract_lets -merge -useContext +onlyGivenNames x1
  clear_value x1
  extract_lets -merge -useContext +onlyGivenNames x2
  clear_value x2
  split
  · exact foot_flowBad h (sub em rfl)
  · extract_lets -merge -useContext +onlyGivenNames x4
    clear_value x4
    extract_lets -merge -useContext +onlyGivenNames s5
    have h5 : Foot μ s₀ s5 := foot_when (fun _ h5 => foot_ancRepair h5 (sub em rfl)) h
    clear_value s5
    refine Foot.ite h5 ?_
    · extract_lets -merge -useContext +onlyGivenNames x6
      clear_value x6
      extract_lets -merge -useContext +onlyGivenNames x7
      clear_value x7
      extract_lets -merge -useContext +onlyGivenNames x8
      clear_value x8
      extract_lets -merge -useContext +onlyGivenNames x9
      clear_value x9
      extract_lets -merge -useContext +onlyGivenNames x10
      clear_value x10
      extract_lets -merge -useContext +onlyGivenNames s11
      have h11 : Foot μ s₀ s11 := foot_when (fun _ h11 => foot_setFlow h11 (sub em rfl)) h5
      clear_value s11
      extract_lets -merge -useContext +onlyGivenNames s12
      have h12 : Foot μ s₀ s12 := foot_forEach (fun _ _ h12 => foot_ancWrite h12 (sub em rfl)) h11
      clear_value s12
      exact Foot.ite (foot_setFldAt h12 (fun i hi => .inr ⟨29, bit em rfl, i, hi, rfl⟩)) h12

theorem foot_copyTile {a1 a2 a3} (h : Foot μ s₀ s) (em : 0x80000000000000000000020006 ||| μ = μ) : Foot μ s₀ (copyTile a1 a2 a3 s) := by
  unfold copyTile
  exact Foot.ite (foot_copyBytes (foot_copyBytes h (sub em rfl)) (sub em rfl)) (foot_copyBytes h (sub em rfl))

theorem foot_flowPacket {a1 a2 a3 a4 a5 a6} (h : Foot μ s₀ s) (em : 0x410000000000000000018120c0e4000000002a ||| μ = μ) : Foot μ s₀ (flowPacket a1 a2 a3 a4 a5 a6 s) := by
  unfold flowPacket
  extract_lets -merge -useContext +onlyGivenNames x1
  clear_value x1
  refine Foot.ite (foot_ethDiscard h (sub em rfl)) ?_
  · split
    · exact foot_flowBad h (sub em rfl)
    · refine Foot.ite (foot_flowBad h (sub em rfl)) ?_
      · refine Foot.ite (Foot.ite (foot_incFldAt h (fun i hi => .inr ⟨39, bit em rfl, i, hi, rfl⟩)) (foot_ancPacket (foot_pathLive h (sub em rfl)) (sub em rfl))) ?_
        · split
          · exact foot_flowBad h (sub em rfl)
          · extract_lets -merge -useContext +onlyGivenNames s4
            have h4 : Foot μ s₀ s4 := foot_pathLive h (sub em rfl)
            clear_value s4
            exact Foot.ite (foot_incFldAt h4 (fun i hi => .inr ⟨39, bit em rfl, i, hi, rfl⟩)) (foot_keepPacket h4 (sub em rfl))

theorem foot_ipRules {a1 a2 a3 a4} (h : Foot μ s₀ s) (em : 0x410000000000000000018120c0e40000c0002a ||| μ = μ) : Foot μ s₀ (ipRules a1 a2 a3 a4 s).1 := by
  unfold ipRules
  dsimp only
  split
  · exact foot_ethDiscard h (sub em rfl)
  · refine Foot.iteFst (foot_fragmentHeld h (sub em rfl)) (Foot.iteFst (foot_igmpReceived h (sub em rfl)) (Foot.iteFst (foot_answerEcho h (sub em rfl)) ?_))
    split
    · rename_i e
      split at e
      · exact foot_udpRules h (sub em rfl) _ e
      · cases e
    · refine Foot.iteFst (foot_ethDiscard h (sub em rfl)) ?_
      split
      · exact foot_flowPacket h (sub em rfl)
      · exact foot_ethDiscard h (sub em rfl)

theorem foot_admitFlows (h : Foot μ s₀ s) (em : 0x41000000000000000000816040e00000000028 ||| μ = μ) : Foot μ s₀ (admitFlows s) := by
  unfold admitFlows
  exact Foot.ite h (foot_forEach (fun _ _ h2 => foot_settleFlow h2 (sub em rfl)) h)

theorem foot_ethModeWritten (h : Foot μ s₀ s) (em : 0x4000000041000000000000000000816040e00000000028 ||| μ = μ) : Foot μ s₀ (ethModeWritten s) := by
  unfold ethModeWritten
  extract_lets -merge -useContext +onlyGivenNames x1
  clear_value x1
  extract_lets -merge -useContext +onlyGivenNames s2
  have h2 : Foot μ s₀ s2 := foot_forEach (fun _ _ h2 => foot_setInst h2 (fun i hi => .inr ⟨150, bit em rfl, i, hi, rfl⟩)) h
  clear_value s2
  extract_lets -merge -useContext +onlyGivenNames s3
  have h3 : Foot μ s₀ s3 := foot_when (fun _ h3 => foot_raise h3 (sub em rfl)) h2
  clear_value s3
  exact foot_admitFlows (foot_setEth h3 (sub em rfl)) (sub em rfl)

theorem foot_flowWritten {a1} (h : Foot μ s₀ s) (em : 0x41000000000000000000816040e00000800028 ||| μ = μ) : Foot μ s₀ (flowWritten a1 s) := by
  unfold flowWritten
  exact foot_admitFlows (foot_membershipsChanged h (sub em rfl)) (sub em rfl)

theorem foot_ethUp {a1} (h : Foot μ s₀ s) (em : 0x4000000041000000000000000000816040e00000800028 ||| μ = μ) : Foot μ s₀ (ethUp a1 s) := by
  unfold ethUp
  refine Foot.ite ?_ h
  · extract_lets -merge -useContext +onlyGivenNames s1
    have h1 : Foot μ s₀ s1 := foot_setFlagAt (foot_setFlagAt (foot_setFlagAt (foot_setFlagAt h (fun i hi => .inr ⟨150, bit em rfl, i, hi, rfl⟩)) (fun i hi => .inr ⟨150, bit em rfl, i, hi, rfl⟩)) (fun i hi => .inr ⟨150, bit em rfl, i, hi, rfl⟩)) (fun i hi => .inr ⟨150, bit em rfl, i, hi, rfl⟩)
    clear_value s1
    exact foot_admitFlows (foot_gratuitousArp (foot_raise h1 (sub em rfl)) (sub em rfl)) (sub em rfl)

theorem foot_ethReceive {a1 a2} (h : Foot μ s₀ s) (em : 0x410000000000000000018120c0e60000c0002a ||| μ = μ) : Foot μ s₀ (ethReceive a1 a2 s).1 := by
  unfold ethReceive
  exact Foot.iteFst h (Foot.iteFst (foot_incFldAt h (fun i hi => .inr ⟨9, bit em rfl, i, hi, rfl⟩)) (Foot.iteFst (foot_ethDiscard h (sub em rfl)) (Foot.iteFst (foot_ethDiscard h (sub em rfl)) (Foot.iteFst (foot_answerArp h (sub em rfl)) (Foot.iteFst (foot_ethDiscard h (sub em rfl)) (foot_ipRules h (sub em rfl)))))))

theorem foot_flowStart {a1} (h : Foot μ s₀ s) (em : 0x41000000000000000000816040e00000000028 ||| μ = μ) : Foot μ s₀ (flowStart a1 s) := by
  unfold flowStart
  extract_lets -merge -useContext +onlyGivenNames s1
  have h1 : Foot μ s₀ s1 := foot_settleFences h (sub em rfl)
  clear_value s1
  extract_lets -merge -useContext +onlyGivenNames x2
  clear_value x2
  extract_lets -merge -useContext +onlyGivenNames x3
  clear_value x3
  refine Foot.ite h1 ?_
  · split
    · exact foot_setFldAt (foot_setFlow h1 (sub em rfl)) (fun i hi => .inr ⟨29, bit em rfl, i, hi, rfl⟩)
    · exact foot_enterShed h1 (sub em rfl)
    · refine Foot.ite (Foot.ite h1 (foot_admitFlows h1 (sub em rfl))) ?_
      · refine Foot.ite h1 ?_
        · refine Foot.ite (foot_setFldAt (foot_flowForget h1 (sub em rfl)) (fun i hi => .inr ⟨29, bit em rfl, i, hi, rfl⟩)) ?_
          · split
            · extract_lets -merge -useContext +onlyGivenNames s6
              have h6 : Foot μ s₀ s6 := foot_setFlow h1 (sub em rfl)
              clear_value s6
              exact foot_setFldAt h6 (fun i hi => .inr ⟨30, bit em rfl, i, hi, rfl⟩)
            · exact h1

theorem foot_ethDown {a1 a2 a3} (h : Foot μ s₀ s) (em : 0x4000000041000000000000000000816040e00000000028 ||| μ = μ) : Foot μ s₀ (ethDown a1 a2 a3 s) := by
  unfold ethDown
  extract_lets -merge -useContext +onlyGivenNames s1
  have h1 : Foot μ s₀ s1 := foot_when (fun _ h1 => foot_setFlagAt (foot_setFlagAt h1 (fun i hi => .inr ⟨150, bit em rfl, i, hi, rfl⟩)) (fun i hi => .inr ⟨150, bit em rfl, i, hi, rfl⟩)) h
  clear_value s1
  exact Foot.ite (foot_admitFlows (foot_raise (foot_setFlagAt (foot_setFlagAt h1 (fun i hi => .inr ⟨150, bit em rfl, i, hi, rfl⟩)) (fun i hi => .inr ⟨150, bit em rfl, i, hi, rfl⟩)) (sub em rfl)) (sub em rfl)) h1

theorem foot_execFlowFrameStart {a1} (h : Foot μ s₀ s) (em : 0x41000000000000000000816040e00000000028 ||| μ = μ) : ∀ t, execFlowFrameStart a1 s = .next t → Foot μ s₀ t := by
  intro t e
  unfold execFlowFrameStart at e
  injection e with e
  subst e
  exact foot_whenOn (fun _ h1 => foot_flowStart h1 (sub em rfl)) h

theorem foot_writeFrame {a1 a2 a3} (h : Foot μ s₀ s) (em : 0x80000000000000000000020006 ||| μ = μ) : Foot μ s₀ (writeFrame a1 a2 a3 s) := by
  unfold writeFrame
  extract_lets -merge -useContext +onlyGivenNames x1
  clear_value x1
  extract_lets -merge -useContext +onlyGivenNames x2
  clear_value x2
  extract_lets -merge -useContext +onlyGivenNames x3
  clear_value x3
  extract_lets -merge -useContext +onlyGivenNames x4
  clear_value x4
  refine foot_forEach ?_ h
  · intro _ _ h5
    split
    · exact foot_writeTile h5 (sub em rfl)
    · exact foot_copyTile h5 (sub em rfl)

theorem foot_execEthLinkUp {a1} (h : Foot μ s₀ s) (em : 0x4000000041000000000000000000816040e00000800028 ||| μ = μ) : ∀ t, execEthLinkUp a1 s = .next t → Foot μ s₀ t := by
  intro t e
  unfold execEthLinkUp at e
  injection e with e
  subst e
  exact foot_ethUp h (sub em rfl)

theorem foot_closeFrame {a1 a2 a3 a4} (h : Foot μ s₀ s) (em : 0x41000000000080000000417dc0e0000022402e ||| μ = μ) : Foot μ s₀ (closeFrame a1 a2 a3 a4 s) := by
  unfold closeFrame
  extract_lets -merge -useContext +onlyGivenNames x1
  clear_value x1
  extract_lets -merge -useContext +onlyGivenNames x2
  clear_value x2
  extract_lets -merge -useContext +onlyGivenNames x3
  clear_value x3
  extract_lets -merge -useContext +onlyGivenNames x4
  clear_value x4
  extract_lets -merge -useContext +onlyGivenNames s5
  have h5 : Foot μ s₀ s5 := foot_addFldAt (foot_addFldAt h (fun i hi => .inr ⟨23, bit em rfl, i, hi, rfl⟩)) (fun i hi => .inr ⟨38, bit em rfl, i, hi, rfl⟩)
  clear_value s5
  extract_lets -merge -useContext +onlyGivenNames s6
  have h6 : Foot μ s₀ s6 := foot_when (fun _ h6 => foot_writeFrame h6 (sub em rfl)) h5
  clear_value s6
  extract_lets -merge -useContext +onlyGivenNames s7
  have h7 : Foot μ s₀ s7 := foot_showFill (foot_setFlow h6 (sub em rfl)) (sub em rfl)
  clear_value s7
  refine Foot.ite ?_ (foot_raise (foot_incFldAt (foot_setFldAt h7 (fun i hi => .inr ⟨30, bit em rfl, i, hi, rfl⟩)) (fun i hi => .inr ⟨29, bit em rfl, i, hi, rfl⟩)) (sub em rfl))
  · extract_lets -merge -useContext +onlyGivenNames x8
    clear_value x8
    extract_lets -merge -useContext +onlyGivenNames _ s9
    have h9 : Foot μ s₀ s9 := foot_publish (Foot.red h7 (bit em rfl)) (sub em rfl)
    clear_value s9
    exact foot_when (fun _ h10 => foot_raise h10 (sub em rfl)) h9

theorem foot_flowClose {a1} (h : Foot μ s₀ s) (em : 0x41000000000080000000417dc0e0000022402e ||| μ = μ) : Foot μ s₀ (flowClose a1 s) := by
  unfold flowClose
  extract_lets -merge -useContext +onlyGivenNames x1
  clear_value x1
  split
  · exact h
  · split
    · exact h
    · extract_lets -merge -useContext +onlyGivenNames s4
      have h4 : Foot μ s₀ s4 := foot_settleFences h (sub em rfl)
      clear_value s4
      exact Foot.ite (foot_closeFrame h4 (sub em rfl)) h4

theorem foot_execEthLinkDown {a1} (h : Foot μ s₀ s) (em : 0x4000000041000000000000000000816040e00000000028 ||| μ = μ) : ∀ t, execEthLinkDown a1 s = .next t → Foot μ s₀ t := by
  intro t e
  unfold execEthLinkDown at e
  injection e with e
  subst e
  exact foot_whenOn (fun _ h1 => foot_ethDown h1 (sub em rfl)) h

theorem foot_execFlowFrameClose {a1} (h : Foot μ s₀ s) (em : 0x41000000000080000000417dc0e0000022402e ||| μ = μ) : ∀ t, execFlowFrameClose a1 s = .next t → Foot μ s₀ t := by
  intro t e
  unfold execFlowFrameClose at e
  injection e with e
  subst e
  exact foot_whenOn (fun _ h1 => foot_flowClose h1 (sub em rfl)) h

end Sys2Proof.Machine
end

