-- ==== Sys2Proof/Laws/Foot5.lean ====
section
/-! SUPPORT. The relation Foot holds of each operation of Machine/: Redundancy, Boot, Dram. -/

namespace Sys2Proof.Machine

variable {μ : Nat} {s₀ s t : State}

/-! ### Machine/Redundancy.lean -/

theorem foot_setRed {a1} (h : Foot μ s₀ s) (em : 0x200000 ||| μ = μ) : Foot μ s₀ (setRed a1 s) := by
  unfold setRed
  exact Foot.red h (bit em rfl)

theorem foot_joinStandby (h : Foot μ s₀ s) (em : 0x4000000200000 ||| μ = μ) : Foot μ s₀ (joinStandby s) := by
  unfold joinStandby
  exact foot_setRed (foot_setFlag (foot_setFld h (fun i hi => .inr ⟨18, bit em rfl, i, hi, rfl⟩)) (fun i hi => .inr ⟨18, bit em rfl, i, hi, rfl⟩)) (sub em rfl)

theorem foot_forgetPaths (h : Foot μ s₀ s) (em : 0x4000000200000 ||| μ = μ) : Foot μ s₀ (forgetPaths s) := by
  unfold forgetPaths
  exact foot_setFlag (foot_setFlag (foot_setFlag (foot_setFld (foot_setRed h (sub em rfl)) (fun i hi => .inr ⟨18, bit em rfl, i, hi, rfl⟩)) (fun i hi => .inr ⟨18, bit em rfl, i, hi, rfl⟩)) (fun i hi => .inr ⟨18, bit em rfl, i, hi, rfl⟩)) (fun i hi => .inr ⟨18, bit em rfl, i, hi, rfl⟩)

theorem foot_promotedSequences (h : Foot μ s₀ s) (em : 0x200000 ||| μ = μ) : Foot μ s₀ (promotedSequences s) := by
  unfold promotedSequences
  exact foot_setRed h (sub em rfl)

theorem foot_endAssigning (h : Foot μ s₀ s) (em : 0x200000 ||| μ = μ) : Foot μ s₀ (endAssigning s) := by
  unfold endAssigning
  exact foot_setRed h (sub em rfl)

theorem foot_execSnapshotPeriod (h : Foot μ s₀ s) (em : 0x200000 ||| μ = μ) : ∀ t, execSnapshotPeriod s = .next t → Foot μ s₀ t := by
  intro t e
  unfold execSnapshotPeriod at e
  injection e with e
  subst e
  exact foot_whenOn (fun _ h1 => Foot.ite (foot_setRed h1 (sub em rfl)) h1) h

theorem foot_execSwapTimer (h : Foot μ s₀ s) (em : 0x200000 ||| μ = μ) : ∀ t, execSwapTimer s = .next t → Foot μ s₀ t := by
  intro t e
  unfold execSwapTimer at e
  injection e with e
  subst e
  exact foot_whenOn (fun _ h1 => Foot.ite (foot_setRed h1 (sub em rfl)) h1) h

theorem foot_sendClaim (h : Foot μ s₀ s) (em : 0x2080 ||| μ = μ) : Foot μ s₀ (sendClaim s) := by
  unfold sendClaim
  exact foot_forEach (fun _ _ h2 => foot_sendTopOwn h2 (sub em rfl)) h

theorem foot_heartbeatSend (h : Foot μ s₀ s) (em : 0x2080 ||| μ = μ) : Foot μ s₀ (heartbeatSend s) := by
  unfold heartbeatSend
  exact Foot.ite h (foot_forEach (fun _ _ h3 => foot_sendTopOwn h3 (sub em rfl)) h)

theorem foot_execHeartbeatSend (h : Foot μ s₀ s) (em : 0x2080 ||| μ = μ) : ∀ t, execHeartbeatSend s = .next t → Foot μ s₀ t := by
  intro t e
  unfold execHeartbeatSend at e
  injection e with e
  subst e
  exact foot_whenOn (fun _ h1 => foot_heartbeatSend h1 (sub em rfl)) h

theorem foot_relayEmit (h : Foot μ s₀ s) (em : 0x400000000000000000000000200080 ||| μ = μ) : Foot μ s₀ (relayEmit s) := by
  unfold relayEmit
  split
  · exact h
  · extract_lets -merge -useContext +onlyGivenNames s2
    have h2 : Foot μ s₀ s2 := foot_setRed h (sub em rfl)
    clear_value s2
    exact Foot.ite (foot_sendBase h2 (sub em rfl)) (foot_incFld h2 (fun i hi => .inr ⟨86, bit em rfl, i, hi, rfl⟩))

theorem foot_clearSwap (h : Foot μ s₀ s) (em : 0x1800000000000000004000000200000 ||| μ = μ) : Foot μ s₀ (clearSwap s) := by
  unfold clearSwap
  exact foot_setRed (foot_setFlag (foot_setPair h (fun i hi => .inr ⟨88, bit em rfl, i, hi, rfl⟩) (fun i hi => .inr ⟨87, bit em rfl, i, hi, rfl⟩)) (fun i hi => .inr ⟨18, bit em rfl, i, hi, rfl⟩)) (sub em rfl)

theorem foot_execRelayEntryEmit (h : Foot μ s₀ s) (em : 0x400000000000000000000000200080 ||| μ = μ) : ∀ t, execRelayEntryEmit s = .next t → Foot μ s₀ t := by
  intro t e
  unfold execRelayEntryEmit at e
  injection e with e
  subst e
  exact foot_whenOn (fun _ h1 => foot_relayEmit h1 (sub em rfl)) h

theorem foot_claimResend (h : Foot μ s₀ s) (em : 0x202080 ||| μ = μ) : Foot μ s₀ (claimResend s) := by
  unfold claimResend
  exact Foot.ite (foot_sendClaim (foot_setRed h (sub em rfl)) (sub em rfl)) h

theorem foot_claim {a1} (h : Foot μ s₀ s) (em : 0x2000000000000000000004000000202080 ||| μ = μ) : Foot μ s₀ (claim a1 s) := by
  unfold claim
  extract_lets -merge -useContext +onlyGivenNames x1
  clear_value x1
  extract_lets -merge -useContext +onlyGivenNames s2
  have h2 : Foot μ s₀ s2 := foot_setFld (foot_setFld h (fun i hi => .inr ⟨101, bit em rfl, i, hi, rfl⟩)) (fun i hi => .inr ⟨18, bit em rfl, i, hi, rfl⟩)
  clear_value s2
  exact foot_sendClaim (foot_setRed h2 (sub em rfl)) (sub em rfl)

theorem foot_journal {a1 a2 a3 a4 a5} (h : Foot μ s₀ s) (em : 0x8000000000000000000000000000000002080 ||| μ = μ) : Foot μ s₀ (journal a1 a2 a3 a4 a5 s) := by
  unfold journal
  refine Foot.ite h ?_
  · extract_lets -merge -useContext +onlyGivenNames x1
    clear_value x1
    extract_lets -merge -useContext +onlyGivenNames s2
    have h2 : Foot μ s₀ s2 := foot_setFld h (fun i hi => .inr ⟨115, bit em rfl, i, hi, rfl⟩)
    clear_value s2
    exact Foot.ite (foot_setPort (foot_sendBaseOwn h2 (sub em rfl)) (sub em rfl)) h2

theorem foot_emitRing {a1 a2 a3 a4} (h : Foot μ s₀ s) (em : 0x8000000000000000000000000000000202080 ||| μ = μ) : Foot μ s₀ (emitRing a1 a2 a3 a4 s) := by
  unfold emitRing
  extract_lets -merge -useContext +onlyGivenNames x1
  clear_value x1
  split
  · extract_lets -merge -useContext +onlyGivenNames x3
    clear_value x3
    extract_lets -merge -useContext +onlyGivenNames x4
    clear_value x4
    extract_lets -merge -useContext +onlyGivenNames s5
    have h5 : Foot μ s₀ s5 := foot_setRed h (sub em rfl)
    clear_value s5
    extract_lets -merge -useContext +onlyGivenNames s6
    have h6 : Foot μ s₀ s6 := foot_journal h5 (sub em rfl)
    clear_value s6
    exact foot_sendBase h6 (sub em rfl)

theorem foot_listenEnd (h : Foot μ s₀ s) (em : 0x2000000000000000000004000000202080 ||| μ = μ) : Foot μ s₀ (listenEnd s) := by
  unfold listenEnd
  exact Foot.ite (Foot.ite (foot_setRed h (sub em rfl)) (foot_claim h (sub em rfl))) h

theorem foot_releaseHeld {a1} (h : Foot μ s₀ s) (em : 0x8000000000000000000000000000000202080 ||| μ = μ) : Foot μ s₀ (releaseHeld a1 s) := by
  unfold releaseHeld
  extract_lets -merge -useContext +onlyGivenNames x1
  extract_lets -merge -useContext +onlyGivenNames x2
  clear_value x2
  extract_lets -merge -useContext +onlyGivenNames s3
  have h3 : Foot μ s₀ s3 := foot_setRed h (sub em rfl)
  clear_value s3
  exact foot_forEach (fun _ _ h4 => foot_emitRing h4 (sub em rfl)) h3

theorem foot_sendRing {a1 a2 a3 a4} (h : Foot μ s₀ s) (em : 0x8000000000000000000000000000000202080 ||| μ = μ) : Foot μ s₀ (sendRing a1 a2 a3 a4 s) := by
  unfold sendRing
  split
  · exact Foot.ite (foot_setRed h (sub em rfl)) (foot_emitRing h (sub em rfl))
  · exact foot_emitRing h (sub em rfl)

theorem foot_execClaimResend (h : Foot μ s₀ s) (em : 0x202080 ||| μ = μ) : ∀ t, execClaimResend s = .next t → Foot μ s₀ t := by
  intro t e
  unfold execClaimResend at e
  injection e with e
  subst e
  exact foot_whenOn (fun _ h1 => foot_claimResend h1 (sub em rfl)) h

theorem foot_judgeSplit (h : Foot μ s₀ s) (em : 0x141000000000000000000010000e00000000020 ||| μ = μ) : Foot μ s₀ (judgeSplit s) := by
  unfold judgeSplit
  extract_lets -merge -useContext +onlyGivenNames x1
  clear_value x1
  extract_lets -merge -useContext +onlyGivenNames x2
  clear_value x2
  extract_lets -merge -useContext +onlyGivenNames x3
  clear_value x3
  extract_lets -merge -useContext +onlyGivenNames s4
  have h4 : Foot μ s₀ s4 := foot_setFlag (foot_setFlag h (fun i hi => .inr ⟨120, bit em rfl, i, hi, rfl⟩)) (fun i hi => .inr ⟨120, bit em rfl, i, hi, rfl⟩)
  clear_value s4
  exact Foot.ite (foot_raise h4 (sub em rfl)) h4

theorem foot_promote (h : Foot μ s₀ s) (em : 0xc041002001800000000000010004e000002020a0 ||| μ = μ) : Foot μ s₀ (promote s) := by
  unfold promote
  extract_lets -merge -useContext +onlyGivenNames x1
  clear_value x1
  extract_lets -merge -useContext +onlyGivenNames s2
  have h2 : Foot μ s₀ s2 := foot_promotedSequences (foot_claim (foot_clearSwap h (sub em rfl)) (sub em rfl)) (sub em rfl)
  clear_value s2
  extract_lets -merge -useContext +onlyGivenNames s3
  have h3 : Foot μ s₀ s3 := foot_raise h2 (sub em rfl)
  clear_value s3
  refine Foot.ite ?_ h3
  · extract_lets -merge -useContext +onlyGivenNames s4
    have h4 : Foot μ s₀ s4 := Foot.ite (foot_setFld (foot_setFld h3 (fun i hi => .inr ⟨127, bit em rfl, i, hi, rfl⟩)) (fun i hi => .inr ⟨126, bit em rfl, i, hi, rfl⟩)) (Foot.ite h3 (foot_setFld (foot_setFld h3 (fun i hi => .inr ⟨127, bit em rfl, i, hi, rfl⟩)) (fun i hi => .inr ⟨126, bit em rfl, i, hi, rfl⟩)))
    clear_value s4
    exact foot_raise h4 (sub em rfl)

theorem foot_oneSidedCheck (h : Foot μ s₀ s) (em : 0x41000000000000000000010030e000000000a0 ||| μ = μ) : Foot μ s₀ (oneSidedCheck s) := by
  unfold oneSidedCheck
  refine Foot.ite h ?_
  · extract_lets -merge -useContext +onlyGivenNames x1
    clear_value x1
    extract_lets -merge -useContext +onlyGivenNames x2
    clear_value x2
    extract_lets -merge -useContext +onlyGivenNames s3
    have h3 : Foot μ s₀ s3 := Foot.ite (foot_raise (foot_setFlag h (fun i hi => .inr ⟨21, bit em rfl, i, hi, rfl⟩)) (sub em rfl)) (Foot.ite (foot_raise (foot_setFlag h (fun i hi => .inr ⟨20, bit em rfl, i, hi, rfl⟩)) (sub em rfl)) h)
    clear_value s3
    exact foot_forEach (fun _ _ h4 => foot_setPort h4 (sub em rfl)) h3

theorem foot_execRedListenEnd (h : Foot μ s₀ s) (em : 0x2000000000000000000004000000202080 ||| μ = μ) : ∀ t, execRedListenEnd s = .next t → Foot μ s₀ t := by
  intro t e
  unfold execRedListenEnd at e
  injection e with e
  subst e
  exact foot_whenOn (fun _ h1 => foot_listenEnd h1 (sub em rfl)) h

theorem foot_tileRecordOld {a1} (h : Foot μ s₀ s) (em : 0xc000141000000000000000000010030e00000000020 ||| μ = μ) : Foot μ s₀ (tileRecordOld a1 s) := by
  unfold tileRecordOld
  refine Foot.ite (foot_judgeSplit (foot_setFlag h ?_) (sub em rfl)) h
  unfold tileRecord
  split
  · exact (show FldIn μ F.RED_TILE_A_seen from (fun i hi => .inr ⟨20, bit em rfl, i, hi, rfl⟩))
  · exact (show FldIn μ F.RED_TILE_B_seen from (fun i hi => .inr ⟨21, bit em rfl, i, hi, rfl⟩))

theorem foot_showRingOk {a1} (h : Foot μ s₀ s) (em : 0x41000000000000000000010004e00000000020 ||| μ = μ) : Foot μ s₀ (showRingOk a1 s) := by
  unfold showRingOk
  extract_lets -merge -useContext +onlyGivenNames x1
  clear_value x1
  extract_lets -merge -useContext +onlyGivenNames x2
  clear_value x2
  extract_lets -merge -useContext +onlyGivenNames s3
  have h3 : Foot μ s₀ s3 := foot_setFlag h (fun i hi => .inr ⟨18, bit em rfl, i, hi, rfl⟩)
  clear_value s3
  exact Foot.ite (foot_raise h3 (sub em rfl)) h3

theorem foot_standDown (h : Foot μ s₀ s) (em : 0x41000001800000000000010004e00000200020 ||| μ = μ) : Foot μ s₀ (standDown s) := by
  unfold standDown
  exact foot_raise (foot_endAssigning (foot_clearSwap (foot_joinStandby h (sub em rfl)) (sub em rfl)) (sub em rfl)) (sub em rfl)

theorem foot_swapBoundary {a1} (h : Foot μ s₀ s) (em : 0x41002001800000000000010004e000002020a0 ||| μ = μ) : Foot μ s₀ (swapBoundary a1 s) := by
  unfold swapBoundary
  refine Foot.ite (foot_raise (foot_endAssigning (foot_setFlag (foot_setFld (foot_clearSwap h (sub em rfl)) (fun i hi => .inr ⟨18, bit em rfl, i, hi, rfl⟩)) (fun i hi => .inr ⟨18, bit em rfl, i, hi, rfl⟩)) (sub em rfl)) (sub em rfl)) ?_
  · split
    · refine Foot.ite ?_ h
      · extract_lets -merge -useContext +onlyGivenNames s2
        have h2 : Foot μ s₀ s2 := foot_claim (foot_clearSwap h (sub em rfl)) (sub em rfl)
        clear_value s2
        extract_lets -merge -useContext +onlyGivenNames s3
        have h3 : Foot μ s₀ s3 := foot_setRed h2 (sub em rfl)
        clear_value s3
        exact foot_raise h3 (sub em rfl)
    · exact h

theorem foot_tileRecordTake (h : Foot μ s₀ s) (em : 0xc000141000000000000000000010030e00000202020 ||| μ = μ) : Foot μ s₀ (tileRecordTake s) := by
  unfold tileRecordTake
  refine Foot.ite h ?_
  split
  · exact h
  · rename_i d s1 e1
    have h1 := Foot.ofSome (foot_takeInbox h (sub em rfl)) e1
    clear e1
    unfold tileRecord
    dsimp only
    by_cases hp : (d.port == 0) = true <;> simp only [hp, if_true, if_false, Bool.false_eq_true]
    · exact foot_judgeSplit (Foot.ite (foot_setRed (foot_setFlag (foot_setFlag (foot_setFlag (foot_setFld h1
        (fun i hi => .inr ⟨138, bit em rfl, i, hi, rfl⟩)) (fun i hi => .inr ⟨20, bit em rfl, i, hi, rfl⟩)) (fun i hi => .inr ⟨20, bit em rfl, i, hi, rfl⟩)) (fun i hi => .inr ⟨20, bit em rfl, i, hi, rfl⟩)) (sub em rfl))
        (foot_setFlag (foot_setFlag (foot_setFlag (foot_setFld h1
        (fun i hi => .inr ⟨138, bit em rfl, i, hi, rfl⟩)) (fun i hi => .inr ⟨20, bit em rfl, i, hi, rfl⟩)) (fun i hi => .inr ⟨20, bit em rfl, i, hi, rfl⟩)) (fun i hi => .inr ⟨20, bit em rfl, i, hi, rfl⟩))) (sub em rfl)
    · exact foot_judgeSplit (Foot.ite (foot_setRed (foot_setFlag (foot_setFlag (foot_setFlag (foot_setFld h1
        (fun i hi => .inr ⟨139, bit em rfl, i, hi, rfl⟩)) (fun i hi => .inr ⟨21, bit em rfl, i, hi, rfl⟩)) (fun i hi => .inr ⟨21, bit em rfl, i, hi, rfl⟩)) (fun i hi => .inr ⟨21, bit em rfl, i, hi, rfl⟩)) (sub em rfl))
        (foot_setFlag (foot_setFlag (foot_setFlag (foot_setFld h1
        (fun i hi => .inr ⟨139, bit em rfl, i, hi, rfl⟩)) (fun i hi => .inr ⟨21, bit em rfl, i, hi, rfl⟩)) (fun i hi => .inr ⟨21, bit em rfl, i, hi, rfl⟩)) (fun i hi => .inr ⟨21, bit em rfl, i, hi, rfl⟩))) (sub em rfl)

theorem foot_execTileRecordExpire {a1} (h : Foot μ s₀ s) (em : 0xc000141000000000000000000010030e00000000020 ||| μ = μ) : ∀ t, execTileRecordExpire a1 s = .next t → Foot μ s₀ t := by
  intro t e
  unfold execTileRecordExpire at e
  injection e with e
  subst e
  exact foot_whenOn (fun _ h1 => foot_tileRecordOld h1 (sub em rfl)) h

theorem foot_partnerActive {a1 a2} (h : Foot μ s₀ s) (em : 0x41000001800000000000010004e00000200020 ||| μ = μ) : Foot μ s₀ (partnerActive a1 a2 s) := by
  unfold partnerActive
  exact Foot.ite (foot_joinStandby h (sub em rfl)) (Foot.ite (foot_standDown h (sub em rfl)) h)

theorem foot_execTileRedundancyRecord (h : Foot μ s₀ s) (em : 0xc000141000000000000000000010030e00000202020 ||| μ = μ) : ∀ t, execTileRedundancyRecord s = .next t → Foot μ s₀ t := by
  intro t e
  unfold execTileRedundancyRecord at e
  injection e with e
  subst e
  exact foot_whenOn (fun _ h1 => foot_tileRecordTake h1 (sub em rfl)) h

theorem foot_setRingSeen {a1 a2} (h : Foot μ s₀ s) (em : 0x41000000000000000000010004e00000000020 ||| μ = μ) : Foot μ s₀ (setRingSeen a1 a2 s) := by
  unfold setRingSeen
  exact foot_showRingOk (foot_setFld h (fun i hi => .inr ⟨18, bit em rfl, i, hi, rfl⟩)) (sub em rfl)

theorem foot_ringPortWritten (h : Foot μ s₀ s) (em : 0x41000000000000000000010004e00000000020 ||| μ = μ) : Foot μ s₀ (ringPortWritten s) := by
  unfold ringPortWritten
  exact Foot.ite (foot_showRingOk h (sub em rfl)) h

theorem foot_claimTake (h : Foot μ s₀ s) (em : 0x8000000041000001800000000000010004e00000202020 ||| μ = μ) : Foot μ s₀ (claimTake s) := by
  unfold claimTake
  refine Foot.ite h ?_
  · split
    · exact h
    · exact Foot.ite (Foot.ofSome (foot_takeInbox h (sub em rfl)) ‹_›) (foot_partnerActive (foot_setFld (Foot.ofSome (foot_takeInbox h (sub em rfl)) ‹_›) (fun i hi => .inr ⟨151, bit em rfl, i, hi, rfl⟩)) (sub em rfl))

theorem foot_redCfgWritten {a1} (h : Foot μ s₀ s) (em : 0x41000001800000000000010004e00000200020 ||| μ = μ) : Foot μ s₀ (redCfgWritten a1 s) := by
  unfold redCfgWritten
  exact Foot.ite (foot_showRingOk (foot_setRed (foot_forgetPaths (foot_setFlag (foot_setFld h (fun i hi => .inr ⟨18, bit em rfl, i, hi, rfl⟩)) (fun i hi => .inr ⟨18, bit em rfl, i, hi, rfl⟩)) (sub em rfl)) (sub em rfl)) (sub em rfl)) (Foot.ite (foot_setRed (foot_forgetPaths (foot_clearSwap (foot_setFlag (foot_setFlag (foot_setFld h (fun i hi => .inr ⟨18, bit em rfl, i, hi, rfl⟩)) (fun i hi => .inr ⟨18, bit em rfl, i, hi, rfl⟩)) (fun i hi => .inr ⟨18, bit em rfl, i, hi, rfl⟩)) (sub em rfl)) (sub em rfl)) (sub em rfl)) h)

theorem foot_pathHeard {a1} (h : Foot μ s₀ s) (em : 0x41000000000000000000010004e00000200020 ||| μ = μ) : Foot μ s₀ (pathHeard a1 s) := by
  unfold pathHeard
  extract_lets -merge -useContext +onlyGivenNames s1
  have h1 : Foot μ s₀ s1 := foot_setRed h (sub em rfl)
  clear_value s1
  exact Foot.ite (foot_setFlag h1 (fun i hi => .inr ⟨18, bit em rfl, i, hi, rfl⟩)) (foot_setRingSeen h1 (sub em rfl))

theorem foot_pathSilent {a1} (h : Foot μ s₀ s) (em : 0xc041002001800000000000010004e000002020a0 ||| μ = μ) : Foot μ s₀ (pathSilent a1 s) := by
  unfold pathSilent
  refine Foot.ite h ?_
  · extract_lets -merge -useContext +onlyGivenNames s1
    have h1 : Foot μ s₀ s1 := foot_setRed h (sub em rfl)
    clear_value s1
    extract_lets -merge -useContext +onlyGivenNames s2
    have h2 : Foot μ s₀ s2 := Foot.ite (foot_tieLost h1 (sub em rfl)) (foot_setRingSeen h1 (sub em rfl))
    clear_value s2
    exact Foot.ite (foot_promote h2 (sub em rfl)) h2

theorem foot_execClaimReceive (h : Foot μ s₀ s) (em : 0x8000000041000001800000000000010004e00000202020 ||| μ = μ) : ∀ t, execClaimReceive s = .next t → Foot μ s₀ t := by
  intro t e
  unfold execClaimReceive at e
  injection e with e
  subst e
  exact foot_whenOn (fun _ h1 => foot_claimTake h1 (sub em rfl)) h

theorem foot_execPathSilent {a1} (h : Foot μ s₀ s) (em : 0xc041002001800000000000010004e000002020a0 ||| μ = μ) : ∀ t, execPathSilent a1 s = .next t → Foot μ s₀ t := by
  intro t e
  unfold execPathSilent at e
  injection e with e
  subst e
  exact foot_whenOn (fun _ h1 => foot_pathSilent h1 (sub em rfl)) h

theorem foot_heartbeatTake (h : Foot μ s₀ s) (em : 0x8000000041000001800000000000010004e00000202020 ||| μ = μ) : Foot μ s₀ (heartbeatTake s) := by
  unfold heartbeatTake
  refine Foot.ite h ?_
  · split
    · exact h
    · extract_lets -merge -useContext +onlyGivenNames x2
      clear_value x2
      extract_lets -merge -useContext +onlyGivenNames x3
      clear_value x3
      extract_lets -merge -useContext +onlyGivenNames x4
      clear_value x4
      refine Foot.ite (Foot.ofSome (foot_takeInbox h (sub em rfl)) ‹_›) ?_
      · extract_lets -merge -useContext +onlyGivenNames s5
        have h5 : Foot μ s₀ s5 := foot_pathHeard (Foot.ofSome (foot_takeInbox h (sub em rfl)) ‹_›) (sub em rfl)
        clear_value s5
        extract_lets -merge -useContext +onlyGivenNames s6
        have h6 : Foot μ s₀ s6 := foot_setFlag (foot_setFld h5 (fun i hi => .inr ⟨151, bit em rfl, i, hi, rfl⟩)) (fun i hi => .inr ⟨18, bit em rfl, i, hi, rfl⟩)
        clear_value s6
        extract_lets -merge -useContext +onlyGivenNames s7
        have h7 : Foot μ s₀ s7 := foot_setRed h6 (sub em rfl)
        clear_value s7
        exact Foot.ite (foot_partnerActive h7 (sub em rfl)) h7

theorem foot_execHeartbeatReceive (h : Foot μ s₀ s) (em : 0x8000000041000001800000000000010004e00000202020 ||| μ = μ) : ∀ t, execHeartbeatReceive s = .next t → Foot μ s₀ t := by
  intro t e
  unfold execHeartbeatReceive at e
  injection e with e
  subst e
  exact foot_whenOn (fun _ h1 => foot_heartbeatTake h1 (sub em rfl)) h

/-! ### Machine/Boot.lean -/

theorem putRetention_wf {bs : List Byte} : ∀ {o : Nat} {m : SMap Byte}, Memory.wf zeroByte m →
    Memory.wf zeroByte (putRetention o bs m) := by
  induction bs with
  | nil => exact fun h => h
  | cons b t ih => exact fun h => ih (smPut_wf h)

theorem foot_setRetBytes {o : Nat} {bs : List Byte} (h : Foot μ s₀ s) (em : 0x40000 ||| μ = μ) : Foot μ s₀ (setRetBytes o bs s) :=
  h.trans ⟨(Keeps.refl s).trans ⟨fun ⟨c1, c2, c3, c4, c5, c6, c7⟩ => ⟨c1, c2, c3, putRetention_wf c4, c5, c6, c7⟩, rfl, rfl, id,
    List.prefix_refl _, List.suffix_refl _, Nat.le_refl _⟩,
    fun p k => by cases p <;> first | rfl | exact absurd ((bit (i := 18) em rfl).symm.trans k) (by decide), fun _ _ => rfl⟩

theorem foot_writeBootRecord.eraseFlash {a1} (h : Foot μ s₀ s) (em : 0x100000 ||| μ = μ) : Foot μ s₀ (writeBootRecord.eraseFlash a1 s) :=
  h.flash (Memory.wf_filter ·) em

theorem foot_eraseSectors {o n : Nat} (h : Foot μ s₀ s) (em : 0x100000 ||| μ = μ) : Foot μ s₀ (eraseSectors o n s) :=
  h.flash (Memory.wf_filter ·) em

theorem foot_setUpdState {a1} (h : Foot μ s₀ s) (em : 0x80000000000 ||| μ = μ) : Foot μ s₀ (setUpdState a1 s) := by
  unfold setUpdState
  exact foot_setFld h (fun i hi => .inr ⟨11, bit em rfl, i, hi, rfl⟩)

theorem foot_setHandover {a1 a2} (h : Foot μ s₀ s) (em : 0x40000 ||| μ = μ) : Foot μ s₀ (setHandover a1 a2 s) := by
  unfold setHandover
  exact foot_setRetBytes h (sub em rfl)

theorem foot_svnRaise.showOtp (h : Foot μ s₀ s) (em : 0x2000000000000 ||| μ = μ) : Foot μ s₀ (svnRaise.showOtp s) := by
  unfold svnRaise.showOtp
  exact foot_setFld (foot_setFld h (fun i hi => .inr ⟨17, bit em rfl, i, hi, rfl⟩)) (fun i hi => .inr ⟨17, bit em rfl, i, hi, rfl⟩)

theorem putFlash_wf {bs : List Byte} : ∀ {o : Nat} {m : SMap Byte}, Memory.wf erasedByte m → Memory.wf erasedByte (putFlash o bs m) := by
  induction bs with
  | nil => exact fun h => h
  | cons b t ih => exact fun h => ih (smPut_wf h)

theorem foot_setFlashBytes {o : Nat} {bs : List Byte} (h : Foot μ s₀ s) (em : 0x100000 ||| μ = μ) : Foot μ s₀ (setFlashBytes o bs s) :=
  h.flash (putFlash_wf ·) em

theorem foot_otpProgram {a1 a2} (h : Foot μ s₀ s) (em : 0x8000000000000000 ||| μ = μ) : Foot μ s₀ (otpProgram a1 a2 s) := by
  unfold otpProgram
  exact Foot.ite h (Foot.ite (foot_setFlag (foot_setFld h (fun i hi => .inr ⟨31, bit em rfl, i, hi, rfl⟩)) (fun i hi => .inr ⟨31, bit em rfl, i, hi, rfl⟩)) (foot_setFld h (fun i hi => .inr ⟨31, bit em rfl, i, hi, rfl⟩)))

theorem foot_clearHandover (h : Foot μ s₀ s) (em : 0x40000 ||| μ = μ) : Foot μ s₀ (clearHandover s) := by
  unfold clearHandover
  exact foot_setRetBytes h (sub em rfl)

theorem foot_writeBootRecord {a1 a2} (h : Foot μ s₀ s) (em : 0x100000 ||| μ = μ) : Foot μ s₀ (writeBootRecord a1 a2 s) := by
  unfold writeBootRecord
  exact foot_setFlashBytes (foot_writeBootRecord.eraseFlash h (sub em rfl)) (sub em rfl)

theorem foot_writeSettings {a1 a2 a3} (h : Foot μ s₀ s) (em : 0x100000 ||| μ = μ) : Foot μ s₀ (writeSettings a1 a2 a3 s) := by
  unfold writeSettings
  exact foot_setFlashBytes (foot_eraseSectors h (sub em rfl)) (sub em rfl)

theorem foot_holdupCheck {a1} (h : Foot μ s₀ s) (em : 0x100000000000000000000000000000000 ||| μ = μ) : Foot μ s₀ (holdupCheck a1 s).2 := by
  unfold holdupCheck
  exact foot_setFlag (foot_setFld h (fun i hi => .inr ⟨96, bit em rfl, i, hi, rfl⟩)) (fun i hi => .inr ⟨96, bit em rfl, i, hi, rfl⟩)

theorem foot_programImage {a1 a2} (h : Foot μ s₀ s) (em : 0x80000100000 ||| μ = μ) : Foot μ s₀ (programImage a1 a2 s) := by
  unfold programImage
  split
  · exact h
  · extract_lets -merge -useContext +onlyGivenNames s2
    have h2 : Foot μ s₀ s2 := foot_setFlashBytes h (sub em rfl)
    clear_value s2
    exact Foot.ite (foot_setUpdState h2 (sub em rfl)) h2

theorem foot_programDone (h : Foot μ s₀ s) (em : 0x100000000000000000000080000100000 ||| μ = μ) : Foot μ s₀ (programDone s) := by
  unfold programDone
  split
  · exact h
  · refine Foot.ite h ?_
    · extract_lets -merge -useContext +onlyGivenNames s2
      have h2 : Foot μ s₀ s2 := foot_programImage (foot_setBoot h ⟨rfl, rfl, rfl⟩ (sub em rfl)) (sub em rfl)
      clear_value s2
      refine Foot.ite h2 ?_
      · split
        · exact foot_setFlag (Foot.ofSnd (foot_holdupCheck h2 (sub em rfl)) ‹_›) (fun i hi => .inr ⟨11, bit em rfl, i, hi, rfl⟩)

theorem foot_otpDone (h : Foot μ s₀ s) (em : 0x8002000000100000 ||| μ = μ) : Foot μ s₀ (otpDone s) := by
  unfold otpDone
  refine Foot.ite (foot_setFlag (foot_setFld (foot_setFlag ?_ (fun i hi => .inr ⟨31, bit em rfl, i, hi, rfl⟩)) (fun i hi => .inr ⟨31, bit em rfl, i, hi, rfl⟩)) (fun i hi => .inr ⟨17, bit em rfl, i, hi, rfl⟩)) h
  exact h.otp (fun _ => rfl) (List.prefix_refl _) (sub em rfl)

theorem foot_execOtpLockDone (h : Foot μ s₀ s) (em : 0x8002000000100000 ||| μ = μ) : ∀ t, execOtpLockDone s = .next t → Foot μ s₀ t := by
  intro t e
  unfold execOtpLockDone at e
  injection e with e
  subst e
  exact foot_whenOn (fun _ h1 => foot_otpDone h1 (sub em rfl)) h

theorem foot_holdupWaitEnd (h : Foot μ s₀ s) (em : 0x100000000000000000000080000000000 ||| μ = μ) : Foot μ s₀ (holdupWaitEnd s) := by
  unfold holdupWaitEnd
  refine Foot.ite ?_ h
  · split
    · exact Foot.ite (foot_setFlag (Foot.ofSnd (foot_holdupCheck h (sub em rfl)) ‹_›) (fun i hi => .inr ⟨11, bit em rfl, i, hi, rfl⟩)) (Foot.ofSnd (foot_holdupCheck h (sub em rfl)) ‹_›)

theorem foot_execHoldupWaitEnd (h : Foot μ s₀ s) (em : 0x100000000000000000000080000000000 ||| μ = μ) : ∀ t, execHoldupWaitEnd s = .next t → Foot μ s₀ t := by
  intro t e
  unfold execHoldupWaitEnd at e
  injection e with e
  subst e
  exact foot_whenOn (fun _ h1 => foot_holdupWaitEnd h1 (sub em rfl)) h

theorem foot_eraseDone (h : Foot μ s₀ s) (em : 0x100000000000000000000080000100000 ||| μ = μ) : Foot μ s₀ (eraseDone s) := by
  unfold eraseDone
  split
  · exact h
  · refine Foot.ite h ?_
    · split
      · exact Foot.ite (foot_setUpdState (foot_setBoot (Foot.ofSnd (Foot.iteSnd h (foot_holdupCheck h (sub em rfl))) ‹_›) ⟨rfl, rfl, rfl⟩ (sub em rfl)) (sub em rfl)) (foot_setFlag (foot_setBoot (Foot.ofSnd (Foot.iteSnd h (foot_holdupCheck h (sub em rfl))) ‹_›) ⟨rfl, rfl, rfl⟩ (sub em rfl)) (fun i hi => .inr ⟨11, bit em rfl, i, hi, rfl⟩))

theorem foot_execFlashProgramDone (h : Foot μ s₀ s) (em : 0x100000000000000000000080000100000 ||| μ = μ) : ∀ t, execFlashProgramDone s = .next t → Foot μ s₀ t := by
  intro t e
  unfold execFlashProgramDone at e
  injection e with e
  subst e
  exact foot_whenOn (fun _ h1 => foot_programDone h1 (sub em rfl)) h

theorem foot_flashChecks {a1} (h : Foot μ s₀ s) (em : 0x100000000000000000000000000000000 ||| μ = μ) : Foot μ s₀ (flashChecks a1 s).2 := by
  unfold flashChecks
  refine Foot.iteSnd h ?_
  · split
    · exact Foot.ofSnd (foot_holdupCheck h (sub em rfl)) ‹_›

theorem foot_execUpdEraseDone (h : Foot μ s₀ s) (em : 0x100000000000000000000080000100000 ||| μ = μ) : ∀ t, execUpdEraseDone s = .next t → Foot μ s₀ t := by
  intro t e
  unfold execUpdEraseDone at e
  injection e with e
  subst e
  exact foot_whenOn (fun _ h1 => foot_eraseDone h1 (sub em rfl)) h

theorem foot_recordRewrite (h : Foot μ s₀ s) (em : 0x100000000000000000000000000100000 ||| μ = μ) : Foot μ s₀ (recordRewrite s) := by
  unfold recordRewrite
  refine Foot.ite h ?_
  · split
    · exact Foot.ite (foot_writeBootRecord (foot_setBoot (Foot.ofSnd (foot_holdupCheck h (sub em rfl)) ‹_›) ⟨rfl, rfl, rfl⟩ (sub em rfl)) (sub em rfl)) (Foot.ofSnd (foot_holdupCheck h (sub em rfl)) ‹_›)

theorem foot_execRecordRewrite (h : Foot μ s₀ s) (em : 0x100000000000000000000000000100000 ||| μ = μ) : ∀ t, execRecordRewrite s = .next t → Foot μ s₀ t := by
  intro t e
  unfold execRecordRewrite at e
  injection e with e
  subst e
  exact Foot.ite (foot_whenOn (fun _ h1 => foot_recordRewrite h1 (sub em rfl)) h) h

theorem foot_firmwareData {a1} (h : Foot μ s₀ s) (em : 0x100000000000000000000080000100000 ||| μ = μ) : Foot μ s₀ (firmwareData a1 s) := by
  unfold firmwareData
  extract_lets -merge -useContext +onlyGivenNames x1
  clear_value x1
  extract_lets -merge -useContext +onlyGivenNames x2
  extract_lets -merge -useContext +onlyGivenNames x3
  clear_value x3
  refine Foot.ite (foot_incFld h (fun i hi => .inr ⟨11, bit em rfl, i, hi, rfl⟩)) ?_
  · split
    · exact foot_incFld (Foot.ofSnd (foot_flashChecks h (sub em rfl)) ‹_›) (fun i hi => .inr ⟨11, bit em rfl, i, hi, rfl⟩)
    · exact foot_setBoot (Foot.ofSnd (foot_flashChecks h (sub em rfl)) ‹_›) ⟨rfl, rfl, rfl⟩ (sub em rfl)

theorem foot_svnRaise {a1} (h : Foot μ s₀ s) (em : 0x41000000000000000000010002e80000100020 ||| μ = μ) : Foot μ s₀ (svnRaise a1 s) := by
  unfold svnRaise
  have h1 : Foot μ s₀ (setFlag F.UPD_STAT_svn_pending false (setBoot (fun b => { b with svnDue := none }) s)) :=
    foot_setFlag (foot_setBoot h ⟨rfl, rfl, rfl⟩ (sub em rfl)) (fun i hi => .inr ⟨11, bit em rfl, i, hi, rfl⟩)
  refine Foot.ite h1 (Foot.ite (foot_raise h1 (sub em rfl)) (foot_svnRaise.showOtp ?_ (sub em rfl)))
  exact h1.otp id (List.prefix_append _ _) (sub em rfl)

theorem foot_updRefuse {a1} (h : Foot μ s₀ s) (em : 0x41000000000000000000010000e00000000020 ||| μ = μ) : Foot μ s₀ (updRefuse a1 s).2 := by
  unfold updRefuse
  exact foot_answer (foot_when (fun _ h1 => foot_raise h1 (sub em rfl)) h)

theorem foot_execFirmwareDataReceive (h : Foot μ s₀ s) (em : 0x100000000000000000000080000102000 ||| μ = μ) : ∀ t, execFirmwareDataReceive s = .next t → Foot μ s₀ t := by
  intro t e
  unfold execFirmwareDataReceive at e
  injection e with e
  subst e
  refine Foot.ite ?_ h
  · split
    · exact h
    · exact Foot.ite (foot_firmwareData (Foot.ofSome (foot_takeInbox h (sub em rfl)) ‹_›) (sub em rfl)) (Foot.ofSome (foot_takeInbox h (sub em rfl)) ‹_›)

theorem foot_deadlineOut (h : Foot μ s₀ s) (em : 0x41100000000000200000010000e00000100120 ||| μ = μ) : Foot μ s₀ (deadlineOut s) := by
  unfold deadlineOut
  split
  · exact h
  · refine Foot.ite h ?_
    · extract_lets -merge -useContext +onlyGivenNames s2
      have h2 : Foot μ s₀ s2 := foot_elapse h (sub em rfl)
      clear_value s2
      exact foot_raise (foot_setBoot h2 ⟨rfl, rfl, rfl⟩ (sub em rfl)) (sub em rfl)

theorem foot_settingsTry (h : Foot μ s₀ s) (em : 0x41000100000000000000010000e80000100020 ||| μ = μ) : Foot μ s₀ (settingsTry s) := by
  unfold settingsTry
  split
  · exact h
  · split
    · exact Foot.ofSnd (foot_flashChecks h (sub em rfl)) ‹_›
    · extract_lets -merge -useContext +onlyGivenNames s3
      have h3 : Foot μ s₀ s3 := foot_writeSettings (Foot.ofSnd (foot_flashChecks h (sub em rfl)) ‹_›) (sub em rfl)
      clear_value s3
      exact foot_raise (foot_setFld (foot_setBoot h3 ⟨rfl, rfl, rfl⟩ (sub em rfl)) (fun i hi => .inr ⟨11, bit em rfl, i, hi, rfl⟩)) (sub em rfl)

theorem foot_updSchedule {a1} (h : Foot μ s₀ s) (em : 0xc0000041000100000000000000010000e80000100020 ||| μ = μ) : Foot μ s₀ (updSchedule a1 s).2 := by
  unfold updSchedule
  extract_lets -merge -useContext +onlyGivenNames x1
  clear_value x1
  refine Foot.iteSnd (foot_answer h) ?_
  · refine Foot.iteSnd (foot_updRefuse h (sub em rfl)) ?_
    · refine Foot.iteSnd (foot_updRefuse h (sub em rfl)) ?_
      · refine Foot.iteSnd (foot_updRefuse h (sub em rfl)) ?_
        · split
          · exact foot_updRefuse (Foot.ofSnd (foot_flashChecks h (sub em rfl)) ‹_›) (sub em rfl)
          · extract_lets -merge -useContext +onlyGivenNames s3
            have h3 : Foot μ s₀ s3 := foot_writeBootRecord (Foot.ofSnd (foot_flashChecks h (sub em rfl)) ‹_›) (sub em rfl)
            clear_value s3
            extract_lets -merge -useContext +onlyGivenNames s4
            have h4 : Foot μ s₀ s4 := foot_setUpdState (foot_setBoot h3 ⟨rfl, rfl, rfl⟩ (sub em rfl)) (sub em rfl)
            clear_value s4
            extract_lets -merge -useContext +onlyGivenNames s5
            have h5 : Foot μ s₀ s5 := foot_setPair h4 (fun i hi => .inr ⟨143, bit em rfl, i, hi, rfl⟩) (fun i hi => .inr ⟨142, bit em rfl, i, hi, rfl⟩)
            clear_value s5
            exact foot_answer (foot_raise h5 (sub em rfl))

theorem foot_updConfirm {a1} (h : Foot μ s₀ s) (em : 0x41000100000000000000010002e80000140020 ||| μ = μ) : Foot μ s₀ (updConfirm a1 s).2 := by
  unfold updConfirm
  refine Foot.iteSnd (foot_answer h) ?_
  · split
    · exact foot_updRefuse h (sub em rfl)
    · refine Foot.iteSnd (foot_updRefuse h (sub em rfl)) ?_
      · split
        · exact foot_updRefuse (Foot.ofSnd (foot_flashChecks h (sub em rfl)) ‹_›) (sub em rfl)
        · extract_lets -merge -useContext +onlyGivenNames x3
          clear_value x3
          extract_lets -merge -useContext +onlyGivenNames s4
          have h4 : Foot μ s₀ s4 := foot_writeBootRecord (Foot.ofSnd (foot_flashChecks h (sub em rfl)) ‹_›) (sub em rfl)
          clear_value s4
          extract_lets -merge -useContext +onlyGivenNames s5
          have h5 : Foot μ s₀ s5 := foot_setUpdState (foot_clearHandover (foot_setBoot h4 ⟨rfl, rfl, rfl⟩ (sub em rfl)) (sub em rfl)) (sub em rfl)
          clear_value s5
          extract_lets -merge -useContext +onlyGivenNames x6
          clear_value x6
          extract_lets -merge -useContext +onlyGivenNames s7
          have h7 : Foot μ s₀ s7 := Foot.ite (foot_svnRaise h5 (sub em rfl)) (Foot.ite h5 (foot_setFlag (foot_setBoot h5 ⟨rfl, rfl, rfl⟩ (sub em rfl)) (fun i hi => .inr ⟨11, bit em rfl, i, hi, rfl⟩)))
          clear_value s7
          exact foot_answer h7

theorem foot_execSvnRaise (h : Foot μ s₀ s) (em : 0x41000000000000000000010002e80000100020 ||| μ = μ) : ∀ t, execSvnRaise s = .next t → Foot μ s₀ t := by
  intro t e
  unfold execSvnRaise at e
  injection e with e
  subst e
  refine foot_whenOn ?_ h
  · intro _ h1
    split
    · exact Foot.ite (foot_svnRaise h1 (sub em rfl)) h1
    · exact h1

theorem foot_updSeal {a1} (h : Foot μ s₀ s) (em : 0x41000000000000000000010000e80000000020 ||| μ = μ) : Foot μ s₀ (updSeal a1 s).2 := by
  unfold updSeal
  refine Foot.iteSnd (foot_answer h) ?_
  · refine Foot.iteSnd (foot_updRefuse h (sub em rfl)) ?_
    · refine Foot.iteSnd (foot_updRefuse h (sub em rfl)) ?_
      · extract_lets -merge -useContext +onlyGivenNames x1
        clear_value x1
        split
        · exact foot_answer (foot_raise (foot_setUpdState h (sub em rfl)) (sub em rfl))
        · exact foot_raise h (sub em rfl)
        · exact foot_answer (foot_raise h (sub em rfl))
        · exact foot_updRefuse h (sub em rfl)

theorem foot_updRecover {a1} (h : Foot μ s₀ s) (em : 0x41000000000000000000010000e00000100020 ||| μ = μ) : Foot μ s₀ (updRecover a1 s).2 := by
  unfold updRecover
  exact Foot.iteSnd (foot_answer h) (Foot.iteSnd (foot_answer h) (Foot.iteSnd (foot_updRefuse h (sub em rfl)) (foot_answer (foot_setBoot h ⟨rfl, rfl, rfl⟩ (sub em rfl)))))

theorem foot_updBegin {a1} (h : Foot μ s₀ s) (em : 0x41000100000000000000010000e80000100020 ||| μ = μ) : Foot μ s₀ (updBegin a1 s).2 := by
  unfold updBegin
  extract_lets -merge -useContext +onlyGivenNames x1
  refine Foot.iteSnd (foot_answer h) ?_
  · refine Foot.iteSnd (foot_answer h) ?_
    · refine Foot.iteSnd (foot_updRefuse h (sub em rfl)) ?_
      · refine Foot.iteSnd (foot_updRefuse h (sub em rfl)) ?_
        · refine Foot.iteSnd (foot_updRefuse h (sub em rfl)) ?_
          · refine Foot.iteSnd (foot_updRefuse h (sub em rfl)) ?_
            · split
              · exact foot_updRefuse (Foot.ofSnd (foot_flashChecks h (sub em rfl)) ‹_›) (sub em rfl)
              · extract_lets -merge -useContext +onlyGivenNames x3
                clear_value x3
                extract_lets -merge -useContext +onlyGivenNames x4
                clear_value x4
                extract_lets -merge -useContext +onlyGivenNames s5
                have h5 : Foot μ s₀ s5 := foot_eraseSectors (Foot.ofSnd (foot_flashChecks h (sub em rfl)) ‹_›) (sub em rfl)
                clear_value s5
                extract_lets -merge -useContext +onlyGivenNames s6
                have h6 : Foot μ s₀ s6 := foot_setFlag h5 (fun i hi => .inr ⟨11, bit em rfl, i, hi, rfl⟩)
                clear_value s6
                extract_lets -merge -useContext +onlyGivenNames s7
                have h7 : Foot μ s₀ s7 := foot_setUpdState (foot_setBoot h6 ⟨rfl, rfl, rfl⟩ (sub em rfl)) (sub em rfl)
                clear_value s7
                exact foot_answerWords (foot_raise h7 (sub em rfl))

theorem foot_updAbort {a1} (h : Foot μ s₀ s) (em : 0xc0000041000000000000000000010000e80000100020 ||| μ = μ) : Foot μ s₀ (updAbort a1 s).2 := by
  unfold updAbort
  extract_lets -merge -useContext +onlyGivenNames x1
  clear_value x1
  refine Foot.iteSnd (foot_answer h) ?_
  · refine Foot.iteSnd (foot_updRefuse h (sub em rfl)) ?_
    · extract_lets -merge -useContext +onlyGivenNames x2
      clear_value x2
      extract_lets -merge -useContext +onlyGivenNames s3
      have h3 : Foot μ s₀ s3 := foot_setBoot h ⟨rfl, rfl, rfl⟩ (sub em rfl)
      clear_value s3
      extract_lets -merge -useContext +onlyGivenNames s4
      have h4 : Foot μ s₀ s4 := foot_setFlag (foot_setPair h3 (fun i hi => .inr ⟨143, bit em rfl, i, hi, rfl⟩) (fun i hi => .inr ⟨142, bit em rfl, i, hi, rfl⟩)) (fun i hi => .inr ⟨11, bit em rfl, i, hi, rfl⟩)
      clear_value s4
      exact foot_answer (Foot.ite h4 (foot_setUpdState h4 (sub em rfl)))

theorem foot_updBlockInline {a1} (h : Foot μ s₀ s) (em : 0x41000100000000000000010000e80000100020 ||| μ = μ) : Foot μ s₀ (updBlockInline a1 s).2 := by
  unfold updBlockInline
  extract_lets -merge -useContext +onlyGivenNames x1
  clear_value x1
  extract_lets -merge -useContext +onlyGivenNames x2
  clear_value x2
  extract_lets -merge -useContext +onlyGivenNames x3
  clear_value x3
  refine Foot.iteSnd (foot_answer h) ?_
  · refine Foot.iteSnd (foot_updRefuse h (sub em rfl)) ?_
    · split
      · exact h
      · extract_lets -merge -useContext +onlyGivenNames x5
        clear_value x5
        refine Foot.iteSnd (foot_updRefuse h (sub em rfl)) ?_
        · split
          · exact foot_updRefuse (Foot.ofSnd (foot_flashChecks h (sub em rfl)) ‹_›) (sub em rfl)
          · exact foot_answer (foot_programImage (Foot.ofSnd (foot_flashChecks h (sub em rfl)) ‹_›) (sub em rfl))

theorem foot_execConfirmDeadline (h : Foot μ s₀ s) (em : 0x41100000000000200000010000e00000100120 ||| μ = μ) : ∀ t, execConfirmDeadline s = .next t → Foot μ s₀ t := by
  intro t e
  unfold execConfirmDeadline at e
  injection e with e
  subst e
  exact foot_deadlineOut h (sub em rfl)

theorem foot_execSettingsRetry (h : Foot μ s₀ s) (em : 0x41000100000000000000010000e80000100020 ||| μ = μ) : ∀ t, execSettingsRetry s = .next t → Foot μ s₀ t := by
  intro t e
  unfold execSettingsRetry at e
  injection e with e
  subst e
  exact Foot.ite (foot_whenOn (fun _ h1 => foot_settingsTry h1 (sub em rfl)) h) h

/-! ### Machine/Dram.lean -/

theorem foot_dramIdle (h : Foot μ s₀ s) (em : 0x20000 ||| μ = μ) : Foot μ s₀ (dramIdle s) := by
  unfold dramIdle
  exact foot_setDramc h (sub em rfl)

theorem foot_drainBuffers (h : Foot μ s₀ s) (em : 0x420000 ||| μ = μ) : Foot μ s₀ (drainBuffers s) := by
  unfold drainBuffers
  split
  · exact foot_setDramc (Foot.ofSnd (foot_freshIdx h (sub em rfl)) ‹_›) (sub em rfl)

theorem foot_ratWindow (h : Foot μ s₀ s) (em : 0x20000 ||| μ = μ) : Foot μ s₀ (ratWindow s) := by
  unfold ratWindow
  exact Foot.ite h (foot_setDramc h (sub em rfl))

theorem foot_stallRequest {a1 a2 a3 a4 a5} (h : Foot μ s₀ s) (em : 0x20000 ||| μ = μ) : Foot μ s₀ (stallRequest a1 a2 a3 a4 a5 s) := by
  unfold stallRequest
  exact foot_setDramc h (sub em rfl)

theorem foot_closeRow {a1 a2} (h : Foot μ s₀ s) (em : 0x20000 ||| μ = μ) : Foot μ s₀ (closeRow a1 a2 s) := by
  unfold closeRow
  exact foot_setChan h (sub em rfl)

theorem foot_dramLose (h : Foot μ s₀ s) (em : 0x20004 ||| μ = μ) : Foot μ s₀ (dramLose s) := by
  unfold dramLose
  refine (foot_dramIdle h (sub em rfl)).trans ⟨⟨fun ⟨c1, c2, c3, c4, c5, c6, c7⟩ => ⟨c1, c2, Memory.wf_nil, c4, c5, c6, c7⟩, rfl, rfl, id,
    List.prefix_refl _, List.suffix_refl _, Nat.le_refl _⟩, fun p k => ?_, fun _ _ => rfl⟩
  cases p <;> first | rfl | exact absurd ((bit (i := 2) em rfl).symm.trans k) (by decide)

theorem foot_execDramRatWindow (h : Foot μ s₀ s) (em : 0x20000 ||| μ = μ) : ∀ t, execDramRatWindow s = .next t → Foot μ s₀ t := by
  intro t e
  unfold execDramRatWindow at e
  injection e with e
  subst e
  exact foot_ratWindow h (sub em rfl)

theorem foot_dramSleep (h : Foot μ s₀ s) (em : 0xc0000000000000000000020000 ||| μ = μ) : Foot μ s₀ (dramSleep s) := by
  unfold dramSleep
  refine Foot.ite ?_ h
  · extract_lets -merge -useContext +onlyGivenNames s1
    have h1 : Foot μ s₀ s1 := foot_setDramc h (sub em rfl)
    clear_value s1
    exact foot_incFld (foot_setFlag h1 (fun i hi => .inr ⟨71, bit em rfl, i, hi, rfl⟩)) (fun i hi => .inr ⟨70, bit em rfl, i, hi, rfl⟩)

theorem foot_dueUpkeep (h : Foot μ s₀ s) (em : 0x20000 ||| μ = μ) : Foot μ s₀ (dueUpkeep s) := by
  unfold dueUpkeep
  exact foot_forEach (fun _ _ h1 => foot_setChan h1 (sub em rfl)) h

theorem foot_enterQueue {a1} (h : Foot μ s₀ s) (em : 0x20006 ||| μ = μ) : Foot μ s₀ (enterQueue a1 s) := by
  unfold enterQueue
  exact Foot.ite (foot_setMemBytes (foot_setChan h (sub em rfl)) (sub em rfl)) (foot_setChan h (sub em rfl))

theorem foot_admitStalled (h : Foot μ s₀ s) (em : 0x20006 ||| μ = μ) : Foot μ s₀ (admitStalled s) := by
  unfold admitStalled
  refine Foot.ite h (foot_setDramc (Foot.foldlSnd (fun q r k => ?_) h) (sub em rfl))
  exact Foot.iteSnd (foot_enterQueue k (sub em rfl)) k

theorem foot_dramOsc {a1} (h : Foot μ s₀ s) (em : 0x20000 ||| μ = μ) : Foot μ s₀ (dramOsc a1 s) := by
  unfold dramOsc
  exact Foot.ite h (foot_dueUpkeep (foot_forEach (fun _ _ h1 => foot_setChan h1 (sub em rfl)) h) (sub em rfl))

theorem foot_issueRequest {a1 a2} (h : Foot μ s₀ s) (em : 0x820000 ||| μ = μ) : Foot μ s₀ (issueRequest a1 a2 s) := by
  unfold issueRequest
  extract_lets -merge -useContext +onlyGivenNames s1
  have h1 : Foot μ s₀ s1 := foot_moveGranule (foot_setDramc h (sub em rfl)) (sub em rfl)
  clear_value s1
  refine Foot.ite (foot_setChan h1 (sub em rfl)) ?_
  · extract_lets -merge -useContext +onlyGivenNames s2
    have h2 : Foot μ s₀ s2 := foot_setChan h1 (sub em rfl)
    clear_value s2
    extract_lets -merge -useContext +onlyGivenNames s3
    have h3 : Foot μ s₀ s3 := Foot.ite (foot_setDramc h2 (sub em rfl)) h2
    clear_value s3
    exact foot_emit h3 (sub em rfl)

theorem foot_neighbourRefresh {a1 a2 a3} (h : Foot μ s₀ s) (em : 0x800000000000000000000000000000820000 ||| μ = μ) : Foot μ s₀ (neighbourRefresh a1 a2 a3 s) := by
  unfold neighbourRefresh
  extract_lets -merge -useContext +onlyGivenNames s1
  have h1 : Foot μ s₀ s1 := foot_forEach (fun _ _ h1 => foot_emit h1 (sub em rfl)) (foot_closeRow h (sub em rfl))
  clear_value s1
  exact foot_incFld h1 (fun i hi => .inr ⟨111, bit em rfl, i, hi, rfl⟩)

theorem foot_execDramOscTrack {a1} (h : Foot μ s₀ s) (em : 0x20000 ||| μ = μ) : ∀ t, execDramOscTrack a1 s = .next t → Foot μ s₀ t := by
  intro t e
  unfold execDramOscTrack at e
  injection e with e
  subst e
  exact foot_dramOsc h (sub em rfl)

theorem foot_execDramZqCal (h : Foot μ s₀ s) (em : 0x20000 ||| μ = μ) : ∀ t, execDramZqCal s = .next t → Foot μ s₀ t := by
  intro t e
  unfold execDramZqCal at e
  injection e with e
  subst e
  exact Foot.ite (foot_dueUpkeep h (sub em rfl)) h

theorem foot_dramDown (h : Foot μ s₀ s) (em : 0x80000000000000000000020004 ||| μ = μ) : Foot μ s₀ (dramDown s) := by
  unfold dramDown
  exact foot_dramLose (foot_setFld (foot_setFlag (foot_setFlag (foot_setFlag (foot_setFlag h (fun i hi => .inr ⟨71, bit em rfl, i, hi, rfl⟩)) (fun i hi => .inr ⟨71, bit em rfl, i, hi, rfl⟩)) (fun i hi => .inr ⟨71, bit em rfl, i, hi, rfl⟩)) (fun i hi => .inr ⟨71, bit em rfl, i, hi, rfl⟩)) (fun i hi => .inr ⟨71, bit em rfl, i, hi, rfl⟩)) (sub em rfl)

theorem foot_requestSlot {a1} (h : Foot μ s₀ s) (em : 0x820006 ||| μ = μ) : Foot μ s₀ (requestSlot a1 s) := by
  unfold requestSlot
  extract_lets -merge -useContext +onlyGivenNames s1
  have h1 : Foot μ s₀ s1 := foot_setChan h (sub em rfl)
  clear_value s1
  split
  · exact h1
  · extract_lets -merge -useContext +onlyGivenNames x3
    clear_value x3
    extract_lets -merge -useContext +onlyGivenNames s4
    have h4 : Foot μ s₀ s4 := foot_setChan h1 (sub em rfl)
    clear_value s4
    exact foot_admitStalled (foot_issueRequest h4 (sub em rfl)) (sub em rfl)

theorem foot_ratSweepEnd {a1 a2} (h : Foot μ s₀ s) (em : 0xc1000000000000000000010000e00000020020 ||| μ = μ) : Foot μ s₀ (ratSweepEnd a1 a2 s) := by
  unfold ratSweepEnd
  refine Foot.ite ?_ h
  · extract_lets -merge -useContext +onlyGivenNames s1
    have h1 : Foot μ s₀ s1 := foot_setChan h (sub em rfl)
    clear_value s1
    exact foot_raise (foot_incFld h1 (fun i hi => .inr ⟨119, bit em rfl, i, hi, rfl⟩)) (sub em rfl)

theorem foot_dramTrained {a1} (h : Foot μ s₀ s) (em : 0x41000000000080000000010000e00000000020 ||| μ = μ) : Foot μ s₀ (dramTrained a1 s) := by
  unfold dramTrained
  refine Foot.ite h ?_
  · extract_lets -merge -useContext +onlyGivenNames x1
    clear_value x1
    extract_lets -merge -useContext +onlyGivenNames s2
    have h2 : Foot μ s₀ s2 := foot_setFlag h (fun i hi => .inr ⟨71, bit em rfl, i, hi, rfl⟩)
    clear_value s2
    exact Foot.ite (foot_raise (foot_setFld h2 (fun i hi => .inr ⟨71, bit em rfl, i, hi, rfl⟩)) (sub em rfl)) (foot_setFlag (foot_setFld h2 (fun i hi => .inr ⟨71, bit em rfl, i, hi, rfl⟩)) (fun i hi => .inr ⟨71, bit em rfl, i, hi, rfl⟩))

theorem foot_dramMr4 {a1} (h : Foot μ s₀ s) (em : 0x41000000000080000000010000e00000020020 ||| μ = μ) : Foot μ s₀ (dramMr4 a1 s) := by
  unfold dramMr4
  refine Foot.ite h ?_
  · extract_lets -merge -useContext +onlyGivenNames x1
    clear_value x1
    extract_lets -merge -useContext +onlyGivenNames x2
    clear_value x2
    extract_lets -merge -useContext +onlyGivenNames s3
    have h3 : Foot μ s₀ s3 := foot_setFld (foot_dueUpkeep h (sub em rfl)) (fun i hi => .inr ⟨71, bit em rfl, i, hi, rfl⟩)
    clear_value s3
    exact Foot.ite (foot_raise h3 (sub em rfl)) h3

theorem foot_showPanic {a1} (h : Foot μ s₀ s) (em : 0x800041000000000000000000010000e00000020020 ||| μ = μ) : Foot μ s₀ (showPanic a1 s) := by
  unfold showPanic
  extract_lets -merge -useContext +onlyGivenNames x1
  clear_value x1
  extract_lets -merge -useContext +onlyGivenNames x2
  clear_value x2
  extract_lets -merge -useContext +onlyGivenNames s3
  have h3 : Foot μ s₀ s3 := foot_setFldAt h (fun i hi => .inr ⟨135, bit em rfl, i, hi, rfl⟩)
  clear_value s3
  extract_lets -merge -useContext +onlyGivenNames s4
  have h4 : Foot μ s₀ s4 := foot_setFldAt h3 (fun i hi => .inr ⟨135, bit em rfl, i, hi, rfl⟩)
  clear_value s4
  exact Foot.ite (foot_raise (foot_setDramc h4 (sub em rfl)) (sub em rfl)) h4

theorem foot_dramTrain (h : Foot μ s₀ s) (em : 0x41000000000080000000010000e00000020020 ||| μ = μ) : Foot μ s₀ (dramTrain s) := by
  unfold dramTrain
  extract_lets -merge -useContext +onlyGivenNames x1
  clear_value x1
  extract_lets -merge -useContext +onlyGivenNames s2
  have h2 : Foot μ s₀ s2 := foot_setFld (foot_setDramc h (sub em rfl)) (fun i hi => .inr ⟨71, bit em rfl, i, hi, rfl⟩)
  clear_value s2
  exact Foot.ite (foot_setFlag (foot_setFlag h2 (fun i hi => .inr ⟨71, bit em rfl, i, hi, rfl⟩)) (fun i hi => .inr ⟨71, bit em rfl, i, hi, rfl⟩)) (foot_raise (foot_setFlag h2 (fun i hi => .inr ⟨71, bit em rfl, i, hi, rfl⟩)) (sub em rfl))

theorem foot_sleepEnds (h : Foot μ s₀ s) (em : 0x100000000080200000000000000000000100 ||| μ = μ) : Foot μ s₀ (sleepEnds s) := by
  unfold sleepEnds
  refine Foot.ite h ?_
  · refine Foot.ite (foot_dramWake h (sub em rfl)) ?_
    · split
      · exact h
      · exact foot_dramWake (foot_elapse h (sub em rfl)) (sub em rfl)

theorem foot_showDram (h : Foot μ s₀ s) (em : 0x1800041000000000000000000010000e00000020020 ||| μ = μ) : Foot μ s₀ (showDram s) := by
  unfold showDram
  extract_lets -merge -useContext +onlyGivenNames s1
  have h1 : Foot μ s₀ s1 := foot_forEach (fun _ _ h1 => foot_showPanic h1 (sub em rfl)) h
  clear_value s1
  split
  · exact foot_setFld (foot_setFld h1 (fun i hi => .inr ⟨136, bit em rfl, i, hi, rfl⟩)) (fun i hi => .inr ⟨136, bit em rfl, i, hi, rfl⟩)
  · exact foot_setFld h1 (fun i hi => .inr ⟨136, bit em rfl, i, hi, rfl⟩)

theorem foot_execDramRatSweepEnd {a1 a2} (h : Foot μ s₀ s) (em : 0xc1000000000000000000010000e00000020020 ||| μ = μ) : ∀ t, execDramRatSweepEnd a1 a2 s = .next t → Foot μ s₀ t := by
  intro t e
  unfold execDramRatSweepEnd at e
  injection e with e
  subst e
  exact foot_ratSweepEnd h (sub em rfl)

theorem foot_sleepDue (h : Foot μ s₀ s) (em : 0x1000000000c0200000000000000000020100 ||| μ = μ) : Foot μ s₀ (sleepDue s) := by
  unfold sleepDue
  exact Foot.ite (foot_dramSleep (foot_elapse h (sub em rfl)) (sub em rfl)) h

theorem foot_commandSlot {a1} (h : Foot μ s₀ s) (em : 0x1800041800000000000000000010000e00000c20026 ||| μ = μ) : Foot μ s₀ (commandSlot a1 s) := by
  unfold commandSlot
  refine Foot.ite h ?_
  · extract_lets -merge -useContext +onlyGivenNames s1
    have h1 : Foot μ s₀ s1 := foot_drainBuffers h (sub em rfl)
    clear_value s1
    split
    · refine foot_showDram ?_ (sub em rfl)
      · split
        · exact foot_neighbourRefresh (foot_setChan (Foot.ofSnd (foot_freshIdx h1 (sub em rfl)) ‹_›) (sub em rfl)) (sub em rfl)
        · exact foot_setChan (Foot.ofSnd (foot_freshIdx h1 (sub em rfl)) ‹_›) (sub em rfl)
        · exact foot_emit (foot_closeRow (Foot.ofSnd (foot_freshIdx h1 (sub em rfl)) ‹_›) (sub em rfl)) (sub em rfl)
        · exact foot_requestSlot (Foot.ofSnd (foot_freshIdx h1 (sub em rfl)) ‹_›) (sub em rfl)

theorem foot_execDramTrainDone {a1} (h : Foot μ s₀ s) (em : 0x41000000000080000000010000e00000000020 ||| μ = μ) : ∀ t, execDramTrainDone a1 s = .next t → Foot μ s₀ t := by
  intro t e
  unfold execDramTrainDone at e
  injection e with e
  subst e
  exact foot_dramTrained h (sub em rfl)

theorem foot_dramUnderrun {a1} (h : Foot μ s₀ s) (em : 0x1800041000000000000000000010000e00000020020 ||| μ = μ) : Foot μ s₀ (dramUnderrun a1 s) := by
  unfold dramUnderrun
  refine Foot.ite ?_ h
  · extract_lets -merge -useContext +onlyGivenNames s1
    have h1 : Foot μ s₀ s1 := foot_incFldAt h (fun i hi => .inr ⟨135, bit em rfl, i, hi, rfl⟩)
    clear_value s1
    extract_lets -merge -useContext +onlyGivenNames x2
    clear_value x2
    extract_lets -merge -useContext +onlyGivenNames x3
    clear_value x3
    extract_lets -merge -useContext +onlyGivenNames s4
    have h4 : Foot μ s₀ s4 := foot_setDramc h1 (sub em rfl)
    clear_value s4
    exact foot_showDram (Foot.ite (foot_raise h4 (sub em rfl)) h4) (sub em rfl)

theorem foot_dramRequest {a1 a2 a3 a4 a5} (h : Foot μ s₀ s) (em : 0x1800041000000000080000000010000e00000420026 ||| μ = μ) : Foot μ s₀ (dramRequest a1 a2 a3 a4 a5 s) := by
  unfold dramRequest
  refine Foot.ite ?_ h
  · extract_lets -merge -useContext +onlyGivenNames s1
    have h1 : Foot μ s₀ s1 := foot_stallRequest (foot_dramWake (foot_drainBuffers h (sub em rfl)) (sub em rfl)) (sub em rfl)
    clear_value s1
    exact foot_showDram (foot_admitStalled (foot_setDramc h1 (sub em rfl)) (sub em rfl)) (sub em rfl)

theorem foot_execDramSrEntry (h : Foot μ s₀ s) (em : 0x1000000000c0200000000000000000020100 ||| μ = μ) : ∀ t, execDramSrEntry s = .next t → Foot μ s₀ t := by
  intro t e
  unfold execDramSrEntry at e
  injection e with e
  subst e
  exact foot_sleepDue h (sub em rfl)

theorem foot_execDramUnderrun {a1} (h : Foot μ s₀ s) (em : 0x1800041000000000000000000010000e00000020020 ||| μ = μ) : ∀ t, execDramUnderrun a1 s = .next t → Foot μ s₀ t := by
  intro t e
  unfold execDramUnderrun at e
  injection e with e
  subst e
  exact foot_dramUnderrun h (sub em rfl)

theorem foot_execDramMr4Poll {a1} (h : Foot μ s₀ s) (em : 0x41000000000080000000010000e00000020020 ||| μ = μ) : ∀ t, execDramMr4Poll a1 s = .next t → Foot μ s₀ t := by
  intro t e
  unfold execDramMr4Poll at e
  injection e with e
  subst e
  exact foot_dramMr4 h (sub em rfl)

theorem foot_execDramSrExit (h : Foot μ s₀ s) (em : 0x100000000080200000000000000000000100 ||| μ = μ) : ∀ t, execDramSrExit s = .next t → Foot μ s₀ t := by
  intro t e
  unfold execDramSrExit at e
  injection e with e
  subst e
  exact foot_sleepEnds h (sub em rfl)

theorem foot_dramCfgWritten {a1} (h : Foot μ s₀ s) (em : 0x41000000000080000000010000e00000020024 ||| μ = μ) : Foot μ s₀ (dramCfgWritten a1 s) := by
  unfold dramCfgWritten
  exact Foot.ite (foot_dramTrain h (sub em rfl)) (Foot.ite (foot_dramDown h (sub em rfl)) h)

end Sys2Proof.Machine
end

