-- ==== Sys2Proof/Laws/Foot6.lean ====
section
/-! SUPPORT. The relation Foot holds of each operation of Machine/: Calibration, LampLanes, LampDrive. -/

namespace Sys2Proof.Machine

variable {μ : Nat} {s₀ s t : State}

/-! ### Machine/Calibration.lean -/

theorem foot_setTherm {a1} (h : Foot μ s₀ s) (em : 0x80000 ||| μ = μ) : Foot μ s₀ (setTherm a1 s) := by
  unfold setTherm
  exact Foot.therm h (bit em rfl)

theorem foot_showBad (h : Foot μ s₀ s) (em : 0x10000000000 ||| μ = μ) : Foot μ s₀ (showBad s) := by
  unfold showBad
  exact foot_setFld h (fun i hi => .inr ⟨8, bit em rfl, i, hi, rfl⟩)

theorem foot_setItem {a1 a2} (h : Foot μ s₀ s) (em : 0x80000 ||| μ = μ) : Foot μ s₀ (setItem a1 a2 s) := by
  unfold setItem
  exact foot_setTherm h (sub em rfl)

theorem foot_calSlice (h : Foot μ s₀ s) (em : 0x80000 ||| μ = μ) : Foot μ s₀ (calSlice s) := by
  unfold calSlice
  exact foot_forEach (fun _ _ h1 => Foot.ite (foot_setItem h1 (sub em rfl)) h1) (foot_setTherm h (sub em rfl))

theorem foot_setBusy {a1 a2} (h : Foot μ s₀ s) (em : 0x4000000000000000000000000000000 ||| μ = μ) : Foot μ s₀ (setBusy a1 a2 s) := by
  unfold setBusy
  exact foot_setFld h (fun i hi => .inr ⟨90, bit em rfl, i, hi, rfl⟩)

theorem foot_calTrigger {a1} (h : Foot μ s₀ s) (em : 0x4000000000000000000000000080000 ||| μ = μ) : Foot μ s₀ (calTrigger a1 s) := by
  unfold calTrigger
  exact Foot.ite (foot_setBusy (foot_setItem h (sub em rfl)) (sub em rfl)) h

theorem foot_calTriggerAll (h : Foot μ s₀ s) (em : 0x4000000000000000000000000080000 ||| μ = μ) : Foot μ s₀ (calTriggerAll s) := by
  unfold calTriggerAll
  exact foot_forEach (fun _ _ h1 => foot_calTrigger h1 (sub em rfl)) h

theorem foot_calCheck {a1} (h : Foot μ s₀ s) (em : 0x4000000000000000000000000080000 ||| μ = μ) : Foot μ s₀ (calCheck a1 s) := by
  unfold calCheck
  exact Foot.ite (foot_calTrigger h (sub em rfl)) h

theorem foot_execCalSliceTimer (h : Foot μ s₀ s) (em : 0x80000 ||| μ = μ) : ∀ t, execCalSliceTimer s = .next t → Foot μ s₀ t := by
  intro t e
  unfold execCalSliceTimer at e
  injection e with e
  subst e
  exact Foot.ite h (foot_whenOn (fun _ h1 => foot_calSlice h1 (sub em rfl)) h)

theorem foot_calApply {a1 a2} (h : Foot μ s₀ s) (em : 0x2000041000004000000000000010000e00000080020 ||| μ = μ) : Foot μ s₀ (calApply a1 a2 s) := by
  unfold calApply
  split
  · exact h
  · extract_lets -merge -useContext +onlyGivenNames x2
    clear_value x2
    extract_lets -merge -useContext +onlyGivenNames s3
    have h3 : Foot μ s₀ s3 := foot_setBusy (foot_setItem h (sub em rfl)) (sub em rfl)
    clear_value s3
    extract_lets -merge -useContext +onlyGivenNames _ s4
    have h4 : Foot μ s₀ s4 := Foot.ite (foot_raise (foot_incFld (foot_setItem (foot_setFldAt (foot_setFldAt h3 (fun i hi => .inr ⟨137, bit em rfl, i, hi, rfl⟩)) (fun i hi => .inr ⟨137, bit em rfl, i, hi, rfl⟩)) (sub em rfl)) (fun i hi => .inr ⟨90, bit em rfl, i, hi, rfl⟩)) (sub em rfl)) (foot_raise (foot_setFld h3 (fun i hi => .inr ⟨90, bit em rfl, i, hi, rfl⟩)) (sub em rfl))
    clear_value s4
    exact foot_calCheck h4 (sub em rfl)

theorem foot_adcRange {a1 a2} (h : Foot μ s₀ s) (em : 0x41000000000000000000010000e00000080020 ||| μ = μ) : Foot μ s₀ (adcRange a1 a2 s) := by
  unfold adcRange
  exact Foot.ite (foot_raise (foot_setTherm h (sub em rfl)) (sub em rfl)) h

theorem foot_calBoundary {a1} (h : Foot μ s₀ s) (em : 0x2000041000004000000000000010000e00000080020 ||| μ = μ) : Foot μ s₀ (calBoundary a1 s) := by
  unfold calBoundary
  exact foot_forEach (fun _ _ h1 => foot_calApply h1 (sub em rfl)) h

theorem foot_calSliceEnd {a1} (h : Foot μ s₀ s) (em : 0x2000041100004000000200000010000e00000480120 ||| μ = μ) : Foot μ s₀ (calSliceEnd a1 s) := by
  unfold calSliceEnd
  extract_lets -merge -useContext +onlyGivenNames x1
  clear_value x1
  refine Foot.ite ?_ h
  · split
    · extract_lets -merge -useContext +onlyGivenNames x3
      clear_value x3
      extract_lets -merge -useContext +onlyGivenNames s4
      have h4 : Foot μ s₀ s4 := foot_setItem (Foot.ofSnd (foot_freshIdx (foot_elapse h (sub em rfl)) (sub em rfl)) ‹_›) (sub em rfl)
      clear_value s4
      exact Foot.ite h4 (foot_calApply h4 (sub em rfl))

theorem foot_execCalSliceEnd {a1} (h : Foot μ s₀ s) (em : 0x2000041100004000000200000010000e00000480120 ||| μ = μ) : ∀ t, execCalSliceEnd a1 s = .next t → Foot μ s₀ t := by
  intro t e
  unfold execCalSliceEnd at e
  injection e with e
  subst e
  exact foot_whenOn (fun _ h1 => foot_calSliceEnd h1 (sub em rfl)) h

/-! ### Machine/LampLanes.lean -/

theorem foot_setLamp {a1} (h : Foot μ s₀ s) (em : 0x10000 ||| μ = μ) : Foot μ s₀ (setLamp a1 s) := by
  unfold setLamp
  exact Foot.lamp h (bit em rfl)

theorem foot_llClear (h : Foot μ s₀ s) (em : 0xc000000000 ||| μ = μ) : Foot μ s₀ (llClear s) := by
  unfold llClear
  exact foot_setFld (foot_forEach (fun _ _ h1 => foot_setFldAt (foot_setFldAt h1 (fun i hi => .inr ⟨7, bit em rfl, i, hi, rfl⟩)) (fun i hi => .inr ⟨7, bit em rfl, i, hi, rfl⟩)) h) (fun i hi => .inr ⟨6, bit em rfl, i, hi, rfl⟩)

theorem foot_setDriver {a1 a2 a3} (h : Foot μ s₀ s) (em : 0x10000 ||| μ = μ) : Foot μ s₀ (setDriver a1 a2 a3 s) := by
  unfold setDriver
  exact foot_setLamp h (sub em rfl)

theorem foot_sendFrame {a1} (h : Foot μ s₀ s) (em : 0x810000 ||| μ = μ) : Foot μ s₀ (sendFrame a1 s) := by
  unfold sendFrame
  extract_lets -merge -useContext +onlyGivenNames x1
  clear_value x1
  extract_lets -merge -useContext +onlyGivenNames s2
  have h2 : Foot μ s₀ s2 := foot_forEach (fun _ _ h2 => foot_emit h2 (sub em rfl)) h
  clear_value s2
  exact foot_setLamp h2 (sub em rfl)

theorem foot_openFirst {a1 a2} (h : Foot μ s₀ s) (em : 0x10000 ||| μ = μ) : Foot μ s₀ (openFirst a1 a2 s) := by
  unfold openFirst
  exact Foot.ite (foot_setLamp h (sub em rfl)) (Foot.ite h (foot_setLamp h (sub em rfl)))

theorem foot_sendFrames {a1 a2} (h : Foot μ s₀ s) (em : 0x810000 ||| μ = μ) : Foot μ s₀ (sendFrames a1 a2 s) := by
  induction a1 generalizing s with
  | zero => exact h
  | succ k ih => exact Foot.ite h (Foot.ite (foot_emit (foot_setLamp h (sub em rfl)) (sub em rfl)) (ih (foot_sendFrame h (sub em rfl))))

theorem foot_sendUpTo {a1} (h : Foot μ s₀ s) (em : 0x810000 ||| μ = μ) : Foot μ s₀ (sendUpTo a1 s) := by
  unfold sendUpTo
  exact foot_sendFrames h (sub em rfl)

theorem foot_hostAnswer {a1 a2} (h : Foot μ s₀ s) (em : 0x38000000000000000000000000000000 ||| μ = μ) : Foot μ s₀ (hostAnswer a1 a2 s) := by
  unfold hostAnswer
  extract_lets -merge -useContext +onlyGivenNames s1
  have h1 : Foot μ s₀ s1 := foot_setFld (foot_setFld (foot_setFlag h (fun i hi => .inr ⟨92, bit em rfl, i, hi, rfl⟩)) (fun i hi => .inr ⟨91, bit em rfl, i, hi, rfl⟩)) (fun i hi => .inr ⟨91, bit em rfl, i, hi, rfl⟩)
  clear_value s1
  exact foot_forEach (fun _ _ h2 => foot_setInst h2 (fun i hi => .inr ⟨93, bit em rfl, i, hi, rfl⟩)) h1

theorem foot_askDriver {a1} (h : Foot μ s₀ s) (em : 0x10000 ||| μ = μ) : Foot μ s₀ (askDriver a1 s) := by
  unfold askDriver
  exact foot_setLamp h (sub em rfl)

theorem foot_askIdents (h : Foot μ s₀ s) (em : 0x10000 ||| μ = μ) : Foot μ s₀ (askIdents s) := by
  unfold askIdents
  exact foot_forEach (fun _ _ h1 => foot_forEach (fun _ _ h2 => foot_askDriver h2 (sub em rfl)) h1) h

theorem foot_statusPoll (h : Foot μ s₀ s) (em : 0x10000 ||| μ = μ) : Foot μ s₀ (statusPoll s) := by
  unfold statusPoll
  refine Foot.ite h ?_
  · refine foot_forEach ?_ h
    · intro _ _ h1
      extract_lets -merge -useContext +onlyGivenNames x2
      clear_value x2
      split
      · exact h1
      · extract_lets -merge -useContext +onlyGivenNames s4
        have h4 : Foot μ s₀ s4 := foot_setLamp h1 (sub em rfl)
        clear_value s4
        exact foot_askDriver h4 (sub em rfl)

theorem foot_runLanes (h : Foot μ s₀ s) (em : 0x810000 ||| μ = μ) : Foot μ s₀ (runLanes s) := by
  unfold runLanes
  exact Foot.ite h (Foot.ite (foot_setLamp h (sub em rfl)) (foot_sendUpTo h (sub em rfl)))

theorem foot_headroomStart (h : Foot μ s₀ s) (em : 0x10000 ||| μ = μ) : Foot μ s₀ (headroomStart s) := by
  unfold headroomStart
  refine Foot.ite h ?_
  · extract_lets -merge -useContext +onlyGivenNames x1
    clear_value x1
    extract_lets -merge -useContext +onlyGivenNames s2
    have h2 : Foot μ s₀ s2 := foot_setLamp h (sub em rfl)
    clear_value s2
    exact foot_forEach (fun _ _ h3 => foot_askDriver h3 (sub em rfl)) h2

theorem foot_toLane {a1 a2} (h : Foot μ s₀ s) (em : 0x810000 ||| μ = μ) : Foot μ s₀ (toLane a1 a2 s) := by
  unfold toLane
  refine Foot.ite h ?_
  · extract_lets -merge -useContext +onlyGivenNames s1
    have h1 : Foot μ s₀ s1 := foot_runLanes h (sub em rfl)
    clear_value s1
    exact foot_emit (foot_setLamp h1 (sub em rfl)) (sub em rfl)

theorem foot_execLlStatusPoll (h : Foot μ s₀ s) (em : 0x10000 ||| μ = μ) : ∀ t, execLlStatusPoll s = .next t → Foot μ s₀ t := by
  intro t e
  unfold execLlStatusPoll at e
  injection e with e
  subst e
  exact Foot.ite (foot_statusPoll h (sub em rfl)) h

theorem foot_sendDrive {a1 a2} (h : Foot μ s₀ s) (em : 0x810000 ||| μ = μ) : Foot μ s₀ (sendDrive a1 a2 s) := by
  unfold sendDrive
  exact foot_toLane h (sub em rfl)

theorem foot_dropRequests (h : Foot μ s₀ s) (em : 0x38000000000000000000000000010000 ||| μ = μ) : Foot μ s₀ (dropRequests s) := by
  unfold dropRequests
  extract_lets -merge -useContext +onlyGivenNames x1
  clear_value x1
  extract_lets -merge -useContext +onlyGivenNames s2
  have h2 : Foot μ s₀ s2 := foot_setLamp h (sub em rfl)
  clear_value s2
  exact foot_when (fun _ h3 => foot_hostAnswer h3 (sub em rfl)) h2

theorem foot_diagGo (h : Foot μ s₀ s) (em : 0x10000 ||| μ = μ) : Foot μ s₀ (diagGo s) := by
  unfold diagGo
  exact foot_askDriver h (sub em rfl)

theorem foot_sendDiag {a1} (h : Foot μ s₀ s) (em : 0x810000 ||| μ = μ) : Foot μ s₀ (sendDiag a1 s) := by
  unfold sendDiag
  split
  · exact foot_toLane (foot_setLamp h (sub em rfl)) (sub em rfl)
  · exact h

theorem foot_failReply {a1 a2} (h : Foot μ s₀ s) (em : 0x38000000000000000000000000010000 ||| μ = μ) : Foot μ s₀ (failReply a1 a2 s) := by
  unfold failReply
  split
  · exact foot_hostAnswer h (sub em rfl)
  · exact foot_setLamp h (sub em rfl)
  · split
    · exact h
    · refine Foot.ite (foot_setDriver h (sub em rfl)) ?_
      · extract_lets -merge -useContext +onlyGivenNames s3
        have h3 : Foot μ s₀ s3 := foot_setLamp h (sub em rfl)
        clear_value s3
        extract_lets -merge -useContext +onlyGivenNames s4
        have h4 : Foot μ s₀ s4 := foot_setDriver h3 (sub em rfl)
        clear_value s4
        exact foot_forEach (fun _ _ h5 => foot_askDriver h5 (sub em rfl)) h4
  · exact h

theorem foot_llStop (h : Foot μ s₀ s) (em : 0x38000000000000000000004000810000 ||| μ = μ) : Foot μ s₀ (llStop s) := by
  unfold llStop
  extract_lets -merge -useContext +onlyGivenNames s1
  have h1 : Foot μ s₀ s1 := foot_setLamp (foot_dropRequests (foot_runLanes h (sub em rfl)) (sub em rfl)) (sub em rfl)
  clear_value s1
  exact foot_setFlag (foot_setFlag h1 (fun i hi => .inr ⟨6, bit em rfl, i, hi, rfl⟩)) (fun i hi => .inr ⟨6, bit em rfl, i, hi, rfl⟩)

theorem foot_execDiagSend {a1} (h : Foot μ s₀ s) (em : 0x810000 ||| μ = μ) : ∀ t, execDiagSend a1 s = .next t → Foot μ s₀ t := by
  intro t e
  unfold execDiagSend at e
  injection e with e
  subst e
  exact Foot.ite (foot_sendDiag h (sub em rfl)) h

theorem foot_sendCfg {a1} (h : Foot μ s₀ s) (em : 0x810000 ||| μ = μ) : Foot μ s₀ (sendCfg a1 s) := by
  unfold sendCfg
  extract_lets -merge -useContext +onlyGivenNames s1
  have h1 : Foot μ s₀ s1 := foot_toLane (foot_toLane h (sub em rfl)) (sub em rfl)
  clear_value s1
  exact foot_forEach (fun _ _ h2 => foot_toLane h2 (sub em rfl)) h1

theorem foot_sendDue (h : Foot μ s₀ s) (em : 0x810000 ||| μ = μ) : Foot μ s₀ (sendDue s) := by
  unfold sendDue
  exact foot_setLamp (foot_forEach (fun _ _ h1 => foot_forEach (fun _ _ h2 => foot_sendDrive h2 (sub em rfl)) h1) h) (sub em rfl)

theorem foot_startScan (h : Foot μ s₀ s) (em : 0x4000010000 ||| μ = μ) : Foot μ s₀ (startScan s) := by
  unfold startScan
  exact Foot.ite h (foot_headroomStart (foot_setLamp (foot_setFlag h (fun i hi => .inr ⟨6, bit em rfl, i, hi, rfl⟩)) (sub em rfl)) (sub em rfl))

theorem foot_resendScan (h : Foot μ s₀ s) (em : 0x810000 ||| μ = μ) : Foot μ s₀ (resendScan s) := by
  unfold resendScan
  refine Foot.ite h ?_
  · extract_lets -merge -useContext +onlyGivenNames x1
    clear_value x1
    extract_lets -merge -useContext +onlyGivenNames s2
    have h2 : Foot μ s₀ s2 := foot_runLanes h (sub em rfl)
    clear_value s2
    extract_lets -merge -useContext +onlyGivenNames s3
    have h3 : Foot μ s₀ s3 := foot_when (fun _ h3 => foot_setLamp h3 (sub em rfl)) h2
    clear_value s3
    exact foot_forEach (fun _ _ h4 => foot_sendCfg h4 (sub em rfl)) h3

theorem foot_configureLane {a1} (h : Foot μ s₀ s) (em : 0x810000 ||| μ = μ) : Foot μ s₀ (configureLane a1 s) := by
  unfold configureLane
  exact foot_sendDrive (foot_sendDrive (foot_sendCfg h (sub em rfl)) (sub em rfl)) (sub em rfl)

theorem foot_llStart (h : Foot μ s₀ s) (em : 0x200000038000000000000000000004000810000 ||| μ = μ) : Foot μ s₀ (llStart s) := by
  unfold llStart
  extract_lets -merge -useContext +onlyGivenNames s1
  have h1 : Foot μ s₀ s1 := foot_dropRequests (foot_runLanes h (sub em rfl)) (sub em rfl)
  clear_value s1
  extract_lets -merge -useContext +onlyGivenNames x2
  clear_value x2
  extract_lets -merge -useContext +onlyGivenNames x3
  clear_value x3
  extract_lets -merge -useContext +onlyGivenNames s4
  have h4 : Foot μ s₀ s4 := foot_setLamp h1 (sub em rfl)
  clear_value s4
  extract_lets -merge -useContext +onlyGivenNames s5
  have h5 : Foot μ s₀ s5 := foot_setLamp h4 (sub em rfl)
  clear_value s5
  extract_lets -merge -useContext +onlyGivenNames s6
  have h6 : Foot μ s₀ s6 := foot_forEach (fun _ _ h6 => foot_setFldAt h6 (fun i hi => .inr ⟨121, bit em rfl, i, hi, rfl⟩)) h5
  clear_value s6
  exact foot_setFlag (foot_setFlag h6 (fun i hi => .inr ⟨6, bit em rfl, i, hi, rfl⟩)) (fun i hi => .inr ⟨6, bit em rfl, i, hi, rfl⟩)

theorem foot_scanChecked (h : Foot μ s₀ s) (em : 0x41000000000000000000010000e04000010020 ||| μ = μ) : Foot μ s₀ (scanChecked s) := by
  unfold scanChecked
  extract_lets -merge -useContext +onlyGivenNames x1
  clear_value x1
  extract_lets -merge -useContext +onlyGivenNames s2
  have h2 : Foot μ s₀ s2 := foot_setFld h (fun i hi => .inr ⟨6, bit em rfl, i, hi, rfl⟩)
  clear_value s2
  exact Foot.ite (foot_setLamp h2 (sub em rfl)) (foot_raise h2 (sub em rfl))

theorem foot_sendAction {a1 a2} (h : Foot μ s₀ s) (em : 0x100000000000200000000000000000810100 ||| μ = μ) : Foot μ s₀ (sendAction a1 a2 s) := by
  unfold sendAction
  extract_lets -merge -useContext +onlyGivenNames x1
  clear_value x1
  extract_lets -merge -useContext +onlyGivenNames s2
  have h2 : Foot μ s₀ s2 := foot_runLanes (foot_runTo h (sub em rfl)) (sub em rfl)
  clear_value s2
  refine Foot.ite h2 ?_
  · extract_lets -merge -useContext +onlyGivenNames s3
    have h3 : Foot μ s₀ s3 := foot_sendUpTo h2 (sub em rfl)
    clear_value s3
    exact foot_emit (foot_sendFrame h3 (sub em rfl)) (sub em rfl)

theorem foot_scanLatch (h : Foot μ s₀ s) (em : 0x4000010000 ||| μ = μ) : Foot μ s₀ (scanLatch s) := by
  unfold scanLatch
  exact Foot.ite (foot_startScan h (sub em rfl)) h

theorem foot_gainEmit (h : Foot μ s₀ s) (em : 0x100000000000200000000000000000814100 ||| μ = μ) : Foot μ s₀ (gainEmit s) := by
  unfold gainEmit
  split
  · exact h
  · refine Foot.ite h ?_
    · extract_lets -merge -useContext +onlyGivenNames x2
      clear_value x2
      extract_lets -merge -useContext +onlyGivenNames x3
      clear_value x3
      extract_lets -merge -useContext +onlyGivenNames s4
      have h4 : Foot μ s₀ s4 := Foot.ite h (foot_runTo h (sub em rfl))
      clear_value s4
      extract_lets -merge -useContext +onlyGivenNames x5
      clear_value x5
      extract_lets -merge -useContext +onlyGivenNames x6
      clear_value x6
      extract_lets -merge -useContext +onlyGivenNames x7
      clear_value x7
      extract_lets -merge -useContext +onlyGivenNames x8
      clear_value x8
      extract_lets -merge -useContext +onlyGivenNames s9
      have h9 : Foot μ s₀ s9 := foot_forEach (fun _ _ h9 => Foot.ite h9 (foot_forEach (fun _ _ h10 => foot_toLane h10 (sub em rfl)) h9)) h4
      clear_value s9
      exact foot_setFrame (foot_sendDue h9 (sub em rfl)) (sub em rfl)

theorem foot_grayEmit {a1 a2} (h : Foot μ s₀ s) (em : 0x41100000000000200000010000e04000814120 ||| μ = μ) : Foot μ s₀ (grayEmit a1 a2 s) := by
  unfold grayEmit
  split
  · exact h
  · split
    · exact h
    · refine Foot.ite h ?_
      · extract_lets -merge -useContext +onlyGivenNames x3
        clear_value x3
        extract_lets -merge -useContext +onlyGivenNames s4
        have h4 : Foot μ s₀ s4 := foot_runTo h (sub em rfl)
        clear_value s4
        extract_lets -merge -useContext +onlyGivenNames x5
        clear_value x5
        extract_lets -merge -useContext +onlyGivenNames x6
        clear_value x6
        extract_lets -merge -useContext +onlyGivenNames x7
        clear_value x7
        extract_lets -merge -useContext +onlyGivenNames s8
        have h8 : Foot μ s₀ s8 := foot_noteTiles h4 (sub em rfl)
        clear_value s8
        extract_lets -merge -useContext +onlyGivenNames s9
        have h9 : Foot μ s₀ s9 := foot_forEach (fun _ _ h9 => foot_toLane h9 (sub em rfl)) h8
        clear_value s9
        extract_lets -merge -useContext +onlyGivenNames s10
        have h10 : Foot μ s₀ s10 := foot_addFldAt h9 (fun i hi => .inr ⟨6, bit em rfl, i, hi, rfl⟩)
        clear_value s10
        extract_lets -merge -useContext +onlyGivenNames s11
        have h11 : Foot μ s₀ s11 := foot_when (fun _ h11 => foot_raise (foot_setFrame h11 (sub em rfl)) (sub em rfl)) h10
        clear_value s11
        exact foot_setFrame h11 (sub em rfl)

theorem foot_reconfigureLane {a1} (h : Foot μ s₀ s) (em : 0x41000000000000000000010000e00000810020 ||| μ = μ) : Foot μ s₀ (reconfigureLane a1 s) := by
  unfold reconfigureLane
  exact foot_raise (foot_configureLane (foot_toLane h (sub em rfl)) (sub em rfl)) (sub em rfl)

theorem foot_rowAdvance (h : Foot μ s₀ s) (em : 0x100000000000200000000000000000810100 ||| μ = μ) : Foot μ s₀ (rowAdvance s) := by
  unfold rowAdvance
  split
  · extract_lets -merge -useContext +onlyGivenNames x2
    clear_value x2
    extract_lets -merge -useContext +onlyGivenNames s3
    have h3 : Foot μ s₀ s3 := foot_setLamp (foot_runTo h (sub em rfl)) (sub em rfl)
    clear_value s3
    refine Foot.ite h3 ?_
    · split
      · exact h3
      · exact foot_setLamp (foot_sendAction h3 (sub em rfl)) (sub em rfl)

theorem foot_replyTimeout {a1} (h : Foot μ s₀ s) (em : 0x41000038000000000000010000e08000010020 ||| μ = μ) : Foot μ s₀ (replyTimeout a1 s) := by
  unfold replyTimeout
  split
  · exact h
  · extract_lets -merge -useContext +onlyGivenNames s2
    have h2 : Foot μ s₀ s2 := foot_setLamp h (sub em rfl)
    clear_value s2
    exact foot_raise (foot_failReply (foot_incFldAt h2 (fun i hi => .inr ⟨7, bit em rfl, i, hi, rfl⟩)) (sub em rfl)) (sub em rfl)

theorem foot_execGrayEmit {a1 a2} (h : Foot μ s₀ s) (em : 0x41100000000000200000010000e04000814120 ||| μ = μ) : ∀ t, execGrayEmit a1 a2 s = .next t → Foot μ s₀ t := by
  intro t e
  unfold execGrayEmit at e
  injection e with e
  subst e
  exact Foot.ite (foot_grayEmit h (sub em rfl)) h

theorem foot_bringupStep (h : Foot μ s₀ s) (em : 0x41100000000000200000010000e04000810120 ||| μ = μ) : Foot μ s₀ (bringupStep s) := by
  unfold bringupStep
  split
  · exact foot_setLamp (foot_elapse h (sub em rfl)) (sub em rfl)
  · exact foot_setLamp (foot_forEach (fun _ _ h2 => foot_toLane h2 (sub em rfl)) h) (sub em rfl)
  · exact foot_setLamp (foot_askIdents h (sub em rfl)) (sub em rfl)
  · exact Foot.ite h (foot_setLamp (foot_when (fun _ h4 => foot_raise h4 (sub em rfl)) h) (sub em rfl))
  · extract_lets -merge -useContext +onlyGivenNames s2
    have h2 : Foot μ s₀ s2 := foot_setFlag (foot_setLamp h (sub em rfl)) (fun i hi => .inr ⟨6, bit em rfl, i, hi, rfl⟩)
    clear_value s2
    exact foot_startScan (foot_scanChecked (foot_forEach (fun _ _ h3 => foot_configureLane h3 (sub em rfl)) h2) (sub em rfl)) (sub em rfl)
  · exact h

theorem foot_execGainEmit (h : Foot μ s₀ s) (em : 0x100000000000200000000000000000814100 ||| μ = μ) : ∀ t, execGainEmit s = .next t → Foot μ s₀ t := by
  intro t e
  unfold execGainEmit at e
  injection e with e
  subst e
  exact Foot.ite (foot_gainEmit h (sub em rfl)) h

theorem foot_execRowAdvAction (h : Foot μ s₀ s) (em : 0x100000000000200000000000000000810100 ||| μ = μ) : ∀ t, execRowAdvAction s = .next t → Foot μ s₀ t := by
  intro t e
  unfold execRowAdvAction at e
  injection e with e
  subst e
  exact Foot.ite (foot_rowAdvance h (sub em rfl)) h

theorem foot_giveReply {a1 a2} (h : Foot μ s₀ s) (em : 0x241000038000000000000010000e00000810020 ||| μ = μ) : Foot μ s₀ (giveReply a1 a2 s) := by
  unfold giveReply
  extract_lets -merge -useContext +onlyGivenNames x1
  split
  · exact foot_hostAnswer h (sub em rfl)
  · exact Foot.ite (foot_setFldAt (foot_setLamp h (sub em rfl)) (fun i hi => .inr ⟨121, bit em rfl, i, hi, rfl⟩)) h
  · exact Foot.ite h (foot_reconfigureLane h (sub em rfl))
  · extract_lets -merge -useContext +onlyGivenNames x3
    clear_value x3
    extract_lets -merge -useContext +onlyGivenNames x4
    clear_value x4
    extract_lets -merge -useContext +onlyGivenNames x5
    clear_value x5
    extract_lets -merge -useContext +onlyGivenNames s6
    have h6 : Foot μ s₀ s6 := foot_setLamp h (sub em rfl)
    clear_value s6
    exact foot_when (fun _ h7 => foot_openFirst h7 (sub em rfl)) h6
  · exact foot_setDriver h (sub em rfl)

theorem foot_execLlBringupStep (h : Foot μ s₀ s) (em : 0x41100000000000200000010000e04000810120 ||| μ = μ) : ∀ t, execLlBringupStep s = .next t → Foot μ s₀ t := by
  intro t e
  unfold execLlBringupStep at e
  injection e with e
  subst e
  exact Foot.ite (foot_bringupStep h (sub em rfl)) h

theorem foot_execLlRetTimeout {a1} (h : Foot μ s₀ s) (em : 0x41000038000000000000010000e08000010020 ||| μ = μ) : ∀ t, execLlRetTimeout a1 s = .next t → Foot μ s₀ t := by
  intro t e
  unfold execLlRetTimeout at e
  injection e with e
  subst e
  exact Foot.ite (foot_replyTimeout h (sub em rfl)) h

theorem foot_takeReply {a1 a2} (h : Foot μ s₀ s) (em : 0x241000038000000000000010000e08000810020 ||| μ = μ) : Foot μ s₀ (takeReply a1 a2 s) := by
  unfold takeReply
  split
  · exact h
  · extract_lets -merge -useContext +onlyGivenNames s2
    have h2 : Foot μ s₀ s2 := foot_setLamp h (sub em rfl)
    clear_value s2
    split
    · exact foot_giveReply h2 (sub em rfl)
    · exact foot_raise (foot_failReply (foot_incFldAt h2 (fun i hi => .inr ⟨7, bit em rfl, i, hi, rfl⟩)) (sub em rfl)) (sub em rfl)

theorem foot_execLlRetReply {a1 a2} (h : Foot μ s₀ s) (em : 0x241000038000000000000010000e08000810020 ||| μ = μ) : ∀ t, execLlRetReply a1 a2 s = .next t → Foot μ s₀ t := by
  intro t e
  unfold execLlRetReply at e
  injection e with e
  subst e
  exact Foot.ite (foot_takeReply h (sub em rfl)) h

/-! ### Machine/LampDrive.lean -/

theorem foot_showVled {a1} (h : Foot μ s₀ s) (em : 0x1000000000000 ||| μ = μ) : Foot μ s₀ (showVled a1 s) := by
  unfold showVled
  exact foot_setFld h (fun i hi => .inr ⟨16, bit em rfl, i, hi, rfl⟩)

theorem foot_vledOutput {a1 a2} (h : Foot μ s₀ s) (em : 0x1000000000000 ||| μ = μ) : Foot μ s₀ (vledOutput a1 a2 s) := by
  unfold vledOutput
  exact Foot.ite (foot_showVled h (sub em rfl)) h

theorem foot_driveClear (h : Foot μ s₀ s) (em : 0xe000000000000000000000 ||| μ = μ) : Foot μ s₀ (driveClear s) := by
  unfold driveClear
  exact foot_setFld (foot_setFld (foot_setFld (foot_setFld h (fun i hi => .inr ⟨55, bit em rfl, i, hi, rfl⟩)) (fun i hi => .inr ⟨54, bit em rfl, i, hi, rfl⟩)) (fun i hi => .inr ⟨53, bit em rfl, i, hi, rfl⟩)) (fun i hi => .inr ⟨53, bit em rfl, i, hi, rfl⟩)

theorem foot_endRun {a1} (h : Foot μ s₀ s) (em : 0x10000 ||| μ = μ) : Foot μ s₀ (endRun a1 s) := by
  unfold endRun
  exact foot_setLamp h (sub em rfl)

theorem foot_driveStop (h : Foot μ s₀ s) (em : 0x10000 ||| μ = μ) : Foot μ s₀ (driveStop s) := by
  unfold driveStop
  exact foot_setLamp h (sub em rfl)

theorem foot_splitSlot {a1} (h : Foot μ s₀ s) (em : 0x10000000000000000 ||| μ = μ) : Foot μ s₀ (splitSlot a1 s).2 := by
  unfold splitSlot
  extract_lets -merge -useContext +onlyGivenNames x1
  clear_value x1
  extract_lets -merge -useContext +onlyGivenNames x2
  clear_value x2
  extract_lets -merge -useContext +onlyGivenNames x3
  clear_value x3
  extract_lets -merge -useContext +onlyGivenNames s4
  have h4 : Foot μ s₀ s4 := foot_setFld h (fun i hi => .inr ⟨32, bit em rfl, i, hi, rfl⟩)
  clear_value s4
  exact h4

theorem foot_setLampByte {a1 a2} (h : Foot μ s₀ s) (em : 0x2 ||| μ = μ) : Foot μ s₀ (setLampByte a1 a2 s) := by
  unfold setLampByte
  exact Foot.ite (foot_setStoreByte h (sub em rfl)) h

theorem foot_driveResume (h : Foot μ s₀ s) (em : 0x10000000000000000 ||| μ = μ) : Foot μ s₀ (driveResume s) := by
  unfold driveResume
  exact foot_setFld h (fun i hi => .inr ⟨32, bit em rfl, i, hi, rfl⟩)

theorem foot_driveCfg {a1} (h : Foot μ s₀ s) (em : 0x10000 ||| μ = μ) : Foot μ s₀ (driveCfg a1 s) := by
  unfold driveCfg
  exact foot_setLamp h (sub em rfl)

theorem foot_splitSlots {l : List Nat} (h : Foot μ s₀ s) (em : 0x10000000000000000 ||| μ = μ) : Foot μ s₀ (splitSlots l s).2 := by
  induction l generalizing s with
  | nil => exact h
  | cons x t ih => exact ih (foot_splitSlot h (sub em rfl))

theorem foot_diagClear {a1} (h : Foot μ s₀ s) (em : 0xe00000000000000000000000000010002 ||| μ = μ) : Foot μ s₀ (diagClear a1 s) := by
  unfold diagClear
  extract_lets -merge -useContext +onlyGivenNames x1
  clear_value x1
  extract_lets -merge -useContext +onlyGivenNames s2
  have h2 : Foot μ s₀ s2 := foot_forEach (fun _ _ h2 => foot_setFldAt h2 (fun i hi => .inr ⟨97, bit em rfl, i, hi, rfl⟩)) h
  clear_value s2
  extract_lets -merge -useContext +onlyGivenNames s3
  have h3 : Foot μ s₀ s3 := foot_setFld h2 (fun i hi => .inr ⟨98, bit em rfl, i, hi, rfl⟩)
  clear_value s3
  extract_lets -merge -useContext +onlyGivenNames s4
  have h4 : Foot μ s₀ s4 := foot_when (fun _ h4 => foot_setFlag h4 (fun i hi => .inr ⟨98, bit em rfl, i, hi, rfl⟩)) h3
  clear_value s4
  extract_lets -merge -useContext +onlyGivenNames s5
  have h5 : Foot μ s₀ s5 := foot_forEach (fun _ _ h5 => foot_setFldAt h5 (fun i hi => .inr ⟨99, bit em rfl, i, hi, rfl⟩)) h4
  clear_value s5
  exact foot_forEach (fun _ _ h7 => foot_setLampByte (foot_setLamp h7 (sub em rfl)) (sub em rfl)) h5

theorem foot_maskLamp {a1} (h : Foot μ s₀ s) (em : 0x2 ||| μ = μ) : Foot μ s₀ (maskLamp a1 s) := by
  unfold maskLamp
  exact foot_setLampByte h (sub em rfl)

theorem foot_judgeGroups {a1} (h : Foot μ s₀ s) (em : 0x41000800000000000000010000e00000000020 ||| μ = μ) : Foot μ s₀ (judgeGroups a1 s) := by
  unfold judgeGroups
  exact foot_forEach (fun _ _ h2 => Foot.ite (foot_raise (foot_setFlagAt h2 (fun i hi => .inr ⟨99, bit em rfl, i, hi, rfl⟩)) (sub em rfl)) (Foot.ite (foot_setFlagAt h2 (fun i hi => .inr ⟨99, bit em rfl, i, hi, rfl⟩)) h2)) h

theorem foot_writeRecord {a1 a2 a3 a4 a5 a6 a7 a8} (h : Foot μ s₀ s) (em : 0x41000600000000000000010000e00000000020 ||| μ = μ) : Foot μ s₀ (writeRecord a1 a2 a3 a4 a5 a6 a7 a8 s) := by
  unfold writeRecord
  exact Foot.ite (foot_setFld (foot_setFldAt h (fun i hi => .inr ⟨97, bit em rfl, i, hi, rfl⟩)) (fun i hi => .inr ⟨98, bit em rfl, i, hi, rfl⟩)) (Foot.ite h (foot_raise (foot_setFlag h (fun i hi => .inr ⟨98, bit em rfl, i, hi, rfl⟩)) (sub em rfl)))

theorem foot_judgeNow (h : Foot μ s₀ s) (em : 0x41000800000000000000010000e00000000020 ||| μ = μ) : Foot μ s₀ (judgeNow s) := by
  unfold judgeNow
  exact Foot.ite (foot_judgeGroups h (sub em rfl)) h

theorem foot_outerSettle (h : Foot μ s₀ s) (em : 0x41000000000000000020010008e00000000420 ||| μ = μ) : Foot μ s₀ (outerSettle s) := by
  unfold outerSettle
  split
  · extract_lets -merge -useContext +onlyGivenNames x2
    clear_value x2
    extract_lets -merge -useContext +onlyGivenNames s3
    have h3 : Foot μ s₀ s3 := foot_setCeWord h (sub em rfl)
    clear_value s3
    exact Foot.ite h3 (foot_ceEnqueue h3 (sub em rfl))
  · exact h

theorem foot_containLamp {a1 a2} (h : Foot μ s₀ s) (em : 0x10002 ||| μ = μ) : Foot μ s₀ (containLamp a1 a2 s) := by
  unfold containLamp
  exact foot_maskLamp (foot_setLamp h (sub em rfl)) (sub em rfl)

theorem foot_sweepStart (h : Foot μ s₀ s) (em : 0x100000000000200000000000000000010100 ||| μ = μ) : Foot μ s₀ (sweepStart s) := by
  unfold sweepStart
  refine Foot.ite h ?_
  · extract_lets -merge -useContext +onlyGivenNames s1
    have h1 : Foot μ s₀ s1 := by
      unfold s1
      split
      · exact foot_elapse h (sub em rfl)
      · exact h
    clear_value s1
    extract_lets -merge -useContext +onlyGivenNames x2
    clear_value x2
    extract_lets -merge -useContext +onlyGivenNames x3
    clear_value x3
    extract_lets -merge -useContext +onlyGivenNames x4
    clear_value x4
    extract_lets -merge -useContext +onlyGivenNames s5
    have h5 : Foot μ s₀ s5 := foot_setLamp h1 (sub em rfl)
    clear_value s5
    exact foot_forEach (fun _ _ h6 => foot_forEach (fun _ _ h7 => foot_askDriver h7 (sub em rfl)) h6) h5

theorem foot_execFaultSweepStart (h : Foot μ s₀ s) (em : 0x100000000000200000000000000000010100 ||| μ = μ) : ∀ t, execFaultSweepStart s = .next t → Foot μ s₀ t := by
  intro t e
  unfold execFaultSweepStart at e
  injection e with e
  subst e
  exact foot_sweepStart h (sub em rfl)

theorem foot_confirmFault {a1 a2 a3 a4 a5 a6 a7 a8 a9} (h : Foot μ s₀ s) (em : 0x41000e00000000002000010000e00000010022 ||| μ = μ) : Foot μ s₀ (confirmFault a1 a2 a3 a4 a5 a6 a7 a8 a9 s) := by
  unfold confirmFault
  extract_lets -merge -useContext +onlyGivenNames x1
  clear_value x1
  extract_lets -merge -useContext +onlyGivenNames s2
  have h2 : Foot μ s₀ s2 := foot_writeRecord h (sub em rfl)
  clear_value s2
  extract_lets -merge -useContext +onlyGivenNames s3
  have h3 : Foot μ s₀ s3 := foot_incFldAt h2 (fun i hi => .inr ⟨99, bit em rfl, i, hi, rfl⟩)
  clear_value s3
  extract_lets -merge -useContext +onlyGivenNames s4
  have h4 : Foot μ s₀ s4 := Foot.ite (foot_forEach (fun _ _ h4 => foot_containLamp h4 (sub em rfl)) h3) (Foot.ite (foot_raise (foot_setFld h3 (fun i hi => .inr ⟨32, bit em rfl, i, hi, rfl⟩)) (sub em rfl)) (foot_containLamp h3 (sub em rfl)))
  clear_value s4
  extract_lets -merge -useContext +onlyGivenNames s5
  have h5 : Foot μ s₀ s5 := foot_setLamp h4 (sub em rfl)
  clear_value s5
  extract_lets -merge -useContext +onlyGivenNames s6
  have h6 : Foot μ s₀ s6 := foot_when (fun _ h6 => foot_raise (foot_incFld h6 (fun i hi => .inr ⟨53, bit em rfl, i, hi, rfl⟩)) (sub em rfl)) h5
  clear_value s6
  exact foot_when (fun _ h7 => foot_raise (foot_incFld h7 (fun i hi => .inr ⟨53, bit em rfl, i, hi, rfl⟩)) (sub em rfl)) h6

theorem foot_setOuterMode {a1} (h : Foot μ s₀ s) (em : 0x41000000000000000020010009e00000000420 ||| μ = μ) : Foot μ s₀ (setOuterMode a1 s) := by
  unfold setOuterMode
  split
  · extract_lets -merge -useContext +onlyGivenNames s2
    have h2 : Foot μ s₀ s2 := foot_setCeWord h (sub em rfl)
    clear_value s2
    exact Foot.ite h2 (foot_outerSettle h2 (sub em rfl))
  · exact Foot.ite h (foot_showVled h (sub em rfl))

theorem foot_countClips (h : Foot μ s₀ s) (em : 0x41000000000000008000010000e00000000020 ||| μ = μ) : Foot μ s₀ (countClips s) := by
  unfold countClips
  exact Foot.ite h (foot_raise (foot_addFldAt h (fun i hi => .inr ⟨55, bit em rfl, i, hi, rfl⟩)) (sub em rfl))

theorem foot_blotter {a1} (h : Foot μ s₀ s) (em : 0x100000000000204000000000000000810100 ||| μ = μ) : Foot μ s₀ (blotter a1 s) := by
  unfold blotter
  extract_lets -merge -useContext +onlyGivenNames x1
  clear_value x1
  split
  · exact h
  · extract_lets -merge -useContext +onlyGivenNames x3
    clear_value x3
    extract_lets -merge -useContext +onlyGivenNames x4
    clear_value x4
    extract_lets -merge -useContext +onlyGivenNames x5
    clear_value x5
    refine Foot.ite h ?_
    · extract_lets -merge -useContext +onlyGivenNames x6
      clear_value x6
      extract_lets -merge -useContext +onlyGivenNames s7
      have h7 : Foot μ s₀ s7 := foot_forEach (fun _ _ h7 => foot_toLane h7 (sub em rfl)) h
      clear_value s7
      exact foot_incFld (foot_setLamp (foot_sendAction h7 (sub em rfl)) (sub em rfl)) (fun i hi => .inr ⟨54, bit em rfl, i, hi, rfl⟩)

theorem foot_driveStart (h : Foot μ s₀ s) (em : 0x41000000000000000020010009e00000010420 ||| μ = μ) : Foot μ s₀ (driveStart s) := by
  unfold driveStart
  exact foot_headroomStart (foot_setOuterMode (foot_setFlag (foot_setFld h (fun i hi => .inr ⟨32, bit em rfl, i, hi, rfl⟩)) (fun i hi => .inr ⟨32, bit em rfl, i, hi, rfl⟩)) (sub em rfl)) (sub em rfl)

theorem foot_vledStep (h : Foot μ s₀ s) (em : 0x41000000000000040020010009e00000000420 ||| μ = μ) : Foot μ s₀ (vledStep s) := by
  unfold vledStep
  extract_lets -merge -useContext +onlyGivenNames x1
  clear_value x1
  split
  · exact foot_ceWrite h (sub em rfl)
  · exact foot_showVled h (sub em rfl)

theorem foot_sweepLamp {a1 a2 a3} (h : Foot μ s₀ s) (em : 0x41000e00000000002000010000e00000010022 ||| μ = μ) : Foot μ s₀ (sweepLamp a1 a2 a3 s) := by
  unfold sweepLamp
  split
  · extract_lets -merge -useContext +onlyGivenNames x2
    clear_value x2
    refine Foot.ite h ?_
    · extract_lets -merge -useContext +onlyGivenNames x3
      clear_value x3
      extract_lets -merge -useContext +onlyGivenNames x4
      clear_value x4
      extract_lets -merge -useContext +onlyGivenNames x5
      clear_value x5
      extract_lets -merge -useContext +onlyGivenNames x6
      clear_value x6
      refine Foot.ite ?_ (Foot.ite (foot_setLampByte (foot_endRun h (sub em rfl)) (sub em rfl)) (foot_setLampByte h (sub em rfl)))
      · extract_lets -merge -useContext +onlyGivenNames x7
        clear_value x7
        extract_lets -merge -useContext +onlyGivenNames s8
        have h8 : Foot μ s₀ s8 := foot_setLampByte (foot_setLamp h (sub em rfl)) (sub em rfl)
        clear_value s8
        exact Foot.ite (foot_confirmFault h8 (sub em rfl)) h8

theorem foot_vledMode {a1} (h : Foot μ s₀ s) (em : 0x41000000000000000020010009e00000000420 ||| μ = μ) : Foot μ s₀ (vledMode a1 s) := by
  unfold vledMode
  exact Foot.ite h (foot_setOuterMode (foot_setFlag h (fun i hi => .inr ⟨32, bit em rfl, i, hi, rfl⟩)) (sub em rfl))

theorem foot_execBlotterAction {a1} (h : Foot μ s₀ s) (em : 0x100000000000204000000000000000810100 ||| μ = μ) : ∀ t, execBlotterAction a1 s = .next t → Foot μ s₀ t := by
  intro t e
  unfold execBlotterAction at e
  injection e with e
  subst e
  exact foot_blotter h (sub em rfl)

theorem foot_latchDrive {a1} (h : Foot μ s₀ s) (em : 0x600000000041000000000000048020010009e00000010420 ||| μ = μ) : Foot μ s₀ (latchDrive a1 s).2 := by
  unfold latchDrive
  extract_lets -merge -useContext +onlyGivenNames x1
  clear_value x1
  refine Foot.iteSnd h ?_
  · extract_lets -merge -useContext +onlyGivenNames s2
    have h2 : Foot μ s₀ s2 := foot_countClips h (sub em rfl)
    clear_value s2
    split
    · extract_lets -merge -useContext +onlyGivenNames x4
      clear_value x4
      extract_lets -merge -useContext +onlyGivenNames x5
      clear_value x5
      extract_lets -merge -useContext +onlyGivenNames s6
      have h6 : Foot μ s₀ s6 := foot_when (fun _ h6 => foot_vledStep h6 (sub em rfl)) (Foot.ofSnd (foot_splitSlots h2 (sub em rfl)) ‹_›)
      clear_value s6
      extract_lets -merge -useContext +onlyGivenNames x7
      clear_value x7
      split
      · extract_lets -merge -useContext +onlyGivenNames s9
        have h9 : Foot μ s₀ s9 := foot_setLamp h6 (sub em rfl)
        clear_value s9
        extract_lets -merge -useContext +onlyGivenNames s10
        have h10 : Foot μ s₀ s10 := foot_setFld (foot_setFld h9 (fun i hi => .inr ⟨32, bit em rfl, i, hi, rfl⟩)) (fun i hi => .inr ⟨157, bit em rfl, i, hi, rfl⟩)
        clear_value s10
        extract_lets -merge -useContext +onlyGivenNames s11
        have h11 : Foot μ s₀ s11 := by
          unfold s11
          split
          · exact foot_raise h10 (sub em rfl)
          · exact h10
        clear_value s11
        extract_lets -merge -useContext +onlyGivenNames x12
        clear_value x12
        extract_lets -merge -useContext +onlyGivenNames x13
        clear_value x13
        extract_lets -merge -useContext +onlyGivenNames x14
        clear_value x14
        extract_lets -merge -useContext +onlyGivenNames s15
        have h15 : Foot μ s₀ s15 := foot_when (fun _ h15 => foot_forEach (fun _ _ h16 => foot_setFldAt h16 (fun i hi => .inr ⟨158, bit em rfl, i, hi, rfl⟩)) h15) h11
        clear_value s15
        extract_lets -merge -useContext +onlyGivenNames s16
        have h16 : Foot μ s₀ s16 := foot_when (fun _ h16 => foot_vledMode h16 (sub em rfl)) h15
        clear_value s16
        exact h16

theorem foot_sweepEnd (h : Foot μ s₀ s) (em : 0x41000e00000000002000010000e00000010022 ||| μ = μ) : Foot μ s₀ (sweepEnd s) := by
  unfold sweepEnd
  split
  · exact h
  · refine Foot.ite h ?_
    · refine Foot.ite (foot_setLamp h (sub em rfl)) ?_
      · extract_lets -merge -useContext +onlyGivenNames x2
        clear_value x2
        extract_lets -merge -useContext +onlyGivenNames s3
        have h3 : Foot μ s₀ s3 := foot_setLamp h (sub em rfl)
        clear_value s3
        extract_lets -merge -useContext +onlyGivenNames s4
        have h4 : Foot μ s₀ s4 := foot_forEach (fun _ _ h4 => foot_forEach (fun _ _ h6 => foot_sweepLamp h6 (sub em rfl)) h4) h3
        clear_value s4
        exact foot_judgeGroups h4 (sub em rfl)

theorem foot_headroomEnd (h : Foot μ s₀ s) (em : 0x800000000041000000000000040020010009e00000010420 ||| μ = μ) : Foot μ s₀ (headroomEnd s) := by
  unfold headroomEnd
  refine Foot.ite (foot_headroomStart h (sub em rfl)) ?_
  · extract_lets -merge -useContext +onlyGivenNames x1
    clear_value x1
    extract_lets -merge -useContext +onlyGivenNames s2
    have h2 : Foot μ s₀ s2 := foot_setLamp h (sub em rfl)
    clear_value s2
    extract_lets -merge -useContext +onlyGivenNames _ s3
    have h3 : Foot μ s₀ s3 := by
      unfold s3
      split
      · exact Foot.ite (foot_setFlag h2 (fun i hi => .inr ⟨159, bit em rfl, i, hi, rfl⟩)) (foot_outerSettle (foot_setFlag h2 (fun i hi => .inr ⟨159, bit em rfl, i, hi, rfl⟩)) (sub em rfl))
      · refine Foot.ite ?_ ?_
        · refine foot_when (fun _ h4 => foot_raise h4 (sub em rfl)) ?_
          · refine foot_raise ?_ (sub em rfl)
            · refine foot_vledStep ?_ (sub em rfl)
              · refine foot_ceBlockSample ?_ (sub em rfl)
                · split
                  · exact foot_setCeWord (foot_vledMode (foot_setFld (foot_setFld (foot_setFld (foot_setFlag h2 (fun i hi => .inr ⟨159, bit em rfl, i, hi, rfl⟩)) (fun i hi => .inr ⟨159, bit em rfl, i, hi, rfl⟩)) (fun i hi => .inr ⟨159, bit em rfl, i, hi, rfl⟩)) (fun i hi => .inr ⟨159, bit em rfl, i, hi, rfl⟩)) (sub em rfl)) (sub em rfl)
                  · exact foot_vledMode (foot_setFld (foot_setFld (foot_setFld (foot_setFlag h2 (fun i hi => .inr ⟨159, bit em rfl, i, hi, rfl⟩)) (fun i hi => .inr ⟨159, bit em rfl, i, hi, rfl⟩)) (fun i hi => .inr ⟨159, bit em rfl, i, hi, rfl⟩)) (fun i hi => .inr ⟨159, bit em rfl, i, hi, rfl⟩)) (sub em rfl)
        · refine foot_ceBlockSample ?_ (sub em rfl)
          · split
            · exact foot_setCeWord (foot_vledMode (foot_setFld (foot_setFld (foot_setFld (foot_setFlag h2 (fun i hi => .inr ⟨159, bit em rfl, i, hi, rfl⟩)) (fun i hi => .inr ⟨159, bit em rfl, i, hi, rfl⟩)) (fun i hi => .inr ⟨159, bit em rfl, i, hi, rfl⟩)) (fun i hi => .inr ⟨159, bit em rfl, i, hi, rfl⟩)) (sub em rfl)) (sub em rfl)
            · exact foot_vledMode (foot_setFld (foot_setFld (foot_setFld (foot_setFlag h2 (fun i hi => .inr ⟨159, bit em rfl, i, hi, rfl⟩)) (fun i hi => .inr ⟨159, bit em rfl, i, hi, rfl⟩)) (fun i hi => .inr ⟨159, bit em rfl, i, hi, rfl⟩)) (fun i hi => .inr ⟨159, bit em rfl, i, hi, rfl⟩)) (sub em rfl)
    clear_value s3
    exact foot_headroomStart h3 (sub em rfl)

theorem foot_execHeadroomCycleEnd (h : Foot μ s₀ s) (em : 0x800000000041000000000000040020010009e00000010420 ||| μ = μ) : ∀ t, execHeadroomCycleEnd s = .next t → Foot μ s₀ t := by
  intro t e
  unfold execHeadroomCycleEnd at e
  injection e with e
  subst e
  exact Foot.ite (foot_headroomEnd h (sub em rfl)) h

theorem foot_execFaultSweepEnd (h : Foot μ s₀ s) (em : 0x41000e00000000002000010000e00000010022 ||| μ = μ) : ∀ t, execFaultSweepEnd s = .next t → Foot μ s₀ t := by
  intro t e
  unfold execFaultSweepEnd at e
  injection e with e
  subst e
  exact Foot.ite (foot_sweepEnd h (sub em rfl)) h

end Sys2Proof.Machine
end

