-- ==== Sys2Proof/Laws/Foot7.lean ====
section
/-! SUPPORT. The relation Foot holds of each operation of Machine/: Power, Thermal. -/

namespace Sys2Proof.Machine

variable {μ : Nat} {s₀ s t : State}

/-! ### Machine/Power.lean -/

theorem foot_resetRegs {a1} (h : Foot μ s₀ s) (em : 0x1000000 ||| μ = μ) : Foot μ s₀ (resetRegs a1 s) :=
  h.trans ⟨⟨fun ⟨c1, c2, c3, c4, c5, c6, c7⟩ => ⟨Memory.wf_filter c1, c2, c3, c4, c5, c6, c7⟩, rfl, rfl, id,
    List.prefix_refl _, List.suffix_refl _, Nat.le_refl _⟩, fun p _ => by cases p <;> rfl,
    fun _ na => absurd (.inl (bit em rfl)) na⟩

theorem foot_loseStore {a1} (h : Foot μ s₀ s) (em : 0x40002 ||| μ = μ) : Foot μ s₀ (loseStore a1 s) :=
  h.trans ⟨⟨fun ⟨c1, c2, c3, c4, c5, c6, c7⟩ => ⟨c1, Memory.wf_filter c2, c3, c4, c5, c6, c7⟩, rfl, rfl, id,
    List.prefix_refl _, List.suffix_refl _, Nat.le_refl _⟩, fun p k => by
      cases p <;> first | rfl | exact absurd ((bit (i := 1) em rfl).symm.trans k) (by decide) |
        exact absurd ((bit (i := 18) em rfl).symm.trans k) (by decide), fun _ _ => rfl⟩

theorem foot_timerExpires (h : Foot μ s₀ s) (em : 0x40000 ||| μ = μ) : Foot μ s₀ (timerExpires s) := by
  unfold timerExpires
  exact Foot.ite (foot_setPwr h rfl (sub em rfl)) h

theorem foot_restoreArrays {a1} (h : Foot μ s₀ s) (em : 0x1048000 ||| μ = μ) : Foot μ s₀ (restoreArrays a1 s) := by
  unfold restoreArrays
  refine Foot.ite h ?_
  · extract_lets -merge -useContext +onlyGivenNames s1
    have h1 : Foot μ s₀ s1 := foot_forEach (fun _ _ h1 => foot_setRegWord h1 (.inl (bit em rfl))) h
    clear_value s1
    extract_lets -merge -useContext +onlyGivenNames s2
    have h2 : Foot μ s₀ s2 := foot_setPwr h1 rfl (sub em rfl)
    clear_value s2
    refine Foot.ite h2 ?_
    · split
      · exact Foot.change h2 (Keeps.same (Keeps.refl _) rfl rfl rfl rfl rfl rfl rfl rfl rfl rfl rfl rfl rfl) rfl (fun p k => by cases p <;> first | rfl | exact absurd ((bit em rfl : μ.testBit _ = true).symm.trans k) (by decide))
      · exact foot_tfFillBank (foot_tfFillBank h2 (sub em rfl)) (sub em rfl)

theorem foot_baseBackoff (h : Foot μ s₀ s) (em : 0x2000040000 ||| μ = μ) : Foot μ s₀ (baseBackoff s) := by
  unfold baseBackoff
  exact foot_setPwr (foot_setFld h (fun i hi => .inr ⟨5, bit em rfl, i, hi, rfl⟩)) rfl (sub em rfl)

theorem foot_copyArrays {a1} (h : Foot μ s₀ s) (em : 0x40000 ||| μ = μ) : Foot μ s₀ (copyArrays a1 s) := by
  unfold copyArrays
  exact foot_setPwr h rfl (sub em rfl)

theorem foot_execEntryTimerExpire (h : Foot μ s₀ s) (em : 0x40000 ||| μ = μ) : ∀ t, execEntryTimerExpire s = .next t → Foot μ s₀ t := by
  intro t e
  unfold execEntryTimerExpire at e
  injection e with e
  subst e
  exact foot_timerExpires h (sub em rfl)

theorem foot_domainLost {a1} (h : Foot μ s₀ s) (em : 0x3dfdfa ||| μ = μ) : Foot μ s₀ (domainLost a1 s) := by
  unfold domainLost
  split
  · exact Foot.change h (Keeps.same (Keeps.refl _) rfl rfl rfl rfl rfl rfl rfl rfl rfl rfl rfl rfl rfl) rfl (fun p k => by cases p <;> first | rfl | exact absurd ((bit em rfl : μ.testBit _ = true).symm.trans k) (by decide))
  · exact foot_setBoot h ⟨rfl, rfl, rfl⟩ (sub em rfl)
  · exact foot_setTime h (sub em rfl)
  · exact Foot.change h (Keeps.same (Keeps.refl _) rfl rfl rfl rfl rfl rfl rfl rfl rfl rfl rfl rfl rfl) rfl (fun p k => by cases p <;> first | rfl | exact absurd ((bit em rfl : μ.testBit _ = true).symm.trans k) (by decide))
  · exact Foot.lamp h (bit em rfl)
  · exact Foot.eth h (bit em rfl)
  · exact foot_forEach (fun _ _ h2 => foot_setLane h2 (sub em rfl)) h
  · exact foot_forEach (fun _ _ h2 => foot_setLane h2 (sub em rfl)) h
  · exact foot_forEach (fun _ _ h2 => foot_setLane h2 (sub em rfl)) h
  · exact foot_forEach (fun _ _ h2 => foot_setLane h2 (sub em rfl)) h
  · exact foot_forEach (fun _ _ h2 => foot_setPort h2 (sub em rfl)) (Foot.change h (Keeps.same (Keeps.refl _) rfl rfl rfl rfl rfl rfl rfl rfl rfl rfl rfl rfl rfl) rfl (fun p k => by cases p <;> first | rfl | exact absurd ((bit em rfl : μ.testBit _ = true).symm.trans k) (by decide)))
  · exact foot_loseStore h (sub em rfl)
  · exact foot_loseStore h (sub em rfl)
  · exact Foot.change h (Keeps.same (Keeps.refl _) rfl rfl rfl rfl rfl rfl rfl rfl rfl rfl rfl rfl rfl) rfl (fun p k => by cases p <;> first | rfl | exact absurd ((bit em rfl : μ.testBit _ = true).symm.trans k) (by decide))
  · exact h

theorem foot_setLength {a1 a2} (h : Foot μ s₀ s) (em : 0x40000 ||| μ = μ) : Foot μ s₀ (setLength a1 a2 s) := by
  unfold setLength
  exact foot_setPwr h rfl (sub em rfl)

theorem foot_restartTimer (h : Foot μ s₀ s) (em : 0x2000040000 ||| μ = μ) : Foot μ s₀ (restartTimer s) := by
  unfold restartTimer
  extract_lets -merge -useContext +onlyGivenNames s1
  have h1 : Foot μ s₀ s1 := foot_setPwr h rfl (sub em rfl)
  clear_value s1
  exact Foot.ite h1 (foot_setFld h1 (fun i hi => .inr ⟨5, bit em rfl, i, hi, rfl⟩))

theorem foot_setPhase {a1} (h : Foot μ s₀ s) (em : 0x8000000000000000000 ||| μ = μ) : Foot μ s₀ (setPhase a1 s) := by
  unfold setPhase
  exact foot_setFld h (fun i hi => .inr ⟨43, bit em rfl, i, hi, rfl⟩)

theorem foot_setPdState {a1 a2} (h : Foot μ s₀ s) (em : 0x40000000000000000000 ||| μ = μ) : Foot μ s₀ (setPdState a1 a2 s) := by
  unfold setPdState
  exact foot_setFldAt h (fun i hi => .inr ⟨46, bit em rfl, i, hi, rfl⟩)

theorem foot_domainUp.showRecord (h : Foot μ s₀ s) (em : 0x80000000000000000000 ||| μ = μ) : Foot μ s₀ (domainUp.showRecord s) := by
  unfold domainUp.showRecord
  exact foot_when (fun _ h1 => foot_setFlag h1 (fun i hi => .inr ⟨47, bit em rfl, i, hi, rfl⟩)) h

theorem foot_resetChip {a1} (h : Foot μ s₀ s) (em : 0x1480000000000013fffff ||| μ = μ) : Foot μ s₀ (resetChip a1 s) := by
  unfold resetChip
  dsimp only
  refine foot_setRetBytes (foot_setPhase (foot_setFld (foot_setFld
    (foot_forEach (fun _ _ h4 => foot_setPdState h4 (sub em rfl)) (h.trans ?_)) (fun i hi => .inr ⟨48, bit em rfl, i, hi, rfl⟩)) (fun i hi => .inr ⟨43, bit em rfl, i, hi, rfl⟩)) (sub em rfl)) (sub em rfl)
  refine ⟨⟨fun ⟨c1, _, _, c4, c5, _, _⟩ => ⟨Memory.wf_filter c1, Memory.wf_nil, Memory.wf_nil, c4, c5, rfl, rfl⟩, rfl, rfl, id,
    List.prefix_refl _, List.suffix_refl _, Nat.le_refl _⟩, fun p k => ?_, fun _ na => absurd (.inl (bit em rfl)) na⟩
  cases p <;> first | rfl | exact absurd ((bit em rfl : μ.testBit _ = true).symm.trans k) (by decide)

theorem foot_recordRefusal {a1 a2 a3} (h : Foot μ s₀ s) (em : 0x1000000000000000000000 ||| μ = μ) : Foot μ s₀ (recordRefusal a1 a2 a3 s) := by
  unfold recordRefusal
  exact foot_incFld (foot_setFld (foot_setFld (foot_setFld h (fun i hi => .inr ⟨52, bit em rfl, i, hi, rfl⟩)) (fun i hi => .inr ⟨52, bit em rfl, i, hi, rfl⟩)) (fun i hi => .inr ⟨52, bit em rfl, i, hi, rfl⟩)) (fun i hi => .inr ⟨52, bit em rfl, i, hi, rfl⟩)

theorem foot_dropWaits {a1} (h : Foot μ s₀ s) (em : 0x840000 ||| μ = μ) : Foot μ s₀ (dropWaits a1 s) := by
  unfold dropWaits
  extract_lets -merge -useContext +onlyGivenNames x1
  extract_lets -merge -useContext +onlyGivenNames x2
  clear_value x2
  extract_lets -merge -useContext +onlyGivenNames s3
  have h3 : Foot μ s₀ s3 := foot_setPwr h rfl (sub em rfl)
  clear_value s3
  exact foot_forEach (fun _ _ h4 => foot_emit h4 (sub em rfl)) h3

theorem foot_execResetNAssert (h : Foot μ s₀ s) (em : 0x1480000000000013fffff ||| μ = μ) : ∀ t, execResetNAssert s = .next t → Foot μ s₀ t := by
  intro t e
  unfold execResetNAssert at e
  injection e with e
  subst e
  exact Foot.board (foot_resetChip h (sub em rfl)) rfl (sub em rfl)

theorem foot_domainUp.showBoot (h : Foot μ s₀ s) (em : 0x2000000000000000002080000000000 ||| μ = μ) : Foot μ s₀ (domainUp.showBoot s) := by
  unfold domainUp.showBoot
  extract_lets -merge -useContext +onlyGivenNames s1
  have h1 : Foot μ s₀ s1 := foot_setFld h (fun i hi => .inr ⟨89, bit em rfl, i, hi, rfl⟩)
  clear_value s1
  extract_lets -merge -useContext +onlyGivenNames s2
  have h2 : Foot μ s₀ s2 := foot_setFlag (foot_setFld (foot_setFld h1 (fun i hi => .inr ⟨17, bit em rfl, i, hi, rfl⟩)) (fun i hi => .inr ⟨17, bit em rfl, i, hi, rfl⟩)) (fun i hi => .inr ⟨17, bit em rfl, i, hi, rfl⟩)
  clear_value s2
  exact Foot.ite (foot_setUpdState h2 (sub em rfl)) h2

theorem foot_domainUp.memoryUp (h : Foot μ s₀ s) (em : 0x80000000000000000000020000 ||| μ = μ) : Foot μ s₀ (domainUp.memoryUp s) := by
  unfold domainUp.memoryUp
  extract_lets -merge -useContext +onlyGivenNames s1
  have h1 : Foot μ s₀ s1 := foot_setFlag (foot_setFlag (foot_setFld h (fun i hi => .inr ⟨71, bit em rfl, i, hi, rfl⟩)) (fun i hi => .inr ⟨71, bit em rfl, i, hi, rfl⟩)) (fun i hi => .inr ⟨71, bit em rfl, i, hi, rfl⟩)
  clear_value s1
  exact foot_setDramc h1 (sub em rfl)

theorem foot_stopMemory {a1} (h : Foot μ s₀ s) (em : 0xc0000000000000000000020004 ||| μ = μ) : Foot μ s₀ (stopMemory a1 s) := by
  unfold stopMemory
  exact Foot.ite (foot_setDramc (foot_dramSleep h (sub em rfl)) (sub em rfl)) (foot_dramLose h (sub em rfl))

theorem foot_lanesResume (h : Foot μ s₀ s) (em : 0x80000000000000000000000000800040 ||| μ = μ) : Foot μ s₀ (lanesResume s) := by
  unfold lanesResume
  exact foot_forEach (fun _ _ h1 => Foot.ite (foot_eidleStop h1 (sub em rfl)) h1) h

theorem foot_startHead (h : Foot μ s₀ s) (em : 0x40000000000000040000 ||| μ = μ) : Foot μ s₀ (startHead s) := by
  unfold startHead
  split
  · exact h
  · exact foot_setPdState (foot_setPwr h rfl (sub em rfl)) (sub em rfl)

theorem foot_askQuads {a1} (h : Foot μ s₀ s) (em : 0x80000000000000000000000000000040 ||| μ = μ) : Foot μ s₀ (askQuads a1 s) := by
  unfold askQuads
  exact foot_forEach (fun _ _ h1 => foot_forEach (fun _ _ h2 => foot_eidleAsk h2 (sub em rfl)) h1) h

theorem foot_queueRestarts {a1} (h : Foot μ s₀ s) (em : 0x40000000000000040000 ||| μ = μ) : Foot μ s₀ (queueRestarts a1 s) := by
  unfold queueRestarts
  extract_lets -merge -useContext +onlyGivenNames x1
  clear_value x1
  extract_lets -merge -useContext +onlyGivenNames s2
  have h2 : Foot μ s₀ s2 := foot_setPwr h rfl (sub em rfl)
  clear_value s2
  exact Foot.ite (foot_startHead (foot_setPwr h2 rfl (sub em rfl)) (sub em rfl)) h2

theorem foot_switchOff {a1 a2 a3} (h : Foot μ s₀ s) (em : 0xc00000400000000000013ffdfe ||| μ = μ) : Foot μ s₀ (switchOff a1 a2 a3 s) := by
  unfold switchOff
  extract_lets -merge -useContext +onlyGivenNames x1
  clear_value x1
  extract_lets -merge -useContext +onlyGivenNames s2
  have h2 : Foot μ s₀ s2 := foot_copyArrays h (sub em rfl)
  clear_value s2
  extract_lets -merge -useContext +onlyGivenNames s3
  have h3 : Foot μ s₀ s3 := foot_when (fun _ h3 => foot_stopMemory h3 (sub em rfl)) h2
  clear_value s3
  extract_lets -merge -useContext +onlyGivenNames s4
  have h4 : Foot μ s₀ s4 := foot_when (fun _ h4 => foot_setTime h4 (sub em rfl)) h3
  clear_value s4
  extract_lets -merge -useContext +onlyGivenNames s5
  have h5 : Foot μ s₀ s5 := foot_setPwr (foot_resetRegs h4 (sub em rfl)) rfl (sub em rfl)
  clear_value s5
  exact Foot.ite (foot_setPdState h5 (sub em rfl)) (foot_setPdState (foot_domainLost h5 (sub em rfl)) (sub em rfl))

theorem foot_restartsDone (h : Foot μ s₀ s) (em : 0x41000000000000000008010000e02000040020 ||| μ = μ) : Foot μ s₀ (restartsDone s) := by
  unfold restartsDone
  extract_lets -merge -useContext +onlyGivenNames x1
  clear_value x1
  extract_lets -merge -useContext +onlyGivenNames s2
  have h2 : Foot μ s₀ s2 := foot_setPwr h rfl (sub em rfl)
  clear_value s2
  split
  · exact h2
  · exact foot_restartTimer (foot_raise (foot_setPhase h2 (sub em rfl)) (sub em rfl)) (sub em rfl)
  · extract_lets -merge -useContext +onlyGivenNames s4
    have h4 : Foot μ s₀ s4 := foot_setFld (foot_setPhase (foot_setPwr h2 rfl (sub em rfl)) (sub em rfl)) (fun i hi => .inr ⟨43, bit em rfl, i, hi, rfl⟩)
    clear_value s4
    exact foot_raise (foot_baseBackoff h4 (sub em rfl)) (sub em rfl)
  · exact h2

theorem foot_ungate (h : Foot μ s₀ s) (em : 0x40000000000000040000 ||| μ = μ) : Foot μ s₀ (ungate s) := by
  unfold ungate
  exact foot_queueRestarts (foot_setPwr h rfl (sub em rfl)) (sub em rfl)

theorem foot_demand {a1} (h : Foot μ s₀ s) (em : 0x40000000000000040000 ||| μ = μ) : Foot μ s₀ (demand a1 s) := by
  unfold demand
  refine Foot.ite ?_ (foot_setPwr h rfl (sub em rfl))
  · extract_lets -merge -useContext +onlyGivenNames x1
    clear_value x1
    extract_lets -merge -useContext +onlyGivenNames s2
    have h2 : Foot μ s₀ s2 := foot_setPwr h rfl (sub em rfl)
    clear_value s2
    exact foot_queueRestarts h2 (sub em rfl)

theorem foot_attemptStart (h : Foot μ s₀ s) (em : 0x80000000000008000000000000040040 ||| μ = μ) : Foot μ s₀ (attemptStart s) := by
  unfold attemptStart
  exact Foot.ite h (foot_askQuads (foot_setPhase (foot_setPwr h rfl (sub em rfl)) (sub em rfl)) (sub em rfl))

theorem foot_closeDomain {a1} (h : Foot μ s₀ s) (em : 0xc00000400000000000013ffdfe ||| μ = μ) : Foot μ s₀ (closeDomain a1 s) := by
  unfold closeDomain
  exact foot_setFlagAt (foot_switchOff h (sub em rfl)) (fun i hi => .inr ⟨46, bit em rfl, i, hi, rfl⟩)

theorem foot_passDelay {a1 a2} (h : Foot μ s₀ s) (em : 0x100000000000200000000000000000000100 ||| μ = μ) : Foot μ s₀ (passDelay a1 a2 s) := by
  unfold passDelay
  exact foot_elapse h (sub em rfl)

theorem foot_closeReady (h : Foot μ s₀ s) (em : 0xc00000400000000000013ffdfe ||| μ = μ) : Foot μ s₀ (closeReady s) := by
  unfold closeReady
  exact foot_forEach (fun _ _ h2 => foot_closeDomain h2 (sub em rfl)) (foot_setPwr h rfl (sub em rfl))

theorem foot_enterState (h : Foot μ s₀ s) (em : 0x41000000000000000048010000e020003dfdfa ||| μ = μ) : Foot μ s₀ (enterState s) := by
  unfold enterState
  extract_lets -merge -useContext +onlyGivenNames x1
  clear_value x1
  extract_lets -merge -useContext +onlyGivenNames x2
  clear_value x2
  extract_lets -merge -useContext +onlyGivenNames s3
  have h3 : Foot μ s₀ s3 := foot_forEach (fun _ _ h3 => foot_setPdState (foot_domainLost h3 (sub em rfl)) (sub em rfl)) h
  clear_value s3
  extract_lets -merge -useContext +onlyGivenNames s4
  have h4 : Foot μ s₀ s4 := foot_setPwr h3 rfl (sub em rfl)
  clear_value s4
  extract_lets -merge -useContext +onlyGivenNames s5
  have h5 : Foot μ s₀ s5 := foot_setRetBytes h4 (sub em rfl)
  clear_value s5
  exact foot_raise (foot_baseBackoff (foot_setFld (foot_setPhase h5 (sub em rfl)) (fun i hi => .inr ⟨43, bit em rfl, i, hi, rfl⟩)) (sub em rfl)) (sub em rfl)

theorem foot_refuseAttempt {a1 a2} (h : Foot μ s₀ s) (em : 0x41000080000000001048010000e02000840060 ||| μ = μ) : Foot μ s₀ (refuseAttempt a1 a2 s) := by
  unfold refuseAttempt
  extract_lets -merge -useContext +onlyGivenNames x1
  clear_value x1
  extract_lets -merge -useContext +onlyGivenNames s2
  have h2 : Foot μ s₀ s2 := foot_lanesResume (foot_recordRefusal h (sub em rfl)) (sub em rfl)
  clear_value s2
  extract_lets -merge -useContext +onlyGivenNames x3
  clear_value x3
  extract_lets -merge -useContext +onlyGivenNames s4
  have h4 : Foot μ s₀ s4 := foot_setPwr h2 rfl (sub em rfl)
  clear_value s4
  exact Foot.ite (foot_restartsDone h4 (sub em rfl)) (foot_queueRestarts (foot_setPhase h4 (sub em rfl)) (sub em rfl))

theorem foot_restoreKeep {a1 a2} (h : Foot μ s₀ s) (em : 0x41000000000000000008010000e00001040020 ||| μ = μ) : Foot μ s₀ (restoreKeep a1 a2 s) := by
  unfold restoreKeep
  split
  · exact h
  · extract_lets -merge -useContext +onlyGivenNames s2
    have h2 : Foot μ s₀ s2 := foot_setPwr h rfl (sub em rfl)
    clear_value s2
    exact Foot.ite (foot_forEach (fun _ _ h3 => foot_setRegWord h3 (.inl (bit em rfl))) h2) (Foot.ite (foot_raise (foot_setFld h2 (fun i hi => .inr ⟨43, bit em rfl, i, hi, rfl⟩)) (sub em rfl)) h2)

theorem foot_nextRestart (h : Foot μ s₀ s) (em : 0x41000000000000000048010000e02000040020 ||| μ = μ) : Foot μ s₀ (nextRestart s) := by
  unfold nextRestart
  extract_lets -merge -useContext +onlyGivenNames s1
  have h1 : Foot μ s₀ s1 := foot_setPwr h rfl (sub em rfl)
  clear_value s1
  exact Foot.ite (foot_restartsDone h1 (sub em rfl)) (foot_startHead h1 (sub em rfl))

theorem foot_closeLate (h : Foot μ s₀ s) (em : 0x41000080000000001000010000e00000840060 ||| μ = μ) : Foot μ s₀ (closeLate s) := by
  unfold closeLate
  exact foot_forEach (fun _ _ h1 => foot_raise (foot_lanesResume (foot_recordRefusal h1 (sub em rfl)) (sub em rfl)) (sub em rfl)) (foot_setPwr h rfl (sub em rfl))

theorem foot_restartLate (h : Foot μ s₀ s) (em : 0x41100000000000200048010000e02000840120 ||| μ = μ) : Foot μ s₀ (restartLate s) := by
  unfold restartLate
  split
  · exact h
  · extract_lets -merge -useContext +onlyGivenNames s2
    have h2 : Foot μ s₀ s2 := foot_passDelay h (sub em rfl)
    clear_value s2
    refine Foot.ite ?_ (foot_setPwr h2 rfl (sub em rfl))
    · extract_lets -merge -useContext +onlyGivenNames s3
      have h3 : Foot μ s₀ s3 := foot_setFlagAt (foot_setPdState h2 (sub em rfl)) (fun i hi => .inr ⟨46, bit em rfl, i, hi, rfl⟩)
      clear_value s3
      exact foot_nextRestart (foot_raise (foot_dropWaits h3 (sub em rfl)) (sub em rfl)) (sub em rfl)

theorem foot_chipWake {a1} (h : Foot μ s₀ s) (em : 0x30041000000000000000048010000e02000040020 ||| μ = μ) : Foot μ s₀ (chipWake a1 s) := by
  unfold chipWake
  extract_lets -merge -useContext +onlyGivenNames s1
  have h1 : Foot μ s₀ s1 := foot_setFld h (fun i hi => .inr ⟨128, bit em rfl, i, hi, rfl⟩)
  clear_value s1
  extract_lets -merge -useContext +onlyGivenNames s2
  have h2 : Foot μ s₀ s2 := foot_setFld (foot_setPhase h1 (sub em rfl)) (fun i hi => .inr ⟨129, bit em rfl, i, hi, rfl⟩)
  clear_value s2
  extract_lets -merge -useContext +onlyGivenNames x3
  clear_value x3
  extract_lets -merge -useContext +onlyGivenNames s4
  have h4 : Foot μ s₀ s4 := foot_setPwr h2 rfl (sub em rfl)
  clear_value s4
  exact Foot.ite (foot_restartsDone h4 (sub em rfl)) (foot_queueRestarts h4 (sub em rfl))

theorem foot_watchdog (h : Foot μ s₀ s) (em : 0x411000000000c0200040010000e000013ffdfe ||| μ = μ) : Foot μ s₀ (watchdog s) := by
  unfold watchdog
  extract_lets -merge -useContext +onlyGivenNames x1
  clear_value x1
  refine Foot.ite h ?_
  · extract_lets -merge -useContext +onlyGivenNames s2
    have h2 : Foot μ s₀ s2 := foot_elapse h (sub em rfl)
    clear_value s2
    extract_lets -merge -useContext +onlyGivenNames s3
    have h3 : Foot μ s₀ s3 := foot_setBoot (foot_switchOff h2 (sub em rfl)) ⟨rfl, rfl, rfl⟩ (sub em rfl)
    clear_value s3
    exact foot_raise (foot_queueRestarts h3 (sub em rfl)) (sub em rfl)

theorem foot_execDomainDemand {a1 a2} (h : Foot μ s₀ s) (em : 0x40000000000000040000 ||| μ = μ) : ∀ t, execDomainDemand a1 a2 s = .next t → Foot μ s₀ t := by
  intro t e
  unfold execDomainDemand at e
  injection e with e
  subst e
  exact foot_demand h (sub em rfl)

theorem foot_wakeSource {a1} (h : Foot μ s₀ s) (em : 0x30041000080000000001048010000e02000840060 ||| μ = μ) : Foot μ s₀ (wakeSource a1 s) := by
  unfold wakeSource
  exact Foot.ite h (Foot.ite (Foot.ite (foot_refuseAttempt h (sub em rfl)) h) (Foot.ite (foot_chipWake h (sub em rfl)) h))

theorem foot_quiesceLate (h : Foot μ s₀ s) (em : 0x41000080000000001048010000e02000840060 ||| μ = μ) : Foot μ s₀ (quiesceLate s) := by
  unfold quiesceLate
  refine Foot.ite h ?_
  · extract_lets -merge -useContext +onlyGivenNames x1
    clear_value x1
    split
    · exact foot_refuseAttempt h (sub em rfl)
    · exact h

theorem foot_resetSequence (h : Foot μ s₀ s) (em : 0x41000000000000000040010000e00000040020 ||| μ = μ) : Foot μ s₀ (resetSequence s) := by
  unfold resetSequence
  extract_lets -merge -useContext +onlyGivenNames s1
  have h1 : Foot μ s₀ s1 := foot_queueRestarts (foot_setPwr (foot_raise h (sub em rfl)) rfl (sub em rfl)) (sub em rfl)
  clear_value s1
  exact foot_setPwr h1 rfl (sub em rfl)

theorem foot_execAonAlarmExpire (h : Foot μ s₀ s) (em : 0x30041000080000000001048010000e02000840060 ||| μ = μ) : ∀ t, execAonAlarmExpire s = .next t → Foot μ s₀ t := by
  intro t e
  unfold execAonAlarmExpire at e
  injection e with e
  subst e
  exact Foot.ite (foot_wakeSource h (sub em rfl)) h

theorem foot_execSleepAttempt (h : Foot μ s₀ s) (em : 0x80000000000008000000000000040040 ||| μ = μ) : ∀ t, execSleepAttempt s = .next t → Foot μ s₀ t := by
  intro t e
  unfold execSleepAttempt at e
  injection e with e
  subst e
  exact foot_attemptStart h (sub em rfl)

theorem foot_targetSet {a1} (h : Foot μ s₀ s) (em : 0x30041000080000000001048010000e02000bdfdfa ||| μ = μ) : Foot μ s₀ (targetSet a1 s) := by
  unfold targetSet
  extract_lets -merge -useContext +onlyGivenNames x1
  clear_value x1
  extract_lets -merge -useContext +onlyGivenNames s2
  have h2 : Foot μ s₀ s2 := foot_setFld h (fun i hi => .inr ⟨5, bit em rfl, i, hi, rfl⟩)
  clear_value s2
  refine Foot.ite ?_ ?_
  · extract_lets -merge -useContext +onlyGivenNames s3
    have h3 : Foot μ s₀ s3 := foot_setPwr h2 rfl (sub em rfl)
    clear_value s3
    refine Foot.ite ?_ h3
    · extract_lets -merge -useContext +onlyGivenNames s4
      have h4 : Foot μ s₀ s4 := foot_setPwr h3 rfl (sub em rfl)
      clear_value s4
      exact Foot.ite (foot_enterState h4 (sub em rfl)) h4
  · refine Foot.ite (foot_setPwr (foot_refuseAttempt h2 (sub em rfl)) rfl (sub em rfl)) ?_
    · refine Foot.ite (foot_wakeSource (foot_setPwr h2 rfl (sub em rfl)) (sub em rfl)) ?_
      · extract_lets -merge -useContext +onlyGivenNames s3
        have h3 : Foot μ s₀ s3 := foot_setFld (foot_setPwr h2 rfl (sub em rfl)) (fun i hi => .inr ⟨43, bit em rfl, i, hi, rfl⟩)
        clear_value s3
        exact Foot.ite (foot_ungate h3 (sub em rfl)) h3

theorem foot_execWakeBurstDetect {a1} (h : Foot μ s₀ s) (em : 0x30041000080000000001048010000e02000840060 ||| μ = μ) : ∀ t, execWakeBurstDetect a1 s = .next t → Foot μ s₀ t := by
  intro t e
  unfold execWakeBurstDetect at e
  injection e with e
  subst e
  exact Foot.ite (foot_wakeSource (Foot.ite (foot_burstSeen h (sub em rfl)) (Foot.ite (foot_raise h (sub em rfl)) h)) (sub em rfl)) (Foot.ite (foot_burstSeen h (sub em rfl)) (Foot.ite (foot_raise h (sub em rfl)) h))

theorem foot_stopNext (h : Foot μ s₀ s) (em : 0x410000800000c0001048010000e02001bffdfe ||| μ = μ) : Foot μ s₀ (stopNext s) := by
  unfold stopNext
  refine Foot.ite h ?_
  · split
    · exact h
    · extract_lets -merge -useContext +onlyGivenNames x2
      clear_value x2
      refine Foot.ite ?_ (foot_refuseAttempt h (sub em rfl))
      · extract_lets -merge -useContext +onlyGivenNames s3
        have h3 : Foot μ s₀ s3 := foot_switchOff h (sub em rfl)
        clear_value s3
        extract_lets -merge -useContext +onlyGivenNames s4
        have h4 : Foot μ s₀ s4 := foot_setPwr h3 rfl (sub em rfl)
        clear_value s4
        exact Foot.ite (foot_enterState h4 (sub em rfl)) h4

theorem foot_idleGate {a1} (h : Foot μ s₀ s) (em : 0xc00000400000000000013ffdfe ||| μ = μ) : Foot μ s₀ (idleGate a1 s) := by
  unfold idleGate
  extract_lets -merge -useContext +onlyGivenNames x1
  clear_value x1
  refine Foot.ite h ?_
  · refine Foot.ite ?_ (foot_setLength h (sub em rfl))
    · extract_lets -merge -useContext +onlyGivenNames s2
      have h2 : Foot μ s₀ s2 := foot_setLength (foot_switchOff h (sub em rfl)) (sub em rfl)
      clear_value s2
      extract_lets -merge -useContext +onlyGivenNames s3
      have h3 : Foot μ s₀ s3 := foot_setPwr h2 rfl (sub em rfl)
      clear_value s3
      exact Foot.ite (foot_setPwr (foot_switchOff h3 (sub em rfl)) rfl (sub em rfl)) h3

theorem foot_enableWritten {a1 a2} (h : Foot μ s₀ s) (em : 0x410000800000c0000048010000e02001bffdfe ||| μ = μ) : Foot μ s₀ (enableWritten a1 a2 s) := by
  unfold enableWritten
  refine Foot.ite h ?_
  · refine Foot.ite ?_ ?_
    · extract_lets -merge -useContext +onlyGivenNames x1
      clear_value x1
      extract_lets -merge -useContext +onlyGivenNames s2
      have h2 : Foot μ s₀ s2 := foot_setFlagAt (foot_setPwr h rfl (sub em rfl)) (fun i hi => .inr ⟨46, bit em rfl, i, hi, rfl⟩)
      clear_value s2
      extract_lets -merge -useContext +onlyGivenNames s3
      have h3 : Foot μ s₀ s3 := Foot.ite (foot_lanesResume h2 (sub em rfl)) h2
      clear_value s3
      exact Foot.ite h3 (Foot.ite (foot_setPwr h3 rfl (sub em rfl)) (foot_queueRestarts (foot_setFlagAt h3 (fun i hi => .inr ⟨46, bit em rfl, i, hi, rfl⟩)) (sub em rfl)))
    · refine Foot.ite (Foot.ite (foot_closeDomain h (sub em rfl)) (Foot.ite h (foot_askQuads (foot_setPwr h rfl (sub em rfl)) (sub em rfl)))) ?_
      · extract_lets -merge -useContext +onlyGivenNames s1
        have h1 : Foot μ s₀ s1 := foot_setFlagAt h (fun i hi => .inr ⟨46, bit em rfl, i, hi, rfl⟩)
        clear_value s1
        extract_lets -merge -useContext +onlyGivenNames x2
        clear_value x2
        extract_lets -merge -useContext +onlyGivenNames s3
        have h3 : Foot μ s₀ s3 := foot_setPwr (foot_dropWaits h1 (sub em rfl)) rfl (sub em rfl)
        clear_value s3
        extract_lets -merge -useContext +onlyGivenNames s4
        have h4 : Foot μ s₀ s4 := Foot.ite (foot_domainLost h3 (sub em rfl)) h3
        clear_value s4
        extract_lets -merge -useContext +onlyGivenNames s5
        have h5 : Foot μ s₀ s5 := foot_setPdState h4 (sub em rfl)
        clear_value s5
        exact Foot.ite (foot_nextRestart h5 (sub em rfl)) (foot_setPwr h5 rfl (sub em rfl))

theorem foot_quiesceDone (h : Foot μ s₀ s) (em : 0x410000000000c0000048010000e020003ffdfa ||| μ = μ) : Foot μ s₀ (quiesceDone s) := by
  unfold quiesceDone
  extract_lets -merge -useContext +onlyGivenNames x1
  clear_value x1
  extract_lets -merge -useContext +onlyGivenNames x2
  clear_value x2
  refine Foot.ite ?_ h
  · extract_lets -merge -useContext +onlyGivenNames s3
    have h3 : Foot μ s₀ s3 := foot_setPwr (foot_setPhase (foot_when (fun _ h3 => foot_dramSleep h3 (sub em rfl)) h) (sub em rfl)) rfl (sub em rfl)
    clear_value s3
    exact Foot.ite (foot_enterState h3 (sub em rfl)) h3

theorem foot_execHspiCsWake (h : Foot μ s₀ s) (em : 0x30041000080000000001048010000e02000840060 ||| μ = μ) : ∀ t, execHspiCsWake s = .next t → Foot μ s₀ t := by
  intro t e
  unfold execHspiCsWake at e
  injection e with e
  subst e
  exact foot_wakeSource h (sub em rfl)

theorem foot_execResetNRise (h : Foot μ s₀ s) (em : 0x41000000000000000040010000e00000040021 ||| μ = μ) : ∀ t, execResetNRise s = .next t → Foot μ s₀ t := by
  intro t e
  unfold execResetNRise at e
  injection e with e
  subst e
  exact Foot.ite h (foot_resetSequence (Foot.board h rfl (sub em rfl)) (sub em rfl))

theorem foot_execEvtInEdge {a1 a2} (h : Foot μ s₀ s) (em : 0x30041000080000000001048010000e02f00840160 ||| μ = μ) : ∀ t, execEvtInEdge a1 a2 s = .next t → Foot μ s₀ t := by
  intro t e
  unfold execEvtInEdge at e
  injection e with e
  subst e
  exact foot_whenOn (fun _ h1 => Foot.ite (foot_wakeSource (foot_inEdge h1 (sub em rfl)) (sub em rfl)) (foot_inEdge h1 (sub em rfl))) h

theorem foot_execHkWdogExpire (h : Foot μ s₀ s) (em : 0x411000000000c0200040010000e000013ffdfe ||| μ = μ) : ∀ t, execHkWdogExpire s = .next t → Foot μ s₀ t := by
  intro t e
  unfold execHkWdogExpire at e
  injection e with e
  subst e
  exact foot_watchdog h (sub em rfl)

theorem foot_execQuiesceTimeout (h : Foot μ s₀ s) (em : 0x41000080000000001048010000e02000840060 ||| μ = μ) : ∀ t, execQuiesceTimeout s = .next t → Foot μ s₀ t := by
  intro t e
  unfold execQuiesceTimeout at e
  injection e with e
  subst e
  exact Foot.ite (foot_quiesceLate h (sub em rfl)) (foot_closeLate h (sub em rfl))

theorem foot_execDomainIdleGate {a1} (h : Foot μ s₀ s) (em : 0xc00000400000000000013ffdfe ||| μ = μ) : ∀ t, execDomainIdleGate a1 s = .next t → Foot μ s₀ t := by
  intro t e
  unfold execDomainIdleGate at e
  injection e with e
  subst e
  exact foot_idleGate h (sub em rfl)

theorem foot_resetInside {a1} (h : Foot μ s₀ s) (em : 0x41000000000000000148010000e000013fffff ||| μ = μ) : Foot μ s₀ (resetInside a1 s) := by
  unfold resetInside
  exact foot_resetSequence (foot_resetChip h (sub em rfl)) (sub em rfl)

theorem foot_execWakeNAssert (h : Foot μ s₀ s) (em : 0x30041000080000000001048010000e02000840060 ||| μ = μ) : ∀ t, execWakeNAssert s = .next t → Foot μ s₀ t := by
  intro t e
  unfold execWakeNAssert at e
  injection e with e
  subst e
  exact foot_wakeSource h (sub em rfl)

theorem foot_execDomainStop (h : Foot μ s₀ s) (em : 0x410000800000c0001048010000e02001bffdfe ||| μ = μ) : ∀ t, execDomainStop s = .next t → Foot μ s₀ t := by
  intro t e
  unfold execDomainStop at e
  injection e with e
  subst e
  exact foot_stopNext h (sub em rfl)

theorem foot_setTarget {a1} (h : Foot μ s₀ s) (em : 0x30041000080000000001048010000e02000bdfdfa ||| μ = μ) : Foot μ s₀ (setTarget a1 s) := by
  unfold setTarget
  exact foot_targetSet (foot_setFld h (fun i hi => .inr ⟨129, bit em rfl, i, hi, rfl⟩)) (sub em rfl)

theorem foot_execQuiesceDone (h : Foot μ s₀ s) (em : 0x410000000000c0000048010000e020013ffdfe ||| μ = μ) : ∀ t, execQuiesceDone s = .next t → Foot μ s₀ t := by
  intro t e
  unfold execQuiesceDone at e
  injection e with e
  subst e
  exact Foot.ite (foot_quiesceDone h (sub em rfl)) (foot_closeReady h (sub em rfl))

theorem foot_autoIdle (h : Foot μ s₀ s) (em : 0x30041000080000000001048010000e02000bdfdfa ||| μ = μ) : Foot μ s₀ (autoIdle s) := by
  unfold autoIdle
  exact Foot.ite (foot_setTarget h (sub em rfl)) h

theorem foot_execAutoStateIdle (h : Foot μ s₀ s) (em : 0x30041000080000000001048010000e02000bdfdfa ||| μ = μ) : ∀ t, execAutoStateIdle s = .next t → Foot μ s₀ t := by
  intro t e
  unfold execAutoStateIdle at e
  injection e with e
  subst e
  exact foot_autoIdle h (sub em rfl)

theorem foot_quadUp {a1} (h : Foot μ s₀ s) (em : 0x40c54100008007ff00000004210234e00000e020e0 ||| μ = μ) : Foot μ s₀ (quadUp a1 s) := by
  unfold quadUp
  exact foot_forEach (fun _ _ h1 => Foot.ite (foot_eidleStop h1 (sub em rfl)) (foot_lanePortDetect h1 (sub em rfl))) h

theorem foot_domainUp {a1} (h : Foot μ s₀ s) (em : 0x40c7410000bf87ff81000084a16276e94000ef23e8 ||| μ = μ) : Foot μ s₀ (domainUp a1 s) := by
  unfold domainUp
  split
  · exact foot_setPwr (Foot.ite (foot_redCfgWritten h (sub em rfl)) h) rfl (sub em rfl)
  · exact foot_domainUp.showBoot h (sub em rfl)
  · exact foot_syncTiming (foot_setTime (foot_domainUp.showRecord (foot_adoptFrom h (sub em rfl)) (sub em rfl)) (sub em rfl)) (sub em rfl)
  · extract_lets -merge -useContext +onlyGivenNames s2
    have h2 : Foot μ s₀ s2 := foot_showBad h (sub em rfl)
    clear_value s2
    exact Foot.ite h2 (foot_calTriggerAll h2 (sub em rfl))
  · exact foot_syncDry (Foot.ite (foot_llStart h (sub em rfl)) h) (sub em rfl)
  · exact foot_quadUp h (sub em rfl)
  · exact foot_quadUp h (sub em rfl)
  · exact foot_quadUp h (sub em rfl)
  · exact foot_quadUp h (sub em rfl)
  · exact foot_admitFlows h (sub em rfl)
  · exact Foot.ite (foot_domainUp.memoryUp h (sub em rfl)) h
  · exact h

theorem foot_restartReady {a1} (h : Foot μ s₀ s) (em : 0x40c7411000bf87ff812000cca16276e96001efa3e8 ||| μ = μ) : Foot μ s₀ (restartReady a1 s) := by
  unfold restartReady
  split
  · exact h
  · exact foot_nextRestart (foot_domainUp (foot_restoreArrays (foot_restoreKeep (foot_setPdState (foot_passDelay h (sub em rfl)) (sub em rfl)) (sub em rfl)) (sub em rfl)) (sub em rfl)) (sub em rfl)

/-! ### Machine/Thermal.lean -/

theorem foot_showJunction (h : Foot μ s₀ s) (em : 0x10000000000000000000 ||| μ = μ) : Foot μ s₀ (showJunction s) := by
  unfold showJunction
  split
  · exact h
  · exact foot_setFld (foot_setFld h (fun i hi => .inr ⟨44, bit em rfl, i, hi, rfl⟩)) (fun i hi => .inr ⟨44, bit em rfl, i, hi, rfl⟩)

theorem foot_windows (h : Foot μ s₀ s) (em : 0x10000000000 ||| μ = μ) : Foot μ s₀ (windows s) := by
  unfold windows
  exact foot_setFlag (foot_setFlag h (fun i hi => .inr ⟨8, bit em rfl, i, hi, rfl⟩)) (fun i hi => .inr ⟨8, bit em rfl, i, hi, rfl⟩)

theorem foot_setSensor {a1 a2} (h : Foot μ s₀ s) (em : 0x80000 ||| μ = μ) : Foot μ s₀ (setSensor a1 a2 s) := by
  unfold setSensor
  exact foot_setTherm h (sub em rfl)

theorem foot_setBad {a1 a2} (h : Foot μ s₀ s) (em : 0x10000080000 ||| μ = μ) : Foot μ s₀ (setBad a1 a2 s) := by
  unfold setBad
  exact foot_whenOn (fun _ h1 => foot_showBad h1 (sub em rfl)) (foot_setSensor h (sub em rfl))

theorem foot_tripStop {a1} (h : Foot μ s₀ s) (em : 0x400000000000013ffdfe ||| μ = μ) : Foot μ s₀ (tripStop a1 s) := by
  unfold tripStop
  exact Foot.ite h (foot_setPdState (foot_domainLost (foot_resetRegs (foot_when (fun _ h1 => foot_dramLose h1 (sub em rfl)) h) (sub em rfl)) (sub em rfl)) (sub em rfl))

theorem foot_calFollow {a1} (h : Foot μ s₀ s) (em : 0x4000000000000000000000000080000 ||| μ = μ) : Foot μ s₀ (calFollow a1 s) := by
  unfold calFollow
  exact foot_forEach (fun _ _ h1 => Foot.ite (foot_calCheck h1 (sub em rfl)) h1) h

theorem foot_trip {a1 a2} (h : Foot μ s₀ s) (em : 0x40041000000000000000048010000e000013ffdff ||| μ = μ) : Foot μ s₀ (trip a1 a2 s) := by
  unfold trip
  refine Foot.ite h ?_
  · extract_lets -merge -useContext +onlyGivenNames s1
    have h1 : Foot μ s₀ s1 := foot_setFlag (foot_setFld (foot_setFld h (fun i hi => .inr ⟨130, bit em rfl, i, hi, rfl⟩)) (fun i hi => .inr ⟨130, bit em rfl, i, hi, rfl⟩)) (fun i hi => .inr ⟨130, bit em rfl, i, hi, rfl⟩)
    clear_value s1
    extract_lets -merge -useContext +onlyGivenNames s2
    have h2 : Foot μ s₀ s2 := foot_forEach (fun _ _ h2 => foot_tripStop h2 (sub em rfl)) h1
    clear_value s2
    extract_lets -merge -useContext +onlyGivenNames x3
    clear_value x3
    extract_lets -merge -useContext +onlyGivenNames s4
    have h4 : Foot μ s₀ s4 := foot_setPwr h2 rfl (sub em rfl)
    clear_value s4
    extract_lets -merge -useContext +onlyGivenNames s5
    have h5 : Foot μ s₀ s5 := Foot.ite h4 (foot_startHead h4 (sub em rfl))
    clear_value s5
    extract_lets -merge -useContext +onlyGivenNames _ _ s6
    have h6 : Foot μ s₀ s6 := Foot.board (foot_setPhase h5 (sub em rfl)) rfl (sub em rfl)
    clear_value s6
    exact foot_raise h6 (sub em rfl)

theorem foot_judgeSensor {a1 a2} (h : Foot μ s₀ s) (em : 0x80041000000000000000000010000e10000080020 ||| μ = μ) : Foot μ s₀ (judgeSensor a1 a2 s) := by
  unfold judgeSensor
  extract_lets -merge -useContext +onlyGivenNames x1
  clear_value x1
  refine Foot.ite ?_ (Foot.ite (Foot.ite (foot_setBad (foot_setFlagAt h (fun i hi => .inr ⟨131, bit em rfl, i, hi, rfl⟩)) (sub em rfl)) (foot_setSensor h (sub em rfl))) (foot_setFlagAt h (fun i hi => .inr ⟨131, bit em rfl, i, hi, rfl⟩)))
  · extract_lets -merge -useContext +onlyGivenNames s2
    have h2 : Foot μ s₀ s2 := foot_setBad (foot_setFlagAt h (fun i hi => .inr ⟨131, bit em rfl, i, hi, rfl⟩)) (sub em rfl)
    clear_value s2
    exact Foot.ite h2 (foot_raise h2 (sub em rfl))

theorem foot_thresholdStep {a1 a2 a3 a4} (h : Foot μ s₀ s) (hf1 : FldIn μ a1) (em : 0x41000000000000000000010000e00000000020 ||| μ = μ) : Foot μ s₀ (thresholdStep a1 a2 a3 a4 s) := by
  unfold thresholdStep
  extract_lets -merge -useContext +onlyGivenNames x1
  clear_value x1
  extract_lets -merge -useContext +onlyGivenNames x2
  clear_value x2
  extract_lets -merge -useContext +onlyGivenNames x3
  clear_value x3
  extract_lets -merge -useContext +onlyGivenNames x4
  clear_value x4
  extract_lets -merge -useContext +onlyGivenNames s5
  have h5 : Foot μ s₀ s5 := foot_setFlag h hf1
  clear_value s5
  exact Foot.ite (foot_raise h5 (sub em rfl)) h5

theorem foot_rateStep {a1} (h : Foot μ s₀ s) (em : 0x41000000000000000000010000e10000080020 ||| μ = μ) : Foot μ s₀ (rateStep a1 s) := by
  unfold rateStep
  extract_lets -merge -useContext +onlyGivenNames s1
  have h1 : Foot μ s₀ s1 := foot_setSensor h (sub em rfl)
  clear_value s1
  extract_lets -merge -useContext +onlyGivenNames x2
  clear_value x2
  extract_lets -merge -useContext +onlyGivenNames x3
  clear_value x3
  extract_lets -merge -useContext +onlyGivenNames s4
  have h4 : Foot μ s₀ s4 := foot_setFlag h1 (fun i hi => .inr ⟨8, bit em rfl, i, hi, rfl⟩)
  clear_value s4
  exact Foot.ite (foot_raise h4 (sub em rfl)) h4

theorem foot_execTripComparator (h : Foot μ s₀ s) (em : 0x40041000000000000000048010000e000013ffdff ||| μ = μ) : ∀ t, execTripComparator s = .next t → Foot μ s₀ t := by
  intro t e
  unfold execTripComparator at e
  injection e with e
  subst e
  exact foot_trip h (sub em rfl)

theorem foot_thresholds (h : Foot μ s₀ s) (em : 0x41000000000000000000010000e10000000020 ||| μ = μ) : Foot μ s₀ (thresholds s) := by
  unfold thresholds
  exact foot_thresholdStep (foot_thresholdStep (foot_thresholdStep h (fun i hi => .inr ⟨8, bit em rfl, i, hi, rfl⟩) (sub em rfl)) (fun i hi => .inr ⟨8, bit em rfl, i, hi, rfl⟩) (sub em rfl)) (fun i hi => .inr ⟨8, bit em rfl, i, hi, rfl⟩) (sub em rfl)

theorem foot_sensorReport {a1 a2} (h : Foot μ s₀ s) (em : 0xf0041000084000000001078010000e12001bffdff ||| μ = μ) : Foot μ s₀ (sensorReport a1 a2 s) := by
  unfold sensorReport
  extract_lets -merge -useContext +onlyGivenNames x1
  clear_value x1
  extract_lets -merge -useContext +onlyGivenNames x2
  clear_value x2
  refine Foot.ite h ?_
  · extract_lets -merge -useContext +onlyGivenNames x3
    clear_value x3
    extract_lets -merge -useContext +onlyGivenNames s4
    have h4 : Foot μ s₀ s4 := foot_setSensor (foot_setFldAt h (fun i hi => .inr ⟨131, bit em rfl, i, hi, rfl⟩)) (sub em rfl)
    clear_value s4
    extract_lets -merge -useContext +onlyGivenNames s5
    have h5 : Foot μ s₀ s5 := foot_judgeSensor h4 (sub em rfl)
    clear_value s5
    extract_lets -merge -useContext +onlyGivenNames s6
    have h6 : Foot μ s₀ s6 := Foot.ite (foot_calFollow (foot_rateStep (foot_thresholds (foot_showJunction (foot_ceBlockSample h5 (sub em rfl)) (sub em rfl)) (sub em rfl)) (sub em rfl)) (sub em rfl)) h5
    clear_value s6
    extract_lets -merge -useContext +onlyGivenNames s7
    have h7 : Foot μ s₀ s7 := Foot.ite (foot_trip h6 (sub em rfl)) h6
    clear_value s7
    extract_lets -merge -useContext +onlyGivenNames s8
    have h8 : Foot μ s₀ s8 := Foot.ite (foot_windows h7 (sub em rfl)) h7
    clear_value s8
    exact Foot.ite (foot_wakeSource h8 (sub em rfl)) h8

theorem foot_execSensorReport {a1 a2} (h : Foot μ s₀ s) (em : 0xf0041000084000000001078010000e12001bffdff ||| μ = μ) : ∀ t, execSensorReport a1 a2 s = .next t → Foot μ s₀ t := by
  intro t e
  unfold execSensorReport at e
  injection e with e
  subst e
  exact foot_sensorReport h (sub em rfl)

end Sys2Proof.Machine
end

