-- ==== Sys2Proof/Laws/Foot8.lean ====
section
/-! SUPPORT. The relation Foot holds of each operation of Machine/: Rom, Bus, Commands, ControlLoop, Opcodes. -/

namespace Sys2Proof.Machine

variable {μ : Nat} {s₀ s t : State}

/-! ### Machine/Rom.lean -/

theorem foot_handOver {a1 a2} (h : Foot μ s₀ s) (em : 0x7c006000000000000000000080000180000 ||| μ = μ) : Foot μ s₀ (handOver a1 a2 s) := by
  unfold handOver
  extract_lets -merge -useContext +onlyGivenNames x1
  clear_value x1
  extract_lets -merge -useContext +onlyGivenNames x2
  clear_value x2
  extract_lets -merge -useContext +onlyGivenNames x3
  extract_lets -merge -useContext +onlyGivenNames s4
  have h4 : Foot μ s₀ s4 := foot_setInst (foot_setInst h (fun i hi => .inr ⟨103, bit em rfl, i, hi, rfl⟩)) (fun i hi => .inr ⟨102, bit em rfl, i, hi, rfl⟩)
  clear_value s4
  extract_lets -merge -useContext +onlyGivenNames s5
  have h5 : Foot μ s₀ s5 := foot_setFld h4 (fun i hi => .inr ⟨104, bit em rfl, i, hi, rfl⟩)
  clear_value s5
  extract_lets -merge -useContext +onlyGivenNames s6
  have h6 : Foot μ s₀ s6 := foot_setFld (foot_setFld (foot_setFlag h5 (fun i hi => .inr ⟨89, bit em rfl, i, hi, rfl⟩)) (fun i hi => .inr ⟨89, bit em rfl, i, hi, rfl⟩)) (fun i hi => .inr ⟨89, bit em rfl, i, hi, rfl⟩)
  clear_value s6
  extract_lets -merge -useContext +onlyGivenNames s7
  have h7 : Foot μ s₀ s7 := foot_setFld h6 (fun i hi => .inr ⟨105, bit em rfl, i, hi, rfl⟩)
  clear_value s7
  extract_lets -merge -useContext +onlyGivenNames s8
  have h8 : Foot μ s₀ s8 := foot_setFld (foot_setFld h7 (fun i hi => .inr ⟨106, bit em rfl, i, hi, rfl⟩)) (fun i hi => .inr ⟨106, bit em rfl, i, hi, rfl⟩)
  clear_value s8
  extract_lets -merge -useContext +onlyGivenNames x9
  clear_value x9
  extract_lets -merge -useContext +onlyGivenNames s10
  have h10 : Foot μ s₀ s10 := foot_setBoot h8 ⟨rfl, rfl, rfl⟩ (sub em rfl)
  clear_value s10
  exact foot_calTriggerAll (foot_setUpdState h10 (sub em rfl)) (sub em rfl)

theorem foot_bootVerify {a1} (h : Foot μ s₀ s) (em : 0x41000000000000000000010000e00000000020 ||| μ = μ) : Foot μ s₀ (bootVerify a1 s).2 := by
  unfold bootVerify
  split
  · exact h
  · exact foot_raise h (sub em rfl)
  · exact h

theorem foot_firmwareStart (h : Foot μ s₀ s) (em : 0x41000100000000000040010000e80001148021 ||| μ = μ) : Foot μ s₀ (firmwareStart s) := by
  unfold firmwareStart
  refine Foot.ite h ?_
  · extract_lets -merge -useContext +onlyGivenNames s1
    have h1 : Foot μ s₀ s1 := foot_setBoot h ⟨rfl, rfl, rfl⟩ (sub em rfl)
    clear_value s1
    extract_lets -merge -useContext +onlyGivenNames x2
    clear_value x2
    extract_lets -merge -useContext +onlyGivenNames x3
    clear_value x3
    extract_lets -merge -useContext +onlyGivenNames x4
    clear_value x4
    extract_lets -merge -useContext +onlyGivenNames s5
    have h5 : Foot μ s₀ s5 := Foot.ite (foot_raise h1 (sub em rfl)) (Foot.ite h1 (foot_raise h1 (sub em rfl)))
    clear_value s5
    extract_lets -merge -useContext +onlyGivenNames s6
    have h6 : Foot μ s₀ s6 := Foot.ite (foot_settingsTry (foot_setBoot h5 ⟨rfl, rfl, rfl⟩ (sub em rfl)) (sub em rfl)) h5
    clear_value s6
    extract_lets -merge -useContext +onlyGivenNames x7
    clear_value x7
    extract_lets -merge -useContext +onlyGivenNames _ s8
    have h8 : Foot μ s₀ s8 := Foot.board h6 rfl (sub em rfl)
    clear_value s8
    extract_lets -merge -useContext +onlyGivenNames x9
    clear_value x9
    extract_lets -merge -useContext +onlyGivenNames s10
    have h10 : Foot μ s₀ s10 := Foot.ite (foot_restoreArrays h8 (sub em rfl)) h8
    clear_value s10
    exact foot_queueRestarts h10 (sub em rfl)

theorem foot_execResetCmdExpire (h : Foot μ s₀ s) (em : 0x41100000000000200148010000e000013fffff ||| μ = μ) : ∀ t, execResetCmdExpire s = .next t → Foot μ s₀ t := by
  intro t e
  unfold execResetCmdExpire at e
  injection e with e
  subst e
  exact Foot.ite (foot_resetInside (foot_elapse h (sub em rfl)) (sub em rfl)) h

theorem foot_execFirmwareStart (h : Foot μ s₀ s) (em : 0x41000100000000000040010000e80001148021 ||| μ = μ) : ∀ t, execFirmwareStart s = .next t → Foot μ s₀ t := by
  intro t e
  unfold execFirmwareStart at e
  injection e with e
  subst e
  exact foot_whenOn (fun _ h1 => foot_firmwareStart h1 (sub em rfl)) h

theorem foot_resetWith {a1 a2} (h : Foot μ s₀ s) (em : 0x41000000000000000148010000e000013fffff ||| μ = μ) : Foot μ s₀ (resetWith a1 a2 s) := by
  unfold resetWith
  exact foot_resetInside (foot_setHandover h (sub em rfl)) (sub em rfl)

theorem foot_activation (h : Foot μ s₀ s) (em : 0x41100000000000200148010000e000013fffff ||| μ = μ) : Foot μ s₀ (activation s) := by
  unfold activation
  split
  · exact Foot.ite h (Foot.ite (Foot.ite h (foot_resetWith (foot_elapse h (sub em rfl)) (sub em rfl))) (Foot.ite (foot_resetWith h (sub em rfl)) h))
  · exact h

theorem foot_execUpdActivation (h : Foot μ s₀ s) (em : 0x41100000000000200148010000e000013fffff ||| μ = μ) : ∀ t, execUpdActivation s = .next t → Foot μ s₀ t := by
  intro t e
  unfold execUpdActivation at e
  injection e with e
  subst e
  exact foot_whenOn (fun _ h1 => foot_activation h1 (sub em rfl)) h

theorem foot_execUpdRecoverReset (h : Foot μ s₀ s) (em : 0x41100000000000200148010000e000013fffff ||| μ = μ) : ∀ t, execUpdRecoverReset s = .next t → Foot μ s₀ t := by
  intro t e
  unfold execUpdRecoverReset at e
  injection e with e
  subst e
  exact Foot.ite (foot_resetWith (foot_elapse h (sub em rfl)) (sub em rfl)) h

theorem foot_recoveryPower (h : Foot μ s₀ s) (em : 0x40c54100008007ffc000004c210234e02001fffdfe ||| μ = μ) : Foot μ s₀ (recoveryPower s) := by
  unfold recoveryPower
  extract_lets -merge -useContext +onlyGivenNames s1
  have h1 : Foot μ s₀ s1 := foot_enableWritten h (sub em rfl)
  clear_value s1
  refine Foot.ite ?_ h1
  · extract_lets -merge -useContext +onlyGivenNames s2
    have h2 : Foot μ s₀ s2 := foot_forEach (fun _ _ h2 => foot_enableWritten h2 (sub em rfl)) h1
    clear_value s2
    exact foot_portEnable (foot_portEnable h2 (sub em rfl)) (sub em rfl)

theorem foot_enterRecovery {a1} (h : Foot μ s₀ s) (em : 0x40c54100008207ffc000004c210234e82001fffdfe ||| μ = μ) : Foot μ s₀ (enterRecovery a1 s) := by
  unfold enterRecovery
  extract_lets -merge -useContext +onlyGivenNames s1
  have h1 : Foot μ s₀ s1 := foot_setBoot h ⟨rfl, rfl, rfl⟩ (sub em rfl)
  clear_value s1
  extract_lets -merge -useContext +onlyGivenNames s2
  have h2 : Foot μ s₀ s2 := foot_setFlag (foot_setUpdState h1 (sub em rfl)) (fun i hi => .inr ⟨89, bit em rfl, i, hi, rfl⟩)
  clear_value s2
  exact foot_recoveryPower (foot_raise h2 (sub em rfl)) (sub em rfl)

theorem foot_romBoot (h : Foot μ s₀ s) (em : 0x40c54107c08607ffc000004c210234e82001fffdfe ||| μ = μ) : Foot μ s₀ (romBoot s) := by
  unfold romBoot
  refine Foot.ite h (Foot.ite (foot_setBoot h ⟨rfl, rfl, rfl⟩ (sub em rfl)) (Foot.ite h ?_))
  split
  · exact foot_enterRecovery h (sub em rfl)
  · extract_lets -merge -useContext +onlyGivenNames s2
    have h2 : Foot μ s₀ s2 := Foot.ite h (foot_setHandover h (sub em rfl))
    clear_value s2
    split
    rename_i e3
    have h3 := Foot.ofSnd (foot_bootVerify h2 (sub em rfl)) e3
    refine Foot.ite (foot_handOver h3 (sub em rfl)) ?_
    split
    rename_i e4
    have h4 := Foot.ofSnd (foot_bootVerify h3 (sub em rfl)) e4
    exact Foot.ite (foot_handOver h4 (sub em rfl)) (foot_enterRecovery h4 (sub em rfl))

theorem foot_execRomBoot (h : Foot μ s₀ s) (em : 0x40c54107c08607ffc000004c210234e82001fffdfe ||| μ = μ) : ∀ t, execRomBoot s = .next t → Foot μ s₀ t := by
  intro t e
  unfold execRomBoot at e
  injection e with e
  subst e
  exact foot_romBoot h (sub em rfl)

/-! ### Machine/Bus.lean -/

theorem foot_readUncovered {a1} (h : Foot μ s₀ s) (em : 0x400000 ||| μ = μ) : Foot μ s₀ (readUncovered a1 s).2 := by
  unfold readUncovered
  refine Foot.iteSnd ?_ h
  · split
    · exact Foot.ofSnd (foot_freshIdx h (sub em rfl)) ‹_›

theorem foot_readDram {a1} (h : Foot μ s₀ s) (em : 0x400000 ||| μ = μ) : Foot μ s₀ (readDram a1 s).2 := by
  unfold readDram
  refine Foot.iteSnd ?_ h
  · split
    · exact Foot.ofSnd (foot_freshIdx h (sub em rfl)) ‹_›

theorem foot_readStore {a1} (h : Foot μ s₀ s) (em : 0x100000000000000000400000 ||| μ = μ) : Foot μ s₀ (readStore a1 s).2 := by
  unfold readStore
  refine Foot.iteSnd ?_ ?_
  · extract_lets -merge -useContext +onlyGivenNames x1
    clear_value x1
    split
    · exact foot_when (fun _ h3 => foot_setFlag h3 (fun i hi => .inr ⟨60, bit em rfl, i, hi, rfl⟩)) (Foot.ofSnd (foot_freshIdx h (sub em rfl)) ‹_›)
  · refine Foot.iteSnd ?_ ?_
    · split
      · exact Foot.ofSnd (foot_freshIdx h (sub em rfl)) ‹_›
    · refine Foot.iteSnd ?_ h
      · split
        · exact Foot.ofSnd (foot_freshIdx h (sub em rfl)) ‹_›

theorem foot_pktClearCounts (h : Foot μ s₀ s) (em : 0x3fff00000800000000000000000000 ||| μ = μ) : Foot μ s₀ (pktClearCounts s) := by
  unfold pktClearCounts
  refine foot_setFld (foot_setFld (foot_setFld (foot_forEach (fun _ _ h1 => ?_) h) (fun i hi => .inr ⟨85, bit em rfl, i, hi, rfl⟩))
    (fun i hi => .inr ⟨84, bit em rfl, i, hi, rfl⟩)) (fun i hi => .inr ⟨83, bit em rfl, i, hi, rfl⟩)
  unfold forEach
  simp only [List.foldl_cons, List.foldl_nil]
  repeat' apply foot_setFldAt
  · exact h1
  all_goals first | exact (fun i hi => .inr ⟨72, bit em rfl, i, hi, rfl⟩) | exact (fun i hi => .inr ⟨73, bit em rfl, i, hi, rfl⟩) | exact (fun i hi => .inr ⟨74, bit em rfl, i, hi, rfl⟩) |
    exact (fun i hi => .inr ⟨75, bit em rfl, i, hi, rfl⟩) | exact (fun i hi => .inr ⟨76, bit em rfl, i, hi, rfl⟩) | exact (fun i hi => .inr ⟨77, bit em rfl, i, hi, rfl⟩) | exact (fun i hi => .inr ⟨78, bit em rfl, i, hi, rfl⟩) |
    exact (fun i hi => .inr ⟨79, bit em rfl, i, hi, rfl⟩) | exact (fun i hi => .inr ⟨80, bit em rfl, i, hi, rfl⟩) | exact (fun i hi => .inr ⟨81, bit em rfl, i, hi, rfl⟩) | exact (fun i hi => .inr ⟨82, bit em rfl, i, hi, rfl⟩) |
    exact (fun i hi => .inr ⟨51, bit em rfl, i, hi, rfl⟩)

theorem foot_countIgnored {a1} (h : Foot μ s₀ s) (em : 0x6000000000000000000000000000000000000 ||| μ = μ) : Foot μ s₀ (countIgnored a1 s) := by
  unfold countIgnored
  exact foot_incFld (foot_setFld h (fun i hi => .inr ⟨114, bit em rfl, i, hi, rfl⟩)) (fun i hi => .inr ⟨113, bit em rfl, i, hi, rfl⟩)

theorem foot_windowRead {a1 a2} (h : Foot μ s₀ s) (em : 0x80000000000000000000420000 ||| μ = μ) : Foot μ s₀ (windowRead a1 a2 s).2 := by
  unfold windowRead
  exact Foot.iteSnd (foot_readDram (foot_portTraffic h (sub em rfl)) (sub em rfl)) h

theorem foot_readEffect {a1 a2} (h : Foot μ s₀ s) (em : 0x600000000000000000004000000000000100 ||| μ = μ) : Foot μ s₀ (readEffect a1 a2 s) := by
  unfold readEffect
  exact Foot.ite (foot_takeShadow h (sub em rfl)) (Foot.ite (foot_latchFrame h (sub em rfl)) (Foot.ite (foot_settleFences h (sub em rfl)) h))

theorem foot_writeUncovered {a1 a2 a3} (h : Foot μ s₀ s) (em : 0x6000000000000000000000000000000048000 ||| μ = μ) : Foot μ s₀ (writeUncovered a1 a2 a3 s) := by
  unfold writeUncovered
  refine Foot.ite (foot_setRetBytes (Foot.pwr h rfl (sub em rfl)) (sub em rfl)) ?_
  · split
    · refine Foot.ite h ?_
      · extract_lets -merge -useContext +onlyGivenNames s2
        have h2 : Foot μ s₀ s2 := Foot.ite (foot_countIgnored h (sub em rfl)) h
        clear_value s2
        exact foot_setTfWord h2 (sub em rfl)
    · exact Foot.ite (foot_countIgnored h (sub em rfl)) h

theorem foot_readClears {a1 a2} (h : Foot μ s₀ s) (em : 0xf01000100 ||| μ = μ) : Foot μ s₀ (readClears a1 a2 s) := by
  unfold readClears
  exact Foot.ite h (Foot.ite (foot_inPop h (sub em rfl)) (Foot.ite h (foot_setRegWord h (.inl (bit em rfl)))))

theorem foot_busRead {a1 a2} (h : Foot μ s₀ s) (em : 0x600000000080100000004000000f01420100 ||| μ = μ) : Foot μ s₀ (busRead a1 a2 s).2 := by
  unfold busRead
  refine Foot.iteSnd h ?_
  · refine Foot.iteSnd (foot_readStore h (sub em rfl)) ?_
    · refine Foot.iteSnd (foot_windowRead h (sub em rfl)) ?_
      · split
        · extract_lets -merge -useContext +onlyGivenNames s2
          have h2 : Foot μ s₀ s2 := foot_readEffect h (sub em rfl)
          clear_value s2
          exact foot_readClears h2 (sub em rfl)
        · exact foot_readUncovered h (sub em rfl)

theorem foot_endApplies (h : Foot μ s₀ s) (em : 0x41000000000000000000010000e00000001020 ||| μ = μ) : Foot μ s₀ (endApplies s) := by
  unfold endApplies
  extract_lets -merge -useContext +onlyGivenNames x1
  extract_lets -merge -useContext +onlyGivenNames x2
  clear_value x2
  extract_lets -merge -useContext +onlyGivenNames _ s3
  have h3 : Foot μ s₀ s3 := Foot.cmd h (bit em rfl)
  clear_value s3
  exact foot_forEach (fun _ _ h4 => foot_raise h4 (sub em rfl)) h3

theorem foot_effectAon {a1 a2 a3 a4 a5} (h : Foot μ s₀ s) (em : 0x1000300410000800000c0001048010000e02001bffdfe ||| μ = μ) : Foot μ s₀ (effectAon a1 a2 a3 a4 a5 s) := by
  unfold effectAon
  exact Foot.ite (Foot.ite (foot_setFlag h (fun i hi => .inr ⟨144, bit em rfl, i, hi, rfl⟩)) h) (Foot.ite (Foot.ite (foot_ackReaction h (sub em rfl)) h) (Foot.ite (foot_reactChanged h (sub em rfl)) (Foot.ite (foot_clearSticky (foot_setFldAt h (fun i hi => .inr ⟨118, bit em rfl, i, hi, rfl⟩)) (sub em rfl)) (Foot.ite (Foot.ite (foot_raise h (sub em rfl)) h) (Foot.ite (Foot.ite (foot_targetSet h (sub em rfl)) h) (Foot.ite (Foot.ite (foot_setPwr h rfl (sub em rfl)) h) (Foot.ite (Foot.ite (foot_enableWritten h (sub em rfl)) h) h)))))))

theorem foot_effectLamps {a1 a2 a3 a4} (h : Foot μ s₀ s) (em : 0x24100083980000000e02001800de0c000a10420 ||| μ = μ) : Foot μ s₀ (effectLamps a1 a2 a3 a4 s) := by
  unfold effectLamps
  extract_lets -merge -useContext +onlyGivenNames x1
  clear_value x1
  refine Foot.ite ?_ ?_
  · extract_lets -merge -useContext +onlyGivenNames x2
    clear_value x2
    extract_lets -merge -useContext +onlyGivenNames x3
    clear_value x3
    extract_lets -merge -useContext +onlyGivenNames s4
    have h4 : Foot μ s₀ s4 := Foot.ite (foot_llClear h (sub em rfl)) h
    clear_value s4
    exact Foot.ite (foot_llStart h4 (sub em rfl)) (Foot.ite (foot_llStop h4 (sub em rfl)) h4)
  · refine Foot.ite (Foot.ite (foot_diagGo h (sub em rfl)) h) ?_
    · refine Foot.ite ?_ (Foot.ite (foot_driveCfg h (sub em rfl)) (Foot.ite (foot_driveCfg h (sub em rfl)) (Foot.ite (foot_judgeNow h (sub em rfl)) (Foot.ite (foot_redCfgWritten h (sub em rfl)) (Foot.ite (foot_otpProgram h (sub em rfl)) h)))))
      · extract_lets -merge -useContext +onlyGivenNames x2
        clear_value x2
        extract_lets -merge -useContext +onlyGivenNames x3
        clear_value x3
        extract_lets -merge -useContext +onlyGivenNames s4
        have h4 : Foot μ s₀ s4 := Foot.ite (foot_driveClear h (sub em rfl)) h
        clear_value s4
        extract_lets -merge -useContext +onlyGivenNames s5
        have h5 : Foot μ s₀ s5 := Foot.ite (foot_driveResume h4 (sub em rfl)) h4
        clear_value s5
        extract_lets -merge -useContext +onlyGivenNames s6
        have h6 : Foot μ s₀ s6 := Foot.ite (foot_driveStart h5 (sub em rfl)) (Foot.ite (foot_driveStop h5 (sub em rfl)) h5)
        clear_value s6
        exact Foot.ite (foot_judgeNow (foot_syncDry h6 (sub em rfl)) (sub em rfl)) h6

theorem foot_effectPixels {a1 a2 a3 a4 a5} (h : Foot μ s₀ s) (em : 0x40018000410000000000a0400001c160c0e6000082802c ||| μ = μ) : Foot μ s₀ (effectPixels a1 a2 a3 a4 a5 s) := by
  unfold effectPixels
  extract_lets -merge -useContext +onlyGivenNames x1
  clear_value x1
  refine Foot.ite ?_ ?_
  · extract_lets -merge -useContext +onlyGivenNames s2
    have h2 : Foot μ s₀ s2 := Foot.ite (foot_ethClear h (sub em rfl)) h
    clear_value s2
    exact Foot.ite (foot_ethModeWritten h2 (sub em rfl)) h2
  · refine Foot.ite ?_ (Foot.ite (foot_dramCfgWritten h (sub em rfl)) (Foot.ite (foot_showDram h (sub em rfl)) (Foot.ite (Foot.ite (foot_tfRegen h (sub em rfl)) h) (Foot.ite (Foot.ite (foot_pipeClear h (sub em rfl)) h) (Foot.ite (foot_tempWritten h (sub em rfl)) h)))))
    · extract_lets -merge -useContext +onlyGivenNames s2
      have h2 : Foot μ s₀ s2 := Foot.ite h (foot_flowWritten h (sub em rfl))
      clear_value s2
      exact Foot.ite (foot_flowClear h2 (sub em rfl)) h2

theorem foot_effectTime {a1 a2 a3 a4 a5} (h : Foot μ s₀ s) (em : 0x10000041001004000000a400a0010008e00000880720 ||| μ = μ) : Foot μ s₀ (effectTime a1 a2 a3 a4 a5 s) := by
  unfold effectTime
  extract_lets -merge -useContext +onlyGivenNames x1
  clear_value x1
  extract_lets -merge -useContext +onlyGivenNames x2
  clear_value x2
  refine Foot.ite (foot_forEach (fun _ _ h3 => foot_calTrigger h3 (sub em rfl)) h) ?_
  · refine Foot.ite (foot_timeCtrlWritten h (sub em rfl)) ?_
    · refine Foot.ite (Foot.ite (foot_adjustGo h (sub em rfl)) h) ?_
      · refine Foot.ite (foot_timeErrWritten h (sub em rfl)) ?_
        · refine Foot.ite (foot_outWritten h (sub em rfl)) ?_
          · refine Foot.ite (foot_recordWritten h (sub em rfl)) ?_
            · refine Foot.ite (foot_pendWritten h (sub em rfl)) ?_
              · refine Foot.ite ?_ (Foot.ite (foot_pwmSync h (sub em rfl)) (Foot.ite (foot_pwmSync (foot_ceWrite h (sub em rfl)) (sub em rfl)) h))
                · extract_lets -merge -useContext +onlyGivenNames s3
                  have h3 : Foot μ s₀ s3 := Foot.ite (foot_ceClearCounts h (sub em rfl)) h
                  clear_value s3
                  exact Foot.ite (foot_pwmSync (foot_when (fun _ h4 => foot_ceResume h4 (sub em rfl)) h3) (sub em rfl)) h3

theorem foot_effectLink {a1 a2 a3 a4} (h : Foot μ s₀ s) (em : 0x40e5410000803fff000808043f0234e00000e028e0 ||| μ = μ) : Foot μ s₀ (effectLink a1 a2 a3 a4 s) := by
  unfold effectLink
  extract_lets -merge -useContext +onlyGivenNames x1
  clear_value x1
  extract_lets -merge -useContext +onlyGivenNames x2
  refine Foot.ite ?_ ?_
  · extract_lets -merge -useContext +onlyGivenNames x3
    clear_value x3
    extract_lets -merge -useContext +onlyGivenNames s4
    have h4 : Foot μ s₀ s4 := Foot.ite (foot_portWidth h (sub em rfl)) h
    clear_value s4
    exact Foot.ite (foot_ringPortWritten (foot_portEnable h4 (sub em rfl)) (sub em rfl)) h4
  · refine Foot.ite ?_ (Foot.ite (Foot.ite (foot_pktClearCounts h (sub em rfl)) h) (Foot.ite (Foot.ite (foot_syncDry (foot_setFlag h (fun i hi => .inr ⟨125, bit em rfl, i, hi, rfl⟩)) (sub em rfl)) h) (Foot.ite (foot_forEach (fun _ _ h3 => foot_enumTrigger h3 (sub em rfl)) h) h)))
    · extract_lets -merge -useContext +onlyGivenNames s3
      have h3 : Foot μ s₀ s3 := Foot.ite (Foot.ite (foot_eidleAsk h (sub em rfl)) (foot_eidleStop h (sub em rfl))) h
      clear_value s3
      extract_lets -merge -useContext +onlyGivenNames s4
      have h4 : Foot μ s₀ s4 := Foot.ite (foot_laneClearCounts h3 (sub em rfl)) h3
      clear_value s4
      exact Foot.ite (foot_laneRetrain h4 (sub em rfl)) h4

theorem foot_writeEffect {a1 a2 a3 a4 a5} (h : Foot μ s₀ s) (em : 0x4111c3e7410018bdbfffe0ecf8edffe2fde6e001fffffe ||| μ = μ) : Foot μ s₀ (writeEffect a1 a2 a3 a4 a5 s) := by
  unfold writeEffect
  exact Foot.ite (foot_effectAon h (sub em rfl)) (Foot.ite (foot_effectTime h (sub em rfl)) (Foot.ite (foot_effectLink h (sub em rfl)) (Foot.ite (foot_effectPixels h (sub em rfl)) (foot_effectLamps h (sub em rfl)))))

theorem foot_writeReg {a1 a2 a3 a4 a5} (h : Foot μ s₀ s) (em : 0x4111c3e7470018bdbfffe0ecf8edffe2fde6e001fffffe ||| μ = μ) : Foot μ s₀ (writeReg a1 a2 a3 a4 a5 s) := by
  unfold writeReg
  refine Foot.ite h ?_
  · extract_lets -merge -useContext +onlyGivenNames x1
    clear_value x1
    extract_lets -merge -useContext +onlyGivenNames s2
    have h2 : Foot μ s₀ s2 := Foot.ite (foot_countIgnored h (sub em rfl)) h
    clear_value s2
    exact foot_writeEffect (foot_setRegWord h2 (.inl (bit em rfl))) (sub em rfl)

theorem foot_busWrite {a1 a2 a3 a4} (h : Foot μ s₀ s) (em : 0x4111c3e7470018bdbfffe0ecf8edffe2fde6e001fffffe ||| μ = μ) : Foot μ s₀ (busWrite a1 a2 a3 a4 s) := by
  unfold busWrite
  refine Foot.ite h ?_
  · refine Foot.ite (foot_setStoreBytes h (sub em rfl)) ?_
    · refine Foot.ite (Foot.ite (foot_portWrite h (sub em rfl)) h) ?_
      · split
        · exact foot_writeReg h (sub em rfl)
        · exact Foot.ite (foot_writeUncovered h (sub em rfl)) h

theorem foot_busModify {a1 a2 a3 a4} (h : Foot μ s₀ s) (em : 0x4111c3e7476018bdbfffe0fcf8edffe2fde6ef01fffffe ||| μ = μ) : Foot μ s₀ (busModify a1 a2 a3 a4 s).2 := by
  unfold busModify
  split
  · exact foot_busWrite (Foot.ofSnd (foot_busRead h (sub em rfl)) ‹_›) (sub em rfl)

theorem foot_performAccess {a1} (h : Foot μ s₀ s) (em : 0x4111c3e7476018bdbfffe0fcf8edffe2fde6ef01fffffe ||| μ = μ) : Foot μ s₀ (performAccess a1 s) := by
  unfold performAccess
  split
  · split
    · exact foot_emit (Foot.ofSnd (foot_busRead h (sub em rfl)) ‹_›) (sub em rfl)
  · exact foot_busWrite h (sub em rfl)
  · exact foot_busModify h (sub em rfl)

theorem foot_access {a1} (h : Foot μ s₀ s) (em : 0x4111c3e7476018bdbfffe0fcf8edffe2fde6ef01fffffe ||| μ = μ) : Foot μ s₀ (access a1 s) := by
  unfold access
  extract_lets -merge -useContext +onlyGivenNames x1
  refine Foot.ite (foot_setPwr h rfl (sub em rfl)) ?_
  · split
    · exact foot_demand (foot_setPwr h rfl (sub em rfl)) (sub em rfl)
    · exact foot_performAccess h (sub em rfl)

theorem foot_masterWrite {a1 a2 a3 a4} (h : Foot μ s₀ s) (em : 0x4111c3e7476018bdbfffe0fcf8edffe2fde6ef01fffffe ||| μ = μ) : Foot μ s₀ (masterWrite a1 a2 a3 a4 s) := by
  unfold masterWrite
  exact foot_access h (sub em rfl)

theorem foot_masterRead {a1 a2} (h : Foot μ s₀ s) (em : 0x4111c3e7476018bdbfffe0fcf8edffe2fde6ef01fffffe ||| μ = μ) : Foot μ s₀ (masterRead a1 a2 s) := by
  unfold masterRead
  exact foot_access h (sub em rfl)

theorem foot_completeWaits (h : Foot μ s₀ s) (em : 0x4111c3e7476018bdbfffe0fcf8edffe2fde6ef01fffffe ||| μ = μ) : Foot μ s₀ (completeWaits s) := by
  unfold completeWaits
  extract_lets -merge -useContext +onlyGivenNames x1
  clear_value x1
  extract_lets -merge -useContext +onlyGivenNames x2
  clear_value x2
  extract_lets -merge -useContext +onlyGivenNames s3
  have h3 : Foot μ s₀ s3 := foot_setPwr h rfl (sub em rfl)
  clear_value s3
  extract_lets -merge -useContext +onlyGivenNames s4
  have h4 : Foot μ s₀ s4 := foot_forEach (fun _ _ h4 => foot_access h4 (sub em rfl)) h3
  clear_value s4
  exact foot_forEach (fun _ _ h5 => foot_access h5 (sub em rfl)) (foot_endApplies h4 (sub em rfl))

/-! ### Machine/Commands.lean -/

theorem foot_busyAnswer (h : Foot μ s₀ s) (em : 0x400000 ||| μ = μ) : Foot μ s₀ (busyAnswer s).2 := by
  unfold busyAnswer
  split
  · exact Foot.ofSnd (foot_freshIdx h (sub em rfl)) ‹_›

theorem foot_execHspiUnknownInstruction {a1} (h : Foot μ s₀ s) : ∀ t, execHspiUnknownInstruction a1 s = .next t → Foot μ s₀ t := by
  intro t e
  unfold execHspiUnknownInstruction at e
  injection e with e
  subst e
  exact h

theorem foot_setCmd {a1} (h : Foot μ s₀ s) (em : 0x1000 ||| μ = μ) : Foot μ s₀ (setCmd a1 s) := by
  unfold setCmd
  exact Foot.cmd h (bit em rfl)

theorem foot_setPhaseOf {a1 a2} (h : Foot μ s₀ s) (em : 0x1000 ||| μ = μ) : Foot μ s₀ (setPhaseOf a1 a2 s) := by
  unfold setPhaseOf
  exact foot_setCmd h (sub em rfl)

theorem foot_freeCommand {a1} (h : Foot μ s₀ s) (em : 0x1000 ||| μ = μ) : Foot μ s₀ (freeCommand a1 s) := by
  unfold freeCommand
  exact foot_setCmd h (sub em rfl)

theorem foot_acceptCommand {a1 a2 a3 a4 a5} (h : Foot μ s₀ s) (em : 0x1000 ||| μ = μ) : Foot μ s₀ (acceptCommand a1 a2 a3 a4 a5 s) := by
  unfold acceptCommand
  exact foot_setCmd h (sub em rfl)

theorem foot_execHspiStatus (h : Foot μ s₀ s) (em : 0x800000 ||| μ = μ) : ∀ t, execHspiStatus s = .next t → Foot μ s₀ t := by
  intro t e
  unfold execHspiStatus at e
  injection e with e
  subst e
  exact foot_whenOn (fun _ h1 => foot_emit h1 (sub em rfl)) h

theorem foot_readReply {a1} (h : Foot μ s₀ s) (em : 0x801000 ||| μ = μ) : Foot μ s₀ (readReply a1 s) := by
  unfold readReply
  split
  · exact foot_emit h (sub em rfl)
  · extract_lets -merge -useContext +onlyGivenNames s2
    have h2 : Foot μ s₀ s2 := foot_emit h (sub em rfl)
    clear_value s2
    exact Foot.ite (foot_freeCommand (foot_setCmd h2 (sub em rfl)) (sub em rfl)) h2

theorem foot_execRplRead {a1} (h : Foot μ s₀ s) (em : 0x801000 ||| μ = μ) : ∀ t, execRplRead a1 s = .next t → Foot μ s₀ t := by
  intro t e
  unfold execRplRead at e
  injection e with e
  subst e
  exact foot_whenOn (fun _ h1 => foot_readReply h1 (sub em rfl)) h

theorem foot_countStatus {a1} (h : Foot μ s₀ s) (em : 0x80000000000000000000000000000000000 ||| μ = μ) : Foot μ s₀ (countStatus a1 s) := by
  unfold countStatus
  exact Foot.ite (foot_incFld h (fun i hi => .inr ⟨107, bit em rfl, i, hi, rfl⟩)) (Foot.ite (foot_incFld h (fun i hi => .inr ⟨107, bit em rfl, i, hi, rfl⟩)) (Foot.ite (foot_incFld h (fun i hi => .inr ⟨107, bit em rfl, i, hi, rfl⟩)) h))

theorem foot_awaitReply {a1 a2} (h : Foot μ s₀ s) (em : 0x1000 ||| μ = μ) : Foot μ s₀ (awaitReply a1 a2 s) := by
  unfold awaitReply
  exact Foot.ite (foot_freeCommand h (sub em rfl)) (foot_setCmd h (sub em rfl))

theorem foot_sendReply {a1 a2 a3 a4 a5} (h : Foot μ s₀ s) (em : 0xc03080 ||| μ = μ) : Foot μ s₀ (sendReply a1 a2 a3 a4 a5 s) := by
  unfold sendReply
  extract_lets -merge -useContext +onlyGivenNames x1
  clear_value x1
  split
  · exact foot_awaitReply (foot_setCmd h (sub em rfl)) (sub em rfl)
  · exact foot_freeCommand (foot_sendUdp h (sub em rfl)) (sub em rfl)
  · exact foot_forEach (fun _ _ h4 => foot_sendBaseOwn h4 (sub em rfl)) (foot_awaitReply h (sub em rfl))
  · exact foot_freeCommand h (sub em rfl)

theorem foot_answerCommand {a1 a2 a3 a4 a5} (h : Foot μ s₀ s) (em : 0x80000000000000000000000000000c03080 ||| μ = μ) : Foot μ s₀ (answerCommand a1 a2 a3 a4 a5 s) := by
  unfold answerCommand
  extract_lets -merge -useContext +onlyGivenNames s1
  have h1 : Foot μ s₀ s1 := foot_countStatus h (sub em rfl)
  clear_value s1
  exact Foot.ite (foot_freeCommand h1 (sub em rfl)) (foot_sendReply h1 (sub em rfl))

theorem foot_finish {a1 a2} (h : Foot μ s₀ s) (em : 0x80000000000000000000000000000c03080 ||| μ = μ) : Foot μ s₀ (finish a1 a2 s) := by
  unfold finish
  exact foot_answerCommand h (sub em rfl)

theorem foot_reserveCommand {a1 a2 a3 a4} (h : Foot μ s₀ s) (em : 0x41080000000000000000010000e00000c030a0 ||| μ = μ) : Foot μ s₀ (reserveCommand a1 a2 a3 a4 s) := by
  unfold reserveCommand
  extract_lets -merge -useContext +onlyGivenNames x1
  clear_value x1
  extract_lets -merge -useContext +onlyGivenNames x2
  clear_value x2
  extract_lets -merge -useContext +onlyGivenNames x3
  extract_lets -merge -useContext +onlyGivenNames x4
  clear_value x4
  refine Foot.ite (foot_answerCommand h (sub em rfl)) ?_
  · refine Foot.ite (foot_answerCommand h (sub em rfl)) ?_
    · refine Foot.ite ?_ (foot_acceptCommand h (sub em rfl))
      · split
        · exact foot_raise (foot_answerCommand (Foot.ofSnd (foot_busyAnswer h (sub em rfl)) ‹_›) (sub em rfl)) (sub em rfl)

theorem foot_intake {a1 a2 a3 a4} (h : Foot μ s₀ s) (em : 0x41080000000000000000010000e00000c030a0 ||| μ = μ) : Foot μ s₀ (intake a1 a2 a3 a4 s) := by
  unfold intake
  extract_lets -merge -useContext +onlyGivenNames x1
  clear_value x1
  extract_lets -merge -useContext +onlyGivenNames x2
  clear_value x2
  extract_lets -merge -useContext +onlyGivenNames x3
  refine Foot.ite (foot_raise (foot_incFld h (fun i hi => .inr ⟨107, bit em rfl, i, hi, rfl⟩)) (sub em rfl)) ?_
  · refine Foot.ite (foot_answerCommand h (sub em rfl)) ?_
    · refine Foot.ite (foot_raise (foot_answerCommand h (sub em rfl)) (sub em rfl)) ?_
      · refine Foot.ite (foot_answerCommand h (sub em rfl)) ?_
        · refine Foot.ite (foot_answerCommand h (sub em rfl)) ?_
          · split
            · exact foot_answerCommand h (sub em rfl)
            · exact Foot.ite (foot_answerCommand h (sub em rfl)) (foot_reserveCommand h (sub em rfl))

theorem foot_ringCommand (h : Foot μ s₀ s) (em : 0x41080000000000000000010000e00000c030a0 ||| μ = μ) : Foot μ s₀ (ringCommand s) := by
  unfold ringCommand
  split
  · exact h
  · exact Foot.ite (foot_intake (Foot.ofSome (foot_takeInbox h (sub em rfl)) ‹_›) (sub em rfl)) (Foot.ofSome (foot_takeInbox h (sub em rfl)) ‹_›)

theorem foot_execHspiCmdWrite {a1} (h : Foot μ s₀ s) (em : 0x41080000000000000000010000e00000c030a0 ||| μ = μ) : ∀ t, execHspiCmdWrite a1 s = .next t → Foot μ s₀ t := by
  intro t e
  unfold execHspiCmdWrite at e
  injection e with e
  subst e
  exact foot_whenOn (fun _ h1 => foot_intake h1 (sub em rfl)) h

theorem foot_execRingCommand (h : Foot μ s₀ s) (em : 0x41080000000000000000010000e00000c030a0 ||| μ = μ) : ∀ t, execRingCommand s = .next t → Foot μ s₀ t := by
  intro t e
  unfold execRingCommand at e
  injection e with e
  subst e
  exact foot_whenOn (fun _ h1 => foot_ringCommand h1 (sub em rfl)) h

/-! ### Machine/ControlLoop.lean -/

theorem foot_ceDone {a1} (h : Foot μ s₀ s) (em : 0x30000000000000000000000 ||| μ = μ) : Foot μ s₀ (ceDone a1 s) := by
  unfold ceDone
  exact foot_setFld h (FldIn.ite (fun i hi => .inr ⟨56, bit em rfl, i, hi, rfl⟩) (fun i hi => .inr ⟨57, bit em rfl, i, hi, rfl⟩))

theorem foot_setHalves {a1 a2 a3 a4} (h : Foot μ s₀ s) (em : 0x8000000000000 ||| μ = μ) : Foot μ s₀ (setHalves a1 a2 a3 a4 s) := by
  unfold setHalves
  exact foot_setCeWord h (sub em rfl)

theorem foot_ceWriteBack {a1 a2} (h : Foot μ s₀ s) (em : 0x8000000000000 ||| μ = μ) : Foot μ s₀ (ceWriteBack a1 a2 s) := by
  unfold ceWriteBack
  extract_lets -merge -useContext +onlyGivenNames x1
  clear_value x1
  extract_lets -merge -useContext +onlyGivenNames x2
  extract_lets -merge -useContext +onlyGivenNames s3
  have h3 : Foot μ s₀ s3 := foot_setHalves h (sub em rfl)
  clear_value s3
  extract_lets -merge -useContext +onlyGivenNames s4
  have h4 : Foot μ s₀ s4 := foot_setHalves h3 (sub em rfl)
  clear_value s4
  extract_lets -merge -useContext +onlyGivenNames s5
  have h5 : Foot μ s₀ s5 := foot_setHalves h4 (sub em rfl)
  clear_value s5
  exact foot_setCeWord h5 (sub em rfl)

theorem foot_ceAtLimit {a1 a2} (h : Foot μ s₀ s) (em : 0x41000000000000000020010000e00000000420 ||| μ = μ) : Foot μ s₀ (ceAtLimit a1 a2 s) := by
  unfold ceAtLimit
  refine Foot.ite ?_ (foot_setFlagAt (foot_setCe h (sub em rfl)) (fun i hi => .inr ⟨45, bit em rfl, i, hi, rfl⟩))
  · extract_lets -merge -useContext +onlyGivenNames x1
    clear_value x1
    extract_lets -merge -useContext +onlyGivenNames s2
    have h2 : Foot μ s₀ s2 := foot_setCe h (sub em rfl)
    clear_value s2
    exact Foot.ite (foot_raise (foot_setFlagAt h2 (fun i hi => .inr ⟨45, bit em rfl, i, hi, rfl⟩)) (sub em rfl)) h2

theorem foot_adcConvert {a1 a2 a3} (h : Foot μ s₀ s) (em : 0x100000000041100100000000200020010000e00000080520 ||| μ = μ) : Foot μ s₀ (adcConvert a1 a2 a3 s) := by
  unfold adcConvert
  refine Foot.ite h ?_
  · split
    · extract_lets -merge -useContext +onlyGivenNames s2
      have h2 : Foot μ s₀ s2 := foot_elapse (foot_setCe h (sub em rfl)) (sub em rfl)
      clear_value s2
      split
      · exact foot_whenOn (fun _ h4 => foot_setFld h4 (fun i hi => .inr ⟨96, bit em rfl, i, hi, rfl⟩)) h2
      · exact foot_ceTriggerAll (foot_adcRange (foot_setFldAt (foot_wrapFldAt h2 (fun i hi => .inr ⟨156, bit em rfl, i, hi, rfl⟩)) (fun i hi => .inr ⟨156, bit em rfl, i, hi, rfl⟩)) (sub em rfl)) (sub em rfl)
      · exact h2

theorem foot_execAdcConversion {a1 a2 a3} (h : Foot μ s₀ s) (em : 0x100000000041100100000000200020010000e00000080520 ||| μ = μ) : ∀ t, execAdcConversion a1 a2 a3 s = .next t → Foot μ s₀ t := by
  intro t e
  unfold execAdcConversion at e
  injection e with e
  subst e
  exact foot_adcConvert h (sub em rfl)

theorem foot_sinkWrite {a1 a2} (h : Foot μ s₀ s) (em : 0x4111c3e7476018bdbfffe0fcf8edffe2fde6ef01fffffe ||| μ = μ) : Foot μ s₀ (sinkWrite a1 a2 s) := by
  unfold sinkWrite
  exact Foot.ite (foot_access h (sub em rfl)) (Foot.ite h (foot_raise (foot_setCe h (sub em rfl)) (sub em rfl)))

theorem foot_ceDeliver {a1 a2} (h : Foot μ s₀ s) (em : 0x4111c3e7476018bdbfffe0fcf8edffe2fde6ef01fffffe ||| μ = μ) : Foot μ s₀ (ceDeliver a1 a2 s) := by
  unfold ceDeliver
  extract_lets -merge -useContext +onlyGivenNames s1
  have h1 : Foot μ s₀ s1 := by
    unfold s1
    split
    · exact foot_setCe h (sub em rfl)
    · exact foot_setCeWord h (sub em rfl)
    · exact foot_sinkWrite h (sub em rfl)
    · exact h
  clear_value s1
  exact foot_ceTriggerAll (foot_vledOutput h1 (sub em rfl)) (sub em rfl)

theorem foot_ceStepEvaluate (h : Foot μ s₀ s) (em : 0x4111c3e7476018bdbfffe0fcf8edffe2fde6ef01fffffe ||| μ = μ) : Foot μ s₀ (ceStepEvaluate s) := by
  unfold ceStepEvaluate
  refine Foot.ite h ?_
  · split
    · extract_lets -merge -useContext +onlyGivenNames s2
      have h2 : Foot μ s₀ s2 := by
        unfold s2
        split
        · exact foot_ceUnqueue h (sub em rfl)
        · exact foot_setCe h (sub em rfl)
      clear_value s2
      extract_lets -merge -useContext +onlyGivenNames s3
      have h3 : Foot μ s₀ s3 := foot_ceLandHeld h2 (sub em rfl)
      clear_value s3
      extract_lets -merge -useContext +onlyGivenNames x4
      clear_value x4
      extract_lets -merge -useContext +onlyGivenNames x5
      clear_value x5
      extract_lets -merge -useContext +onlyGivenNames x6
      clear_value x6
      extract_lets -merge -useContext +onlyGivenNames x7
      clear_value x7
      split
      · extract_lets -merge -useContext +onlyGivenNames s9
        have h9 : Foot μ s₀ s9 := foot_setHalves h3 (sub em rfl)
        clear_value s9
        extract_lets -merge -useContext +onlyGivenNames s10
        have h10 : Foot μ s₀ s10 := foot_setHalves h9 (sub em rfl)
        clear_value s10
        extract_lets -merge -useContext +onlyGivenNames s11
        have h11 : Foot μ s₀ s11 := foot_when (fun _ h11 => foot_setCeWord h11 (sub em rfl)) h10
        clear_value s11
        extract_lets -merge -useContext +onlyGivenNames s12
        have h12 : Foot μ s₀ s12 := foot_setCeWord h11 (sub em rfl)
        clear_value s12
        exact foot_ceDeliver (foot_ceAtLimit h12 (sub em rfl)) (sub em rfl)
    · exact h

theorem foot_execCeStepEvaluation (h : Foot μ s₀ s) (em : 0x4111c3e7476018bdbfffe0fcf8edffe2fde6ef01fffffe ||| μ = μ) : ∀ t, execCeStepEvaluation s = .next t → Foot μ s₀ t := by
  intro t e
  unfold execCeStepEvaluation at e
  injection e with e
  subst e
  exact foot_ceStepEvaluate h (sub em rfl)

theorem foot_ceEvaluate (h : Foot μ s₀ s) (em : 0x4111c3e7476018bdbfffe0fff8edffe2fde6ef01fffffe ||| μ = μ) : Foot μ s₀ (ceEvaluate s) := by
  unfold ceEvaluate
  refine Foot.ite h ?_
  · split
    · extract_lets -merge -useContext +onlyGivenNames s2
      have h2 : Foot μ s₀ s2 := foot_ceLandHeld (foot_ceUnqueue h (sub em rfl)) (sub em rfl)
      clear_value s2
      extract_lets -merge -useContext +onlyGivenNames x3
      clear_value x3
      extract_lets -merge -useContext +onlyGivenNames x4
      clear_value x4
      extract_lets -merge -useContext +onlyGivenNames x5
      clear_value x5
      extract_lets -merge -useContext +onlyGivenNames s6
      have h6 : Foot μ s₀ s6 := foot_ceWriteBack h2 (sub em rfl)
      clear_value s6
      extract_lets -merge -useContext +onlyGivenNames s7
      have h7 : Foot μ s₀ s7 := foot_when (fun _ h7 => foot_setFlagAt h7 (fun i hi => .inr ⟨45, bit em rfl, i, hi, rfl⟩)) h6
      clear_value s7
      extract_lets -merge -useContext +onlyGivenNames s8
      have h8 : Foot μ s₀ s8 := foot_when (fun _ h8 => foot_ceDone h8 (sub em rfl)) h7
      clear_value s8
      extract_lets -merge -useContext +onlyGivenNames s9
      have h9 : Foot μ s₀ s9 := foot_when (fun _ h9 => foot_raise h9 (sub em rfl)) h8
      clear_value s9
      exact foot_ceDeliver (foot_ceAtLimit h9 (sub em rfl)) (sub em rfl)
    · exact h

theorem foot_execCeEvaluation (h : Foot μ s₀ s) (em : 0x4111c3e7476018bdbfffe0fff8edffe2fde6ef01fffffe ||| μ = μ) : ∀ t, execCeEvaluation s = .next t → Foot μ s₀ t := by
  intro t e
  unfold execCeEvaluation at e
  injection e with e
  subst e
  exact foot_ceEvaluate h (sub em rfl)

/-! ### Machine/Opcodes.lean -/

theorem foot_readWords {m : Master} {l : List Nat} (h : Foot μ s₀ s) (em : 0x600000000080100000004000000f01420100 ||| μ = μ) : Foot μ s₀ (readWords m l s).2.2 := by
  induction l generalizing s with
  | nil => exact h
  | cons x t ih => exact ih (foot_busRead h (sub em rfl))

theorem foot_opPing {a1 a2} (h : Foot μ s₀ s) : Foot μ s₀ (opPing a1 a2 s).2 := by
  unfold opPing
  exact Foot.iteSnd (foot_answerWords h) (foot_answerWords h)

theorem foot_opDiagRead {a1} (h : Foot μ s₀ s) : Foot μ s₀ (opDiagRead a1 s).2 := by
  unfold opDiagRead
  exact Foot.iteSnd (foot_answer h) (Foot.iteSnd (foot_answer h) (Foot.iteSnd (foot_answer h) (foot_answerWords h)))

theorem foot_opReset {a1} (h : Foot μ s₀ s) (em : 0x1000 ||| μ = μ) : Foot μ s₀ (opReset a1 s).2 := by
  unfold opReset
  exact Foot.iteSnd (foot_answer h) (Foot.iteSnd (foot_answer h) (foot_answer (foot_setCmd h (sub em rfl))))

theorem foot_opTimeQuery {a1} (h : Foot μ s₀ s) : Foot μ s₀ (opTimeQuery a1 s).2 := by
  unfold opTimeQuery
  exact Foot.iteSnd (foot_answer h) (foot_answerWords h)

theorem foot_opIdent {a1 a2} (h : Foot μ s₀ s) : Foot μ s₀ (opIdent a1 a2 s).2 := by
  unfold opIdent
  exact Foot.iteSnd (foot_answer h) (foot_answerWords h)

theorem foot_opEpochReserve {a1} (h : Foot μ s₀ s) (em : 0x600000000000000000000 ||| μ = μ) : Foot μ s₀ (opEpochReserve a1 s).2 := by
  unfold opEpochReserve
  exact Foot.iteSnd (foot_answer h) (Foot.iteSnd (foot_answer h) (Foot.iteSnd (foot_answer h) (foot_answerWords (foot_setPair h (fun i hi => .inr ⟨50, bit em rfl, i, hi, rfl⟩) (fun i hi => .inr ⟨49, bit em rfl, i, hi, rfl⟩)))))

theorem foot_opPwrState {a1} (h : Foot μ s₀ s) : Foot μ s₀ (opPwrState a1 s).2 := by
  unfold opPwrState
  exact Foot.iteSnd (foot_answer h) (Foot.iteSnd (foot_answer h) (foot_answer h))

theorem foot_opNop {a1 a2} (h : Foot μ s₀ s) : Foot μ s₀ (opNop a1 a2 s).2 := by
  unfold opNop
  exact Foot.iteSnd (foot_answer h) (Foot.iteSnd (foot_answerWords h) (foot_answer h))

theorem foot_opTableQuery {a1 a2} (h : Foot μ s₀ s) (em : 0x80000000000000000000020000 ||| μ = μ) : Foot μ s₀ (opTableQuery a1 a2 s).2 := by
  unfold opTableQuery
  extract_lets -merge -useContext +onlyGivenNames x1
  clear_value x1
  refine Foot.iteSnd (foot_answer h) ?_
  · refine Foot.iteSnd (foot_answer h) ?_
    · split
      · exact foot_answer h
      · extract_lets -merge -useContext +onlyGivenNames x3
        clear_value x3
        split
        · exact foot_answerWords (foot_when (fun _ h5 => foot_portTraffic h5 (sub em rfl)) h)

theorem foot_opFenceQuery {a1} (h : Foot μ s₀ s) (em : 0x4000000000000000 ||| μ = μ) : Foot μ s₀ (opFenceQuery a1 s).2 := by
  unfold opFenceQuery
  split
  · exact foot_answer h
  · extract_lets -merge -useContext +onlyGivenNames s2
    have h2 : Foot μ s₀ s2 := foot_settleFences h (sub em rfl)
    clear_value s2
    exact foot_answerWords h2

theorem foot_opDiagClear {a1} (h : Foot μ s₀ s) (em : 0xe00000000000000000000000000010002 ||| μ = μ) : Foot μ s₀ (opDiagClear a1 s).2 := by
  unfold opDiagClear
  exact Foot.iteSnd (foot_answer h) (Foot.iteSnd (foot_answer h) (foot_answer (foot_diagClear h (sub em rfl))))

theorem foot_opPwrQuery {a1 a2} (h : Foot μ s₀ s) (em : 0x600000000080100000004000000f01420100 ||| μ = μ) : Foot μ s₀ (opPwrQuery a1 a2 s).2 := by
  unfold opPwrQuery
  refine Foot.iteSnd (foot_answer h) ?_
  · split
    · exact foot_answerWords (Foot.ofThird (foot_readWords h (sub em rfl)) ‹_›)

theorem foot_opAccordQuery {a1 a2} (h : Foot μ s₀ s) (em : 0x600000000080100000004000000f01420100 ||| μ = μ) : Foot μ s₀ (opAccordQuery a1 a2 s).2 := by
  unfold opAccordQuery
  extract_lets -merge -useContext +onlyGivenNames x1
  clear_value x1
  extract_lets -merge -useContext +onlyGivenNames x2
  clear_value x2
  extract_lets -merge -useContext +onlyGivenNames x3
  clear_value x3
  refine Foot.iteSnd (foot_answer h) ?_
  · refine Foot.iteSnd (foot_answer h) ?_
    · refine Foot.iteSnd (foot_answer h) ?_
      · split
        · exact foot_answerWords (Foot.ofThird (foot_readWords h (sub em rfl)) ‹_›)

theorem foot_opRead {a1 a2} (h : Foot μ s₀ s) (em : 0x600000000080100000004000000f01420100 ||| μ = μ) : Foot μ s₀ (opRead a1 a2 s).2 := by
  unfold opRead
  refine Foot.iteSnd (foot_answer h) ?_
  · refine Foot.iteSnd (foot_answer h) ?_
    · split
      · exact Foot.ofThird (foot_readWords h (sub em rfl)) ‹_›

theorem foot_opBlockRead {a1 a2} (h : Foot μ s₀ s) (em : 0x600000000080100000004000000f01420100 ||| μ = μ) : Foot μ s₀ (opBlockRead a1 a2 s).2 := by
  unfold opBlockRead
  refine Foot.iteSnd (foot_answer h) ?_
  · refine Foot.iteSnd (foot_answer h) ?_
    · split
      · exact Foot.ofThird (foot_readWords h (sub em rfl)) ‹_›

theorem foot_opEvtRead {a1 a2} (h : Foot μ s₀ s) (em : 0x600000000080100000004000000f01420100 ||| μ = μ) : Foot μ s₀ (opEvtRead a1 a2 s).2 := by
  unfold opEvtRead
  refine Foot.iteSnd (foot_answer h) ?_
  · refine Foot.iteSnd (foot_answer h) ?_
    · extract_lets -merge -useContext +onlyGivenNames x1
      clear_value x1
      split
      · exact foot_answerWords (Foot.ofThird (foot_readWords h (sub em rfl)) ‹_›)

theorem foot_opEvtClear {a1} (h : Foot μ s₀ s) (em : 0x41000000000000000000010000e00000000020 ||| μ = μ) : Foot μ s₀ (opEvtClear a1 s).2 := by
  unfold opEvtClear
  extract_lets -merge -useContext +onlyGivenNames x1
  clear_value x1
  refine Foot.iteSnd (foot_answer h) ?_
  · refine Foot.iteSnd (foot_answer h) ?_
    · extract_lets -merge -useContext +onlyGivenNames s2
      have h2 : Foot μ s₀ s2 := foot_clearSticky h (sub em rfl)
      clear_value s2
      exact foot_answer (Foot.ite (foot_ackReaction h2 (sub em rfl)) h2)

theorem foot_opFlaconRelease {a1} (h : Foot μ s₀ s) (em : 0x41000000000000000000816040e00000000028 ||| μ = μ) : Foot μ s₀ (opFlaconRelease a1 s).2 := by
  unfold opFlaconRelease
  split
  · exact foot_answer h
  · exact foot_answer (foot_releaseFlacon (foot_settleFences h (sub em rfl)) (sub em rfl))

theorem foot_opFlaconBind {a1} (h : Foot μ s₀ s) (em : 0x3c00000041000000000080000000816040e0000002002e ||| μ = μ) : Foot μ s₀ (opFlaconBind a1 s).2 := by
  unfold opFlaconBind
  refine Foot.iteSnd (foot_answer h) ?_
  · refine Foot.iteSnd (foot_answer h) ?_
    · extract_lets -merge -useContext +onlyGivenNames x1
      clear_value x1
      extract_lets -merge -useContext +onlyGivenNames s2
      have h2 : Foot μ s₀ s2 := foot_settleFences h (sub em rfl)
      clear_value s2
      split
      · exact foot_answer h2
      · exact foot_answer (foot_bindFlacon h2 (sub em rfl))

theorem foot_opWrite {a1 a2} (h : Foot μ s₀ s) (em : 0x4111c3e7470018bdbfffe0ecf8edffe2fde6e001fffffe ||| μ = μ) : Foot μ s₀ (opWrite a1 a2 s).2 := by
  unfold opWrite
  exact Foot.iteSnd (foot_answer h) (Foot.iteSnd (foot_answer h) (foot_answer (foot_busWrite h (sub em rfl))))

theorem foot_opEvtConfig {a1 a2} (h : Foot μ s₀ s) (em : 0x4111c3e7470018bdbfffe0ecf8edffe2fde6e001fffffe ||| μ = μ) : Foot μ s₀ (opEvtConfig a1 a2 s).2 := by
  unfold opEvtConfig
  extract_lets -merge -useContext +onlyGivenNames x1
  clear_value x1
  extract_lets -merge -useContext +onlyGivenNames x2
  clear_value x2
  extract_lets -merge -useContext +onlyGivenNames x3
  clear_value x3
  extract_lets -merge -useContext +onlyGivenNames x4
  clear_value x4
  refine Foot.iteSnd (foot_answer h) ?_
  · refine Foot.iteSnd (foot_answer h) ?_
    · refine Foot.iteSnd (foot_answer h) ?_
      · refine Foot.iteSnd (foot_answer h) ?_
        · extract_lets -merge -useContext +onlyGivenNames x5
          extract_lets -merge -useContext +onlyGivenNames s6
          have h6 : Foot μ s₀ s6 := foot_busWrite h (sub em rfl)
          clear_value s6
          extract_lets -merge -useContext +onlyGivenNames s7
          have h7 : Foot μ s₀ s7 := foot_busWrite h6 (sub em rfl)
          clear_value s7
          exact foot_answer (Foot.ite (foot_busWrite h7 (sub em rfl)) h7)

theorem foot_opModify {a1 a2} (h : Foot μ s₀ s) (em : 0x4111c3e7476018bdbfffe0fcf8edffe2fde6ef01fffffe ||| μ = μ) : Foot μ s₀ (opModify a1 a2 s).2 := by
  unfold opModify
  refine Foot.iteSnd (foot_answer h) ?_
  · refine Foot.iteSnd (foot_answer h) ?_
    · extract_lets -merge -useContext +onlyGivenNames x1
      clear_value x1
      split
      · exact Foot.ofSnd (foot_busModify h (sub em rfl)) ‹_›

theorem foot_writeWords {m : Master} {l : List Word} {a : Nat} (h : Foot μ s₀ s) (em : 0x4111c3e7470018bdbfffe0ecf8edffe2fde6e001fffffe ||| μ = μ) : Foot μ s₀ (writeWords m a l s) := by
  induction l generalizing a s with
  | nil => exact h
  | cons x t ih => exact ih (foot_busWrite h (sub em rfl))

theorem foot_opBlockWrite {a1 a2} (h : Foot μ s₀ s) (em : 0x4111c3e7470018bdbfffe0ecf8edffe2fde6e001fffffe ||| μ = μ) : Foot μ s₀ (opBlockWrite a1 a2 s).2 := by
  unfold opBlockWrite
  exact Foot.iteSnd (foot_answer h) (Foot.iteSnd (foot_answer h) (foot_answer (foot_writeWords h (sub em rfl))))

theorem foot_opAccordLoad {a1 a2} (h : Foot μ s₀ s) (em : 0x4111c3e7470018bdbfffe0ecf8edffe2fde6e001fffffe ||| μ = μ) : Foot μ s₀ (opAccordLoad a1 a2 s).2 := by
  unfold opAccordLoad
  exact Foot.iteSnd (foot_answer h) (Foot.iteSnd (foot_answer h) (Foot.iteSnd (foot_answer h) (foot_answer (foot_writeWords h (sub em rfl)))))

theorem foot_tableWrite {a1 a2 a3 a4 a5} (h : Foot μ s₀ s) (em : 0x4111c3e7470018bdbfffe0ecf8edffe2fde6e001fffffe ||| μ = μ) : Foot μ s₀ (tableWrite a1 a2 a3 a4 a5 s) := by
  unfold tableWrite
  refine Foot.ite ?_ (foot_writeWords h (sub em rfl))
  · split
    · exact foot_portWrite h (sub em rfl)

theorem foot_opTableLoad {a1 a2} (h : Foot μ s₀ s) (em : 0x4111c3e7470018bdbfffe0ecf8edffe2fde6e001fffffe ||| μ = μ) : Foot μ s₀ (opTableLoad a1 a2 s).2 := by
  unfold opTableLoad
  exact Foot.iteSnd (foot_answer h) (Foot.iteSnd (foot_answer h) (Foot.iteSnd (foot_answer h) (Foot.iteSnd (foot_answer h) (foot_answer (foot_tableWrite h (sub em rfl))))))

end Sys2Proof.Machine
end

