-- ==== Sys2Proof/Laws/Foot9.lean ====
section
/-! SUPPORT. The relation Foot holds of each operation of Machine/: Cascade, Stages, Journal, Fanout, CommandRows. -/

namespace Sys2Proof.Machine

variable {μ : Nat} {s₀ s t : State}

/-! ### Machine/Cascade.lean -/

theorem foot_peerWrite {a1 a2 a3} (h : Foot μ s₀ s) (em : 0x800000 ||| μ = μ) : Foot μ s₀ (peerWrite a1 a2 a3 s) := by
  unfold peerWrite
  exact foot_emit h (sub em rfl)

theorem foot_reserveBroadcast (h : Foot μ s₀ s) (em : 0x800000 ||| μ = μ) : Foot μ s₀ (reserveBroadcast s) := by
  unfold reserveBroadcast
  exact Foot.ite (foot_peerWrite h (sub em rfl)) h

theorem foot_pendBroadcast (h : Foot μ s₀ s) (em : 0x800000 ||| μ = μ) : Foot μ s₀ (pendBroadcast s) := by
  unfold pendBroadcast
  exact Foot.ite (foot_peerWrite h (sub em rfl)) h

theorem foot_execWtPendBroadcast (h : Foot μ s₀ s) (em : 0x800000 ||| μ = μ) : ∀ t, execWtPendBroadcast s = .next t → Foot μ s₀ t := by
  intro t e
  unfold execWtPendBroadcast at e
  injection e with e
  subst e
  exact foot_whenOn (fun _ h1 => foot_pendBroadcast h1 (sub em rfl)) h

theorem foot_execReserveBroadcast (h : Foot μ s₀ s) (em : 0x800000 ||| μ = μ) : ∀ t, execReserveBroadcast s = .next t → Foot μ s₀ t := by
  intro t e
  unfold execReserveBroadcast at e
  injection e with e
  subst e
  exact foot_whenOn (fun _ h1 => foot_reserveBroadcast h1 (sub em rfl)) h

theorem foot_offsetPoll {a1 a2} (h : Foot μ s₀ s) (em : 0x41000000000000000000010000e00000000020 ||| μ = μ) : Foot μ s₀ (offsetPoll a1 a2 s) := by
  unfold offsetPoll
  exact Foot.ite (foot_raise h (sub em rfl)) h

theorem foot_execWtmOffsetPoll {a1 a2} (h : Foot μ s₀ s) (em : 0x41000000000000000000010000e00000000020 ||| μ = μ) : ∀ t, execWtmOffsetPoll a1 a2 s = .next t → Foot μ s₀ t := by
  intro t e
  unfold execWtmOffsetPoll at e
  injection e with e
  subst e
  exact foot_whenOn (fun _ h1 => foot_offsetPoll h1 (sub em rfl)) h

/-! ### Machine/Stages.lean -/

theorem foot_setStage {a1 a2} (h : Foot μ s₀ s) (em : 0x1000 ||| μ = μ) : Foot μ s₀ (setStage a1 a2 s) := by
  unfold setStage
  exact foot_setCmd h (sub em rfl)

theorem foot_freeStage {a1} (h : Foot μ s₀ s) (em : 0x41000 ||| μ = μ) : Foot μ s₀ (freeStage a1 s) := by
  unfold freeStage
  exact foot_setPwr (foot_setCmd h (sub em rfl)) rfl (sub em rfl)

theorem foot_opDiscard {a1} (h : Foot μ s₀ s) (em : 0x41000 ||| μ = μ) : Foot μ s₀ (opDiscard a1 s).2 := by
  unfold opDiscard
  exact Foot.iteSnd (foot_answer h) (Foot.iteSnd (foot_answer h) (foot_answer (foot_freeStage h (sub em rfl))))

theorem foot_opStageQuery {a1} (h : Foot μ s₀ s) : Foot μ s₀ (opStageQuery a1 s).2 := by
  unfold opStageQuery
  exact Foot.iteSnd (foot_answer h) (Foot.iteSnd (foot_answer h) (foot_answerWords h))

theorem foot_storePiece {a1 a2 a3} (h : Foot μ s₀ s) (em : 0x1000 ||| μ = μ) : Foot μ s₀ (storePiece a1 a2 a3 s) := by
  unfold storePiece
  exact Foot.ite (foot_setStage h (sub em rfl)) (foot_setCmd h (sub em rfl))

theorem foot_opStage {a1 a2 a3} (h : Foot μ s₀ s) (em : 0x1000 ||| μ = μ) : Foot μ s₀ (opStage a1 a2 a3 s).2 := by
  unfold opStage
  exact Foot.iteSnd (foot_answer h) (Foot.iteSnd (foot_answer h) (Foot.iteSnd (foot_answer h) (Foot.iteSnd (foot_answer h) (Foot.iteSnd (foot_answer h) (Foot.iteSnd (foot_answer h) (Foot.iteSnd (foot_answer h) (foot_answer (foot_storePiece h (sub em rfl)))))))))

theorem foot_opCommitAt {a1 a2} (h : Foot μ s₀ s) (em : 0x41000000100000000000010000e00000001020 ||| μ = μ) : Foot μ s₀ (opCommitAt a1 a2 s).2 := by
  unfold opCommitAt
  extract_lets -merge -useContext +onlyGivenNames x1
  clear_value x1
  extract_lets -merge -useContext +onlyGivenNames x2
  clear_value x2
  refine Foot.iteSnd (foot_answer h) ?_
  · refine Foot.iteSnd (foot_answer h) ?_
    · split
      · exact foot_answer (foot_raise h (sub em rfl))
      · refine Foot.iteSnd (foot_answer h) ?_
        · refine Foot.iteSnd (foot_answer (foot_raise h (sub em rfl))) ?_
          · refine Foot.iteSnd (foot_answer h) ?_
            · split
              · exact foot_answer (foot_when (fun _ h5 => foot_raise (foot_incFld h5 (fun i hi => .inr ⟨84, bit em rfl, i, hi, rfl⟩)) (sub em rfl)) h)
              · exact foot_answer (foot_setStage h (sub em rfl))

theorem foot_applyEntry {a1 a2} (h : Foot μ s₀ s) (em : 0x4111c3e7476018bdbfffe0fcf8edffe2fde6ef01fffffe ||| μ = μ) : Foot μ s₀ (applyEntry a1 a2 s) := by
  unfold applyEntry
  exact foot_access h (sub em rfl)

theorem foot_applyStage {a1 a2} (h : Foot μ s₀ s) (em : 0x4111c3e7476018bdbfffe0fcf8edffe2fde6ef01fffffe ||| μ = μ) : Foot μ s₀ (applyStage a1 a2 s) := by
  unfold applyStage
  extract_lets -merge -useContext +onlyGivenNames s1
  have h1 : Foot μ s₀ s1 := foot_setStage h (sub em rfl)
  clear_value s1
  extract_lets -merge -useContext +onlyGivenNames s2
  have h2 : Foot μ s₀ s2 := foot_forEach (fun _ _ h2 => Foot.ite h2 (foot_applyEntry h2 (sub em rfl))) h1
  clear_value s2
  exact foot_endApplies h2 (sub em rfl)

theorem foot_applyStages {a1 a2} (h : Foot μ s₀ s) (em : 0x4111c3e7476018bdbfffe1fcf8edffe2fde6ef01fffffe ||| μ = μ) : Foot μ s₀ (applyStages a1 a2 s) := by
  unfold applyStages
  extract_lets -merge -useContext +onlyGivenNames x1
  clear_value x1
  extract_lets -merge -useContext +onlyGivenNames s2
  have h2 : Foot μ s₀ s2 := foot_forEach (fun _ _ h2 => foot_applyStage h2 (sub em rfl)) h
  clear_value s2
  extract_lets -merge -useContext +onlyGivenNames s3
  have h3 : Foot μ s₀ s3 := foot_when (fun _ h3 => foot_completeWaits h3 (sub em rfl)) h2
  clear_value s3
  exact foot_stageAdopt h3 (sub em rfl)

/-! ### Machine/Journal.lean -/

theorem foot_relayEntry {a1} (h : Foot μ s₀ s) (em : 0x200000 ||| μ = μ) : Foot μ s₀ (relayEntry a1 s) := by
  unfold relayEntry
  exact foot_setRed h (sub em rfl)

theorem foot_latchEntry {a1} (h : Foot μ s₀ s) (em : 0x200000 ||| μ = μ) : Foot μ s₀ (latchEntry a1 s) := by
  unfold latchEntry
  exact foot_setRed h (sub em rfl)

theorem foot_sendSnapshot {a1} (h : Foot μ s₀ s) (em : 0x2080 ||| μ = μ) : Foot μ s₀ (sendSnapshot a1 s) := by
  unfold sendSnapshot
  split
  · exact foot_setPort (Foot.ofSnd (foot_freshSeq h (sub em rfl)) ‹_›) (sub em rfl)

theorem foot_opRedStatus {a1} (h : Foot μ s₀ s) : Foot μ s₀ (opRedStatus a1 s).2 := by
  unfold opRedStatus
  exact Foot.iteSnd (foot_answer h) (foot_answerWords h)

theorem foot_snapDiscard (h : Foot μ s₀ s) (em : 0x4000000200000 ||| μ = μ) : Foot μ s₀ (snapDiscard s) := by
  unfold snapDiscard
  exact foot_setFlag (foot_setRed h (sub em rfl)) (fun i hi => .inr ⟨18, bit em rfl, i, hi, rfl⟩)

theorem foot_snapCapture (h : Foot μ s₀ s) (em : 0x4000000200000 ||| μ = μ) : Foot μ s₀ (snapCapture s) := by
  unfold snapCapture
  extract_lets -merge -useContext +onlyGivenNames s1
  have h1 : Foot μ s₀ s1 := foot_setRed h (sub em rfl)
  clear_value s1
  exact Foot.ite h1 (foot_setFlag (foot_setRed h1 (sub em rfl)) (fun i hi => .inr ⟨18, bit em rfl, i, hi, rfl⟩))

theorem foot_execSnapshotCapture (h : Foot μ s₀ s) (em : 0x4000000200000 ||| μ = μ) : ∀ t, execSnapshotCapture s = .next t → Foot μ s₀ t := by
  intro t e
  unfold execSnapshotCapture at e
  injection e with e
  subst e
  exact foot_whenOn (fun _ h1 => Foot.ite (foot_snapCapture h1 (sub em rfl)) h1) h

theorem foot_swapEntry {a1} (h : Foot μ s₀ s) (em : 0x1800000000000000004000000200000 ||| μ = μ) : Foot μ s₀ (swapEntry a1 s) := by
  unfold swapEntry
  exact Foot.ite (foot_setFlag (foot_setPair (foot_setRed h (sub em rfl)) (fun i hi => .inr ⟨88, bit em rfl, i, hi, rfl⟩) (fun i hi => .inr ⟨87, bit em rfl, i, hi, rfl⟩)) (fun i hi => .inr ⟨18, bit em rfl, i, hi, rfl⟩)) (Foot.ite h (foot_setFlag (foot_setPair (foot_setRed h (sub em rfl)) (fun i hi => .inr ⟨88, bit em rfl, i, hi, rfl⟩) (fun i hi => .inr ⟨87, bit em rfl, i, hi, rfl⟩)) (fun i hi => .inr ⟨18, bit em rfl, i, hi, rfl⟩)))

theorem foot_opRedSnapshot {a1} (h : Foot μ s₀ s) (em : 0x4000000200000 ||| μ = μ) : Foot μ s₀ (opRedSnapshot a1 s).2 := by
  unfold opRedSnapshot
  refine Foot.iteSnd (foot_answer h) (Foot.iteSnd (foot_answer h) ?_)
  dsimp only
  refine Foot.iteSnd ?_ (Foot.iteSnd (foot_answer h) ?_)
  · split
    · exact foot_answerWords h
    · exact foot_answer h
  · split
    · exact foot_answerWords (foot_snapCapture h (sub em rfl))
    · exact foot_answer (foot_snapCapture h (sub em rfl))

theorem foot_snapSend (h : Foot μ s₀ s) (em : 0x30000000000080000000000004000000222080 ||| μ = μ) : Foot μ s₀ (snapSend s) := by
  unfold snapSend
  split
  · exact h
  · refine Foot.ite (foot_setFlag (foot_setRed h (sub em rfl)) (fun i hi => .inr ⟨18, bit em rfl, i, hi, rfl⟩)) ?_
    · extract_lets -merge -useContext +onlyGivenNames x2
      clear_value x2
      extract_lets -merge -useContext +onlyGivenNames s3
      have h3 : Foot μ s₀ s3 := foot_when (fun _ h3 => foot_portTraffic h3 (sub em rfl)) h
      clear_value s3
      extract_lets -merge -useContext +onlyGivenNames x4
      clear_value x4
      extract_lets -merge -useContext +onlyGivenNames x5
      clear_value x5
      extract_lets -merge -useContext +onlyGivenNames x6
      clear_value x6
      extract_lets -merge -useContext +onlyGivenNames s7
      have h7 : Foot μ s₀ s7 := foot_sendSnapshot h3 (sub em rfl)
      clear_value s7
      exact Foot.ite (foot_setFlag (foot_setFld (foot_setFld (foot_setRed h7 (sub em rfl)) (fun i hi => .inr ⟨117, bit em rfl, i, hi, rfl⟩)) (fun i hi => .inr ⟨116, bit em rfl, i, hi, rfl⟩)) (fun i hi => .inr ⟨18, bit em rfl, i, hi, rfl⟩)) (foot_setRed h7 (sub em rfl))

theorem foot_journalCommand {a1} (h : Foot μ s₀ s) (em : 0x8000000000000000000000000000000002080 ||| μ = μ) : Foot μ s₀ (journalCommand a1 s) := by
  unfold journalCommand
  exact Foot.ite (foot_journal h (sub em rfl)) h

theorem foot_armSwap {a1} (h : Foot μ s₀ s) (em : 0x8000001800000000000000004000000002080 ||| μ = μ) : Foot μ s₀ (armSwap a1 s) := by
  unfold armSwap
  extract_lets -merge -useContext +onlyGivenNames s1
  have h1 : Foot μ s₀ s1 := foot_journal h (sub em rfl)
  clear_value s1
  exact foot_setFlag (foot_setPair h1 (fun i hi => .inr ⟨88, bit em rfl, i, hi, rfl⟩) (fun i hi => .inr ⟨87, bit em rfl, i, hi, rfl⟩)) (fun i hi => .inr ⟨18, bit em rfl, i, hi, rfl⟩)

theorem foot_diverged (h : Foot μ s₀ s) (em : 0x441000000000000000000010000e00000000020 ||| μ = μ) : Foot μ s₀ (diverged s) := by
  unfold diverged
  exact foot_raise (foot_incFld h (fun i hi => .inr ⟨122, bit em rfl, i, hi, rfl⟩)) (sub em rfl)

theorem foot_opRedSwap {a1} (h : Foot μ s₀ s) (em : 0x8000001800000000000000004000000002080 ||| μ = μ) : Foot μ s₀ (opRedSwap a1 s).2 := by
  unfold opRedSwap
  exact Foot.iteSnd (foot_answer h) (Foot.iteSnd (foot_answer h) (Foot.iteSnd (foot_answer (foot_armSwap h (sub em rfl))) (Foot.iteSnd (foot_answer h) (foot_answer (foot_armSwap h (sub em rfl))))))

theorem foot_swapRetry (h : Foot μ s₀ s) (em : 0x8000001800000000000000004000000202080 ||| μ = μ) : Foot μ s₀ (swapRetry s) := by
  unfold swapRetry
  exact Foot.ite (foot_armSwap (foot_setRed h (sub em rfl)) (sub em rfl)) h

theorem foot_execSnapshotSend (h : Foot μ s₀ s) (em : 0x30000000000080000000000004000000222080 ||| μ = μ) : ∀ t, execSnapshotSend s = .next t → Foot μ s₀ t := by
  intro t e
  unfold execSnapshotSend at e
  injection e with e
  subst e
  exact foot_whenOn (fun _ h1 => foot_snapSend h1 (sub em rfl)) h

theorem foot_holdHeart {a1} (h : Foot μ s₀ s) (em : 0x41000000400000000000010000e00000200020 ||| μ = μ) : Foot μ s₀ (holdHeart a1 s) := by
  unfold holdHeart
  exact Foot.ite h (foot_raise (foot_incFld (foot_setRed h (sub em rfl)) (fun i hi => .inr ⟨86, bit em rfl, i, hi, rfl⟩)) (sub em rfl))

theorem foot_execSwapArmRetry (h : Foot μ s₀ s) (em : 0x8000001800000000000000004000000202080 ||| μ = μ) : ∀ t, execSwapArmRetry s = .next t → Foot μ s₀ t := by
  intro t e
  unfold execSwapArmRetry at e
  injection e with e
  subst e
  exact foot_whenOn (fun _ h1 => foot_swapRetry h1 (sub em rfl)) h

theorem foot_snapWrite {a1} (h : Foot μ s₀ s) (em : 0x4111c3e7470018bdbfffe0ecf8edffe2fde6e001fffffe ||| μ = μ) : Foot μ s₀ (snapWrite a1 s) := by
  unfold snapWrite
  extract_lets -merge -useContext +onlyGivenNames s1
  have h1 : Foot μ s₀ s1 := foot_forEach (fun _ _ h1 => foot_forEach (fun _ _ h2 => Foot.ite h2 (foot_busWrite h2 (sub em rfl))) h1) h
  clear_value s1
  extract_lets -merge -useContext +onlyGivenNames s2
  have h2 : Foot μ s₀ s2 := foot_forEach (fun _ _ h2 => foot_portWrite h2 (sub em rfl)) h1
  clear_value s2
  exact foot_setCmd h2 (sub em rfl)

theorem foot_runEntry {a1} (h : Foot μ s₀ s) (em : 0x7d11c3e7470018bdbfffe0ecf8edffe2fde6e001fffffe ||| μ = μ) : Foot μ s₀ (runEntry a1 s) := by
  unfold runEntry
  exact Foot.ite (Foot.ite (Foot.ite h (foot_busWrite h (sub em rfl))) h) (Foot.ite (Foot.ite (Foot.ite h (foot_busWrite h (sub em rfl))) h) (Foot.ite (Foot.ite h (Foot.foldl (fun _ _ h5 => Foot.ite h5 (foot_busWrite h5 (sub em rfl))) h)) (Foot.ite (foot_opStage h (sub em rfl)) (Foot.ite (foot_opCommitAt h (sub em rfl)) (Foot.ite (foot_opDiscard h (sub em rfl)) (Foot.ite (foot_opFlaconBind h (sub em rfl)) (Foot.ite (foot_opFlaconRelease h (sub em rfl)) (Foot.ite (foot_opAccordLoad h (sub em rfl)) (Foot.ite (foot_opTableLoad h (sub em rfl)) h)))))))))

theorem foot_commandEntry {a1} (h : Foot μ s₀ s) (em : 0x7d11c3e7470018bdffffe0ecf8edffe2fde6e001fffffe ||| μ = μ) : Foot μ s₀ (commandEntry a1 s) := by
  unfold commandEntry
  exact Foot.ite (foot_holdHeart (foot_setRed (foot_runEntry h (sub em rfl)) (sub em rfl)) (sub em rfl)) (foot_setRed (foot_runEntry h (sub em rfl)) (sub em rfl))

theorem foot_useEntry {a1} (h : Foot μ s₀ s) (em : 0x7d11c3e7470018bdffffe0ecf8edffe2fde6e001fffffe ||| μ = μ) : Foot μ s₀ (useEntry a1 s) := by
  unfold useEntry
  split
  · exact foot_commandEntry h (sub em rfl)
  · exact foot_relayEntry h (sub em rfl)
  · exact foot_latchEntry h (sub em rfl)
  · exact foot_swapEntry h (sub em rfl)
  · exact h

theorem foot_snapApply {a1 a2} (h : Foot μ s₀ s) (em : 0x7d11c3e7470018bdbfffe0ecf8edffe2fde6e001fffffe ||| μ = μ) : Foot μ s₀ (snapApply a1 a2 s) := by
  unfold snapApply
  extract_lets -merge -useContext +onlyGivenNames s1
  have h1 : Foot μ s₀ s1 := foot_snapWrite (foot_setFlag h (fun i hi => .inr ⟨18, bit em rfl, i, hi, rfl⟩)) (sub em rfl)
  clear_value s1
  extract_lets -merge -useContext +onlyGivenNames s2
  have h2 : Foot μ s₀ s2 := foot_forEach (fun _ _ h2 => foot_runEntry h2 (sub em rfl)) h1
  clear_value s2
  extract_lets -merge -useContext +onlyGivenNames s3
  have h3 : Foot μ s₀ s3 := Foot.ite (foot_tfRegen h2 (sub em rfl)) h2
  clear_value s3
  exact foot_setRed h3 (sub em rfl)

theorem foot_journalIn {a1 a2} (h : Foot μ s₀ s) (em : 0x7d11c3e74f0018bdffffe0ecf8edffe2fde6e001fffffe ||| μ = μ) : Foot μ s₀ (journalIn a1 a2 s).2 := by
  unfold journalIn
  extract_lets -merge -useContext +onlyGivenNames s1
  have h1 : Foot μ s₀ s1 := foot_when (fun _ h1 => foot_journalGap h1 (sub em rfl)) h
  clear_value s1
  refine Foot.iteSnd h1 ?_
  · extract_lets -merge -useContext +onlyGivenNames x2
    clear_value x2
    extract_lets -merge -useContext +onlyGivenNames s3
    have h3 : Foot μ s₀ s3 := foot_setRed (foot_setFld h1 (fun i hi => .inr ⟨115, bit em rfl, i, hi, rfl⟩)) (sub em rfl)
    clear_value s3
    extract_lets -merge -useContext +onlyGivenNames s4
    have h4 : Foot μ s₀ s4 := foot_useEntry h3 (sub em rfl)
    clear_value s4
    exact h4

theorem foot_snapDone {a1} (h : Foot μ s₀ s) (em : 0x7d11c3e7570018bdbfffe0ecf8edffe2fde6e001fffffe ||| μ = μ) : Foot μ s₀ (snapDone a1 s) := by
  unfold snapDone
  extract_lets -merge -useContext +onlyGivenNames x1
  clear_value x1
  extract_lets -merge -useContext +onlyGivenNames s2
  have h2 : Foot μ s₀ s2 := Foot.ite (Foot.ite h (foot_snapApply (foot_diverged h (sub em rfl)) (sub em rfl))) (foot_snapApply h (sub em rfl))
  clear_value s2
  extract_lets -merge -useContext +onlyGivenNames x3
  clear_value x3
  extract_lets -merge -useContext +onlyGivenNames s4
  have h4 : Foot μ s₀ s4 := Foot.ite h2 (foot_setFld h2 (fun i hi => .inr ⟨126, bit em rfl, i, hi, rfl⟩))
  clear_value s4
  extract_lets -merge -useContext +onlyGivenNames s5
  have h5 : Foot μ s₀ s5 := foot_setRed h4 (sub em rfl)
  clear_value s5
  exact foot_raise (foot_setFlag (foot_setFld h5 (fun i hi => .inr ⟨116, bit em rfl, i, hi, rfl⟩)) (fun i hi => .inr ⟨18, bit em rfl, i, hi, rfl⟩)) (sub em rfl)

theorem foot_journalTake (h : Foot μ s₀ s) (em : 0x7d11c3e74f0018bdffffe0ecf8edffe2fde6e001fffffe ||| μ = μ) : Foot μ s₀ (journalTake s).2 := by
  unfold journalTake
  refine Foot.iteSnd h ?_
  · split
    · exact h
    · exact Foot.iteSnd (Foot.ofSome (foot_takeInbox h (sub em rfl)) ‹_›) (foot_journalIn (Foot.ofSome (foot_takeInbox h (sub em rfl)) ‹_›) (sub em rfl))

theorem foot_snapJoin {a1 a2 a3 a4} (h : Foot μ s₀ s) (em : 0x7d11c3e7570018bdbfffe0ecf8edffe2fde6e001fffffe ||| μ = μ) : Foot μ s₀ (snapJoin a1 a2 a3 a4 s) := by
  unfold snapJoin
  extract_lets -merge -useContext +onlyGivenNames x1
  clear_value x1
  extract_lets -merge -useContext +onlyGivenNames x2
  clear_value x2
  extract_lets -merge -useContext +onlyGivenNames x3
  clear_value x3
  extract_lets -merge -useContext +onlyGivenNames x4
  clear_value x4
  extract_lets -merge -useContext +onlyGivenNames x5
  clear_value x5
  extract_lets -merge -useContext +onlyGivenNames x6
  clear_value x6
  extract_lets -merge -useContext +onlyGivenNames x7
  clear_value x7
  extract_lets -merge -useContext +onlyGivenNames s8
  have h8 : Foot μ s₀ s8 := foot_setRed h (sub em rfl)
  clear_value s8
  exact Foot.ite (foot_snapDiscard h8 (sub em rfl)) (Foot.ite (Foot.ite (foot_snapDone h8 (sub em rfl)) (foot_snapDiscard h8 (sub em rfl))) (foot_setFlag (foot_setRed h8 (sub em rfl)) (fun i hi => .inr ⟨18, bit em rfl, i, hi, rfl⟩)))

theorem foot_snapTake (h : Foot μ s₀ s) (em : 0x7d11c3e7570018bdbfffe0ecf8edffe2fde6e001fffffe ||| μ = μ) : Foot μ s₀ (snapTake s) := by
  unfold snapTake
  refine Foot.ite h ?_
  · split
    · exact h
    · extract_lets -merge -useContext +onlyGivenNames x2
      clear_value x2
      extract_lets -merge -useContext +onlyGivenNames x3
      clear_value x3
      extract_lets -merge -useContext +onlyGivenNames x4
      clear_value x4
      extract_lets -merge -useContext +onlyGivenNames x5
      clear_value x5
      extract_lets -merge -useContext +onlyGivenNames x6
      clear_value x6
      refine Foot.ite (Foot.ofSome (foot_takeInbox h (sub em rfl)) ‹_›) ?_
      · refine Foot.ite (foot_snapDiscard (Foot.ofSome (foot_takeInbox h (sub em rfl)) ‹_›) (sub em rfl)) ?_
        · split
          · exact Foot.ite (foot_snapDiscard (Foot.ofSome (foot_takeInbox h (sub em rfl)) ‹_›) (sub em rfl)) (foot_snapJoin (Foot.ofSome (foot_takeInbox h (sub em rfl)) ‹_›) (sub em rfl))
          · exact Foot.ite (foot_snapJoin (Foot.ofSome (foot_takeInbox h (sub em rfl)) ‹_›) (sub em rfl)) (foot_setRed (Foot.ofSome (foot_takeInbox h (sub em rfl)) ‹_›) (sub em rfl))

theorem foot_execSnapshotChunkReceive (h : Foot μ s₀ s) (em : 0x7d11c3e7570018bdbfffe0ecf8edffe2fde6e001fffffe ||| μ = μ) : ∀ t, execSnapshotChunkReceive s = .next t → Foot μ s₀ t := by
  intro t e
  unfold execSnapshotChunkReceive at e
  injection e with e
  subst e
  exact foot_whenOn (fun _ h1 => foot_snapTake h1 (sub em rfl)) h

/-! ### Machine/Fanout.lean -/

theorem foot_dropRelay {a1} (h : Foot μ s₀ s) (em : 0x1000 ||| μ = μ) : Foot μ s₀ (dropRelay a1 s) := by
  unfold dropRelay
  exact foot_setCmd h (sub em rfl)

theorem foot_putRelay {a1} (h : Foot μ s₀ s) (em : 0x1000 ||| μ = μ) : Foot μ s₀ (putRelay a1 s) := by
  unfold putRelay
  exact foot_setCmd h (sub em rfl)

theorem foot_forwardReply {a1} (h : Foot μ s₀ s) (em : 0x2080 ||| μ = μ) : Foot μ s₀ (forwardReply a1 s) := by
  unfold forwardReply
  refine Foot.ite h ?_
  · split
    · exact foot_setPort (Foot.ofSnd (foot_freshSeq h (sub em rfl)) ‹_›) (sub em rfl)

theorem foot_emitForm {a1 a2 a3 a4} (h : Foot μ s₀ s) (em : 0x8000000000080000000000000000000222080 ||| μ = μ) : Foot μ s₀ (emitForm a1 a2 a3 a4 s) := by
  unfold emitForm
  extract_lets -merge -useContext +onlyGivenNames x1
  clear_value x1
  extract_lets -merge -useContext +onlyGivenNames s2
  have h2 : Foot μ s₀ s2 := foot_portTraffic h (sub em rfl)
  clear_value s2
  exact foot_forEach (fun _ _ h3 => foot_sendRing h3 (sub em rfl)) h2

theorem foot_finishRelay {a1 a2} (h : Foot μ s₀ s) (em : 0x80000000000000000000000000000c03080 ||| μ = μ) : Foot μ s₀ (finishRelay a1 a2 s) := by
  unfold finishRelay
  extract_lets -merge -useContext +onlyGivenNames s1
  have h1 : Foot μ s₀ s1 := foot_dropRelay h (sub em rfl)
  clear_value s1
  split
  · exact foot_finish h1 (sub em rfl)
  · exact h1

theorem foot_completeRelay {a1} (h : Foot μ s₀ s) (em : 0x41080000000000000000010000e00000c030a0 ||| μ = μ) : Foot μ s₀ (completeRelay a1 s) := by
  unfold completeRelay
  extract_lets -merge -useContext +onlyGivenNames s1
  have h1 : Foot μ s₀ s1 := foot_when (fun _ h1 => foot_raise h1 (sub em rfl)) h
  clear_value s1
  exact foot_finishRelay h1 (sub em rfl)

theorem foot_startForm {a1} (h : Foot μ s₀ s) (em : 0x41080000000000000000010000e00000d030a0 ||| μ = μ) : Foot μ s₀ (startForm a1 s) := by
  unfold startForm
  refine Foot.ite ?_ ?_
  · refine Foot.ite h ?_
    · split
      · exact foot_finish h (sub em rfl)
      · exact Foot.ite (foot_finish h (sub em rfl)) (foot_setCmd (foot_setPhaseOf h (sub em rfl)) (sub em rfl))
  · refine Foot.ite h ?_
    · split
      · split
        · exact foot_finish (Foot.ofSnd (foot_updRefuse h (sub em rfl)) ‹_›) (sub em rfl)
      · exact Foot.ite (foot_finish h (sub em rfl)) (foot_setBoot (foot_setPhaseOf h (sub em rfl)) ⟨rfl, rfl, rfl⟩ (sub em rfl))

theorem foot_collectReply {a1 a2 a3 a4} (h : Foot μ s₀ s) (em : 0x200000041080000000000000000010000e00000c030a0 ||| μ = μ) : Foot μ s₀ (collectReply a1 a2 a3 a4 s) := by
  unfold collectReply
  exact Foot.ite h (Foot.ite (Foot.ite (foot_finishRelay h (sub em rfl)) (foot_putRelay h (sub em rfl))) (Foot.ite (Foot.ite (foot_completeRelay h (sub em rfl)) (foot_putRelay h (sub em rfl))) (Foot.ite (foot_putRelay h (sub em rfl)) (foot_incFld (foot_putRelay h (sub em rfl)) (fun i hi => .inr ⟨145, bit em rfl, i, hi, rfl⟩)))))

theorem foot_finishEmission {a1} (h : Foot μ s₀ s) (em : 0x80000000000000000000000000000c03080 ||| μ = μ) : Foot μ s₀ (finishEmission a1 s) := by
  unfold finishEmission
  split
  · exact foot_finish h (sub em rfl)
  · exact h

theorem foot_fanoutTimeout {a1} (h : Foot μ s₀ s) (em : 0x41080000000000000000010000e00000c030a0 ||| μ = μ) : Foot μ s₀ (fanoutTimeout a1 s) := by
  unfold fanoutTimeout
  split
  · exact h
  · exact Foot.ite (foot_finishRelay (foot_raise h (sub em rfl)) (sub em rfl)) (foot_completeRelay h (sub em rfl))

theorem foot_stopEmission {a1} (h : Foot μ s₀ s) (em : 0x80000000000000000000000000000c03080 ||| μ = μ) : Foot μ s₀ (stopEmission a1 s) := by
  unfold stopEmission
  split
  · exact foot_finish h (sub em rfl)
  · exact h

theorem foot_tableDataEmit (h : Foot μ s₀ s) (em : 0x8080000000080000000000000000000e23080 ||| μ = μ) : Foot μ s₀ (tableDataEmit s) := by
  unfold tableDataEmit
  split
  · exact h
  · refine Foot.ite (foot_stopEmission (foot_setCmd h (sub em rfl)) (sub em rfl)) ?_
    · extract_lets -merge -useContext +onlyGivenNames x2
      clear_value x2
      extract_lets -merge -useContext +onlyGivenNames s3
      have h3 : Foot μ s₀ s3 := foot_emitForm h (sub em rfl)
      clear_value s3
      exact Foot.ite (foot_finishEmission (foot_setCmd h3 (sub em rfl)) (sub em rfl)) (foot_setCmd h3 (sub em rfl))

theorem foot_relayCommand {a1} (h : Foot μ s₀ s) (em : 0x49080000000000000000010000e00000e030a0 ||| μ = μ) : Foot μ s₀ (relayCommand a1 s) := by
  unfold relayCommand
  refine Foot.ite (foot_finish h (sub em rfl)) ?_
  · extract_lets -merge -useContext +onlyGivenNames x1
    clear_value x1
    extract_lets -merge -useContext +onlyGivenNames x2
    clear_value x2
    extract_lets -merge -useContext +onlyGivenNames x3
    clear_value x3
    extract_lets -merge -useContext +onlyGivenNames x4
    clear_value x4
    extract_lets -merge -useContext +onlyGivenNames s5
    have h5 : Foot μ s₀ s5 := foot_setCmd (foot_setPhaseOf h (sub em rfl)) (sub em rfl)
    clear_value s5
    extract_lets -merge -useContext +onlyGivenNames s6
    have h6 : Foot μ s₀ s6 := foot_forEach (fun _ _ h6 => foot_sendRing h6 (sub em rfl)) h5
    clear_value s6
    exact Foot.ite (foot_completeRelay h6 (sub em rfl)) h6

theorem foot_replyReceive (h : Foot μ s₀ s) (em : 0x200000041080000000000000000010000e00000c030a0 ||| μ = μ) : Foot μ s₀ (replyReceive s) := by
  unfold replyReceive
  refine Foot.ite h ?_
  · split
    · exact h
    · extract_lets -merge -useContext +onlyGivenNames x2
      clear_value x2
      refine Foot.ite (foot_forwardReply (Foot.ofSome (foot_takeInbox h (sub em rfl)) ‹_›) (sub em rfl)) ?_
      · split
        · exact Foot.ofSome (foot_takeInbox h (sub em rfl)) ‹_›
        · exact foot_collectReply (Foot.ofSome (foot_takeInbox h (sub em rfl)) ‹_›) (sub em rfl)

theorem foot_execFanoutTimeout {a1} (h : Foot μ s₀ s) (em : 0x41080000000000000000010000e00000c030a0 ||| μ = μ) : ∀ t, execFanoutTimeout a1 s = .next t → Foot μ s₀ t := by
  intro t e
  unfold execFanoutTimeout at e
  injection e with e
  subst e
  exact foot_whenOn (fun _ h1 => foot_fanoutTimeout h1 (sub em rfl)) h

theorem foot_execReplyReceive (h : Foot μ s₀ s) (em : 0x200000041080000000000000000010000e00000c030a0 ||| μ = μ) : ∀ t, execReplyReceive s = .next t → Foot μ s₀ t := by
  intro t e
  unfold execReplyReceive at e
  injection e with e
  subst e
  exact foot_whenOn (fun _ h1 => foot_replyReceive h1 (sub em rfl)) h

theorem foot_firmwareDataEmit (h : Foot μ s₀ s) (em : 0x8080000000080000000000000000000f23080 ||| μ = μ) : Foot μ s₀ (firmwareDataEmit s) := by
  unfold firmwareDataEmit
  split
  · exact h
  · refine Foot.ite (foot_stopEmission (foot_setBoot h ⟨rfl, rfl, rfl⟩ (sub em rfl)) (sub em rfl)) ?_
    · extract_lets -merge -useContext +onlyGivenNames s2
      have h2 : Foot μ s₀ s2 := foot_emitForm h (sub em rfl)
      clear_value s2
      exact Foot.ite (foot_finishEmission (foot_setBoot h2 ⟨rfl, rfl, rfl⟩ (sub em rfl)) (sub em rfl)) (foot_setBoot h2 ⟨rfl, rfl, rfl⟩ (sub em rfl))

theorem foot_execTableDataEmit (h : Foot μ s₀ s) (em : 0x8080000000080000000000000000000e23080 ||| μ = μ) : ∀ t, execTableDataEmit s = .next t → Foot μ s₀ t := by
  intro t e
  unfold execTableDataEmit at e
  injection e with e
  subst e
  exact foot_whenOn (fun _ h1 => foot_tableDataEmit h1 (sub em rfl)) h

theorem foot_execFirmwareDataEmit (h : Foot μ s₀ s) (em : 0x8080000000080000000000000000000f23080 ||| μ = μ) : ∀ t, execFirmwareDataEmit s = .next t → Foot μ s₀ t := by
  intro t e
  unfold execFirmwareDataEmit at e
  injection e with e
  subst e
  exact foot_whenOn (fun _ h1 => foot_firmwareDataEmit h1 (sub em rfl)) h

theorem foot_tableDataReceive (h : Foot μ s₀ s) (em : 0x4111c3e7470018bdbfffe0ecf8edffe2fde6e001fffffe ||| μ = μ) : Foot μ s₀ (tableDataReceive s) := by
  unfold tableDataReceive
  refine Foot.ite h ?_
  · split
    · exact h
    · exact Foot.ite (foot_incFld (Foot.ofSome (foot_takeInbox h (sub em rfl)) ‹_›) (fun i hi => .inr ⟨69, bit em rfl, i, hi, rfl⟩)) (foot_tableWrite (Foot.ofSome (foot_takeInbox h (sub em rfl)) ‹_›) (sub em rfl))

theorem foot_execTableDataReceive (h : Foot μ s₀ s) (em : 0x4111c3e7470018bdbfffe0ecf8edffe2fde6e001fffffe ||| μ = μ) : ∀ t, execTableDataReceive s = .next t → Foot μ s₀ t := by
  intro t e
  unfold execTableDataReceive at e
  injection e with e
  subst e
  exact foot_whenOn (fun _ h1 => foot_tableDataReceive h1 (sub em rfl)) h

/-! ### Machine/CommandRows.lean -/

theorem foot_runLocal {a1 a2} (hf : ∀ (x : QCmd) (s : State), Foot μ s₀ s → Foot μ s₀ (a1 x s).2) (h : Foot μ s₀ s) (em : 0x449000000000000000000010000e000000020a0 ||| μ = μ) :
    ∀ r, runLocal a1 a2 s = some r → Foot μ s₀ r.2 := by
  intro r e
  unfold runLocal at e
  dsimp only at e
  split at e
  · cases e
  · split at e
    · cases e
    · cases e
      refine foot_when (fun _ k => foot_diverged k (sub em rfl)) ?_
      split
      · exact hf _ _ (foot_journalCommand h (sub em rfl))
      · exact foot_journalCommand h (sub em rfl)

theorem foot_demandFor {a1} (h : Foot μ s₀ s) (em : 0x40000000000000040000 ||| μ = μ) : Foot μ s₀ (demandFor a1 s) := by
  unfold demandFor
  exact foot_forEach (fun _ _ h1 => foot_demand h1 (sub em rfl)) h

theorem foot_afterPwrState {a1 a2} (h : Foot μ s₀ s) (em : 0x30041000080000000001048010000e02000bdfdfa ||| μ = μ) : Foot μ s₀ (afterPwrState a1 a2 s) := by
  unfold afterPwrState
  exact Foot.ite (foot_setTarget h (sub em rfl)) h

theorem foot_localUpdBlock {a1} (h : Foot μ s₀ s) (em : 0x41000100000000000000010000e80000100020 ||| μ = μ) : Foot μ s₀ (localUpdBlock a1 s).2 := by
  unfold localUpdBlock
  exact Foot.iteSnd (Foot.iteSnd (foot_answer h) (Foot.iteSnd (foot_updRefuse h (sub em rfl)) (foot_updRefuse h (sub em rfl)))) (foot_updBlockInline h (sub em rfl))

theorem foot_runCommandThen {a1 a2 a3 a4} (hf : ∀ (x : QCmd) (s : State), Foot μ s₀ s → Foot μ s₀ (a3 x s).2)
    (hg : ∀ (x : QCmd) (a : Answer) (s : State), Foot μ s₀ s → Foot μ s₀ (a4 x a s)) (h : Foot μ s₀ s) (em : 0x449080000000000000040010000e00000f430a0 ||| μ = μ) :
    Foot μ s₀ (runCommandThen a1 a2 a3 a4 s) := by
  unfold runCommandThen
  refine Foot.ite h ?_
  split
  · exact h
  · refine Foot.ite (Foot.ite (foot_startForm h (sub em rfl)) (foot_relayCommand h (sub em rfl))) ?_
    split
    · exact foot_demandFor h (sub em rfl)
    · rename_i e
      exact hg _ _ _ (foot_finish (Foot.ofSome (foot_runLocal hf h (sub em rfl)) e) (sub em rfl))

theorem foot_execPwrState {a1} (h : Foot μ s₀ s) (em : 0x30449080080000000001048010000e02000fdfdfa ||| μ = μ) : ∀ t, execPwrState a1 s = .next t → Foot μ s₀ t := by
  intro t e
  unfold execPwrState at e
  injection e with e
  subst e
  exact foot_runCommandThen (fun _ _ h1 => foot_opPwrState h1) (fun _ _ _ h1 => foot_afterPwrState h1 (sub em rfl)) h (sub em rfl)

theorem foot_runCommand {a1 a2 a3} (hf : ∀ (x : QCmd) (s : State), Foot μ s₀ s → Foot μ s₀ (a3 x s).2) (h : Foot μ s₀ s) (em : 0x449080000000000000040010000e00000f430a0 ||| μ = μ) :
    Foot μ s₀ (runCommand a1 a2 a3 s) := by
  unfold runCommand
  exact foot_runCommandThen hf (fun _ _ _ k => k) h (sub em rfl)

theorem foot_execUpdSchedule {a1} (h : Foot μ s₀ s) (em : 0xc0000449080100000000000040010000e80000f430a0 ||| μ = μ) : ∀ t, execUpdSchedule a1 s = .next t → Foot μ s₀ t := by
  intro t e
  unfold execUpdSchedule at e
  injection e with e
  subst e
  exact foot_runCommand (fun _ _ h1 => foot_updSchedule h1 (sub em rfl)) h (sub em rfl)

theorem foot_execRedSnapshot {a1} (h : Foot μ s₀ s) (em : 0x449080000000000000040010004e00000f430a0 ||| μ = μ) : ∀ t, execRedSnapshot a1 s = .next t → Foot μ s₀ t := by
  intro t e
  unfold execRedSnapshot at e
  injection e with e
  subst e
  exact foot_runCommand (fun _ _ h1 => foot_opRedSnapshot h1 (sub em rfl)) h (sub em rfl)

theorem foot_execUpdRecover {a1} (h : Foot μ s₀ s) (em : 0x449080000000000000040010000e00000f430a0 ||| μ = μ) : ∀ t, execUpdRecover a1 s = .next t → Foot μ s₀ t := by
  intro t e
  unfold execUpdRecover at e
  injection e with e
  subst e
  exact foot_runCommand (fun _ _ h1 => foot_updRecover h1 (sub em rfl)) h (sub em rfl)

theorem foot_execFlaconBind {a1} (h : Foot μ s₀ s) (em : 0x3c00000449080000000080000040816040e00000f630ae ||| μ = μ) : ∀ t, execFlaconBind a1 s = .next t → Foot μ s₀ t := by
  intro t e
  unfold execFlaconBind at e
  injection e with e
  subst e
  exact foot_runCommand (fun _ _ h1 => foot_opFlaconBind h1 (sub em rfl)) h (sub em rfl)

theorem foot_execDiagRead {a1} (h : Foot μ s₀ s) (em : 0x449080000000000000040010000e00000f430a0 ||| μ = μ) : ∀ t, execDiagRead a1 s = .next t → Foot μ s₀ t := by
  intro t e
  unfold execDiagRead at e
  injection e with e
  subst e
  exact foot_runCommand (fun _ _ h1 => foot_opDiagRead h1) h (sub em rfl)

theorem foot_execUpdBegin {a1} (h : Foot μ s₀ s) (em : 0x449080100000000000040010000e80000f430a0 ||| μ = μ) : ∀ t, execUpdBegin a1 s = .next t → Foot μ s₀ t := by
  intro t e
  unfold execUpdBegin at e
  injection e with e
  subst e
  exact foot_runCommand (fun _ _ h1 => foot_updBegin h1 (sub em rfl)) h (sub em rfl)

theorem foot_execPwrQuery {a1} (h : Foot μ s₀ s) (em : 0x449680000000080100040014000e00f01f631a0 ||| μ = μ) : ∀ t, execPwrQuery a1 s = .next t → Foot μ s₀ t := by
  intro t e
  unfold execPwrQuery at e
  injection e with e
  subst e
  exact foot_runCommand (fun _ _ h1 => foot_opPwrQuery h1 (sub em rfl)) h (sub em rfl)

theorem foot_execEvtClear {a1} (h : Foot μ s₀ s) (em : 0x449080000000000000040010000e00000f430a0 ||| μ = μ) : ∀ t, execEvtClear a1 s = .next t → Foot μ s₀ t := by
  intro t e
  unfold execEvtClear at e
  injection e with e
  subst e
  exact foot_runCommand (fun _ _ h1 => foot_opEvtClear h1 (sub em rfl)) h (sub em rfl)

theorem foot_execRead {a1} (h : Foot μ s₀ s) (em : 0x449680000000080100040014000e00f01f631a0 ||| μ = μ) : ∀ t, execRead a1 s = .next t → Foot μ s₀ t := by
  intro t e
  unfold execRead at e
  injection e with e
  subst e
  exact foot_runCommand (fun _ _ h1 => foot_opRead h1 (sub em rfl)) h (sub em rfl)

theorem foot_execFlaconRelease {a1} (h : Foot μ s₀ s) (em : 0x449080000000000000040816040e00000f430a8 ||| μ = μ) : ∀ t, execFlaconRelease a1 s = .next t → Foot μ s₀ t := by
  intro t e
  unfold execFlaconRelease at e
  injection e with e
  subst e
  exact foot_runCommand (fun _ _ h1 => foot_opFlaconRelease h1 (sub em rfl)) h (sub em rfl)

theorem foot_execBlockRead {a1} (h : Foot μ s₀ s) (em : 0x449680000000080100040014000e00f01f631a0 ||| μ = μ) : ∀ t, execBlockRead a1 s = .next t → Foot μ s₀ t := by
  intro t e
  unfold execBlockRead at e
  injection e with e
  subst e
  exact foot_runCommand (fun _ _ h1 => foot_opBlockRead h1 (sub em rfl)) h (sub em rfl)

theorem foot_execUpdSeal {a1} (h : Foot μ s₀ s) (em : 0x449080000000000000040010000e80000f430a0 ||| μ = μ) : ∀ t, execUpdSeal a1 s = .next t → Foot μ s₀ t := by
  intro t e
  unfold execUpdSeal at e
  injection e with e
  subst e
  exact foot_runCommand (fun _ _ h1 => foot_updSeal h1 (sub em rfl)) h (sub em rfl)

theorem foot_execRedSwap {a1} (h : Foot μ s₀ s) (em : 0x449080001800000000040010004e00000f430a0 ||| μ = μ) : ∀ t, execRedSwap a1 s = .next t → Foot μ s₀ t := by
  intro t e
  unfold execRedSwap at e
  injection e with e
  subst e
  exact foot_runCommand (fun _ _ h1 => foot_opRedSwap h1 (sub em rfl)) h (sub em rfl)

theorem foot_execIdent {a1} (h : Foot μ s₀ s) (em : 0x449080000000000000040010000e00000f430a0 ||| μ = μ) : ∀ t, execIdent a1 s = .next t → Foot μ s₀ t := by
  intro t e
  unfold execIdent at e
  injection e with e
  subst e
  exact foot_runCommand (fun _ _ h1 => foot_opIdent h1) h (sub em rfl)

theorem foot_execEpochReserve {a1} (h : Foot μ s₀ s) (em : 0x449080000000000000640010000e00000f430a0 ||| μ = μ) : ∀ t, execEpochReserve a1 s = .next t → Foot μ s₀ t := by
  intro t e
  unfold execEpochReserve at e
  injection e with e
  subst e
  exact foot_runCommand (fun _ _ h1 => foot_opEpochReserve h1 (sub em rfl)) h (sub em rfl)

theorem foot_execDiagClear {a1} (h : Foot μ s₀ s) (em : 0x449080e00000000000040010000e00000f530a2 ||| μ = μ) : ∀ t, execDiagClear a1 s = .next t → Foot μ s₀ t := by
  intro t e
  unfold execDiagClear at e
  injection e with e
  subst e
  exact foot_runCommand (fun _ _ h1 => foot_opDiagClear h1 (sub em rfl)) h (sub em rfl)

theorem foot_execUpdBlock {a1} (h : Foot μ s₀ s) (em : 0x449080100000000000040010000e80000f430a0 ||| μ = μ) : ∀ t, execUpdBlock a1 s = .next t → Foot μ s₀ t := by
  intro t e
  unfold execUpdBlock at e
  injection e with e
  subst e
  exact foot_runCommand (fun _ _ h1 => foot_localUpdBlock h1 (sub em rfl)) h (sub em rfl)

theorem foot_execTableQuery {a1} (h : Foot μ s₀ s) (em : 0x449080000000080000040010000e00000f630a0 ||| μ = μ) : ∀ t, execTableQuery a1 s = .next t → Foot μ s₀ t := by
  intro t e
  unfold execTableQuery at e
  injection e with e
  subst e
  exact foot_runCommand (fun _ _ h1 => foot_opTableQuery h1 (sub em rfl)) h (sub em rfl)

theorem foot_execFenceQuery {a1} (h : Foot μ s₀ s) (em : 0x449080000000000000040014000e00000f430a0 ||| μ = μ) : ∀ t, execFenceQuery a1 s = .next t → Foot μ s₀ t := by
  intro t e
  unfold execFenceQuery at e
  injection e with e
  subst e
  exact foot_runCommand (fun _ _ h1 => foot_opFenceQuery h1 (sub em rfl)) h (sub em rfl)

theorem foot_execNop {a1} (h : Foot μ s₀ s) (em : 0x449080000000000000040010000e00000f430a0 ||| μ = μ) : ∀ t, execNop a1 s = .next t → Foot μ s₀ t := by
  intro t e
  unfold execNop at e
  injection e with e
  subst e
  exact foot_runCommand (fun _ _ h1 => foot_opNop h1) h (sub em rfl)

theorem foot_execReset {a1} (h : Foot μ s₀ s) (em : 0x449080000000000000040010000e00000f430a0 ||| μ = μ) : ∀ t, execReset a1 s = .next t → Foot μ s₀ t := by
  intro t e
  unfold execReset at e
  injection e with e
  subst e
  exact foot_runCommand (fun _ _ h1 => foot_opReset h1 (sub em rfl)) h (sub em rfl)

theorem foot_execEvtRead {a1} (h : Foot μ s₀ s) (em : 0x449680000000080100040014000e00f01f631a0 ||| μ = μ) : ∀ t, execEvtRead a1 s = .next t → Foot μ s₀ t := by
  intro t e
  unfold execEvtRead at e
  injection e with e
  subst e
  exact foot_runCommand (fun _ _ h1 => foot_opEvtRead h1 (sub em rfl)) h (sub em rfl)

theorem foot_execDiscard {a1} (h : Foot μ s₀ s) (em : 0x449080000000000000040010000e00000f430a0 ||| μ = μ) : ∀ t, execDiscard a1 s = .next t → Foot μ s₀ t := by
  intro t e
  unfold execDiscard at e
  injection e with e
  subst e
  exact foot_runCommand (fun _ _ h1 => foot_opDiscard h1 (sub em rfl)) h (sub em rfl)

theorem foot_execPing {a1} (h : Foot μ s₀ s) (em : 0x449080000000000000040010000e00000f430a0 ||| μ = μ) : ∀ t, execPing a1 s = .next t → Foot μ s₀ t := by
  intro t e
  unfold execPing at e
  injection e with e
  subst e
  exact foot_runCommand (fun _ _ h1 => foot_opPing h1) h (sub em rfl)

theorem foot_execAccordQuery {a1} (h : Foot μ s₀ s) (em : 0x449680000000080100040014000e00f01f631a0 ||| μ = μ) : ∀ t, execAccordQuery a1 s = .next t → Foot μ s₀ t := by
  intro t e
  unfold execAccordQuery at e
  injection e with e
  subst e
  exact foot_runCommand (fun _ _ h1 => foot_opAccordQuery h1 (sub em rfl)) h (sub em rfl)

theorem foot_execCommitAt {a1} (h : Foot μ s₀ s) (em : 0x449080000100000000040010000e00000f430a0 ||| μ = μ) : ∀ t, execCommitAt a1 s = .next t → Foot μ s₀ t := by
  intro t e
  unfold execCommitAt at e
  injection e with e
  subst e
  exact foot_runCommand (fun _ _ h1 => foot_opCommitAt h1 (sub em rfl)) h (sub em rfl)

theorem foot_execUpdConfirm {a1} (h : Foot μ s₀ s) (em : 0x449080100000000000040010002e80000f430a0 ||| μ = μ) : ∀ t, execUpdConfirm a1 s = .next t → Foot μ s₀ t := by
  intro t e
  unfold execUpdConfirm at e
  injection e with e
  subst e
  exact foot_runCommand (fun _ _ h1 => foot_updConfirm h1 (sub em rfl)) h (sub em rfl)

theorem foot_execTimeQuery {a1} (h : Foot μ s₀ s) (em : 0x449080000000000000040010000e00000f430a0 ||| μ = μ) : ∀ t, execTimeQuery a1 s = .next t → Foot μ s₀ t := by
  intro t e
  unfold execTimeQuery at e
  injection e with e
  subst e
  exact foot_runCommand (fun _ _ h1 => foot_opTimeQuery h1) h (sub em rfl)

theorem foot_execStageQuery {a1} (h : Foot μ s₀ s) (em : 0x449080000000000000040010000e00000f430a0 ||| μ = μ) : ∀ t, execStageQuery a1 s = .next t → Foot μ s₀ t := by
  intro t e
  unfold execStageQuery at e
  injection e with e
  subst e
  exact foot_runCommand (fun _ _ h1 => foot_opStageQuery h1) h (sub em rfl)

theorem foot_execStage {a1} (h : Foot μ s₀ s) (em : 0x449080000000000000040010000e00000f430a0 ||| μ = μ) : ∀ t, execStage a1 s = .next t → Foot μ s₀ t := by
  intro t e
  unfold execStage at e
  injection e with e
  subst e
  exact foot_runCommand (fun _ _ h1 => foot_opStage h1 (sub em rfl)) h (sub em rfl)

theorem foot_execUpdAbort {a1} (h : Foot μ s₀ s) (em : 0xc0000449080000000000000040010000e80000f430a0 ||| μ = μ) : ∀ t, execUpdAbort a1 s = .next t → Foot μ s₀ t := by
  intro t e
  unfold execUpdAbort at e
  injection e with e
  subst e
  exact foot_runCommand (fun _ _ h1 => foot_updAbort h1 (sub em rfl)) h (sub em rfl)

theorem foot_execRedStatus {a1} (h : Foot μ s₀ s) (em : 0x449080000000000000040010000e00000f430a0 ||| μ = μ) : ∀ t, execRedStatus a1 s = .next t → Foot μ s₀ t := by
  intro t e
  unfold execRedStatus at e
  injection e with e
  subst e
  exact foot_runCommand (fun _ _ h1 => foot_opRedStatus h1) h (sub em rfl)

theorem foot_execEvtConfig {a1} (h : Foot μ s₀ s) (em : 0x4111c3e74f0818bdbfffe0ecf8edffe2fde6e001fffffe ||| μ = μ) : ∀ t, execEvtConfig a1 s = .next t → Foot μ s₀ t := by
  intro t e
  unfold execEvtConfig at e
  injection e with e
  subst e
  exact foot_runCommand (fun _ _ h1 => foot_opEvtConfig h1 (sub em rfl)) h (sub em rfl)

theorem foot_execAccordLoad {a1} (h : Foot μ s₀ s) (em : 0x4111c3e74f0818bdbfffe0ecf8edffe2fde6e001fffffe ||| μ = μ) : ∀ t, execAccordLoad a1 s = .next t → Foot μ s₀ t := by
  intro t e
  unfold execAccordLoad at e
  injection e with e
  subst e
  exact foot_runCommand (fun _ _ h1 => foot_opAccordLoad h1 (sub em rfl)) h (sub em rfl)

theorem foot_localBlockWrite {a1} (h : Foot μ s₀ s) (em : 0x4111c3e7470018bdbfffe0ecf8edffe2fde6e001fffffe ||| μ = μ) : Foot μ s₀ (localBlockWrite a1 s).2 := by
  unfold localBlockWrite
  refine Foot.iteSnd (foot_answer (foot_raise h (sub em rfl))) ?_
  · extract_lets -merge -useContext +onlyGivenNames s1
    have h1 : Foot μ s₀ s1 := foot_when (fun _ h1 => foot_setFlag h1 (fun i hi => .inr ⟨47, bit em rfl, i, hi, rfl⟩)) h
    clear_value s1
    exact foot_opBlockWrite h1 (sub em rfl)

theorem foot_execTableLoad {a1} (h : Foot μ s₀ s) (em : 0x4111c3e74f0818bdbfffe0ecf8edffe2fde6e001fffffe ||| μ = μ) : ∀ t, execTableLoad a1 s = .next t → Foot μ s₀ t := by
  intro t e
  unfold execTableLoad at e
  injection e with e
  subst e
  exact foot_runCommand (fun _ _ h1 => foot_opTableLoad h1 (sub em rfl)) h (sub em rfl)

theorem foot_afterRegisters {a1 a2} (h : Foot μ s₀ s) (em : 0x4111c3e7476018bdbfffe0fcf8edffe2fde6ef01fffffe ||| μ = μ) : Foot μ s₀ (afterRegisters a1 a2 s) := by
  unfold afterRegisters
  exact Foot.ite (foot_completeWaits h (sub em rfl)) h

theorem foot_execWrite {a1} (h : Foot μ s₀ s) (em : 0x4111c3e74f6818bdbfffe0fcf8edffe2fde6ef01fffffe ||| μ = μ) : ∀ t, execWrite a1 s = .next t → Foot μ s₀ t := by
  intro t e
  unfold execWrite at e
  injection e with e
  subst e
  exact foot_runCommandThen (fun _ _ h1 => foot_opWrite h1 (sub em rfl)) (fun _ _ _ h1 => foot_afterRegisters h1 (sub em rfl)) h (sub em rfl)

theorem foot_execBlockWrite {a1} (h : Foot μ s₀ s) (em : 0x4111c3e74f6818bdbfffe0fcf8edffe2fde6ef01fffffe ||| μ = μ) : ∀ t, execBlockWrite a1 s = .next t → Foot μ s₀ t := by
  intro t e
  unfold execBlockWrite at e
  injection e with e
  subst e
  exact foot_runCommandThen (fun _ _ h1 => foot_localBlockWrite h1 (sub em rfl)) (fun _ _ _ h1 => foot_afterRegisters h1 (sub em rfl)) h (sub em rfl)

theorem foot_execModify {a1} (h : Foot μ s₀ s) (em : 0x4111c3e74f6818bdbfffe0fcf8edffe2fde6ef01fffffe ||| μ = μ) : ∀ t, execModify a1 s = .next t → Foot μ s₀ t := by
  intro t e
  unfold execModify at e
  injection e with e
  subst e
  exact foot_runCommandThen (fun _ _ h1 => foot_opModify h1 (sub em rfl)) (fun _ _ _ h1 => foot_afterRegisters h1 (sub em rfl)) h (sub em rfl)

end Sys2Proof.Machine
end

