-- ==== Sys2Proof/Laws/Foot10.lean ====
section
/-! SUPPORT. The relation Foot holds of each operation of Machine/: Frames, RegisterRows. -/

namespace Sys2Proof.Machine

variable {μ : Nat} {s₀ s t : State}

/-! ### Machine/Frames.lean -/

theorem foot_fetchFlacon {a1 a2} (h : Foot μ s₀ s) (em : 0x80000000000000000000020000 ||| μ = μ) : Foot μ s₀ (fetchFlacon a1 a2 s) := by
  unfold fetchFlacon
  exact Foot.ite (foot_portTraffic h (sub em rfl)) (foot_forEach (fun _ _ h4 => foot_portTraffic h4 (sub em rfl)) (foot_portTraffic h (sub em rfl)))

theorem foot_fetchFrame {a1 a2} (h : Foot μ s₀ s) (em : 0x80000000000000000000020000 ||| μ = μ) : Foot μ s₀ (fetchFrame a1 a2 s) := by
  unfold fetchFrame
  extract_lets -merge -useContext +onlyGivenNames x1
  clear_value x1
  extract_lets -merge -useContext +onlyGivenNames s2
  have h2 : Foot μ s₀ s2 := foot_forEach (fun _ _ h2 => foot_fetchFlacon h2 (sub em rfl)) h
  clear_value s2
  extract_lets -merge -useContext +onlyGivenNames s3
  have h3 : Foot μ s₀ s3 := foot_forEach (fun _ _ h3 => foot_fetchFlacon h3 (sub em rfl)) h2
  clear_value s3
  split
  · split
    · exact foot_portTraffic h3 (sub em rfl)
  · exact h3

theorem foot_journalLatch {a1} (h : Foot μ s₀ s) (em : 0x8000000000000000000000000000000002080 ||| μ = μ) : Foot μ s₀ (journalLatch a1 s) := by
  unfold journalLatch
  exact Foot.ite h (foot_journal h (sub em rfl))

theorem foot_latchFlows {a1} {l : List ViewLatch} (h : Foot μ s₀ s) (em : 0x41000000000000000000014100e00000004030 ||| μ = μ) : Foot μ s₀ (latchFlows a1 l s).2 := by
  induction l generalizing s with
  | nil => exact h
  | cons x t ih =>
    refine ih (Foot.foldlSnd (fun q l k => ?_) h)
    dsimp only
    split
    · exact foot_latchLayer k (sub em rfl)
    · exact k

theorem foot_completeLatch {a1 a2} (h : Foot μ s₀ s) (em : 0x41000040400080000000014100e00000224030 ||| μ = μ) : Foot μ s₀ (completeLatch a1 a2 s) := by
  unfold completeLatch
  extract_lets -merge -useContext +onlyGivenNames x1
  clear_value x1
  extract_lets -merge -useContext +onlyGivenNames x2
  clear_value x2
  extract_lets -merge -useContext +onlyGivenNames s3
  have h3 : Foot μ s₀ s3 := foot_setRed h (sub em rfl)
  clear_value s3
  extract_lets -merge -useContext +onlyGivenNames s4
  have h4 : Foot μ s₀ s4 := by
    unfold s4
    split
    · exact h3
    · split
      · extract_lets -merge -useContext +onlyGivenNames _ s6
        have h6 : Foot μ s₀ s6 := Foot.comp (Foot.ofSnd (foot_latchFlows h3 (sub em rfl)) ‹_›) (bit em rfl)
        clear_value s6
        exact foot_makePlans (foot_fetchFrame h6 (sub em rfl)) (sub em rfl)
  clear_value s4
  extract_lets -merge -useContext +onlyGivenNames s5
  have h5 : Foot μ s₀ s5 := foot_setRed h4 (sub em rfl)
  clear_value s5
  exact Foot.ite (foot_holdHeart h5 (sub em rfl)) h5

theorem foot_execLatchEntryTimeout (h : Foot μ s₀ s) (em : 0x41100040400080200000014100e00000224130 ||| μ = μ) : ∀ t, execLatchEntryTimeout s = .next t → Foot μ s₀ t := by
  intro t e
  unfold execLatchEntryTimeout at e
  injection e with e
  subst e
  split
  · exact foot_completeLatch (foot_runTo h (sub em rfl)) (sub em rfl)
  · exact h

theorem foot_composeLatch {a1 a2} (h : Foot μ s₀ s) (em : 0x20000049000040500080000042014100e0100026e0b0 ||| μ = μ) : Foot μ s₀ (composeLatch a1 a2 s) := by
  unfold composeLatch
  extract_lets -merge -useContext +onlyGivenNames x1
  clear_value x1
  extract_lets -merge -useContext +onlyGivenNames s2
  have h2 : Foot μ s₀ s2 := Foot.ite (foot_setRed h (sub em rfl)) h
  clear_value s2
  split
  · extract_lets -merge -useContext +onlyGivenNames s4
    have h4 : Foot μ s₀ s4 := foot_fetchFrame (foot_holdClusters (foot_addFrame (Foot.ofSnd (foot_latchAccords h2 (sub em rfl)) ‹_›) (sub em rfl)) (sub em rfl)) (sub em rfl)
    clear_value s4
    extract_lets -merge -useContext +onlyGivenNames s5
    have h5 : Foot μ s₀ s5 := foot_forEach (fun _ _ h5 => foot_demand h5 (sub em rfl)) h4
    clear_value s5
    split
    · exact foot_completeLatch h5 (sub em rfl)
    · exact foot_journalLatch h5 (sub em rfl)

theorem foot_latchAt {a1} (h : Foot μ s₀ s) (em : 0x6000200000490000405000a30480e201410de050002fe6b0 ||| μ = μ) : Foot μ s₀ (latchAt a1 s) := by
  unfold latchAt
  extract_lets -merge -useContext +onlyGivenNames s1
  have h1 : Foot μ s₀ s1 := foot_whenOn (fun _ h1 => foot_settleFences h1 (sub em rfl)) (foot_timingLatch h (sub em rfl))
  clear_value s1
  extract_lets -merge -useContext +onlyGivenNames s2
  have h2 : Foot μ s₀ s2 := Foot.ite (foot_setFlag (foot_setRed h1 (sub em rfl)) (fun i hi => .inr ⟨18, bit em rfl, i, hi, rfl⟩)) h1
  clear_value s2
  extract_lets -merge -useContext +onlyGivenNames s3
  have h3 : Foot μ s₀ s3 := foot_when (fun _ h3 => foot_checkMap (foot_latchGains h3 (sub em rfl)) (sub em rfl)) h2
  clear_value s3
  split
  · extract_lets -merge -useContext +onlyGivenNames s5
    have h5 : Foot μ s₀ s5 := foot_whenOn (fun _ h5 => foot_scanLatch h5 (sub em rfl)) (Foot.ofSnd (Foot.iteSnd (foot_latchDrive h3 (sub em rfl)) h3) ‹_›)
    clear_value s5
    extract_lets -merge -useContext +onlyGivenNames s6
    have h6 : Foot μ s₀ s6 := foot_whenOn (fun _ h6 => foot_composeLatch h6 (sub em rfl)) h5
    clear_value s6
    exact foot_when (fun _ h7 => foot_whenOn (fun _ h8 => foot_calSlice h8 (sub em rfl)) h7) h6

theorem foot_latchPoint (h : Foot μ s₀ s) (em : 0x6000200000491000405000a32480e201410de050002fe7b0 ||| μ = μ) : Foot μ s₀ (latchPoint s) := by
  unfold latchPoint
  extract_lets -merge -useContext +onlyGivenNames x1
  clear_value x1
  refine Foot.ite h ?_
  · extract_lets -merge -useContext +onlyGivenNames s2
    have h2 : Foot μ s₀ s2 := foot_runTo h (sub em rfl)
    clear_value s2
    exact Foot.ite (foot_senderRate h2 (sub em rfl)) (foot_latchAt (foot_setWt h2 (sub em rfl)) (sub em rfl))

theorem foot_execLatchPoint (h : Foot μ s₀ s) (em : 0x6000200000491000405000a32480e201410de050002fe7b0 ||| μ = μ) : ∀ t, execLatchPoint s = .next t → Foot μ s₀ t := by
  intro t e
  unfold execLatchPoint at e
  injection e with e
  subst e
  exact foot_whenOn (fun _ h1 => foot_latchPoint h1 (sub em rfl)) h

theorem foot_boundaryAt {a1} (h : Foot μ s₀ s) (em : 0x4113f3e74f6038bdbfffe1fcf8edffe2fde6ef01fffffe ||| μ = μ) : Foot μ s₀ (boundaryAt a1 s) := by
  unfold boundaryAt
  extract_lets -merge -useContext +onlyGivenNames x1
  clear_value x1
  extract_lets -merge -useContext +onlyGivenNames s2
  have h2 : Foot μ s₀ s2 := foot_timingBoundary h (sub em rfl)
  clear_value s2
  extract_lets -merge -useContext +onlyGivenNames s3
  have h3 : Foot μ s₀ s3 := foot_whenOn (fun _ h3 => foot_applyStages h3 (sub em rfl)) h2
  clear_value s3
  extract_lets -merge -useContext +onlyGivenNames s4
  have h4 : Foot μ s₀ s4 := foot_whenOn (fun _ h4 => foot_releaseHeld (foot_swapBoundary h4 (sub em rfl)) (sub em rfl)) h3
  clear_value s4
  extract_lets -merge -useContext +onlyGivenNames s5
  have h5 : Foot μ s₀ s5 := foot_whenOn (fun _ h5 => foot_calBoundary h5 (sub em rfl)) h4
  clear_value s5
  extract_lets -merge -useContext +onlyGivenNames s6
  have h6 : Foot μ s₀ s6 := foot_whenOn (fun _ h6 => foot_settleFences h6 (sub em rfl)) (foot_oneSidedCheck h5 (sub em rfl))
  clear_value s6
  exact foot_when (fun _ h7 => foot_whenOn (fun _ h8 => foot_judgeNow (foot_resendScan h8 (sub em rfl)) (sub em rfl)) h7) h6

theorem foot_frameBoundary (h : Foot μ s₀ s) (em : 0x4113f3e74f7038bdbfffe1fcf8edffe2fde6ef01fffffe ||| μ = μ) : Foot μ s₀ (frameBoundary s) := by
  unfold frameBoundary
  extract_lets -merge -useContext +onlyGivenNames s1
  have h1 : Foot μ s₀ s1 := Foot.ite h (foot_runTo h (sub em rfl))
  clear_value s1
  exact foot_boundaryAt (foot_setWt h1 (sub em rfl)) (sub em rfl)

theorem foot_execWallFrameBoundary (h : Foot μ s₀ s) (em : 0x4113f3e74f7038bdbfffe1fcf8edffe2fde6ef01fffffe ||| μ = μ) : ∀ t, execWallFrameBoundary s = .next t → Foot μ s₀ t := by
  intro t e
  unfold execWallFrameBoundary at e
  injection e with e
  subst e
  exact foot_whenOn (fun _ h1 => foot_frameBoundary h1 (sub em rfl)) h

theorem foot_execJournalReceive (h : Foot μ s₀ s) (em : 0x7d11c3e74f0018fdffffe0ecf8edffe3fde6e001fffffe ||| μ = μ) : ∀ t, execJournalReceive s = .next t → Foot μ s₀ t := by
  intro t e
  unfold execJournalReceive at e
  injection e with e
  subst e
  refine foot_whenOn ?_ h
  · intro _ h1
    split
    · refine Foot.ite ?_ (Foot.ofSnd (foot_journalTake h1 (sub em rfl)) ‹_›)
      · split
        · exact foot_completeLatch (Foot.ofSnd (foot_journalTake h1 (sub em rfl)) ‹_›) (sub em rfl)
        · exact Foot.ofSnd (foot_journalTake h1 (sub em rfl)) ‹_›

/-! ### Machine/RegisterRows.lean -/

theorem foot_portRequest {a1 a2 a3 a4 a5} (h : Foot μ s₀ s) (em : 0x1800041000000000080000040010000e00000460026 ||| μ = μ) : Foot μ s₀ (portRequest a1 a2 a3 a4 a5 s) := by
  unfold portRequest
  split
  · exact foot_dramRequest h (sub em rfl)
  · exact h
  · exact foot_demand (foot_when (fun _ h3 => foot_stallRequest h3 (sub em rfl)) h) (sub em rfl)

theorem foot_execDramRequest {a1 a2 a3 a4} (h : Foot μ s₀ s) (em : 0x1800041000000000080000040010000e00000460026 ||| μ = μ) : ∀ t, execDramRequest a1 a2 a3 a4 s = .next t → Foot μ s₀ t := by
  intro t e
  unfold execDramRequest at e
  injection e with e
  subst e
  exact foot_portRequest h (sub em rfl)

theorem foot_frameIn {a1 a2} (h : Foot μ s₀ s) (em : 0x410800000000000000018120c0e60000c030aa ||| μ = μ) : Foot μ s₀ (frameIn a1 a2 s) := by
  unfold frameIn
  split
  · exact foot_intake (Foot.ofFst (foot_ethReceive h (sub em rfl)) ‹_›) (sub em rfl)
  · exact Foot.ofFst (foot_ethReceive h (sub em rfl)) ‹_›

theorem foot_execEthFrameReceive {a1 a2} (h : Foot μ s₀ s) (em : 0x410800000000000000018120c0e60000c030aa ||| μ = μ) : ∀ t, execEthFrameReceive a1 a2 s = .next t → Foot μ s₀ t := by
  intro t e
  unfold execEthFrameReceive at e
  injection e with e
  subst e
  exact foot_whenOn (fun _ h1 => foot_frameIn h1 (sub em rfl)) h

theorem foot_execTimeShadowRead {a1} (h : Foot μ s₀ s) (em : 0x4111c3e7476018bdbfffe0fcf8edffe2fde6ef01fffffe ||| μ = μ) : ∀ t, execTimeShadowRead a1 s = .next t → Foot μ s₀ t := by
  intro t e
  unfold execTimeShadowRead at e
  injection e with e
  subst e
  exact foot_masterRead h (sub em rfl)

theorem foot_execRcRead {a1 a2} (h : Foot μ s₀ s) (em : 0x4111c3e7476018bdbfffe0fcf8edffe2fde6ef01fffffe ||| μ = μ) : ∀ t, execRcRead a1 a2 s = .next t → Foot μ s₀ t := by
  intro t e
  unfold execRcRead at e
  injection e with e
  subst e
  exact Foot.ite (foot_masterRead h (sub em rfl)) h

theorem foot_execDomainReadyTimeout (h : Foot μ s₀ s) (em : 0x4111c3e7477018bdbfffe0fcf8edffe2fde6ef01fffffe ||| μ = μ) : ∀ t, execDomainReadyTimeout s = .next t → Foot μ s₀ t := by
  intro t e
  unfold execDomainReadyTimeout at e
  injection e with e
  subst e
  exact foot_completeWaits (foot_restartLate h (sub em rfl)) (sub em rfl)

theorem foot_writeInst {a1 a2 a3 a4 a5} (h : Foot μ s₀ s) (em : 0x4111c3e7476018bdbfffe0fcf8edffe2fde6ef01fffffe ||| μ = μ) : Foot μ s₀ (writeInst a1 a2 a3 a4 a5 s) := by
  unfold writeInst
  exact Foot.ite (foot_masterWrite h (sub em rfl)) h

theorem foot_execStoreDebugRead {a1 a2} (h : Foot μ s₀ s) (em : 0x4111c3e7476018bdbfffe0fcf8edffe2fde6ef01fffffe ||| μ = μ) : ∀ t, execStoreDebugRead a1 a2 s = .next t → Foot μ s₀ t := by
  intro t e
  unfold execStoreDebugRead at e
  injection e with e
  subst e
  exact Foot.ite (foot_masterRead h (sub em rfl)) h

theorem foot_execTfRegen {a1 a2} (h : Foot μ s₀ s) (em : 0x4111c3e7476018bdbfffe0fcf8edffe2fde6ef01fffffe ||| μ = μ) : ∀ t, execTfRegen a1 a2 s = .next t → Foot μ s₀ t := by
  intro t e
  unfold execTfRegen at e
  injection e with e
  subst e
  exact foot_writeInst h (sub em rfl)

theorem foot_execLdCfgResend {a1 a2 a3} (h : Foot μ s₀ s) (em : 0x4111c3e7476018bdbfffe0fcf8edffe2fde6ef01fffffe ||| μ = μ) : ∀ t, execLdCfgResend a1 a2 a3 s = .next t → Foot μ s₀ t := by
  intro t e
  unfold execLdCfgResend at e
  injection e with e
  subst e
  exact foot_writeInst h (sub em rfl)

theorem foot_execTimeAdjustGo {a1 a2} (h : Foot μ s₀ s) (em : 0x4111c3e7476018bdbfffe0fcf8edffe2fde6ef01fffffe ||| μ = μ) : ∀ t, execTimeAdjustGo a1 a2 s = .next t → Foot μ s₀ t := by
  intro t e
  unfold execTimeAdjustGo at e
  injection e with e
  subst e
  exact foot_writeInst h (sub em rfl)

theorem foot_alignedWrite {a1 a2 a3 a4} (h : Foot μ s₀ s) (em : 0x4111c3e7476018bdbfffe0fcf8edffe2fde6ef01fffffe ||| μ = μ) : Foot μ s₀ (alignedWrite a1 a2 a3 a4 s) := by
  unfold alignedWrite
  refine Foot.ite ?_ h
  · extract_lets -merge -useContext +onlyGivenNames s1
    have h1 : Foot μ s₀ s1 := foot_masterWrite h (sub em rfl)
    clear_value s1
    exact Foot.ite (foot_completeWaits h1 (sub em rfl)) h1

theorem foot_execEvtOutArm {a1 a2 a3} (h : Foot μ s₀ s) (em : 0x4111c3e7476018bdbfffe0fcf8edffe2fde6ef01fffffe ||| μ = μ) : ∀ t, execEvtOutArm a1 a2 a3 s = .next t → Foot μ s₀ t := by
  intro t e
  unfold execEvtOutArm at e
  injection e with e
  subst e
  exact foot_writeInst h (sub em rfl)

theorem foot_domainReadyNow {a1} (h : Foot μ s₀ s) (em : 0x4111c3e7477018bfbfffe1fcf8edffe2ffefef01fffffe ||| μ = μ) : Foot μ s₀ (domainReadyNow a1 s) := by
  unfold domainReadyNow
  extract_lets -merge -useContext +onlyGivenNames s1
  have h1 : Foot μ s₀ s1 := foot_completeWaits (foot_restartReady h (sub em rfl)) (sub em rfl)
  clear_value s1
  exact Foot.ite h1 (foot_showDram (foot_admitStalled (foot_dramWake h1 (sub em rfl)) (sub em rfl)) (sub em rfl))

theorem foot_execTimeSample {a1 a2} (h : Foot μ s₀ s) (em : 0x4111c3e7476018bdbfffe0fcf8edffe2fde6ef01fffffe ||| μ = μ) : ∀ t, execTimeSample a1 a2 s = .next t → Foot μ s₀ t := by
  intro t e
  unfold execTimeSample at e
  injection e with e
  subst e
  exact foot_writeInst h (sub em rfl)

theorem foot_execLlDiagGo {a1 a2} (h : Foot μ s₀ s) (em : 0x4111c3e7476018bdbfffe0fcf8edffe2fde6ef01fffffe ||| μ = μ) : ∀ t, execLlDiagGo a1 a2 s = .next t → Foot μ s₀ t := by
  intro t e
  unfold execLlDiagGo at e
  injection e with e
  subst e
  exact foot_writeInst h (sub em rfl)

theorem foot_writeField {a1 a2 a3 a4} (h : Foot μ s₀ s) (em : 0x4111c3e7476018bdbfffe0fcf8edffe2fde6ef01fffffe ||| μ = μ) : Foot μ s₀ (writeField a1 a2 a3 a4 s) := by
  unfold writeField
  exact foot_writeInst h (sub em rfl)

theorem foot_execLdResume {a1} (h : Foot μ s₀ s) (em : 0x4111c3e7476018bdbfffe0fcf8edffe2fde6ef01fffffe ||| μ = μ) : ∀ t, execLdResume a1 s = .next t → Foot μ s₀ t := by
  intro t e
  unfold execLdResume at e
  injection e with e
  subst e
  exact foot_writeField h (sub em rfl)

theorem foot_execPortEnableWrite {a1 a2 a3} (h : Foot μ s₀ s) (em : 0x4111c3e7476018bdbfffe0fcf8edffe2fde6ef01fffffe ||| μ = μ) : ∀ t, execPortEnableWrite a1 a2 a3 s = .next t → Foot μ s₀ t := by
  intro t e
  unfold execPortEnableWrite at e
  injection e with e
  subst e
  exact foot_writeField h (sub em rfl)

theorem foot_execGlbBoardCommit {a1 a2} (h : Foot μ s₀ s) (em : 0x4111c3e7476018bdbfffe0fcf8edffe2fde6ef01fffffe ||| μ = μ) : ∀ t, execGlbBoardCommit a1 a2 s = .next t → Foot μ s₀ t := by
  intro t e
  unfold execGlbBoardCommit at e
  injection e with e
  subst e
  exact foot_writeInst h (sub em rfl)

theorem foot_execHkWdogKick {a1} (h : Foot μ s₀ s) (em : 0x4111c3e7476018bdbfffe0fcf8edffe2fde6ef01fffffe ||| μ = μ) : ∀ t, execHkWdogKick a1 s = .next t → Foot μ s₀ t := by
  intro t e
  unfold execHkWdogKick at e
  injection e with e
  subst e
  exact foot_writeField h (sub em rfl)

theorem foot_execWtFrameRead {a1} (h : Foot μ s₀ s) (em : 0x4111c3e7476018bdbfffe0fcf8edffe2fde6ef01fffffe ||| μ = μ) : ∀ t, execWtFrameRead a1 s = .next t → Foot μ s₀ t := by
  intro t e
  unfold execWtFrameRead at e
  injection e with e
  subst e
  exact foot_masterRead h (sub em rfl)

theorem foot_execPktCntClear {a1} (h : Foot μ s₀ s) (em : 0x4111c3e7476018bdbfffe0fcf8edffe2fde6ef01fffffe ||| μ = μ) : ∀ t, execPktCntClear a1 s = .next t → Foot μ s₀ t := by
  intro t e
  unfold execPktCntClear at e
  injection e with e
  subst e
  exact foot_writeField h (sub em rfl)

theorem foot_execPortWidthWrite {a1 a2 a3} (h : Foot μ s₀ s) (em : 0x4111c3e7476018bdbfffe0fcf8edffe2fde6ef01fffffe ||| μ = μ) : ∀ t, execPortWidthWrite a1 a2 a3 s = .next t → Foot μ s₀ t := by
  intro t e
  unfold execPortWidthWrite at e
  injection e with e
  subst e
  exact foot_writeField h (sub em rfl)

theorem foot_execLlEnable {a1 a2} (h : Foot μ s₀ s) (em : 0x4111c3e7476018bdbfffe0fcf8edffe2fde6ef01fffffe ||| μ = μ) : ∀ t, execLlEnable a1 a2 s = .next t → Foot μ s₀ t := by
  intro t e
  unfold execLlEnable at e
  injection e with e
  subst e
  exact foot_writeField h (sub em rfl)

theorem foot_readInst {a1 a2 a3} (h : Foot μ s₀ s) (em : 0x4111c3e7476018bdbfffe0fcf8edffe2fde6ef01fffffe ||| μ = μ) : Foot μ s₀ (readInst a1 a2 a3 s) := by
  unfold readInst
  exact Foot.ite (foot_masterRead h (sub em rfl)) h

theorem foot_execRegisterWrite {a1 a2 a3 a4} (h : Foot μ s₀ s) (em : 0x4111c3e7476018bdbfffe0fcf8edffe2fde6ef01fffffe ||| μ = μ) : ∀ t, execRegisterWrite a1 a2 a3 a4 s = .next t → Foot μ s₀ t := by
  intro t e
  unfold execRegisterWrite at e
  injection e with e
  subst e
  exact foot_alignedWrite h (sub em rfl)

theorem foot_slotOf {a1} (h : Foot μ s₀ s) (em : 0x4111c3e747e018bdbfffe0fcf8edffe2fde6ef01fffffe ||| μ = μ) : Foot μ s₀ (slotOf a1 s) := by
  unfold slotOf
  extract_lets -merge -useContext +onlyGivenNames s1
  have h1 : Foot μ s₀ s1 := foot_commandSlot h (sub em rfl)
  clear_value s1
  exact Foot.ite h1 (foot_completeWaits h1 (sub em rfl))

theorem foot_execLlRestart {a1} (h : Foot μ s₀ s) (em : 0x4111c3e7476018bdbfffe0fcf8edffe2fde6ef01fffffe ||| μ = μ) : ∀ t, execLlRestart a1 s = .next t → Foot μ s₀ t := by
  intro t e
  unfold execLlRestart at e
  injection e with e
  subst e
  exact foot_writeField h (sub em rfl)

theorem foot_execEvtAck {a1} (h : Foot μ s₀ s) (em : 0x4111c3e7476018bdbfffe0fcf8edffe2fde6ef01fffffe ||| μ = μ) : ∀ t, execEvtAck a1 s = .next t → Foot μ s₀ t := by
  intro t e
  unfold execEvtAck at e
  injection e with e
  subst e
  exact foot_writeField h (sub em rfl)

theorem foot_execLaneRetrain {a1 a2} (h : Foot μ s₀ s) (em : 0x4111c3e7476018bdbfffe0fcf8edffe2fde6ef01fffffe ||| μ = μ) : ∀ t, execLaneRetrain a1 a2 s = .next t → Foot μ s₀ t := by
  intro t e
  unfold execLaneRetrain at e
  injection e with e
  subst e
  exact foot_writeField h (sub em rfl)

theorem foot_execPipeCntClear {a1} (h : Foot μ s₀ s) (em : 0x4111c3e7476018bdbfffe0fcf8edffe2fde6ef01fffffe ||| μ = μ) : ∀ t, execPipeCntClear a1 s = .next t → Foot μ s₀ t := by
  intro t e
  unfold execPipeCntClear at e
  injection e with e
  subst e
  exact foot_writeField h (sub em rfl)

theorem foot_execWtPendArm {a1 a2} (h : Foot μ s₀ s) (em : 0x4111c3e7476018bdbfffe0fcf8edffe2fde6ef01fffffe ||| μ = μ) : ∀ t, execWtPendArm a1 a2 s = .next t → Foot μ s₀ t := by
  intro t e
  unfold execWtPendArm at e
  injection e with e
  subst e
  exact foot_writeInst h (sub em rfl)

theorem foot_execOtpLockProgram {a1 a2} (h : Foot μ s₀ s) (em : 0x4111c3e7476018bdbfffe0fcf8edffe2fde6ef01fffffe ||| μ = μ) : ∀ t, execOtpLockProgram a1 a2 s = .next t → Foot μ s₀ t := by
  intro t e
  unfold execOtpLockProgram at e
  injection e with e
  subst e
  exact foot_writeInst h (sub em rfl)

theorem foot_execRedEnable {a1 a2} (h : Foot μ s₀ s) (em : 0x4111c3e7476018bdbfffe0fcf8edffe2fde6ef01fffffe ||| μ = μ) : ∀ t, execRedEnable a1 a2 s = .next t → Foot μ s₀ t := by
  intro t e
  unfold execRedEnable at e
  injection e with e
  subst e
  exact foot_writeInst h (sub em rfl)

theorem foot_execEvtStatClear {a1 a2 a3} (h : Foot μ s₀ s) (em : 0x4111c3e7476018bdbfffe0fcf8edffe2fde6ef01fffffe ||| μ = μ) : ∀ t, execEvtStatClear a1 a2 a3 s = .next t → Foot μ s₀ t := by
  intro t e
  unfold execEvtStatClear at e
  injection e with e
  subst e
  exact foot_writeInst h (sub em rfl)

theorem foot_execTimeStep {a1} (h : Foot μ s₀ s) (em : 0x4111c3e7476018bdbfffe0fcf8edffe2fde6ef01fffffe ||| μ = μ) : ∀ t, execTimeStep a1 s = .next t → Foot μ s₀ t := by
  intro t e
  unfold execTimeStep at e
  injection e with e
  subst e
  exact foot_writeField h (sub em rfl)

theorem foot_execPwrTargetWrite {a1 a2} (h : Foot μ s₀ s) (em : 0x4111c3e7476018bdbfffe0fcf8edffe2fde6ef01fffffe ||| μ = μ) : ∀ t, execPwrTargetWrite a1 a2 s = .next t → Foot μ s₀ t := by
  intro t e
  unfold execPwrTargetWrite at e
  injection e with e
  subst e
  exact foot_writeField h (sub em rfl)

theorem foot_execTimeIncrWrite {a1 a2} (h : Foot μ s₀ s) (em : 0x4111c3e7476018bdbfffe0fcf8edffe2fde6ef01fffffe ||| μ = μ) : ∀ t, execTimeIncrWrite a1 a2 s = .next t → Foot μ s₀ t := by
  intro t e
  unfold execTimeIncrWrite at e
  injection e with e
  subst e
  exact foot_writeInst h (sub em rfl)

theorem foot_execDramEnable {a1 a2} (h : Foot μ s₀ s) (em : 0x4111c3e7476018bdbfffe0fcf8edffe2fde6ef01fffffe ||| μ = μ) : ∀ t, execDramEnable a1 a2 s = .next t → Foot μ s₀ t := by
  intro t e
  unfold execDramEnable at e
  injection e with e
  subst e
  exact foot_writeInst h (sub em rfl)

theorem foot_execLaneCntClear {a1 a2} (h : Foot μ s₀ s) (em : 0x4111c3e7476018bdbfffe0fcf8edffe2fde6ef01fffffe ||| μ = μ) : ∀ t, execLaneCntClear a1 a2 s = .next t → Foot μ s₀ t := by
  intro t e
  unfold execLaneCntClear at e
  injection e with e
  subst e
  exact foot_writeField h (sub em rfl)

theorem foot_flowWrite {a1 a2 a3 a4} (h : Foot μ s₀ s) (em : 0x4111c3e7476018bdbfffe0fcf8edffe2fde6ef01fffffe ||| μ = μ) : Foot μ s₀ (flowWrite a1 a2 a3 a4 s) := by
  unfold flowWrite
  split
  · exact foot_writeInst h (sub em rfl)
  · exact h

theorem foot_execLdCntClear {a1} (h : Foot μ s₀ s) (em : 0x4111c3e7476018bdbfffe0fcf8edffe2fde6ef01fffffe ||| μ = μ) : ∀ t, execLdCntClear a1 s = .next t → Foot μ s₀ t := by
  intro t e
  unfold execLdCntClear at e
  injection e with e
  subst e
  exact foot_writeField h (sub em rfl)

theorem foot_execEthCntClear {a1} (h : Foot μ s₀ s) (em : 0x4111c3e7476018bdbfffe0fcf8edffe2fde6ef01fffffe ||| μ = μ) : ∀ t, execEthCntClear a1 s = .next t → Foot μ s₀ t := by
  intro t e
  unfold execEthCntClear at e
  injection e with e
  subst e
  exact foot_writeField h (sub em rfl)

theorem foot_execFlowCntClear {a1 a2} (h : Foot μ s₀ s) (em : 0x4111c3e7476018bdbfffe0fcf8edffe2fde6ef01fffffe ||| μ = μ) : ∀ t, execFlowCntClear a1 a2 s = .next t → Foot μ s₀ t := by
  intro t e
  unfold execFlowCntClear at e
  injection e with e
  subst e
  exact foot_writeField h (sub em rfl)

theorem foot_execEvtTestGo {a1 a2} (h : Foot μ s₀ s) (em : 0x4111c3e7476018bdbfffe0fcf8edffe2fde6ef01fffffe ||| μ = μ) : ∀ t, execEvtTestGo a1 a2 s = .next t → Foot μ s₀ t := by
  intro t e
  unfold execEvtTestGo at e
  injection e with e
  subst e
  exact foot_writeInst h (sub em rfl)

theorem foot_execEthModeWrite {a1 a2} (h : Foot μ s₀ s) (em : 0x4111c3e7476018bdbfffe0fcf8edffe2fde6ef01fffffe ||| μ = μ) : ∀ t, execEthModeWrite a1 a2 s = .next t → Foot μ s₀ t := by
  intro t e
  unfold execEthModeWrite at e
  injection e with e
  subst e
  exact foot_writeField h (sub em rfl)

theorem foot_execEvtInPop {a1 a2} (h : Foot μ s₀ s) (em : 0x4111c3e7476018bdbfffe0fcf8edffe2fde6ef01fffffe ||| μ = μ) : ∀ t, execEvtInPop a1 a2 s = .next t → Foot μ s₀ t := by
  intro t e
  unfold execEvtInPop at e
  injection e with e
  subst e
  exact foot_readInst h (sub em rfl)

theorem foot_execEidleWithdraw {a1 a2} (h : Foot μ s₀ s) (em : 0x4111c3e7476018bdbfffe0fcf8edffe2fde6ef01fffffe ||| μ = μ) : ∀ t, execEidleWithdraw a1 a2 s = .next t → Foot μ s₀ t := by
  intro t e
  unfold execEidleWithdraw at e
  injection e with e
  subst e
  exact foot_writeField h (sub em rfl)

theorem foot_execTopoEnumStart {a1 a2 a3} (h : Foot μ s₀ s) (em : 0x4111c3e7476018bdbfffe0fcf8edffe2fde6ef01fffffe ||| μ = μ) : ∀ t, execTopoEnumStart a1 a2 a3 s = .next t → Foot μ s₀ t := by
  intro t e
  unfold execTopoEnumStart at e
  injection e with e
  subst e
  exact foot_writeInst h (sub em rfl)

theorem foot_slotWrite {a1 a2 a3 a4 a5} (h : Foot μ s₀ s) (em : 0x4111c3e7476018bdbfffe0fcf8edffe2fde6ef01fffffe ||| μ = μ) : Foot μ s₀ (slotWrite a1 a2 a3 a4 a5 s) := by
  unfold slotWrite
  exact Foot.ite (foot_writeInst h (sub em rfl)) h

theorem foot_execCalStart {a1 a2} (h : Foot μ s₀ s) (em : 0x4111c3e7476018bdbfffe0fcf8edffe2fde6ef01fffffe ||| μ = μ) : ∀ t, execCalStart a1 a2 s = .next t → Foot μ s₀ t := by
  intro t e
  unfold execCalStart at e
  injection e with e
  subst e
  exact foot_writeField h (sub em rfl)

theorem foot_execTimeLoad {a1} (h : Foot μ s₀ s) (em : 0x4111c3e7476018bdbfffe0fcf8edffe2fde6ef01fffffe ||| μ = μ) : ∀ t, execTimeLoad a1 s = .next t → Foot μ s₀ t := by
  intro t e
  unfold execTimeLoad at e
  injection e with e
  subst e
  exact foot_writeField h (sub em rfl)

theorem foot_execDomainReady {a1} (h : Foot μ s₀ s) (em : 0x4111c3e7477018bfbfffe1fcf8edffe2ffefef01fffffe ||| μ = μ) : ∀ t, execDomainReady a1 s = .next t → Foot μ s₀ t := by
  intro t e
  unfold execDomainReady at e
  injection e with e
  subst e
  exact foot_domainReadyNow h (sub em rfl)

theorem foot_execDramDisable {a1} (h : Foot μ s₀ s) (em : 0x4111c3e7476018bdbfffe0fcf8edffe2fde6ef01fffffe ||| μ = μ) : ∀ t, execDramDisable a1 s = .next t → Foot μ s₀ t := by
  intro t e
  unfold execDramDisable at e
  injection e with e
  subst e
  exact foot_writeField h (sub em rfl)

theorem foot_execEidleRequest {a1 a2} (h : Foot μ s₀ s) (em : 0x4111c3e7476018bdbfffe0fcf8edffe2fde6ef01fffffe ||| μ = μ) : ∀ t, execEidleRequest a1 a2 s = .next t → Foot μ s₀ t := by
  intro t e
  unfold execEidleRequest at e
  injection e with e
  subst e
  exact foot_writeField h (sub em rfl)

theorem foot_execCeStepWrite {a1 a2 a3} (h : Foot μ s₀ s) (em : 0x4111c3e7476018bdbfffe0fcf8edffe2fde6ef01fffffe ||| μ = μ) : ∀ t, execCeStepWrite a1 a2 a3 s = .next t → Foot μ s₀ t := by
  intro t e
  unfold execCeStepWrite at e
  injection e with e
  subst e
  exact foot_slotWrite h (sub em rfl)

theorem foot_execCeCntClear {a1} (h : Foot μ s₀ s) (em : 0x4111c3e7476018bdbfffe0fcf8edffe2fde6ef01fffffe ||| μ = μ) : ∀ t, execCeCntClear a1 s = .next t → Foot μ s₀ t := by
  intro t e
  unfold execCeCntClear at e
  injection e with e
  subst e
  exact foot_writeField h (sub em rfl)

theorem foot_execLdEnable {a1 a2} (h : Foot μ s₀ s) (em : 0x4111c3e7476018bdbfffe0fcf8edffe2fde6ef01fffffe ||| μ = μ) : ∀ t, execLdEnable a1 a2 s = .next t → Foot μ s₀ t := by
  intro t e
  unfold execLdEnable at e
  injection e with e
  subst e
  exact foot_writeField h (sub em rfl)

theorem foot_execTcompTempWrite {a1 a2} (h : Foot μ s₀ s) (em : 0x4111c3e7476018bdbfffe0fcf8edffe2fde6ef01fffffe ||| μ = μ) : ∀ t, execTcompTempWrite a1 a2 s = .next t → Foot μ s₀ t := by
  intro t e
  unfold execTcompTempWrite at e
  injection e with e
  subst e
  exact foot_writeField h (sub em rfl)

theorem foot_execDramCommandSlot {a1} (h : Foot μ s₀ s) (em : 0x4111c3e747e018bdbfffe0fcf8edffe2fde6ef01fffffe ||| μ = μ) : ∀ t, execDramCommandSlot a1 s = .next t → Foot μ s₀ t := by
  intro t e
  unfold execDramCommandSlot at e
  injection e with e
  subst e
  exact foot_slotOf h (sub em rfl)

theorem foot_execCeStateWrite {a1 a2 a3 a4} (h : Foot μ s₀ s) (em : 0x4111c3e7476018bdbfffe0fcf8edffe2fde6ef01fffffe ||| μ = μ) : ∀ t, execCeStateWrite a1 a2 a3 a4 s = .next t → Foot μ s₀ t := by
  intro t e
  unfold execCeStateWrite at e
  injection e with e
  subst e
  exact Foot.ite (foot_slotWrite h (sub em rfl)) h

theorem foot_execCeSlotDisable {a1 a2} (h : Foot μ s₀ s) (em : 0x4111c3e7476018bdbfffe0fcf8edffe2fde6ef01fffffe ||| μ = μ) : ∀ t, execCeSlotDisable a1 a2 s = .next t → Foot μ s₀ t := by
  intro t e
  unfold execCeSlotDisable at e
  injection e with e
  subst e
  exact foot_slotWrite h (sub em rfl)

theorem foot_execPdEnableWrite {a1 a2 a3} (h : Foot μ s₀ s) (em : 0x4111c3e7476018bdbfffe0fcf8edffe2fde6ef01fffffe ||| μ = μ) : ∀ t, execPdEnableWrite a1 a2 a3 s = .next t → Foot μ s₀ t := by
  intro t e
  unfold execPdEnableWrite at e
  injection e with e
  subst e
  exact foot_completeWaits (foot_writeField h (sub em rfl)) (sub em rfl)

theorem foot_execLlCntClear {a1} (h : Foot μ s₀ s) (em : 0x4111c3e7476018bdbfffe0fcf8edffe2fde6ef01fffffe ||| μ = μ) : ∀ t, execLlCntClear a1 s = .next t → Foot μ s₀ t := by
  intro t e
  unfold execLlCntClear at e
  injection e with e
  subst e
  exact foot_writeField h (sub em rfl)

theorem foot_execTopoTileWrite {a1 a2} (h : Foot μ s₀ s) (em : 0x4111c3e7476018bdbfffe0fcf8edffe2fde6ef01fffffe ||| μ = μ) : ∀ t, execTopoTileWrite a1 a2 s = .next t → Foot μ s₀ t := by
  intro t e
  unfold execTopoTileWrite at e
  injection e with e
  subst e
  exact foot_writeField h (sub em rfl)

theorem foot_execFlowEntryWrite {a1 a2 a3 a4} (h : Foot μ s₀ s) (em : 0x4111c3e7476018bdbfffe0fcf8edffe2fde6ef01fffffe ||| μ = μ) : ∀ t, execFlowEntryWrite a1 a2 a3 a4 s = .next t → Foot μ s₀ t := by
  intro t e
  unfold execFlowEntryWrite at e
  injection e with e
  subst e
  exact foot_flowWrite h (sub em rfl)

theorem foot_execCeSlotEnable {a1 a2} (h : Foot μ s₀ s) (em : 0x4111c3e7476018bdbfffe0fcf8edffe2fde6ef01fffffe ||| μ = μ) : ∀ t, execCeSlotEnable a1 a2 s = .next t → Foot μ s₀ t := by
  intro t e
  unfold execCeSlotEnable at e
  injection e with e
  subst e
  exact foot_slotWrite h (sub em rfl)

end Sys2Proof.Machine
end

