-- ==== Sys2Proof/Laws/Steps.lean ====
section
/-! SUPPORT. Every command but a power-on reset and a sampling of the straps, and every idle cycle, keeps what Keeps names. -/

namespace Sys2Proof.Machine

variable {s t : State}

/-- A command other than POWER_ON_RESET and STRAP_SAMPLE keeps what Keeps names. -/
theorem exec_keeps {i : Instr} (h : exec i s = .next t) (n1 : ∀ b, i ≠ .powerOnReset b)
    (n2 : ∀ a b, i ≠ .strapSample a b) : Keeps s t := by
  cases i with
  | powerOnReset b => exact absurd rfl (n1 b)
  | resetNAssert => exact (foot_execResetNAssert (Foot.refl _ s) (Nat.or_self _) t h).keeps
  | resetNRise => exact (foot_execResetNRise (Foot.refl _ s) (Nat.or_self _) t h).keeps
  | strapSample a b => exact absurd rfl (n2 a b)
  | romBoot => exact (foot_execRomBoot (Foot.refl _ s) (Nat.or_self _) t h).keeps
  | firmwareStart => exact (foot_execFirmwareStart (Foot.refl _ s) (Nat.or_self _) t h).keeps
  | settingsRetry => exact (foot_execSettingsRetry (Foot.refl _ s) (Nat.or_self _) t h).keeps
  | recordRewrite => exact (foot_execRecordRewrite (Foot.refl _ s) (Nat.or_self _) t h).keeps
  | hspiCmdWrite _ => exact (foot_execHspiCmdWrite (Foot.refl _ s) (Nat.or_self _) t h).keeps
  | rplRead _ => exact (foot_execRplRead (Foot.refl _ s) (Nat.or_self _) t h).keeps
  | hspiStatus => exact (foot_execHspiStatus (Foot.refl _ s) (Nat.or_self _) t h).keeps
  | hspiUnknownInstruction c => exact (foot_execHspiUnknownInstruction (μ := 0) (a1 := c) (Foot.refl _ s) t h).keeps
  | ringCommand => exact (foot_execRingCommand (Foot.refl _ s) (Nat.or_self _) t h).keeps
  | nop _ => exact (foot_execNop (Foot.refl _ s) (Nat.or_self _) t h).keeps
  | ident _ => exact (foot_execIdent (Foot.refl _ s) (Nat.or_self _) t h).keeps
  | reset _ => exact (foot_execReset (Foot.refl _ s) (Nat.or_self _) t h).keeps
  | resetCmdExpire => exact (foot_execResetCmdExpire (Foot.refl _ s) (Nat.or_self _) t h).keeps
  | ping _ => exact (foot_execPing (Foot.refl _ s) (Nat.or_self _) t h).keeps
  | read _ => exact (foot_execRead (Foot.refl _ s) (Nat.or_self _) t h).keeps
  | write _ => exact (foot_execWrite (Foot.refl _ s) (Nat.or_self _) t h).keeps
  | modify _ => exact (foot_execModify (Foot.refl _ s) (Nat.or_self _) t h).keeps
  | blockRead _ => exact (foot_execBlockRead (Foot.refl _ s) (Nat.or_self _) t h).keeps
  | blockWrite _ => exact (foot_execBlockWrite (Foot.refl _ s) (Nat.or_self _) t h).keeps
  | replyReceive => exact (foot_execReplyReceive (Foot.refl _ s) (Nat.or_self _) t h).keeps
  | fanoutTimeout _ => exact (foot_execFanoutTimeout (Foot.refl _ s) (Nat.or_self _) t h).keeps
  | stage _ => exact (foot_execStage (Foot.refl _ s) (Nat.or_self _) t h).keeps
  | commitAt _ => exact (foot_execCommitAt (Foot.refl _ s) (Nat.or_self _) t h).keeps
  | discard _ => exact (foot_execDiscard (Foot.refl _ s) (Nat.or_self _) t h).keeps
  | stageQuery _ => exact (foot_execStageQuery (Foot.refl _ s) (Nat.or_self _) t h).keeps
  | flaconBind _ => exact (foot_execFlaconBind (Foot.refl _ s) (Nat.or_self _) t h).keeps
  | flaconRelease _ => exact (foot_execFlaconRelease (Foot.refl _ s) (Nat.or_self _) t h).keeps
  | fenceQuery _ => exact (foot_execFenceQuery (Foot.refl _ s) (Nat.or_self _) t h).keeps
  | fenceClear _ => exact (foot_execFenceClear (Foot.refl _ s) (Nat.or_self _) t h).keeps
  | accordLoad _ => exact (foot_execAccordLoad (Foot.refl _ s) (Nat.or_self _) t h).keeps
  | accordQuery _ => exact (foot_execAccordQuery (Foot.refl _ s) (Nat.or_self _) t h).keeps
  | tableLoad _ => exact (foot_execTableLoad (Foot.refl _ s) (Nat.or_self _) t h).keeps
  | tableDataEmit => exact (foot_execTableDataEmit (Foot.refl _ s) (Nat.or_self _) t h).keeps
  | tableDataReceive => exact (foot_execTableDataReceive (Foot.refl _ s) (Nat.or_self _) t h).keeps
  | tableQuery _ => exact (foot_execTableQuery (Foot.refl _ s) (Nat.or_self _) t h).keeps
  | epochReserve _ => exact (foot_execEpochReserve (Foot.refl _ s) (Nat.or_self _) t h).keeps
  | reserveBroadcast => exact (foot_execReserveBroadcast (Foot.refl _ s) (Nat.or_self _) t h).keeps
  | timeQuery _ => exact (foot_execTimeQuery (Foot.refl _ s) (Nat.or_self _) t h).keeps
  | diagRead _ => exact (foot_execDiagRead (Foot.refl _ s) (Nat.or_self _) t h).keeps
  | diagClear _ => exact (foot_execDiagClear (Foot.refl _ s) (Nat.or_self _) t h).keeps
  | redStatus _ => exact (foot_execRedStatus (Foot.refl _ s) (Nat.or_self _) t h).keeps
  | redSwap _ => exact (foot_execRedSwap (Foot.refl _ s) (Nat.or_self _) t h).keeps
  | redSnapshot _ => exact (foot_execRedSnapshot (Foot.refl _ s) (Nat.or_self _) t h).keeps
  | updBegin _ => exact (foot_execUpdBegin (Foot.refl _ s) (Nat.or_self _) t h).keeps
  | updEraseDone => exact (foot_execUpdEraseDone (Foot.refl _ s) (Nat.or_self _) t h).keeps
  | updBlock _ => exact (foot_execUpdBlock (Foot.refl _ s) (Nat.or_self _) t h).keeps
  | firmwareDataEmit => exact (foot_execFirmwareDataEmit (Foot.refl _ s) (Nat.or_self _) t h).keeps
  | firmwareDataReceive => exact (foot_execFirmwareDataReceive (Foot.refl _ s) (Nat.or_self _) t h).keeps
  | flashProgramDone => exact (foot_execFlashProgramDone (Foot.refl _ s) (Nat.or_self _) t h).keeps
  | holdupWaitEnd => exact (foot_execHoldupWaitEnd (Foot.refl _ s) (Nat.or_self _) t h).keeps
  | updSeal _ => exact (foot_execUpdSeal (Foot.refl _ s) (Nat.or_self _) t h).keeps
  | updSchedule _ => exact (foot_execUpdSchedule (Foot.refl _ s) (Nat.or_self _) t h).keeps
  | updActivation => exact (foot_execUpdActivation (Foot.refl _ s) (Nat.or_self _) t h).keeps
  | updConfirm _ => exact (foot_execUpdConfirm (Foot.refl _ s) (Nat.or_self _) t h).keeps
  | svnRaise => exact (foot_execSvnRaise (Foot.refl _ s) (Nat.or_self _) t h).keeps
  | confirmDeadline => exact (foot_execConfirmDeadline (Foot.refl _ s) (Nat.or_self _) t h).keeps
  | updAbort _ => exact (foot_execUpdAbort (Foot.refl _ s) (Nat.or_self _) t h).keeps
  | updRecover _ => exact (foot_execUpdRecover (Foot.refl _ s) (Nat.or_self _) t h).keeps
  | otpLockProgram _ _ => exact (foot_execOtpLockProgram (Foot.refl _ s) (Nat.or_self _) t h).keeps
  | pwrState _ => exact (foot_execPwrState (Foot.refl _ s) (Nat.or_self _) t h).keeps
  | pwrQuery _ => exact (foot_execPwrQuery (Foot.refl _ s) (Nat.or_self _) t h).keeps
  | evtRead _ => exact (foot_execEvtRead (Foot.refl _ s) (Nat.or_self _) t h).keeps
  | evtClear _ => exact (foot_execEvtClear (Foot.refl _ s) (Nat.or_self _) t h).keeps
  | evtConfig _ => exact (foot_execEvtConfig (Foot.refl _ s) (Nat.or_self _) t h).keeps
  | registerWrite _ _ _ _ => exact (foot_execRegisterWrite (Foot.refl _ s) (Nat.or_self _) t h).keeps
  | rcRead _ _ => exact (foot_execRcRead (Foot.refl _ s) (Nat.or_self _) t h).keeps
  | glbBoardCommit _ _ => exact (foot_execGlbBoardCommit (Foot.refl _ s) (Nat.or_self _) t h).keeps
  | storeDebugRead _ _ => exact (foot_execStoreDebugRead (Foot.refl _ s) (Nat.or_self _) t h).keeps
  | topoTileWrite _ _ => exact (foot_execTopoTileWrite (Foot.refl _ s) (Nat.or_self _) t h).keeps
  | topoEnumStart _ _ _ => exact (foot_execTopoEnumStart (Foot.refl _ s) (Nat.or_self _) t h).keeps
  | enumTieReceive => exact (foot_execEnumTieReceive (Foot.refl _ s) (Nat.or_self _) t h).keeps
  | enumCwTile => exact (foot_execEnumCwTile (Foot.refl _ s) (Nat.or_self _) t h).keeps
  | enumCcwTile => exact (foot_execEnumCcwTile (Foot.refl _ s) (Nat.or_self _) t h).keeps
  | enumLenTile => exact (foot_execEnumLenTile (Foot.refl _ s) (Nat.or_self _) t h).keeps
  | enumCountSender => exact (foot_execEnumCountSender (Foot.refl _ s) (Nat.or_self _) t h).keeps
  | enumLenSender => exact (foot_execEnumLenSender (Foot.refl _ s) (Nat.or_self _) t h).keeps
  | enumCountTimeout _ => exact (foot_execEnumCountTimeout (Foot.refl _ s) (Nat.or_self _) t h).keeps
  | enumDoneTimeout _ => exact (foot_execEnumDoneTimeout (Foot.refl _ s) (Nat.or_self _) t h).keeps
  | portEnableWrite _ _ _ => exact (foot_execPortEnableWrite (Foot.refl _ s) (Nat.or_self _) t h).keeps
  | portWidthWrite _ _ _ => exact (foot_execPortWidthWrite (Foot.refl _ s) (Nat.or_self _) t h).keeps
  | laneCntClear _ _ => exact (foot_execLaneCntClear (Foot.refl _ s) (Nat.or_self _) t h).keeps
  | laneRetrain _ _ => exact (foot_execLaneRetrain (Foot.refl _ s) (Nat.or_self _) t h).keeps
  | eidleRequest _ _ => exact (foot_execEidleRequest (Foot.refl _ s) (Nat.or_self _) t h).keeps
  | eidleWithdraw _ _ => exact (foot_execEidleWithdraw (Foot.refl _ s) (Nat.or_self _) t h).keeps
  | signalDetect _ => exact (foot_execSignalDetect (Foot.refl _ s) (Nat.or_self _) t h).keeps
  | cdrLock _ => exact (foot_execCdrLock (Foot.refl _ s) (Nat.or_self _) t h).keeps
  | trainingFrameReceive _ _ => exact (foot_execTrainingFrameReceive (Foot.refl _ s) (Nat.or_self _) t h).keeps
  | equaliseReady _ => exact (foot_execEqualiseReady (Foot.refl _ s) (Nat.or_self _) t h).keeps
  | trainingTimeout _ => exact (foot_execTrainingTimeout (Foot.refl _ s) (Nat.or_self _) t h).keeps
  | trainingRetry _ => exact (foot_execTrainingRetry (Foot.refl _ s) (Nat.or_self _) t h).keeps
  | markerBlockReceive _ _ => exact (foot_execMarkerBlockReceive (Foot.refl _ s) (Nat.or_self _) t h).keeps
  | deskewComplete _ _ => exact (foot_execDeskewComplete (Foot.refl _ s) (Nat.or_self _) t h).keeps
  | deskewDriftFail _ => exact (foot_execDeskewDriftFail (Foot.refl _ s) (Nat.or_self _) t h).keeps
  | negotiateComplete _ => exact (foot_execNegotiateComplete (Foot.refl _ s) (Nat.or_self _) t h).keeps
  | widthRecheck => exact (foot_execWidthRecheck (Foot.refl _ s) (Nat.or_self _) t h).keeps
  | negotiateMarkerTimeout _ => exact (foot_execNegotiateMarkerTimeout (Foot.refl _ s) (Nat.or_self _) t h).keeps
  | laneSignalLoss _ => exact (foot_execLaneSignalLoss (Foot.refl _ s) (Nat.or_self _) t h).keeps
  | resyncStart _ => exact (foot_execResyncStart (Foot.refl _ s) (Nat.or_self _) t h).keeps
  | egressPhaseMove _ => exact (foot_execEgressPhaseMove (Foot.refl _ s) (Nat.or_self _) t h).keeps
  | resyncTimeout _ => exact (foot_execResyncTimeout (Foot.refl _ s) (Nat.or_self _) t h).keeps
  | eidleTimeout _ => exact (foot_execEidleTimeout (Foot.refl _ s) (Nat.or_self _) t h).keeps
  | wakeBurstDetect _ => exact (foot_execWakeBurstDetect (Foot.refl _ s) (Nat.or_self _) t h).keeps
  | wakeBurstEnd _ => exact (foot_execWakeBurstEnd (Foot.refl _ s) (Nat.or_self _) t h).keeps
  | wakeComplete _ => exact (foot_execWakeComplete (Foot.refl _ s) (Nat.or_self _) t h).keeps
  | wakeTimeout _ => exact (foot_execWakeTimeout (Foot.refl _ s) (Nat.or_self _) t h).keeps
  | dataBlockDecode _ _ => exact (foot_execDataBlockDecode (Foot.refl _ s) (Nat.or_self _) t h).keeps
  | corrIntervalEnd => exact (foot_execCorrIntervalEnd (Foot.refl _ s) (Nat.or_self _) t h).keeps
  | senderSlotFill _ => exact (foot_execSenderSlotFill (Foot.refl _ s) (Nat.or_self _) t h).keeps
  | tileSlotInsert _ _ => exact (foot_execTileSlotInsert (Foot.refl _ s) (Nat.or_self _) t h).keeps
  | voidFlitReceive _ => exact (foot_execVoidFlitReceive (Foot.refl _ s) (Nat.or_self _) t h).keeps
  | packetEnd _ => exact (foot_execPacketEnd (Foot.refl _ s) (Nat.or_self _) t h).keeps
  | pktCntClear _ => exact (foot_execPktCntClear (Foot.refl _ s) (Nat.or_self _) t h).keeps
  | lineDeadline _ => exact (foot_execLineDeadline (Foot.refl _ s) (Nat.or_self _) t h).keeps
  | heartPacketDue _ => exact (foot_execHeartPacketDue (Foot.refl _ s) (Nat.or_self _) t h).keeps
  | wallFrameBoundary => exact (foot_execWallFrameBoundary (Foot.refl _ s) (Nat.or_self _) t h).keeps
  | latchPoint => exact (foot_execLatchPoint (Foot.refl _ s) (Nat.or_self _) t h).keeps
  | calSliceTimer => exact (foot_execCalSliceTimer (Foot.refl _ s) (Nat.or_self _) t h).keeps
  | calSliceEnd _ => exact (foot_execCalSliceEnd (Foot.refl _ s) (Nat.or_self _) t h).keeps
  | calStart _ _ => exact (foot_execCalStart (Foot.refl _ s) (Nat.or_self _) t h).keeps
  | ethModeWrite _ _ => exact (foot_execEthModeWrite (Foot.refl _ s) (Nat.or_self _) t h).keeps
  | ethCntClear _ => exact (foot_execEthCntClear (Foot.refl _ s) (Nat.or_self _) t h).keeps
  | ethLinkUp _ => exact (foot_execEthLinkUp (Foot.refl _ s) (Nat.or_self _) t h).keeps
  | ethLinkDown _ => exact (foot_execEthLinkDown (Foot.refl _ s) (Nat.or_self _) t h).keeps
  | ethFrameReceive _ _ => exact (foot_execEthFrameReceive (Foot.refl _ s) (Nat.or_self _) t h).keeps
  | reassemblyTimeout _ => exact (foot_execReassemblyTimeout (Foot.refl _ s) (Nat.or_self _) t h).keeps
  | igmpReportTimer => exact (foot_execIgmpReportTimer (Foot.refl _ s) (Nat.or_self _) t h).keeps
  | flowPathTimeout _ _ => exact (foot_execFlowPathTimeout (Foot.refl _ s) (Nat.or_self _) t h).keeps
  | flowFrameClose _ => exact (foot_execFlowFrameClose (Foot.refl _ s) (Nat.or_self _) t h).keeps
  | flowFrameStart _ => exact (foot_execFlowFrameStart (Foot.refl _ s) (Nat.or_self _) t h).keeps
  | flowEntryWrite _ _ _ _ => exact (foot_execFlowEntryWrite (Foot.refl _ s) (Nat.or_self _) t h).keeps
  | flowCntClear _ _ => exact (foot_execFlowCntClear (Foot.refl _ s) (Nat.or_self _) t h).keeps
  | ingestShedTick => exact (foot_execIngestShedTick (Foot.refl _ s) (Nat.or_self _) t h).keeps
  | ingestRestoreTick => exact (foot_execIngestRestoreTick (Foot.refl _ s) (Nat.or_self _) t h).keeps
  | dramEnable _ _ => exact (foot_execDramEnable (Foot.refl _ s) (Nat.or_self _) t h).keeps
  | dramTrainDone _ => exact (foot_execDramTrainDone (Foot.refl _ s) (Nat.or_self _) t h).keeps
  | dramDisable _ => exact (foot_execDramDisable (Foot.refl _ s) (Nat.or_self _) t h).keeps
  | dramMr4Poll _ => exact (foot_execDramMr4Poll (Foot.refl _ s) (Nat.or_self _) t h).keeps
  | dramZqCal => exact (foot_execDramZqCal (Foot.refl _ s) (Nat.or_self _) t h).keeps
  | dramOscTrack _ => exact (foot_execDramOscTrack (Foot.refl _ s) (Nat.or_self _) t h).keeps
  | dramRequest _ _ _ _ => exact (foot_execDramRequest (Foot.refl _ s) (Nat.or_self _) t h).keeps
  | dramCommandSlot _ => exact (foot_execDramCommandSlot (Foot.refl _ s) (Nat.or_self _) t h).keeps
  | dramUnderrun _ => exact (foot_execDramUnderrun (Foot.refl _ s) (Nat.or_self _) t h).keeps
  | dramRatSweepEnd _ _ => exact (foot_execDramRatSweepEnd (Foot.refl _ s) (Nat.or_self _) t h).keeps
  | dramRatWindow => exact (foot_execDramRatWindow (Foot.refl _ s) (Nat.or_self _) t h).keeps
  | dramSrEntry => exact (foot_execDramSrEntry (Foot.refl _ s) (Nat.or_self _) t h).keeps
  | dramSrExit => exact (foot_execDramSrExit (Foot.refl _ s) (Nat.or_self _) t h).keeps
  | tfRegen _ _ => exact (foot_execTfRegen (Foot.refl _ s) (Nat.or_self _) t h).keeps
  | tfRefillDone => exact (foot_execTfRefillDone (Foot.refl _ s) (Nat.or_self _) t h).keeps
  | pipeCntClear _ => exact (foot_execPipeCntClear (Foot.refl _ s) (Nat.or_self _) t h).keeps
  | tcompTempWrite _ _ => exact (foot_execTcompTempWrite (Foot.refl _ s) (Nat.or_self _) t h).keeps
  | tcompStale => exact (foot_execTcompStale (Foot.refl _ s) (Nat.or_self _) t h).keeps
  | llEnable _ _ => exact (foot_execLlEnable (Foot.refl _ s) (Nat.or_self _) t h).keeps
  | llRestart _ => exact (foot_execLlRestart (Foot.refl _ s) (Nat.or_self _) t h).keeps
  | llCntClear _ => exact (foot_execLlCntClear (Foot.refl _ s) (Nat.or_self _) t h).keeps
  | llBringupStep => exact (foot_execLlBringupStep (Foot.refl _ s) (Nat.or_self _) t h).keeps
  | llDiagGo _ _ => exact (foot_execLlDiagGo (Foot.refl _ s) (Nat.or_self _) t h).keeps
  | diagSend _ => exact (foot_execDiagSend (Foot.refl _ s) (Nat.or_self _) t h).keeps
  | llRetReply _ _ => exact (foot_execLlRetReply (Foot.refl _ s) (Nat.or_self _) t h).keeps
  | llRetTimeout _ => exact (foot_execLlRetTimeout (Foot.refl _ s) (Nat.or_self _) t h).keeps
  | llStatusPoll => exact (foot_execLlStatusPoll (Foot.refl _ s) (Nat.or_self _) t h).keeps
  | rowAdvAction => exact (foot_execRowAdvAction (Foot.refl _ s) (Nat.or_self _) t h).keeps
  | grayEmit _ _ => exact (foot_execGrayEmit (Foot.refl _ s) (Nat.or_self _) t h).keeps
  | gainEmit => exact (foot_execGainEmit (Foot.refl _ s) (Nat.or_self _) t h).keeps
  | blotterAction _ => exact (foot_execBlotterAction (Foot.refl _ s) (Nat.or_self _) t h).keeps
  | ldEnable _ _ => exact (foot_execLdEnable (Foot.refl _ s) (Nat.or_self _) t h).keeps
  | ldResume _ => exact (foot_execLdResume (Foot.refl _ s) (Nat.or_self _) t h).keeps
  | ldCntClear _ => exact (foot_execLdCntClear (Foot.refl _ s) (Nat.or_self _) t h).keeps
  | ldCfgResend _ _ _ => exact (foot_execLdCfgResend (Foot.refl _ s) (Nat.or_self _) t h).keeps
  | headroomCycleEnd => exact (foot_execHeadroomCycleEnd (Foot.refl _ s) (Nat.or_self _) t h).keeps
  | faultSweepStart => exact (foot_execFaultSweepStart (Foot.refl _ s) (Nat.or_self _) t h).keeps
  | faultSweepEnd => exact (foot_execFaultSweepEnd (Foot.refl _ s) (Nat.or_self _) t h).keeps
  | ceSlotEnable _ _ => exact (foot_execCeSlotEnable (Foot.refl _ s) (Nat.or_self _) t h).keeps
  | ceSlotDisable _ _ => exact (foot_execCeSlotDisable (Foot.refl _ s) (Nat.or_self _) t h).keeps
  | ceStateWrite _ _ _ _ => exact (foot_execCeStateWrite (Foot.refl _ s) (Nat.or_self _) t h).keeps
  | ceCntClear _ => exact (foot_execCeCntClear (Foot.refl _ s) (Nat.or_self _) t h).keeps
  | cePeriodicTrigger _ => exact (foot_execCePeriodicTrigger (Foot.refl _ s) (Nat.or_self _) t h).keeps
  | ceStepWrite _ _ _ => exact (foot_execCeStepWrite (Foot.refl _ s) (Nat.or_self _) t h).keeps
  | ceEvaluation => exact (foot_execCeEvaluation (Foot.refl _ s) (Nat.or_self _) t h).keeps
  | ceStepEvaluation => exact (foot_execCeStepEvaluation (Foot.refl _ s) (Nat.or_self _) t h).keeps
  | pwmPeriodStart _ => exact (foot_execPwmPeriodStart (Foot.refl _ s) (Nat.or_self _) t h).keeps
  | pwmStaleTimeout => exact (foot_execPwmStaleTimeout (Foot.refl _ s) (Nat.or_self _) t h).keeps
  | adcConversion _ _ _ => exact (foot_execAdcConversion (Foot.refl _ s) (Nat.or_self _) t h).keeps
  | timeIncrWrite _ _ => exact (foot_execTimeIncrWrite (Foot.refl _ s) (Nat.or_self _) t h).keeps
  | timeShadowRead _ => exact (foot_execTimeShadowRead (Foot.refl _ s) (Nat.or_self _) t h).keeps
  | timeStep _ => exact (foot_execTimeStep (Foot.refl _ s) (Nat.or_self _) t h).keeps
  | timeLoad _ => exact (foot_execTimeLoad (Foot.refl _ s) (Nat.or_self _) t h).keeps
  | timeAdjustGo _ _ => exact (foot_execTimeAdjustGo (Foot.refl _ s) (Nat.or_self _) t h).keeps
  | timeAdjustEnd => exact (foot_execTimeAdjustEnd (Foot.refl _ s) (Nat.or_self _) t h).keeps
  | timeSample _ _ => exact (foot_execTimeSample (Foot.refl _ s) (Nat.or_self _) t h).keeps
  | timeSampleTimeout => exact (foot_execTimeSampleTimeout (Foot.refl _ s) (Nat.or_self _) t h).keeps
  | timeSyncSend => exact (foot_execTimeSyncSend (Foot.refl _ s) (Nat.or_self _) t h).keeps
  | timeSyncForward => exact (foot_execTimeSyncForward (Foot.refl _ s) (Nat.or_self _) t h).keeps
  | timeSyncReceive => exact (foot_execTimeSyncReceive (Foot.refl _ s) (Nat.or_self _) t h).keeps
  | timeSyncFarEnd => exact (foot_execTimeSyncFarEnd (Foot.refl _ s) (Nat.or_self _) t h).keeps
  | delayReqSend _ => exact (foot_execDelayReqSend (Foot.refl _ s) (Nat.or_self _) t h).keeps
  | delayReqReceive => exact (foot_execDelayReqReceive (Foot.refl _ s) (Nat.or_self _) t h).keeps
  | delayRespReceive => exact (foot_execDelayRespReceive (Foot.refl _ s) (Nat.or_self _) t h).keeps
  | evtOutArm _ _ _ => exact (foot_execEvtOutArm (Foot.refl _ s) (Nat.or_self _) t h).keeps
  | evtOutPulse _ => exact (foot_execEvtOutPulse (Foot.refl _ s) (Nat.or_self _) t h).keeps
  | evtOutPulseEnd _ => exact (foot_execEvtOutPulseEnd (Foot.refl _ s) (Nat.or_self _) t h).keeps
  | evtInEdge _ _ => exact (foot_execEvtInEdge (Foot.refl _ s) (Nat.or_self _) t h).keeps
  | evtInPop _ _ => exact (foot_execEvtInPop (Foot.refl _ s) (Nat.or_self _) t h).keeps
  | aonSleepCapture => exact (foot_execAonSleepCapture (Foot.refl _ s) (Nat.or_self _) t h).keeps
  | aonSourceSwitch _ _ => exact (foot_execAonSourceSwitch (Foot.refl _ s) (Nat.or_self _) t h).keeps
  | timeWakeRestore _ => exact (foot_execTimeWakeRestore (Foot.refl _ s) (Nat.or_self _) t h).keeps
  | wtFrameRead _ => exact (foot_execWtFrameRead (Foot.refl _ s) (Nat.or_self _) t h).keeps
  | epochAnnounceSend => exact (foot_execEpochAnnounceSend (Foot.refl _ s) (Nat.or_self _) t h).keeps
  | epochAnnounceReceive => exact (foot_execEpochAnnounceReceive (Foot.refl _ s) (Nat.or_self _) t h).keeps
  | wtPendArm _ _ => exact (foot_execWtPendArm (Foot.refl _ s) (Nat.or_self _) t h).keeps
  | wtPendBroadcast => exact (foot_execWtPendBroadcast (Foot.refl _ s) (Nat.or_self _) t h).keeps
  | noMasterTimeout => exact (foot_execNoMasterTimeout (Foot.refl _ s) (Nat.or_self _) t h).keeps
  | wtmOffsetPoll _ _ => exact (foot_execWtmOffsetPoll (Foot.refl _ s) (Nat.or_self _) t h).keeps
  | holdoverExpire => exact (foot_execHoldoverExpire (Foot.refl _ s) (Nat.or_self _) t h).keeps
  | redEnable _ _ => exact (foot_execRedEnable (Foot.refl _ s) (Nat.or_self _) t h).keeps
  | redListenEnd => exact (foot_execRedListenEnd (Foot.refl _ s) (Nat.or_self _) t h).keeps
  | heartbeatSend => exact (foot_execHeartbeatSend (Foot.refl _ s) (Nat.or_self _) t h).keeps
  | heartbeatReceive => exact (foot_execHeartbeatReceive (Foot.refl _ s) (Nat.or_self _) t h).keeps
  | claimResend => exact (foot_execClaimResend (Foot.refl _ s) (Nat.or_self _) t h).keeps
  | claimReceive => exact (foot_execClaimReceive (Foot.refl _ s) (Nat.or_self _) t h).keeps
  | tileRedundancyRecord => exact (foot_execTileRedundancyRecord (Foot.refl _ s) (Nat.or_self _) t h).keeps
  | tileRecordExpire _ => exact (foot_execTileRecordExpire (Foot.refl _ s) (Nat.or_self _) t h).keeps
  | pathSilent _ => exact (foot_execPathSilent (Foot.refl _ s) (Nat.or_self _) t h).keeps
  | journalReceive => exact (foot_execJournalReceive (Foot.refl _ s) (Nat.or_self _) t h).keeps
  | latchEntryTimeout => exact (foot_execLatchEntryTimeout (Foot.refl _ s) (Nat.or_self _) t h).keeps
  | relayEntryEmit => exact (foot_execRelayEntryEmit (Foot.refl _ s) (Nat.or_self _) t h).keeps
  | snapshotCapture => exact (foot_execSnapshotCapture (Foot.refl _ s) (Nat.or_self _) t h).keeps
  | snapshotPeriod => exact (foot_execSnapshotPeriod (Foot.refl _ s) (Nat.or_self _) t h).keeps
  | snapshotSend => exact (foot_execSnapshotSend (Foot.refl _ s) (Nat.or_self _) t h).keeps
  | snapshotChunkReceive => exact (foot_execSnapshotChunkReceive (Foot.refl _ s) (Nat.or_self _) t h).keeps
  | swapTimer => exact (foot_execSwapTimer (Foot.refl _ s) (Nat.or_self _) t h).keeps
  | swapArmRetry => exact (foot_execSwapArmRetry (Foot.refl _ s) (Nat.or_self _) t h).keeps
  | sourceRaise _ => exact (foot_execSourceRaise (Foot.refl _ s) (Nat.or_self _) t h).keeps
  | evtAck _ => exact (foot_execEvtAck (Foot.refl _ s) (Nat.or_self _) t h).keeps
  | reactionAutoEnd => exact (foot_execReactionAutoEnd (Foot.refl _ s) (Nat.or_self _) t h).keeps
  | reactionRestart => exact (foot_execReactionRestart (Foot.refl _ s) (Nat.or_self _) t h).keeps
  | evtStatClear _ _ _ => exact (foot_execEvtStatClear (Foot.refl _ s) (Nat.or_self _) t h).keeps
  | evtTestGo _ _ => exact (foot_execEvtTestGo (Foot.refl _ s) (Nat.or_self _) t h).keeps
  | sensorReport _ _ => exact (foot_execSensorReport (Foot.refl _ s) (Nat.or_self _) t h).keeps
  | tripComparator => exact (foot_execTripComparator (Foot.refl _ s) (Nat.or_self _) t h).keeps
  | pdEnableWrite _ _ _ => exact (foot_execPdEnableWrite (Foot.refl _ s) (Nat.or_self _) t h).keeps
  | domainReady _ => exact (foot_execDomainReady (Foot.refl _ s) (Nat.or_self _) t h).keeps
  | domainReadyTimeout => exact (foot_execDomainReadyTimeout (Foot.refl _ s) (Nat.or_self _) t h).keeps
  | domainDemand m d => exact (foot_execDomainDemand (a1 := m) (Foot.refl _ s) (Nat.or_self _) t h).keeps
  | domainIdleGate _ => exact (foot_execDomainIdleGate (Foot.refl _ s) (Nat.or_self _) t h).keeps
  | pwrTargetWrite _ _ => exact (foot_execPwrTargetWrite (Foot.refl _ s) (Nat.or_self _) t h).keeps
  | autoStateIdle => exact (foot_execAutoStateIdle (Foot.refl _ s) (Nat.or_self _) t h).keeps
  | entryTimerExpire => exact (foot_execEntryTimerExpire (Foot.refl _ s) (Nat.or_self _) t h).keeps
  | sleepAttempt => exact (foot_execSleepAttempt (Foot.refl _ s) (Nat.or_self _) t h).keeps
  | quiesceDone => exact (foot_execQuiesceDone (Foot.refl _ s) (Nat.or_self _) t h).keeps
  | quiesceTimeout => exact (foot_execQuiesceTimeout (Foot.refl _ s) (Nat.or_self _) t h).keeps
  | domainStop => exact (foot_execDomainStop (Foot.refl _ s) (Nat.or_self _) t h).keeps
  | wakeNAssert => exact (foot_execWakeNAssert (Foot.refl _ s) (Nat.or_self _) t h).keeps
  | aonAlarmExpire => exact (foot_execAonAlarmExpire (Foot.refl _ s) (Nat.or_self _) t h).keeps
  | hspiCsWake => exact (foot_execHspiCsWake (Foot.refl _ s) (Nat.or_self _) t h).keeps
  | hkWdogKick _ => exact (foot_execHkWdogKick (Foot.refl _ s) (Nat.or_self _) t h).keeps
  | hkWdogExpire => exact (foot_execHkWdogExpire (Foot.refl _ s) (Nat.or_self _) t h).keeps
  | updRecoverReset => exact (foot_execUpdRecoverReset (Foot.refl _ s) (Nat.or_self _) t h).keeps
  | otpLockDone => exact (foot_execOtpLockDone (Foot.refl _ s) (Nat.or_self _) t h).keeps

/-- A sampling of the straps lets time pass and changes the board. -/
theorem strapSample_canonical {a : Bool} {b : Nat} (h : exec (.strapSample a b) s = .next t) :
    t = s ∨ ∃ n x, t = { elapse n s with board := x } := by
  simp only [exec, execStrapSample, Host.Outcome.next.injEq] at h
  subst h
  split
  · exact .inr ⟨_, _, rfl⟩
  · exact .inl rfl

end Sys2Proof.Machine
end

