-- ==== Sys2Proof/Laws/Bus.lean ====
section
/-! SUPPORT. A master's write to one register: the word that the write leaves, and the write of one field. -/

namespace Sys2Proof.Machine

variable {s t : State}

/-! ### Bits of a word written under a mask -/

theorem testBit_bitsOf {n hi lo j : Nat} (h : lo ≤ j) (h' : j ≤ hi) : (bitsOf n hi lo).testBit (j - lo) = n.testBit j := by
  unfold bitsOf
  rw [Nat.testBit_mod_two_pow, Nat.testBit_div_two_pow, show j - lo + lo = j by omega]
  simp; omega

theorem testBit_withBits {n hi lo v j : Nat} (h : lo ≤ hi) :
    (withBits n hi lo v).testBit j = if lo ≤ j ∧ j ≤ hi then v.testBit (j - lo) else n.testBit j := by
  split
  · rename_i k
    rw [← testBit_bitsOf k.1 k.2, bitsOf_withBits h, Nat.testBit_mod_two_pow]
    simp; omega
  · rename_i k
    have e : ∀ n, n.testBit j = (bitsOf n j j).testBit 0 := by
      intro n; have := @testBit_bitsOf n j j j (Nat.le_refl j) (Nat.le_refl j); rw [Nat.sub_self] at this; exact this.symm
    rw [e, e n]
    by_cases hj : j < lo
    · rw [bitsOf_withBits_below h hj (Nat.le_refl j)]
    · rw [bitsOf_withBits_above h (by omega)]

theorem testBit_fieldBits {hi lo j : Nat} (h : lo ≤ hi) : (2 ^ (hi + 1) - 2 ^ lo).testBit j = decide (lo ≤ j ∧ j ≤ hi) := by
  have e : 2 ^ (hi + 1) - 2 ^ lo = (2 ^ (hi + 1 - lo) - 1) * 2 ^ lo := by
    rw [Nat.sub_mul, Nat.one_mul, ← Nat.pow_add, show hi + 1 - lo + lo = hi + 1 by omega]
  rw [e, Nat.mul_comm, Nat.testBit_two_pow_mul, Nat.testBit_two_pow_sub_one]
  by_cases a : lo ≤ j <;> by_cases b : j ≤ hi <;> simp [a, b] <;> omega

/-- A field written under its own mask. -/
theorem field_written {f : Fld} {old : Word} {v : Nat} (hf : f.fits) :
    (old &&& ~~~ rcMask.fieldBits f) ||| (wordOf (v % 2 ^ (f.hi + 1 - f.lo) * 2 ^ f.lo) &&& rcMask.fieldBits f) =
      BitVec.ofNat 32 (withBits old.toNat f.hi f.lo v) := by
  apply BitVec.eq_of_getLsbD_eq
  intro j hj
  unfold rcMask.fieldBits wordOf
  simp only [BitVec.getLsbD_or, BitVec.getLsbD_and, BitVec.getLsbD_not, BitVec.getLsbD_ofNat, hj, decide_true, Bool.true_and,
    testBit_fieldBits hf.1, testBit_withBits hf.1]
  rw [Nat.mul_comm, Nat.testBit_two_pow_mul, Nat.testBit_mod_two_pow, BitVec.testBit_toNat]
  have := hf.1
  by_cases a : f.lo ≤ j <;> by_cases b : j ≤ f.hi <;> simp [a, b]
  omega

/-- A register written under the mask of one field has that field set. -/
theorem setReg_field {f : Fld} {i : Nat} {w : Word} (hf : f.fits) (hi : i < f.count) :
    setRegWord (f.addr i) ((regWord s (f.addr i) &&& ~~~ rcMask.fieldBits f) ||| (w &&& rcMask.fieldBits f)) s =
      setFldAt f i (bitsOf w.toNat f.hi f.lo) s := by
  have e : (regWord s (f.addr i) &&& ~~~ rcMask.fieldBits f) ||| (w &&& rcMask.fieldBits f) =
      BitVec.ofNat 32 (withBits (regWord s (f.addr i)).toNat f.hi f.lo (bitsOf w.toNat f.hi f.lo)) := by
    apply BitVec.eq_of_getLsbD_eq
    intro j hj
    unfold rcMask.fieldBits
    simp only [BitVec.getLsbD_or, BitVec.getLsbD_and, BitVec.getLsbD_not, BitVec.getLsbD_ofNat, hj, decide_true, Bool.true_and,
      testBit_fieldBits hf.1, testBit_withBits hf.1, BitVec.testBit_toNat]
    by_cases a : f.lo ≤ j <;> by_cases b : j ≤ f.hi <;> simp [a, b]
    rw [testBit_bitsOf a b, BitVec.testBit_toNat]
  rw [e]
  unfold setFldAt setInst setRegWord
  rw [if_pos hi]

/-! ### What a write leaves in a register (R440) -/

theorem writtenWord_set {d : RegDesc} {i : Nat} {old mask v set : Word}
    (h0 : mask &&& ~~~ BitVec.ofNat 32 (absentBits s d i) &&& ~~~ BitVec.ofNat 32 (arrayReserved d i) = mask)
    (h1 : mask &&& bitsWhere d (Access.writes s) = set) (h2 : mask &&& bitsWhere d (fun x => x == .w1c) = 0)
    (h3 : mask &&& bitsWhere d (fun x => x == .w1s) = 0) :
    writtenWord s d i old mask v = (old &&& ~~~ set) ||| (v &&& set) := by
  unfold writtenWord
  dsimp only
  rw [h0, h1, BitVec.and_assoc, h2, BitVec.and_assoc, h3]
  simp only [BitVec.ofNat_eq_ofNat, BitVec.and_zero, BitVec.or_zero, BitVec.not_zero, BitVec.and_allOnes]

/-- No ignored write (R441): the mask holds no reserved bit and no field that the master cannot write. -/
theorem ignored_none {d : RegDesc} {i : Nat} {view mask v : Word}
    (h1 : mask &&& ~~~ (bitsWhere d (fun _ => true) &&& ~~~ BitVec.ofNat 32 (arrayReserved d i)) = 0)
    (h2 : mask &&& bitsWhere d (fun x => x == .ro || (x == .rwl && !x.writes s) || (x == .rwSender && !x.writes s)) = 0) :
    ignoredWrite s d i view mask v = false := by
  unfold ignoredWrite
  dsimp only
  generalize BitVec.ofNat 32 (absentBits s d i) = ab
  generalize bitsWhere d (fun _ => true) &&& ~~~ BitVec.ofNat 32 (arrayReserved d i) = fl at h1 ⊢
  generalize bitsWhere d (fun x => x == .ro || (x == .rwl && !x.writes s) || (x == .rwSender && !x.writes s)) = fx at h2 ⊢
  have e1 : v &&& (mask &&& ~~~ab) &&& ~~~fl = 0 := by
    have : v &&& (mask &&& ~~~ab) &&& ~~~fl = v &&& ~~~ab &&& (mask &&& ~~~fl) := by ac_rfl
    rw [this, h1]; simp
  have e2 : (v ^^^ view) &&& (mask &&& ~~~ab) &&& fx = 0 := by
    have : (v ^^^ view) &&& (mask &&& ~~~ab) &&& fx = (v ^^^ view) &&& ~~~ab &&& (mask &&& fx) := by ac_rfl
    rw [this, h2]; simp
  rw [e1, e2]
  rfl

/-- Writing what is there changes nothing. -/
theorem smPut_self {α : Type} [DecidableEq α] {d : Nat → α} {k : Nat} {m : SMap α} (h : Memory.wf d m) :
    smPut d m k (smGet d m k) = m := by
  induction m with
  | nil => simp [smPut, smGet]
  | cons x t ih =>
    obtain ⟨k', v'⟩ := x
    have hw := Memory.wf_cons.1 h
    unfold smPut smGet
    by_cases e : k' = k
    · subst e
      simp [hw.1]
    · rw [if_neg e]
      by_cases l : k < k'
      · rw [if_pos l, smGet_below (fun e he => Nat.lt_trans l (hw.2.1 e he)), if_pos rfl]
      · rw [if_neg l, if_neg (by omega), ih hw.2.2]

theorem setRegWord_self {a : Nat} (h : Memory.wf resetWord s.regs) : setRegWord a (regWord s a) s = s := by
  unfold setRegWord regWord
  rw [smPut_self h]

/-- A master's write to a register of a domain that serves, without an ignored write. -/
theorem writeInst_eq {m : Master} {f : Fld} {i : Nat} {mask v set : Word} {d : RegDesc}
    (hd : findReg (f.addr i) = some (d, i)) (hf : d.fields.any (fun x => x.fld == f) = true)
    (hb : d.base + d.stride * i = f.addr i) (hm : f.addr i < 0x10000000)
    (hon : domainOn s (regDomain (f.addr i)) = true) (hr : roleAbsent s d i = false)
    (hw : accessBehind s m (f.addr i) = false)
    (g1 : mask &&& ~~~ (bitsWhere d (fun _ => true) &&& ~~~ BitVec.ofNat 32 (arrayReserved d i)) = 0)
    (g2 : mask &&& bitsWhere d (fun x => x == .ro || (x == .rwl && !x.writes s) || (x == .rwSender && !x.writes s)) = 0)
    (h0 : mask &&& ~~~ BitVec.ofNat 32 (absentBits s d i) &&& ~~~ BitVec.ofNat 32 (arrayReserved d i) = mask)
    (h1 : mask &&& bitsWhere d (Access.writes s) = set) (h2 : mask &&& bitsWhere d (fun x => x == .w1c) = 0)
    (h3 : mask &&& bitsWhere d (fun x => x == .w1s) = 0) :
    writeInst m f i mask v s = writeEffect d i mask v s (setRegWord (f.addr i)
      ((((regWord s (f.addr i) &&& ~~~ set) ||| (v &&& set)) &&& ~~~ ownBits d) ||| (regWord s (f.addr i) &&& ownBits d)) s) := by
  have hp : placeDomain (f.addr i) = regDomain (f.addr i) := by
    unfold placeDomain inStore inDram
    rw [show decide (0x10000000 ≤ f.addr i) = false from decide_eq_false (by omega),
      show decide (0x80000000 ≤ f.addr i) = false from decide_eq_false (by omega)]
    rfl
  unfold writeInst hasInst
  rw [hd]
  dsimp only
  rw [if_pos hf]
  have hk : ∀ k : AccessKind, accessServe s { kind := k, master := m, addr := f.addr i, mask := mask, value := v } = .now := by
    intro k
    unfold accessServe serve
    rw [show inDram (f.addr i) = false by unfold inDram; rw [decide_eq_false (by omega)]; rfl, Bool.false_and,
      if_neg Bool.false_ne_true, hp, if_pos hon]
  unfold masterWrite access behind
  dsimp only [Option.isSome]
  rw [hw, hk]
  simp only [Bool.false_eq_true, if_false]
  unfold performAccess
  dsimp only
  unfold busWrite
  rw [hp, hon, hd]
  rw [show inStore (f.addr i) = false by unfold inStore; rw [decide_eq_false (by omega)]; rfl,
    show inDram (f.addr i) = false by unfold inDram; rw [decide_eq_false (by omega)]; rfl]
  simp only [Bool.not_true, Bool.false_eq_true, if_false]
  unfold writeReg
  rw [hr, ignored_none g1 g2]
  simp only [Bool.false_eq_true, if_false]
  rw [hb, writtenWord_set h0 h1 h2 h3]

/-- A mask that meets no field of some access codes meets no field of fewer of them. -/
theorem bitsWhere_sub {d : RegDesc} {p q : Access → Bool} (h : ∀ x, p x = true → q x = true) {m : Word} (hm : m &&& bitsWhere d q = 0) :
    m &&& bitsWhere d p = 0 := by
  have key : ∀ (l : List FieldDesc) (a b : Word), (m &&& b = 0 → m &&& a = 0) →
      m &&& l.foldl (fun m f => if q f.acc then m ||| rcMask.fieldBits f.fld else m) b = 0 →
      m &&& l.foldl (fun m f => if p f.acc then m ||| rcMask.fieldBits f.fld else m) a = 0 := by
    intro l
    induction l with
    | nil => intro a b hab hb; exact hab hb
    | cons x t ih =>
      intro a b hab hb
      simp only [List.foldl_cons] at hb ⊢
      refine ih _ _ ?_ hb
      have or0 : ∀ a b : Word, a ||| b = 0 → a = 0 ∧ b = 0 := by
        intro a b h
        constructor
        · apply BitVec.eq_of_getLsbD_eq; intro i hi
          have := congrArg (fun z => z.getLsbD i) h
          simp at this; simpa using this.1
        · apply BitVec.eq_of_getLsbD_eq; intro i hi
          have := congrArg (fun z => z.getLsbD i) h
          simp at this; simpa using this.2
      have dist : ∀ a b : Word, m &&& (a ||| b) = (m &&& a) ||| (m &&& b) := by
        intro a b; apply BitVec.eq_of_getLsbD_eq; intro i hi; simp [Bool.and_or_distrib_left]
      intro hb
      by_cases hp : p x.acc = true
      · rw [if_pos (h _ hp)] at hb
        rw [if_pos hp]
        rw [dist] at hb ⊢
        obtain ⟨h1, h2⟩ := or0 _ _ hb
        rw [hab h1, h2]; simp
      · rw [if_neg hp]
        split at hb
        · rw [dist] at hb
          exact hab (or0 _ _ hb).1
        · exact hab hb
  exact key _ _ _ id hm

/-- A write of a write-only field: nothing is stored, and the register has the effect of the write. -/
theorem writeField_wo {m : Master} {f : Fld} {i v : Nat} {d : RegDesc} (hs : Memory.wf resetWord s.regs)
    (hd : findReg (f.addr i) = some (d, i)) (hf : d.fields.any (fun x => x.fld == f) = true)
    (hb : d.base + d.stride * i = f.addr i) (hm : f.addr i < 0x10000000)
    (hon : domainOn s (regDomain (f.addr i)) = true) (hr : roleAbsent s d i = false)
    (hw : accessBehind s m (f.addr i) = false)
    (g1 : rcMask.fieldBits f &&& ~~~ (bitsWhere d (fun _ => true) &&& ~~~ BitVec.ofNat 32 (arrayReserved d i)) = 0)
    (g2 : rcMask.fieldBits f &&& bitsWhere d (fun x => x != .wo) = 0)
    (g3 : rcMask.fieldBits f &&& ~~~ BitVec.ofNat 32 (absentBits s d i) &&& ~~~ BitVec.ofNat 32 (arrayReserved d i) = rcMask.fieldBits f) :
    writeField m f i v s = writeEffect d i (rcMask.fieldBits f) (wordOf (v % 2 ^ (f.hi + 1 - f.lo) * 2 ^ f.lo)) s s := by
  unfold writeField
  rw [writeInst_eq hd hf hb hm hon hr hw g1 (bitsWhere_sub (by intro x; cases x <;> simp) g2) g3 (set := 0)
    (bitsWhere_sub (by intro x; cases x <;> simp [Access.writes]) g2) (bitsWhere_sub (by intro x; cases x <;> simp) g2)
    (bitsWhere_sub (by intro x; cases x <;> simp) g2)]
  congr 1
  have : ∀ a b c : Word, (((a &&& ~~~ (0 : Word)) ||| (b &&& 0)) &&& ~~~ c) ||| (a &&& c) = a := by
    intro a b c
    rw [show ~~~ (0 : Word) = BitVec.allOnes 32 from rfl, BitVec.and_allOnes, show b &&& (0 : Word) = 0 from BitVec.and_zero,
      show a ||| (0 : Word) = a from BitVec.or_zero]
    apply BitVec.eq_of_getLsbD_eq
    intro i hi
    simp only [BitVec.getLsbD_or, BitVec.getLsbD_and, BitVec.getLsbD_not, hi, decide_true, Bool.true_and]
    cases a.getLsbD i <;> cases c.getLsbD i <;> rfl
  rw [this]
  exact setRegWord_self hs

/-- A write of a plain RW field: the field takes the value, and the register has the effect of the write. -/
theorem writeField_rw {m : Master} {f : Fld} {i v : Nat} {d : RegDesc} (hfit : f.fits) (hi : i < f.count)
    (hd : findReg (f.addr i) = some (d, i)) (hf : d.fields.any (fun x => x.fld == f) = true)
    (hb : d.base + d.stride * i = f.addr i) (hm : f.addr i < 0x10000000)
    (hon : domainOn s (regDomain (f.addr i)) = true) (hr : roleAbsent s d i = false)
    (hw : accessBehind s m (f.addr i) = false)
    (g1 : rcMask.fieldBits f &&& ~~~ (bitsWhere d (fun _ => true) &&& ~~~ BitVec.ofNat 32 (arrayReserved d i)) = 0)
    (g2 : rcMask.fieldBits f &&& bitsWhere d (fun x => x != .rw) = 0)
    (g3 : rcMask.fieldBits f &&& ~~~ BitVec.ofNat 32 (absentBits s d i) &&& ~~~ BitVec.ofNat 32 (arrayReserved d i) = rcMask.fieldBits f)
    (g4 : rcMask.fieldBits f &&& bitsWhere d (Access.writes s) = rcMask.fieldBits f) (g5 : ownBits d = 0) :
    writeField m f i v s = writeEffect d i (rcMask.fieldBits f) (wordOf (v % 2 ^ (f.hi + 1 - f.lo) * 2 ^ f.lo)) s (setFldAt f i v s) := by
  unfold writeField
  rw [writeInst_eq hd hf hb hm hon hr hw g1 (bitsWhere_sub (by intro x; cases x <;> simp) g2) g3 g4
    (bitsWhere_sub (by intro x; cases x <;> simp) g2) (bitsWhere_sub (by intro x; cases x <;> simp) g2), g5]
  congr 1
  rw [field_written hfit]
  have : ∀ a b : Word, (a &&& ~~~ (0 : Word)) ||| (b &&& 0) = a := by
    intro a b
    rw [show ~~~ (0 : Word) = BitVec.allOnes 32 from rfl, BitVec.and_allOnes, show b &&& (0 : Word) = 0 from BitVec.and_zero,
      show a ||| (0 : Word) = a from BitVec.or_zero]
  rw [this]
  unfold setFldAt setInst setRegWord
  rw [if_pos hi]

theorem bitsWhere_or {d : RegDesc} {p q : Access → Bool} : bitsWhere d (fun x => p x || q x) = bitsWhere d p ||| bitsWhere d q := by
  have key : ∀ (l : List FieldDesc) (a b : Word), l.foldl (fun m f => if (p f.acc || q f.acc) = true then m ||| rcMask.fieldBits f.fld else m) (a ||| b) =
      l.foldl (fun m f => if p f.acc = true then m ||| rcMask.fieldBits f.fld else m) a ||| l.foldl (fun m f => if q f.acc = true then m ||| rcMask.fieldBits f.fld else m) b := by
    intro l
    induction l with
    | nil => intro a b; rfl
    | cons x t ih =>
      intro a b
      simp only [List.foldl_cons]
      rw [← ih]
      congr 1
      have comm : ∀ a b c : Word, a ||| b ||| c = (a ||| c) ||| (b ||| c) := by
        intro a b c; apply BitVec.eq_of_getLsbD_eq; intro i hi
        simp only [BitVec.getLsbD_or]
        cases a.getLsbD i <;> cases b.getLsbD i <;> cases c.getLsbD i <;> rfl
      have c1 : ∀ a b c : Word, a ||| b ||| c = (a ||| c) ||| b := by intro a b c; ac_rfl
      have c2 : ∀ a b c : Word, a ||| b ||| c = a ||| (b ||| c) := by intro a b c; ac_rfl
      cases p x.acc <;> cases q x.acc <;> simp only [Bool.or_false, Bool.or_true, Bool.false_or, Bool.true_or, if_true, Bool.false_eq_true, if_false]
      · exact c2 _ _ _
      · exact c1 _ _ _
      · exact comm _ _ _
  have := key d.fields 0 0
  simp only [show (0 : Word) ||| 0 = 0 from rfl] at this
  exact this

/-- A write of plain RW bits and of write-only bits: the RW bits take their values, and the register has the effect of the
write. -/
theorem writeInst_plain {m : Master} {f : Fld} {i : Nat} {mask v set : Word} {d : RegDesc} {s : State}
    (hd : findReg (f.addr i) = some (d, i)) (hf : d.fields.any (fun x => x.fld == f) = true)
    (hb : d.base + d.stride * i = f.addr i) (hm : f.addr i < 0x10000000)
    (hon : domainOn s (regDomain (f.addr i)) = true) (hr : roleAbsent s d i = false)
    (hw : accessBehind s m (f.addr i) = false)
    (g1 : mask &&& ~~~ (bitsWhere d (fun _ => true) &&& ~~~ BitVec.ofNat 32 (arrayReserved d i)) = 0)
    (g2 : mask &&& bitsWhere d (fun x => x != .rw && x != .wo) = 0)
    (g3 : mask &&& ~~~ BitVec.ofNat 32 (absentBits s d i) &&& ~~~ BitVec.ofNat 32 (arrayReserved d i) = mask)
    (g4 : mask &&& bitsWhere d (fun x => x == .rw) = set) (g5 : ownBits d = 0) :
    writeInst m f i mask v s = writeEffect d i mask v s
      (setRegWord (f.addr i) ((regWord s (f.addr i) &&& ~~~ set) ||| (v &&& set)) s) := by
  rw [writeInst_eq hd hf hb hm hon hr hw g1 (bitsWhere_sub (by intro x; cases x <;> simp) g2) g3 (set := set) ?_
    (bitsWhere_sub (by intro x; cases x <;> simp) g2) (bitsWhere_sub (by intro x; cases x <;> simp) g2), g5]
  · congr 2
    rw [show ~~~ (0 : Word) = BitVec.allOnes 32 from rfl, BitVec.and_allOnes]
    exact (congrArg _ BitVec.and_zero).trans BitVec.or_zero
  · have e : bitsWhere d (Access.writes s) = bitsWhere d (fun x => x == .rw) ||| bitsWhere d (fun x => x.writes s && x != .rw) := by
      rw [← bitsWhere_or]
      congr 1
      funext x
      cases x <;> generalize hg : Access.writes s _ = b <;> cases b <;> first | rfl | exact absurd hg (by simp [Access.writes])
    have dist : ∀ m a b : Word, m &&& (a ||| b) = (m &&& a) ||| (m &&& b) := by
      intro m a b; apply BitVec.eq_of_getLsbD_eq; intro i hi; simp [Bool.and_or_distrib_left]
    rw [e, dist, g4, bitsWhere_sub (p := fun x => x.writes s && x != .rw) (by intro x; cases x <;> simp [Access.writes]) g2]
    exact BitVec.or_zero

end Sys2Proof.Machine
end

