-- ==== Sys2Proof/Laws/Events.lean ====
section
/-! SUPPORT. What a raised event leaves in the collector: the sticky and pending bits, the first cause, the class, and the reaction that starts. -/

namespace Sys2Proof.Machine

/-! ### Bits -/
theorem bitOf_withBits_self {n i : Nat} {b : Bool} : bitOf (withBits n i i (b2n b)) i = b := by
  have h := @bitsOf_withBits n i i (b2n b) (Nat.le_refl i)
  unfold bitsOf at h
  unfold bitOf
  rw [show i + 1 - i = 1 by omega, Nat.pow_one] at h
  rw [h]
  cases b <;> rfl

theorem bitOf_withBits_ne {n i j : Nat} {v : Nat} (h : j ≠ i) : bitOf (withBits n i i v) j = bitOf n j := by
  have e : ∀ n, bitOf n j = (bitsOf n j j == 1) := by
    intro n; unfold bitOf bitsOf; rw [show j + 1 - j = 1 by omega, Nat.pow_one]
  rw [e, e]
  rcases Nat.lt_or_gt_of_ne h with h | h
  · rw [bitsOf_withBits_below (Nat.le_refl i) h (Nat.le_refl j)]
  · rw [bitsOf_withBits_above (Nat.le_refl i) h]

theorem withBits_lt' {n i : Nat} {v : Nat} (hi : i < 32) (hn : n < 2 ^ 32) : withBits n i i v < 2 ^ 32 :=
  withBits_lt (Nat.le_refl i) hi hn

/-- Whether bit `n mod 32` of word `n / 32` of a family of group words is 1. -/
theorem groupBit_set {f : Fld} {s : State} {n m : Nat} {b : Bool} (hs : Memory.wf resetWord s.regs) (hf : f.fits)
    (h0 : f.lo = 0) (h1 : f.hi = 31) (hd : 0 < f.stride) (hn : n / 32 < f.count) :
    bitOf (fldAt (setGroupBit f n b s) f (m / 32)) (m % 32) = if m = n then b else bitOf (fldAt s f (m / 32)) (m % 32) := by
  unfold setGroupBit
  by_cases hg : m / 32 = n / 32
  · rw [hg, fldAt_setFldAt_same hs hf hn, h0, h1, Nat.mod_eq_of_lt (withBits_lt' (Nat.mod_lt _ (by decide)) (by
      have := @fldAt_lt s f (n / 32); rwa [h0, h1] at this))]
    by_cases hm : m = n
    · subst hm; rw [if_pos rfl, bitOf_withBits_self]
    · rw [if_neg hm, bitOf_withBits_ne (by omega)]
  · rw [fldAt_setFldAt_ne, if_neg (by rintro rfl; exact hg rfl)]
    intro e
    apply hg
    unfold Fld.addr at e
    exact Nat.eq_of_mul_eq_mul_left hd (by omega)

variable {s t : State}

theorem syncDry_fld {f : Fld} {i : Nat} (h : f.addr i ≠ F.LD_STAT_dry_causes.base) : fldAt (syncDry s) f i = fldAt s f i := by
  unfold syncDry
  split
  · exact fldAt_setFldAt_ne h
  · rfl

theorem syncDry_wf (h : Memory.wf resetWord s.regs) : Memory.wf resetWord (syncDry s).regs := by
  unfold syncDry
  split
  · exact setFldAt_wf h
  · exact h

theorem endReaction_wf (h : Memory.wf resetWord s.regs) : Memory.wf resetWord (endReaction s).regs := by
  unfold endReaction
  split
  · refine syncDry_wf ?_
    exact setFldAt_wf (f := F.EVT_CAUSE_running) (i := 0) (v := b2n false) h
  · exact h

theorem autoEnd_wf (h : Memory.wf resetWord s.regs) : Memory.wf resetWord (autoEnd s).regs := by
  unfold autoEnd
  dsimp only
  split
  · exact endReaction_wf h
  · exact h

/-- Ending a reaction leaves every field but EVT_CAUSE.running and LD_STAT's. -/
theorem endReaction_fld {f : Fld} {i : Nat} (hs : Memory.wf resetWord s.regs) (hf : f.fits)
    (h : f.addr i ≠ F.LD_STAT_dry_causes.base) (h' : f.addr i ≠ F.EVT_CAUSE_running.base ∨ f.hi < 31) :
    fldAt (endReaction s) f i = fldAt s f i := by
  unfold endReaction
  split
  · rw [syncDry_fld h]
    change fldAt (setFldAt F.EVT_CAUSE_running 0 (b2n false) s) f i = fldAt s f i
    by_cases ha : f.addr i = F.EVT_CAUSE_running.base
    · exact fldAt_setFldAt_other hs (by decide) hf ha (.inr (h'.resolve_left (fun x => x ha)))
    · exact fldAt_setFldAt_ne ha
  · rfl

theorem autoEnd_fld {f : Fld} {i : Nat} (hs : Memory.wf resetWord s.regs) (hf : f.fits)
    (h : f.addr i ≠ F.LD_STAT_dry_causes.base) (h' : f.addr i ≠ F.EVT_CAUSE_running.base ∨ f.hi < 31) :
    fldAt (autoEnd s) f i = fldAt s f i := by
  unfold autoEnd
  dsimp only
  split
  · exact endReaction_fld hs hf h h'
  · rfl

/-- When a running reaction ends, no reaction runs, its actions stop, and the next cycle is to come (R371). -/
theorem endReaction_ends (hs : Memory.wf resetWord s.regs) : reacting (endReaction s) = false := by
  unfold endReaction
  split
  · unfold reacting flag flagAt
    rw [syncDry_fld (by decide)]
    change (fldAt (setFldAt F.EVT_CAUSE_running 0 (b2n false) s) F.EVT_CAUSE_running 0 == 1) = false
    rw [fldAt_setFldAt_same hs (by decide) (by decide)]
    rfl
  · simpa using ‹¬ reacting s = true›

/-- The reaction that runs is due to end by itself (R371). -/
def endDue (s : State) : Bool :=
  reacting s && bitOf (reactBits s (fld s F.EVT_CAUSE_class)) 3 &&
    (!bitOf (reactBits s (fld s F.EVT_CAUSE_class)) 1 || s.evt.notes.isEmpty)

theorem autoEnd_eq (s : State) : autoEnd s = if endDue s then endReaction s else s := rfl

theorem reacting_autoEnd (hs : Memory.wf resetWord s.regs) : reacting (autoEnd s) = (reacting s && !endDue s) := by
  rw [autoEnd_eq]
  split
  · rename_i h
    rw [endReaction_ends hs, h]; simp
  · rename_i h
    simp [h]

set_option maxRecDepth 4000 in
theorem srcExists_lt {n : Nat} (h : srcExists n = true) : n < 256 := by
  have key : ∀ r ∈ evtSources, r.1 < 256 := by decide
  unfold srcExists at h
  rw [List.any_eq_true] at h
  obtain ⟨r, hr, e⟩ := h
  have := key r hr
  have e' : r.1 = n := by simpa using e
  omega

/-- Bits of a family of group words after several have been set. -/
theorem groupBits_set {f : Fld} {l : List Nat} {s : State} {m : Nat} (hs : Memory.wf resetWord s.regs) (hf : f.fits)
    (h0 : f.lo = 0) (h1 : f.hi = 31) (hd : 0 < f.stride) (hl : ∀ n ∈ l, n / 32 < f.count) :
    bitOf (fldAt (forEach l (fun n st => setGroupBit f n true st) s) f (m / 32)) (m % 32) =
      (bitOf (fldAt s f (m / 32)) (m % 32) || l.contains m) := by
  unfold forEach
  induction l generalizing s with
  | nil => simp
  | cons x t ih =>
    rw [List.foldl_cons, ih (s := setGroupBit f x true s) (setFldAt_wf hs) (fun n hn => hl n (List.mem_cons_of_mem _ hn)),
      groupBit_set hs hf h0 h1 hd (hl x (List.mem_cons_self ..))]
    by_cases e : m = x
    · subst e; simp
    · rw [if_neg e]
      simp [List.contains_cons, e]

/-- Setting bits of a family of group words leaves every other register. -/
theorem groupBits_reg {f : Fld} {l : List Nat} {s : State} {a : Nat} (h : ∀ n ∈ l, a ≠ f.addr (n / 32)) :
    regWord (forEach l (fun n st => setGroupBit f n true st) s) a = regWord s a := by
  unfold forEach
  induction l generalizing s with
  | nil => rfl
  | cons x t ih =>
    rw [List.foldl_cons, ih (fun n hn => h n (List.mem_cons_of_mem _ hn))]
    exact regWord_setFldAt_ne (h x (List.mem_cons_self ..))


theorem groupBits_wf {f : Fld} {l : List Nat} {s : State} (hs : Memory.wf resetWord s.regs) :
    Memory.wf resetWord (forEach l (fun n st => setGroupBit f n true st) s).regs := by
  unfold forEach
  induction l generalizing s with
  | nil => exact hs
  | cons x t ih => rw [List.foldl_cons]; exact ih (setFldAt_wf hs)

theorem max_foldl {l : List Nat} {g : Nat → Nat} {c a : Nat} (ha : a ≤ c) (hl : ∀ m ∈ l, g m ≤ c) :
    l.foldl (fun m n => max m (g n)) a ≤ c := by
  induction l generalizing a with
  | nil => exact ha
  | cons x t ih =>
    exact ih (Nat.max_le.2 ⟨ha, hl x (List.mem_cons_self ..)⟩) (fun m hm => hl m (List.mem_cons_of_mem _ hm))

theorem le_max_foldl {l : List Nat} {g : Nat → Nat} {n a : Nat} (h : n ∈ l ∨ g n ≤ a) :
    g n ≤ l.foldl (fun m n => max m (g n)) a := by
  induction l generalizing a with
  | nil => simpa using h
  | cons x t ih =>
    refine ih ?_
    rcases h with h | h
    · rcases List.mem_cons.1 h with rfl | h
      · exact .inr (Nat.le_max_right ..)
      · exact .inl h
    · exact .inr (Nat.le_trans h (Nat.le_max_left ..))

/-- The highest class, and the lowest source of it. -/
theorem topClass_eq {l : List Nat} {n : Nat} (hn : n ∈ l) (h : ∀ m ∈ l, srcClass s m ≤ srcClass s n) :
    topClass s l = srcClass s n :=
  Nat.le_antisymm (max_foldl (Nat.zero_le _) h) (le_max_foldl (.inl hn))

theorem lowestOf_eq {l : List Nat} {n : Nat} (hn : n ∈ l) (h : ∀ m ∈ l, srcClass s m = srcClass s n → n ≤ m) :
    lowestOf s (srcClass s n) l = n := by
  unfold lowestOf
  have : (l.filter fun m => srcClass s m == srcClass s n).min? = some n := by
    rw [List.min?_eq_some_iff]
    refine ⟨List.mem_filter.2 ⟨hn, by simp⟩, fun m hm => ?_⟩
    have := List.mem_filter.1 hm
    exact h m this.1 (by simpa using this.2)
  rw [this]; rfl

theorem notifyHk_regs {a b : Nat} {c : Bool} : (notifyHk a b c s).regs = s.regs := by
  unfold notifyHk
  split <;> rfl

/-- EVT_CAUSE as a reaction starts (R369). -/
theorem startReaction_cause {first cls merged : Nat} (hs : Memory.wf resetWord s.regs) :
    regWord (startReaction first cls merged s) F.EVT_CAUSE_first.base =
      BitVec.ofNat 32 (2 ^ 31 + cls * 2 ^ 28 + cls * 2 ^ 26 + min 255 merged * 2 ^ 8 + first) := by
  unfold startReaction
  dsimp only
  unfold regWord
  rw [notifyHk_regs]
  exact regWord_setInst_same (f := F.EVT_CAUSE_first) (i := 0) (setFldAt_wf (setFldAt_wf hs)) (by decide)

theorem startReaction_reg {first cls merged a : Nat} (h : a ≠ F.EVT_CAUSE_first.base)
    (h1 : a ≠ F.EVT_CAUSE_SEC_value.base) (h2 : a ≠ F.EVT_CAUSE_NS_value.base) :
    regWord (startReaction first cls merged s) a = regWord s a := by
  unfold startReaction
  dsimp only
  unfold regWord
  rw [notifyHk_regs]
  exact (regWord_setInst_ne (f := F.EVT_CAUSE_first) (i := 0) h).trans
    ((regWord_setFldAt_ne (f := F.EVT_CAUSE_NS_value) (i := 0) h2).trans (regWord_setFldAt_ne (f := F.EVT_CAUSE_SEC_value) (i := 0) h1))

theorem startReaction_wf {first cls merged : Nat} (hs : Memory.wf resetWord s.regs) :
    Memory.wf resetWord (startReaction first cls merged s).regs := by
  unfold startReaction
  dsimp only
  rw [notifyHk_regs]
  exact setInst_wf (f := F.EVT_CAUSE_first) (i := 0) (setFldAt_wf (setFldAt_wf hs))

/-- The wall time of the first cause (R369). -/
theorem startReaction_time {first cls merged : Nat} (hs : Memory.wf resetWord s.regs) :
    fld (startReaction first cls merged s) F.EVT_CAUSE_SEC_value = secOf s.time.counter % 2 ^ 32 ∧
      fld (startReaction first cls merged s) F.EVT_CAUSE_NS_value = nsOf s.time.counter := by
  have e : ∀ f : Fld, f.addr 0 ≠ F.EVT_CAUSE_first.base → fld (startReaction first cls merged s) f =
      fld (setFld F.EVT_CAUSE_NS_value (nsOf s.time.counter) (setFld F.EVT_CAUSE_SEC_value (secOf s.time.counter % 2 ^ 32) s)) f := by
    intro f hf
    unfold fld fldAt startReaction
    dsimp only
    unfold regWord
    rw [notifyHk_regs]
    exact congrArg (fun w : Word => bitsOf w.toNat f.hi f.lo) (regWord_setInst_ne (f := F.EVT_CAUSE_first) (i := 0) hf)
  refine ⟨(e _ (by decide)).trans ?_, (e _ (by decide)).trans ?_⟩
  · unfold fld setFld
    rw [fldAt_setFldAt_ne (by decide), fldAt_setFldAt_same hs (by decide) (by decide)]
    exact Nat.mod_mod _ _
  · unfold fld setFld
    rw [fldAt_setFldAt_same (setFldAt_wf hs) (by decide) (by decide)]
    have : nsOf s.time.counter < 10 ^ 9 := Nat.mod_lt _ (by decide)
    exact Nat.mod_eq_of_lt (Nat.lt_trans this (by decide))

/-- The state of a raise once the sticky bits of its sources `srcs` are set. -/
theorem marked_reg {srcs : List Nat} {a : Nat} (hl : ∀ n ∈ srcs, n < 256) (ha : a < 0x10100 ∨ 0x10120 ≤ a) :
    regWord (forEach srcs (fun n st => setGroupBit F.EVT_STAT_sticky n true st) s) a = regWord s a := by
  refine groupBits_reg fun n hn e => ?_
  have := hl n hn
  rw [e] at ha
  simp only [F.EVT_STAT_sticky, Fld.addr] at ha
  omega

theorem srcClass_eq {n : Nat} (h : ∀ a, 0x10140 ≤ a → regWord t a = regWord s a) : srcClass t n = srcClass s n := by
  unfold srcClass fldAt
  rw [h]
  simp only [F.EVT_CLASS_class, Fld.addr]
  omega

theorem eligible_eq {n : Nat} (h : ∀ a, 0x10140 ≤ a → regWord t a = regWord s a) : eligible t n = eligible s n := by
  unfold eligible
  rw [srcClass_eq h]
  unfold maskBit fldAt
  rw [h]
  simp only [F.EVT_MASK_mask, Fld.addr]
  omega

theorem reactBits_eq {c : Nat} (h : regWord t F.EVT_REACT_class1.base = regWord s F.EVT_REACT_class1.base) :
    reactBits t c = reactBits s c := by
  unfold reactBits
  have e : ∀ f : Fld, f.addr 0 = F.EVT_REACT_class1.base → fld t f = fld s f := by
    intro f hf; unfold fld fldAt; rw [hf, h]
  split
  · exact e _ rfl
  · exact e _ rfl
  · exact e _ rfl
  · rfl

/-- A raise with no reaction running, of sources of which `n` is to be the first cause (R369). -/
theorem raiseMany_start {l : List Nat} {n : Nat} (hr : reacting s = false)
    (hn : n ∈ l) (he : srcExists n = true) (hel : eligible s n = true)
    (hmax : ∀ m ∈ l, srcExists m = true → eligible s m = true →
      srcClass s m < srcClass s n ∨ (srcClass s m = srcClass s n ∧ n ≤ m)) :
    raiseMany l s = autoEnd (syncDry (forEach
      ((List.range 256).filter (fun m => l.contains m && srcExists m && eligible s m && m != n))
      (fun m st => setGroupBit F.EVT_PEND_pending m true st)
      (startReaction n (srcClass s n)
        ((List.range 256).filter (fun m => l.contains m && srcExists m && eligible s m && m != n)).length
        (forEach ((List.range 256).filter (fun n => l.contains n && srcExists n))
          (fun n st => setGroupBit F.EVT_STAT_sticky n true st) s)))) := by
  unfold raiseMany
  dsimp only
  generalize hsr : (List.range 256).filter (fun n => l.contains n && srcExists n) = srcs
  have hl : ∀ m ∈ srcs, m < 256 := fun m hm => List.mem_range.1 (List.mem_filter.1 (hsr ▸ hm)).1
  have hreg : ∀ a, a < 0x10100 ∨ 0x10120 ≤ a → regWord (forEach srcs (fun n st => setGroupBit F.EVT_STAT_sticky n true st) s) a =
      regWord s a := fun a ha => marked_reg hl ha
  generalize forEach srcs (fun n st => setGroupBit F.EVT_STAT_sticky n true st) s = s1 at hreg ⊢
  have hcl : ∀ m, srcClass s1 m = srcClass s m := fun m => srcClass_eq fun a ha => hreg a (by omega)
  have hE : ∀ m, eligible s1 m = eligible s m := fun m => eligible_eq fun a ha => hreg a (by omega)
  have hel' : srcs.filter (eligible s1) = srcs.filter (eligible s) := by congr 1; funext m; exact hE m
  rw [hel']
  have hmem : n ∈ srcs.filter (eligible s) := by
    rw [← hsr]
    refine List.mem_filter.2 ⟨List.mem_filter.2 ⟨List.mem_range.2 (srcExists_lt he), by simp [hn, he]⟩, hel⟩
  have hex : ∀ m ∈ srcs.filter (eligible s), m ∈ l ∧ srcExists m = true ∧ eligible s m = true := by
    intro m hm
    rw [← hsr] at hm
    have h1 := List.mem_filter.1 hm
    have h2 := (List.mem_filter.1 h1.1).2
    simp only [Bool.and_eq_true, List.contains_iff_mem] at h2
    exact ⟨h2.1, h2.2, h1.2⟩
  have hne : (srcs.filter (eligible s)).isEmpty = false := by
    rw [Bool.eq_false_iff]
    intro e
    rw [List.isEmpty_iff.1 e] at hmem
    cases hmem
  have hr1 : reacting s1 = false := by
    rw [← hr]; unfold reacting flag flagAt fldAt; rw [hreg _ (by decide)]
  have htop : topClass s1 (srcs.filter (eligible s)) = srcClass s n := by
    rw [← hcl]
    refine topClass_eq hmem fun m hm => ?_
    rw [hcl, hcl]
    obtain ⟨a, b, c⟩ := hex m hm
    rcases hmax m a b c with h | h <;> omega
  have hlow : lowestOf s1 (srcClass s n) (srcs.filter (eligible s)) = n := by
    rw [← hcl]
    refine lowestOf_eq hmem fun m hm e => ?_
    rw [hcl, hcl] at e
    obtain ⟨a, b, c⟩ := hex m hm
    rcases hmax m a b c with h | h <;> omega
  rw [hne, hr1, htop, hlow]
  simp only [Bool.false_eq_true, if_false]
  have hrest : (srcs.filter (eligible s)).filter (fun m => m != n) =
      (List.range 256).filter (fun m => l.contains m && srcExists m && eligible s m && m != n) := by
    rw [← hsr, List.filter_filter, List.filter_filter]
    congr 1
    funext m
    cases l.contains m <;> cases srcExists m <;> cases eligible s m <;> cases m != n <;> rfl
  rw [hrest]

theorem syncDry_evt : (syncDry s).evt = s.evt := by
  unfold syncDry
  split <;> rfl

theorem endReaction_notes : (endReaction s).evt.notes = s.evt.notes := by
  unfold endReaction
  split
  · rw [syncDry_evt]
    rfl
  · rfl

theorem autoEnd_notes : (autoEnd s).evt.notes = s.evt.notes := by
  rw [autoEnd_eq]
  split
  · exact endReaction_notes
  · rfl

theorem groupBits_evt {f : Fld} {l : List Nat} : (forEach l (fun n st => setGroupBit f n true st) s).evt = s.evt := by
  unfold forEach
  induction l generalizing s with
  | nil => rfl
  | cons x t ih => rw [List.foldl_cons, ih]; rfl

theorem notifyHk_notes {a b : Nat} {c : Bool} : (notifyHk a b c s).evt.notes =
    if bitOf (actingBits s) 1 then s.evt.notes ++ [{ source := a, cls := b, escalation := c }] else s.evt.notes := by
  unfold notifyHk
  split <;> rfl

/-- Fields of EVT_CAUSE as a reaction starts. -/
theorem startReaction_fld {first cls merged : Nat} {f : Fld} (hs : Memory.wf resetWord s.regs) (hc : cls < 4) (hf : first < 256)
    (ha : f.addr 0 = F.EVT_CAUSE_first.base) :
    fld (startReaction first cls merged s) f =
      bitsOf (2 ^ 31 + cls * 2 ^ 28 + cls * 2 ^ 26 + min 255 merged * 2 ^ 8 + first) f.hi f.lo := by
  have h255 : min 255 merged ≤ 255 := Nat.min_le_left ..
  have hlt : 2 ^ 31 + cls * 2 ^ 28 + cls * 2 ^ 26 + min 255 merged * 2 ^ 8 + first < 2 ^ 32 := by
    generalize min 255 merged = k at h255 ⊢
    omega
  unfold fld fldAt
  rw [ha, startReaction_cause hs, BitVec.toNat_ofNat, Nat.mod_eq_of_lt hlt]

theorem startReaction_run {first cls merged : Nat} (hs : Memory.wf resetWord s.regs) (hc : cls < 4) (hf : first < 256) :
    fld (startReaction first cls merged s) F.EVT_CAUSE_running = 1 := by
  rw [startReaction_fld hs hc hf rfl]
  have h255 : min 255 merged ≤ 255 := Nat.min_le_left ..
  generalize min 255 merged = k at h255 ⊢
  simp only [bitsOf, F.EVT_CAUSE_running]
  have : cls = 0 ∨ cls = 1 ∨ cls = 2 ∨ cls = 3 := by omega
  rcases this with rfl | rfl | rfl | rfl <;> omega

theorem startReaction_class {first cls merged : Nat} (hs : Memory.wf resetWord s.regs) (hc : cls < 4) (hf : first < 256) :
    fld (startReaction first cls merged s) F.EVT_CAUSE_class = cls := by
  rw [startReaction_fld hs hc hf rfl]
  have h255 : min 255 merged ≤ 255 := Nat.min_le_left ..
  generalize min 255 merged = k at h255 ⊢
  simp only [bitsOf, F.EVT_CAUSE_class]
  have : cls = 0 ∨ cls = 1 ∨ cls = 2 ∨ cls = 3 := by omega
  rcases this with rfl | rfl | rfl | rfl <;> omega

/-- The notification of a start (R368). -/
theorem startReaction_notes {first cls merged : Nat} (hs : Memory.wf resetWord s.regs) (hc : cls < 4) (hf : first < 256) :
    (startReaction first cls merged s).evt.notes =
      if bitOf (reactBits s cls) 1 then s.evt.notes ++ [{ source := first, cls := cls, escalation := false }]
      else s.evt.notes := by
  have hrun := startReaction_run (merged := merged) hs hc hf
  have hcls := startReaction_class (merged := merged) hs hc hf
  have hR := reactBits_eq (c := cls) (startReaction_reg (first := first) (cls := cls) (merged := merged) (s := s)
    (a := F.EVT_REACT_class1.base) (by decide) (by decide) (by decide))
  obtain ⟨u, hu, hue⟩ : ∃ u, startReaction first cls merged s =
      notifyHk first cls false (setEvt (fun e => { e with prior := 0, ended := false }) u) ∧ u.evt = s.evt := ⟨_, rfl, rfl⟩
  rw [hu] at hrun hcls hR ⊢
  have hn : u.evt.notes = s.evt.notes := by rw [hue]
  have hrg : ∀ f : Fld, fld (notifyHk first cls false (setEvt (fun e => { e with prior := 0, ended := false }) u)) f = fld u f := by
    intro f; unfold fld fldAt regWord; rw [notifyHk_regs]; rfl
  rw [hrg] at hrun hcls
  have hR' : reactBits u cls = reactBits s cls := by
    rw [← hR]; unfold reactBits; simp only [hrg]
  rw [notifyHk_notes]
  have hset : ∀ f : Fld, fld (setEvt (fun e => { e with prior := 0, ended := false }) u) f = fld u f := fun _ => rfl
  have hpr : (setEvt (fun e => { e with prior := 0, ended := false }) u).evt.prior = 0 := rfl
  have hnt : (setEvt (fun e => { e with prior := 0, ended := false }) u).evt.notes = u.evt.notes := rfl
  generalize setEvt (fun e => { e with prior := 0, ended := false }) u = w at hset hpr hnt ⊢
  have hact : actingBits w = reactBits s cls := by
    have hrw : reacting w = true := by
      unfold reacting flag flagAt
      change (fld w F.EVT_CAUSE_running == 1) = true
      rw [hset, hrun]
      rfl
    have hbw : reactBits w cls = reactBits s cls := by
      rw [← hR']
      unfold reactBits
      simp only [hset]
    unfold actingBits
    rw [if_pos hrw, hset, hcls, hpr, hbw]
    exact Nat.zero_or _
  rw [hact, hnt, hn]

end Sys2Proof.Machine
end

