-- ==== Sys2Proof/Laws/Bits.lean ====
section
/-! SUPPORT. Changes told bit by bit: what a write of a field leaves in every other bit of the registers. -/

namespace Sys2Proof.Machine

variable {ps : List Part} {fs : List (Fld × Nat)} {s t : State}

/-- `Sets`, with the registers of the new state in canonical form. -/
structure SetsC (ps : List Part) (fs : List (Fld × Nat)) (s t : State) : Prop extends Sets ps fs s t where
  wf : Memory.wf resetWord t.regs

theorem SetsC.refl (h : Memory.wf resetWord s.regs) : SetsC ps fs s s :=
  ⟨⟨rfl, fun p _ => Part.same_refl p s, fun _ _ _ => rfl⟩, h⟩

/-- A part named in the list changes. -/
theorem SetsC.part {u : State} (h : SetsC ps fs s t) (e : u.regs = t.regs) (q : u.pending = t.pending)
    (hp : ∀ p, p ∉ ps → p.same t u) : SetsC ps fs s u :=
  ⟨⟨q.trans h.pending, fun p m => Part.same_trans (h.parts p m) (hp p m), fun a k x => by
    rw [← h.bits a k x]; unfold regWord; rw [e]⟩, e ▸ h.wf⟩

/-- One field named in the list is written. -/
theorem SetsC.setFldAt {f : Fld} {i v : Nat} (h : SetsC ps fs s t) (hf : f.fits) (hm : (f, i) ∈ fs) :
    SetsC ps fs s (setFldAt f i v t) := by
  refine ⟨⟨h.pending, fun p m => Part.same_trans (h.parts p m) (by cases p <;> rfl), fun a k x => ?_⟩, setFldAt_wf h.wf⟩
  rw [← h.bits a k x]
  by_cases e : a = f.addr i
  · by_cases hi : i < f.count
    · have hx := x _ hm e
      unfold Machine.setFldAt
      rw [e, regWord_setInst_same h.wf hi, BitVec.getLsbD_ofNat, testBit_withBits hf.1, if_neg (by simp at hx ⊢; omega)]
      by_cases k32 : k < 32
      · simp [k32, BitVec.testBit_toNat]
      · rw [BitVec.getLsbD_of_ge _ _ (by omega)]; simp [k32]
    · unfold Machine.setFldAt
      rw [setInst_none hi]
  · rw [regWord_setFldAt_ne e]

theorem SetsC.forEach {α : Type} {l : List α} {f : α → State → State}
    (hf : ∀ x ∈ l, ∀ t, SetsC ps fs s t → SetsC ps fs s (f x t)) (h : SetsC ps fs s t) : SetsC ps fs s (Machine.forEach l f t) := by
  unfold Machine.forEach
  induction l generalizing t with
  | nil => exact h
  | cons x r ih => exact ih (fun y hy => hf y (List.mem_cons_of_mem _ hy)) (hf x (List.mem_cons_self ..) t h)

theorem mem_ofInst {f : Fld} {i : Nat} {l : List Fld} (h : f ∈ l) : (f, i) ∈ ofInst i l := List.mem_map_of_mem h

theorem mem_one {f : Fld} {l : List Fld} (h : f ∈ l) : (f, 0) ∈ one l := List.mem_map_of_mem h

theorem mem_each {f : Fld} {i n : Nat} {l : List Fld} (hi : i < n) (h : f ∈ l) : (f, i) ∈ each n l :=
  List.mem_flatMap.2 ⟨i, List.mem_range.2 hi, mem_ofInst h⟩

/-- What one element of a list brings about and the others keep holds after all of them. -/
theorem forEach_reach {α : Type} {P Q : State → Prop} {l : List α} {g : α → State → State} {x : α} (hx : x ∈ l)
    (hQ : ∀ y ∈ l, ∀ t, Q t → Q (g y t)) (hset : ∀ t, Q t → P (g x t)) (hkeep : ∀ y ∈ l, ∀ t, Q t → P t → P (g y t)) (h : Q s) :
    P (Machine.forEach l g s) := by
  have keep : ∀ (l' : List α) (t : State), (∀ y ∈ l', y ∈ l) → Q t → P t → P (l'.foldl (fun st y => g y st) t) := by
    intro l'
    induction l' with
    | nil => intro t _ _ hp; exact hp
    | cons y r ih =>
      intro t hl hq hp
      have hy := hl y (List.mem_cons_self ..)
      exact ih _ (fun z hz => hl z (List.mem_cons_of_mem _ hz)) (hQ y hy t hq) (hkeep y hy t hq hp)
  obtain ⟨a, b, rfl⟩ := List.append_of_mem hx
  unfold Machine.forEach
  rw [List.foldl_append, List.foldl_cons]
  have ha : Q (a.foldl (fun st y => g y st) s) := by
    have : ∀ (a' : List α) (t : State), (∀ y ∈ a', y ∈ a ++ x :: b) → Q t → Q (a'.foldl (fun st y => g y st) t) := by
      intro a'
      induction a' with
      | nil => intro t _ hq; exact hq
      | cons y r ih => intro t hl hq; exact ih _ (fun z hz => hl z (List.mem_cons_of_mem _ hz)) (hQ y (hl y (List.mem_cons_self ..)) t hq)
    exact this a s (fun y hy => List.mem_append_left _ hy) h
  exact keep b _ (fun y hy => List.mem_append_right _ (List.mem_cons_of_mem _ hy)) (hQ x hx _ ha) (hset _ ha)

/-- A field that reads 0 still does after another field is set to 0. -/
theorem fldAt_zero_keep {f g : Fld} {i j : Nat} (hs : Memory.wf resetWord s.regs) (hf : f.fits) (hg : g.fits)
    (hd : f.addr i ≠ g.addr j ∨ f = g ∨ g.hi < f.lo ∨ f.hi < g.lo) (h : fldAt s f i = 0) : fldAt (setFldAt g j 0 s) f i = 0 := by
  by_cases e : f.addr i = g.addr j
  · rcases hd with h1 | h1 | h1
    · exact absurd e h1
    · subst h1
      by_cases hj : j < f.count
      · have hw : regWord (setFldAt f j 0 s) (f.addr j) = BitVec.ofNat 32 (withBits (regWord s (f.addr j)).toNat f.hi f.lo 0) := by
          unfold setFldAt; rw [regWord_setInst_same hs hj]
        unfold fldAt
        rw [e, hw, BitVec.toNat_ofNat, Nat.mod_eq_of_lt (withBits_lt hf.1 hf.2 (BitVec.isLt _)), bitsOf_withBits hf.1, Nat.zero_mod]
      · unfold setFldAt
        rw [setInst_none hj]
        exact h
    · rw [fldAt_setFldAt_other hs hg hf e (h1.imp id id)]
      exact h
  · rw [fldAt_setFldAt_ne e]
    exact h

/-- Two fields, each with its instance, of which a write of one does not spoil a zero of the other. -/
def apart (x y : Fld × Nat) : Bool :=
  x.1.addr x.2 != y.1.addr y.2 || x.1 == y.1 || decide (x.1.hi < y.1.lo) || decide (y.1.hi < x.1.lo)

/-- Fields set to 0 one after another all read 0, and no other bit changes. -/
theorem clearAll_spec {L : List (Fld × Nat)} (hs : Memory.wf resetWord s.regs) (hf : ∀ x ∈ L, x.1.fits ∧ x.2 < x.1.count)
    (hd : L.all (fun x => L.all (apart x)) = true) :
    (∀ x ∈ L, fldAt (forEach L (fun x => setFldAt x.1 x.2 0) s) x.1 x.2 = 0) ∧
      SetsC [] L s (forEach L (fun x => setFldAt x.1 x.2 0) s) := by
  refine ⟨fun x hx => ?_, SetsC.forEach (fun y hy t ht => ht.setFldAt (hf y hy).1 hy) (SetsC.refl hs)⟩
  refine forEach_reach (P := fun t => fldAt t x.1 x.2 = 0) (Q := fun t => Memory.wf resetWord t.regs) hx
    (fun y _ t ht => setFldAt_wf ht) (fun t ht => ?_) (fun y hy t ht hz => ?_) hs
  · rw [fldAt_setFldAt_same ht (hf x hx).1 (hf x hx).2, Nat.zero_mod]
  · refine fldAt_zero_keep ht (hf x hx).1 (hf y hy).1 ?_ hz
    have := List.all_eq_true.1 (List.all_eq_true.1 hd x hx) y hy
    unfold apart at this
    simp only [Bool.or_eq_true, bne_iff_ne, beq_iff_eq, decide_eq_true_eq] at this
    rcases this with ((h | h) | h) | h
    · exact .inl h
    · exact .inr (.inl h)
    · exact .inr (.inr (.inr h))
    · exact .inr (.inr (.inl h))

/-- A clear that sets its fields to 0 one after another. -/
theorem clear_of {f : State → State} {L : List (Fld × Nat)} (e : f s = forEach L (fun x => setFldAt x.1 x.2 0) s)
    (hs : Memory.wf resetWord s.regs) (hf : ∀ x ∈ L, x.1.fits ∧ x.2 < x.1.count)
    (hd : L.all (fun x => L.all (apart x)) = true) : (∀ x ∈ L, fldAt (f s) x.1 x.2 = 0) ∧ Sets [] L s (f s) := by
  rw [e]; exact ⟨(clearAll_spec hs hf hd).1, (clearAll_spec hs hf hd).2.toSets⟩

theorem mem_each_append {f : Fld} {i n : Nat} {l : List Fld} {k : List (Fld × Nat)} (hi : i < n) (h : f ∈ l) : (f, i) ∈ each n l ++ k :=
  List.mem_append_left _ (mem_each hi h)

theorem Sets.mono {ps} {fs gs : List (Fld × Nat)} {s t : State} (h : Sets ps fs s t) (hg : ∀ x ∈ fs, x ∈ gs) : Sets ps gs s t :=
  ⟨h.pending, h.parts, fun a k hx => h.bits a k (fun x hm => hx x (hg x hm))⟩

/-! ### Changes of one part -/

theorem SetsC.emit {e : Emit} (h : SetsC ps fs s t) (hm : Part.emitted ∈ ps) : SetsC ps fs s (Machine.emit e t) :=
  h.part rfl rfl (fun p hp => by cases p <;> first | rfl | exact absurd hm hp)

theorem SetsC.setTime {f} (h : SetsC ps fs s t) (hm : Part.time ∈ ps) : SetsC ps fs s (Machine.setTime f t) :=
  h.part rfl rfl (fun p hp => by cases p <;> first | rfl | exact absurd hm hp)

theorem SetsC.setCmd {f} (h : SetsC ps fs s t) (hm : Part.cmd ∈ ps) : SetsC ps fs s (Machine.setCmd f t) :=
  h.part rfl rfl (fun p hp => by cases p <;> first | rfl | exact absurd hm hp)

theorem SetsC.setPwr {f} (h : SetsC ps fs s t) (hm : Part.pwr ∈ ps) : SetsC ps fs s (Machine.setPwr f t) :=
  h.part rfl rfl (fun p hp => by cases p <;> first | rfl | exact absurd hm hp)

theorem SetsC.setRed {f} (h : SetsC ps fs s t) (hm : Part.red ∈ ps) : SetsC ps fs s (Machine.setRed f t) :=
  h.part rfl rfl (fun p hp => by cases p <;> first | rfl | exact absurd hm hp)

theorem SetsC.setWt {f} (h : SetsC ps fs s t) (hm : Part.wt ∈ ps) : SetsC ps fs s (Machine.setWt f t) :=
  h.part rfl rfl (fun p hp => by cases p <;> first | rfl | exact absurd hm hp)

theorem SetsC.setLamp {f} (h : SetsC ps fs s t) (hm : Part.lamp ∈ ps) : SetsC ps fs s (Machine.setLamp f t) :=
  h.part rfl rfl (fun p hp => by cases p <;> first | rfl | exact absurd hm hp)

theorem SetsC.setBoot {f} (h : SetsC ps fs s t) (hm : Part.boot ∈ ps) : SetsC ps fs s (Machine.setBoot f t) :=
  h.part rfl rfl (fun p hp => by cases p <;> first | rfl | exact absurd hm hp)

theorem SetsC.setEth {f} (h : SetsC ps fs s t) (hm : Part.eth ∈ ps) : SetsC ps fs s (Machine.setEth f t) :=
  h.part rfl rfl (fun p hp => by cases p <;> first | rfl | exact absurd hm hp)

theorem SetsC.setDramc {f} (h : SetsC ps fs s t) (hm : Part.dramc ∈ ps) : SetsC ps fs s (Machine.setDramc f t) :=
  h.part rfl rfl (fun p hp => by cases p <;> first | rfl | exact absurd hm hp)

theorem SetsC.setCe {f} (h : SetsC ps fs s t) (hm : Part.ce ∈ ps) : SetsC ps fs s (Machine.setCe f t) :=
  h.part rfl rfl (fun p hp => by cases p <;> first | rfl | exact absurd hm hp)

theorem SetsC.setTherm {f} (h : SetsC ps fs s t) (hm : Part.therm ∈ ps) : SetsC ps fs s (Machine.setTherm f t) :=
  h.part rfl rfl (fun p hp => by cases p <;> first | rfl | exact absurd hm hp)

theorem SetsC.setEvt {f} (h : SetsC ps fs s t) (hm : Part.evt ∈ ps) : SetsC ps fs s (Machine.setEvt f t) :=
  h.part rfl rfl (fun p hp => by cases p <;> first | rfl | exact absurd hm hp)

theorem SetsC.setLane {i f} (h : SetsC ps fs s t) (hm : Part.lanes ∈ ps) : SetsC ps fs s (Machine.setLane i f t) :=
  h.part rfl rfl (fun p hp => by cases p <;> first | rfl | exact absurd hm hp)

theorem SetsC.setPort {i f} (h : SetsC ps fs s t) (hm : Part.ports ∈ ps) : SetsC ps fs s (Machine.setPort i f t) :=
  h.part rfl rfl (fun p hp => by cases p <;> first | rfl | exact absurd hm hp)

theorem SetsC.word {ps fs} {s t : State} {a : Nat} {w : Word} (h : SetsC ps fs s t) (hm : wordAt a ∈ fs) : SetsC ps fs s (setRegWord a w t) := by
  refine ⟨⟨h.pending, fun p m => Part.same_trans (h.parts p m) (by cases p <;> rfl), fun b k x => ?_⟩, setRegWord_wf h.wf⟩
  rw [← h.bits b k x]
  by_cases e : b = a
  · subst e
    have := x _ hm (by simp [wordAt, Fld.addr])
    simp [wordAt] at this
    rw [BitVec.getLsbD_of_ge _ _ (by omega), BitVec.getLsbD_of_ge _ _ (by omega)]
  · rw [regWord_setRegWord_ne e]

theorem SetsC.syncDry {ps fs} {s t : State} (h : SetsC ps fs s t) (hm : (F.LD_STAT_dry_causes, 0) ∈ fs) : SetsC ps fs s (syncDry t) := by
  unfold Machine.syncDry
  split
  · exact h.setFldAt (by decide) hm
  · exact h

theorem SetsC.endReaction {ps fs} {s t : State} (h : SetsC ps fs s t) (he : Part.evt ∈ ps) (hm : (F.LD_STAT_dry_causes, 0) ∈ fs) (hr : (F.EVT_CAUSE_running, 0) ∈ fs) : SetsC ps fs s (endReaction t) := by
  unfold Machine.endReaction
  split
  · exact ((h.setFldAt (by decide) hr).setEvt he).syncDry hm
  · exact h

theorem acting_none {s : State} (h : reacting s = false) : actingBits s = 0 := by unfold actingBits; rw [h]; rfl

theorem reacting_syncDry {s : State} : reacting (syncDry s) = reacting s := by
  unfold reacting flag flagAt; rw [syncDry_fld (by decide)]

theorem endReaction_evt {s : State} : (endReaction s).evt = if reacting s then { s.evt with prior := 0, ended := true } else s.evt := by
  unfold endReaction
  split
  · rw [syncDry_evt]; rfl
  · rfl


theorem testBit_keep {w m i : Nat} : (w - Nat.land w m).testBit i = (w.testBit i && !m.testBit i) := by
  show (w - (w &&& m)).testBit i = _
  have h0 : ∀ w m : Nat, (w - (w &&& m)) % 2 = (if w % 2 = 1 ∧ m % 2 = 0 then 1 else 0) ∧ (w - (w &&& m)) / 2 = w / 2 - (w / 2 &&& m / 2) := by
    intro w m
    have e1 : (w &&& m) / 2 = w / 2 &&& m / 2 := by rw [Nat.and_div_two]
    have e2 : (w &&& m) % 2 = w % 2 &&& m % 2 := by
      have := Nat.and_mod_two_pow (a := w) (b := m) (n := 1); simpa using this
    have hl : w / 2 &&& m / 2 ≤ w / 2 := Nat.and_le_left
    have e3 : w % 2 &&& m % 2 = if w % 2 = 1 ∧ m % 2 = 1 then 1 else 0 := by
      rcases Nat.mod_two_eq_zero_or_one w with h | h <;> rcases Nat.mod_two_eq_zero_or_one m with k | k <;> rw [h, k] <;> rfl
    rw [e3] at e2
    generalize (w &&& m) = z at *
    rcases Nat.mod_two_eq_zero_or_one w with h | h <;> rcases Nat.mod_two_eq_zero_or_one m with k | k <;> simp [h, k] at e2 ⊢ <;> omega
  induction i generalizing w m with
  | zero =>
    rw [Nat.testBit_zero, Nat.testBit_zero, Nat.testBit_zero, (h0 w m).1]
    rcases Nat.mod_two_eq_zero_or_one w with h | h <;> rcases Nat.mod_two_eq_zero_or_one m with k | k <;> simp [h, k]
  | succ i ih => rw [Nat.testBit_succ, Nat.testBit_succ, Nat.testBit_succ, (h0 w m).2, ih]

theorem bitOf_testBit (n i : Nat) : bitOf n i = n.testBit i := by
  unfold bitOf; rw [Nat.testBit_eq_decide_div_mod_eq]; rfl

theorem raiseMany_sticky {s : State} {l : List Nat} {m : Nat} (hs : Memory.wf resetWord s.regs) (hm : m < 256) :
    stickyBit (raiseMany l s) m = (stickyBit s m || (l.contains m && srcExists m)) := by
  unfold raiseMany
  dsimp only
  have hc : ((List.range 256).filter (fun n => l.contains n && srcExists n)).contains m = (l.contains m && srcExists m) := by
    rw [Bool.eq_iff_iff, List.contains_iff_mem, List.mem_filter]; simp [hm]
  have hsl : ∀ n ∈ (List.range 256).filter (fun n => l.contains n && srcExists n), n < 256 := fun n hn => List.mem_range.1 (List.mem_filter.1 hn).1
  rw [← hc]
  generalize (List.range 256).filter (fun n => l.contains n && srcExists n) = srcs at *
  have h1 : stickyBit (forEach srcs (fun n st => setGroupBit F.EVT_STAT_sticky n true st) s) m = (stickyBit s m || srcs.contains m) :=
    groupBits_set hs (by decide) rfl rfl (by decide) (fun n hn => by have := hsl n hn; simp only [F.EVT_STAT_sticky]; omega)
  rw [← h1]
  generalize forEach srcs (fun n st => setGroupBit F.EVT_STAT_sticky n true st) s = u
  have key : ∀ t, Foot 0x1000000000000000000010000e00000000020 u t → stickyBit t m = stickyBit u m := by
    intro t ht
    unfold stickyBit fldAt
    have hg : m / 32 < 8 := by omega
    generalize m / 32 = g at hg
    rw [ht.reg_eq (by interval_cases g <;> decide +kernel)]
  split
  · rfl
  · split
    · refine key _ ?_
      exact foot_autoEnd (foot_syncDry (foot_forEach (fun x t ht => foot_joinReaction ht (by decide +kernel)) (Foot.refl _ _)) (by decide +kernel)) (by decide +kernel)
    · refine key _ ?_
      exact foot_autoEnd (foot_syncDry (foot_forEach (fun x t ht => foot_setGroupBit ht (fun i hi => .inr ⟨112, by decide +kernel, i, hi, rfl⟩)) (foot_startReaction (Foot.refl _ _) (by decide +kernel))) (by decide +kernel)) (by decide +kernel)


theorem raiseMany_single {s : State} {n : Nat} (h : srcExists n = true) : raiseMany [n] s = raise n s := by
  have hn := srcExists_lt h
  have hf : (List.range 256).filter (fun m => [n].contains m && srcExists m) = [n] := by
    have : ∀ m, ([n].contains m && srcExists m) = decide (m = n) := by
      intro m
      by_cases e : m = n
      · subst e; simp [h]
      · simp [e]
    rw [List.filter_congr (fun m _ => this m), List.filter_eq, List.count_eq_one_of_mem List.nodup_range (List.mem_range.2 hn)]
    rfl
  unfold raiseMany raise
  dsimp only
  rw [hf, show forEach [n] (fun n st => setGroupBit F.EVT_STAT_sticky n true st) s = setGroupBit F.EVT_STAT_sticky n true s from rfl]
  generalize setGroupBit F.EVT_STAT_sticky n true s = u
  by_cases he : eligible u n = true
  · rw [show [n].filter (eligible u) = [n] by simp [he]]
    have h1 : topClass u [n] = srcClass u n := by unfold topClass; simp
    have h2 : lowestOf u (srcClass u n) [n] = n := by unfold lowestOf; simp [List.min?]
    rw [h1, h2]
    simp only [he, Bool.not_true, Bool.false_eq_true, if_false, List.isEmpty_cons, List.filter_cons, bne_self_eq_false, List.filter_nil, List.length_nil]
    rfl
  · have he' : eligible u n = false := by simpa using he
    rw [show [n].filter (eligible u) = [] by simp [he']]
    simp [he']


theorem place_low {a : Nat} (h : a < 0x10000000) : placeDomain a = regDomain a ∧ inStore a = false ∧ inDram a = false := by
  have h1 : inStore a = false := by unfold inStore; rw [decide_eq_false (by omega)]; rfl
  have h2 : inDram a = false := by unfold inDram; rw [decide_eq_false (by omega)]; rfl
  refine ⟨?_, h1, h2⟩
  unfold placeDomain
  rw [h1, h2]; rfl

theorem findReg_base {a i : Nat} {d : RegDesc} (h : findReg a = some (d, i)) : d.base + d.stride * i = a := by
  unfold findReg at h
  split at h
  · rename_i x hx
    obtain ⟨rfl, rfl⟩ := Prod.mk.inj (Option.some.inj h)
    have hc := List.find?_some hx
    unfold RegDesc.covers at hc
    simp only [Bool.and_eq_true, decide_eq_true_eq, beq_iff_eq] at hc
    obtain ⟨⟨h1, h2⟩, h3⟩ := hc
    have := Nat.div_add_mod (a - x.base) x.stride
    rw [h3] at this
    omega
  · cases h

theorem countIgnored_spec {s : State} {a : Nat} {fs} (hs : Memory.wf resetWord s.regs) (ha : a < 0x100000000) (hm : ∀ x ∈ one [F.GLB_IGN_ADDR_address, F.GLB_IGN_COUNT_count], x ∈ fs) :
    fld (countIgnored a s) F.GLB_IGN_ADDR_address = a ∧ fld (countIgnored a s) F.GLB_IGN_COUNT_count = min 65535 (fld s F.GLB_IGN_COUNT_count + 1) ∧
      SetsC [] fs s (countIgnored a s) := by
  have e : countIgnored a s = setFldAt F.GLB_IGN_COUNT_count 0 (satAdd 65535 (fldAt (setFldAt F.GLB_IGN_ADDR_address 0 a s) F.GLB_IGN_COUNT_count 0) 1) (setFldAt F.GLB_IGN_ADDR_address 0 a s) := rfl
  rw [e]
  refine ⟨?_, ?_, ((SetsC.refl hs).setFldAt (by decide) (hm _ (by decide))).setFldAt (by decide) (hm _ (by decide))⟩
  · unfold fld
    rw [fldAt_setFldAt_ne (by decide), fldAt_setFldAt_same hs (by decide) (by decide)]
    exact Nat.mod_eq_of_lt ha
  · unfold fld
    rw [fldAt_setFldAt_same (setFldAt_wf hs) (by decide) (by decide), fldAt_setFldAt_ne (by decide)]
    have : fldAt s F.GLB_IGN_COUNT_count 0 < 65536 := fldAt_lt
    unfold satAdd
    show min 65535 (fldAt s F.GLB_IGN_COUNT_count 0 + 1) % 65536 = _
    generalize fldAt s F.GLB_IGN_COUNT_count 0 = k at *
    omega

/-- An access to a register of a domain that serves, with no access before it that waits, takes effect at once (R4, R393). -/
theorem access_low {w : WaitingAccess} {s : State} (hm : w.addr < 0x10000000) (hon : domainOn s (regDomain w.addr) = true)
    (hs : w.stage = none) (hw : accessBehind s w.master w.addr = false) : access w s = performAccess w s := by
  obtain ⟨p1, _, p3⟩ := place_low hm
  have hk : accessServe s w = .now := by
    unfold accessServe serve
    rw [p3, Bool.false_and, if_neg Bool.false_ne_true, p1, if_pos hon]
  unfold access behind
  rw [hs, hk]
  simp only [Option.isSome, Bool.false_eq_true, if_false, hw]

theorem run_write {m : Master} {a i : Nat} {d : RegDesc} {mask v : Word} {s : State} (h4 : a % 4 = 0) (hm : a < 0x10000000)
    (hd : findReg a = some (d, i)) (hon : domainOn s (regDomain a) = true) (hw : accessBehind s m a = false)
    (hp : pdCtrlWord a = false) : alignedWrite m a mask v s = writeReg m d i mask v s := by
  obtain ⟨p1, p2, p3⟩ := place_low hm
  unfold alignedWrite
  rw [show (a % 4 == 0) = true by rw [h4]; rfl, if_pos rfl]
  unfold masterWrite
  rw [access_low hm hon rfl hw]
  unfold performAccess
  dsimp only
  unfold busWrite
  rw [p1, hon, p2, p3, hd, hp]
  simp only [Bool.not_true, Bool.false_eq_true, if_false]


theorem plain_effect {d : RegDesc} {i : Nat} {mask v : Word} {s u : State} (h : d.plain = true) : writeEffect d i mask v s u = u ∧ ownBits d = 0 := by
  unfold RegDesc.plain at h
  simp only [Bool.and_eq_true, Bool.not_eq_true', Bool.and_eq_false_iff, decide_eq_false_iff_not] at h
  obtain ⟨⟨h0, h1⟩, h2⟩ := h
  have hne : ∀ b ∈ effectBases, (d.base == b) = false := by
    intro b hb
    rw [beq_eq_false_iff_ne]
    intro e
    rw [← e] at hb
    rw [List.contains_iff_mem.2 hb] at h1
    cases h1
  simp only [effectBases, List.map_cons, List.map_nil, List.cons_append, List.nil_append, List.forall_mem_cons, List.not_mem_nil, false_imp_iff, implies_true, and_true] at hne
  obtain ⟨e1, e2, e3, e4, e5, e6, e7, e8, e9, e10, e11, e12, e13, e14, e15, e16, e17, e18, e19, e20, e21, e22, e23, e24, e25, e26, e27, e28, e29, e30, e31, e32, e33, e34, e35, e36, e37, e38, e39⟩ := hne
  constructor
  · unfold writeEffect
    dsimp only
    split
    · unfold effectAon; simp only [e1, e2, e3, e4, e5, e6, e7, e39, Bool.false_eq_true, if_false]
    · split
      · unfold effectTime; simp only [e8, e9, e10, e11, e12, e13, e14, e15, e16, e17, e18, Bool.false_eq_true, if_false, Bool.or_self]
      · split
        · unfold effectLink; simp only [e19, e20, e21, e22, e23, Bool.false_eq_true, if_false]
        · split
          · unfold effectPixels; simp only [e24, e25, e26, e27, e28, e36, Bool.false_eq_true, if_false]
            rw [if_neg (by simp only [Bool.and_eq_true, decide_eq_true_eq]; omega)]
          · unfold effectLamps; simp only [e29, e30, e31, e32, e33, e34, e35, e37, e38, Bool.false_eq_true, if_false, Bool.or_self]
  · unfold ownBits; simp only [e39, e19, e20, e18, Bool.false_eq_true, if_false]


theorem read_low {m : Master} {a : Nat} {s : State} {d i} (hm : a < 0x10000000) (hd : findReg a = some (d, i))
    (hon : domainOn s (regDomain a) = true) (hw : accessBehind s m a = false) :
    masterRead m a s = (let s1 := readEffect m a s; emit (.value a (viewReg m s1 d i)) (readClears d i s1)) := by
  obtain ⟨p1, p2, p3⟩ := place_low hm
  unfold masterRead
  rw [access_low hm hon rfl hw]
  unfold performAccess
  dsimp only
  unfold busRead
  rw [p1, hon, p2, p3, hd]
  rfl

theorem updAt_get {α} {f : α → α} {l : List α} {i : Nat} {z : α} (h : i < l.length) : (updAt f l i).getD i z = f (l.getD i z) := by
  induction l generalizing i with
  | nil => exact absurd h (Nat.not_lt_zero _)
  | cons x t ih => cases i with
    | zero => rfl
    | succ i => exact ih (Nat.lt_of_succ_lt_succ h)

theorem updAt_get_ne {α} {f : α → α} {l : List α} {i j : Nat} {z : α} (h : j ≠ i) : (updAt f l i).getD j z = l.getD j z := by
  induction l generalizing i j with
  | nil => rfl
  | cons x t ih => cases i with
    | zero => cases j with
      | zero => exact absurd rfl h
      | succ j => rfl
    | succ i => cases j with
      | zero => rfl
      | succ j => exact ih (fun e => h (by rw [e]))


theorem sticky_raise {s : State} {n k : Nat} (hs : Memory.wf resetWord s.regs) (h : srcExists n = true) (hk : k < 256) :
    stickyBit (raise n s) k = (stickyBit s k || k == n) := by
  rw [← raiseMany_single h, raiseMany_sticky hs hk]
  by_cases e : k = n
  · subst e; simp [h]
  · simp [e]
theorem raise_canonical {s : State} {n : Nat} (hs : s.canonical) : (raise n s).canonical := (foot_raise (Foot.refl _ s) (Nat.or_self _)).keeps.canonical hs
theorem sticky_keep {M : Nat} {s t : State} {k : Nat} (h : Foot M s t) (w : maskAvoids M (F.EVT_STAT_sticky.addr (k / 32)) = true) :
    stickyBit t k = stickyBit s k := by
  unfold stickyBit; rw [h.fldAt_eq w]

theorem setFldAt_canonical {f : Fld} {i v : Nat} (h : State.canonical s) : State.canonical (setFldAt f i v s) := by
  have r : (setFldAt f i v s).store = s.store ∧ (setFldAt f i v s).dram = s.dram ∧ (setFldAt f i v s).pwr = s.pwr ∧
      (setFldAt f i v s).boot = s.boot ∧ (setFldAt f i v s).lanes = s.lanes ∧ (setFldAt f i v s).ports = s.ports := by
    unfold setFldAt setInst; split <;> exact ⟨rfl, rfl, rfl, rfl, rfl, rfl⟩
  exact ⟨setFldAt_wf h.1, by rw [r.1]; exact h.2.1, by rw [r.2.1]; exact h.2.2.1, by rw [r.2.2.1]; exact h.2.2.2.1,
    by rw [r.2.2.2.1]; exact h.2.2.2.2.1, by rw [r.2.2.2.2.1]; exact h.2.2.2.2.2.1, by rw [r.2.2.2.2.2]; exact h.2.2.2.2.2.2⟩

theorem forEach_inv {α : Type} {P : State → Prop} {l : List α} {f : α → State → State} (hf : ∀ x s, P s → P (f x s)) (h : P s) :
    P (forEach l f s) := by
  induction l generalizing s with
  | nil => exact h
  | cons x t ih => exact ih (hf x s h)

end Sys2Proof.Machine
end

