-- ==== Sys2Proof/Laws/State.lean ====
section
/-! SUPPORT. Each setter of the state changes its own part and no other: one lemma for each setter and part. -/

namespace Sys2Proof.Machine

variable {s : State}

/-! ### setRegWord -/

@[simp] theorem setRegWord_pending {a : Nat} {w : Word} : (setRegWord a w s).pending = s.pending := rfl
@[simp] theorem setRegWord_board {a : Nat} {w : Word} : (setRegWord a w s).board = s.board := rfl
@[simp] theorem setRegWord_store {a : Nat} {w : Word} : (setRegWord a w s).store = s.store := rfl
@[simp] theorem setRegWord_dram {a : Nat} {w : Word} : (setRegWord a w s).dram = s.dram := rfl
@[simp] theorem setRegWord_eth {a : Nat} {w : Word} : (setRegWord a w s).eth = s.eth := rfl
@[simp] theorem setRegWord_flac {a : Nat} {w : Word} : (setRegWord a w s).flac = s.flac := rfl
@[simp] theorem setRegWord_evt {a : Nat} {w : Word} : (setRegWord a w s).evt = s.evt := rfl
@[simp] theorem setRegWord_lanes {a : Nat} {w : Word} : (setRegWord a w s).lanes = s.lanes := rfl
@[simp] theorem setRegWord_ports {a : Nat} {w : Word} : (setRegWord a w s).ports = s.ports := rfl
@[simp] theorem setRegWord_time {a : Nat} {w : Word} : (setRegWord a w s).time = s.time := rfl
@[simp] theorem setRegWord_wt {a : Nat} {w : Word} : (setRegWord a w s).wt = s.wt := rfl
@[simp] theorem setRegWord_ce {a : Nat} {w : Word} : (setRegWord a w s).ce = s.ce := rfl
@[simp] theorem setRegWord_enumr {a : Nat} {w : Word} : (setRegWord a w s).enumr = s.enumr := rfl
@[simp] theorem setRegWord_cmd {a : Nat} {w : Word} : (setRegWord a w s).cmd = s.cmd := rfl
@[simp] theorem setRegWord_pkt {a : Nat} {w : Word} : (setRegWord a w s).pkt = s.pkt := rfl
@[simp] theorem setRegWord_comp {a : Nat} {w : Word} : (setRegWord a w s).comp = s.comp := rfl
@[simp] theorem setRegWord_pipe {a : Nat} {w : Word} : (setRegWord a w s).pipe = s.pipe := rfl
@[simp] theorem setRegWord_lamp {a : Nat} {w : Word} : (setRegWord a w s).lamp = s.lamp := rfl
@[simp] theorem setRegWord_dramc {a : Nat} {w : Word} : (setRegWord a w s).dramc = s.dramc := rfl
@[simp] theorem setRegWord_pwr {a : Nat} {w : Word} : (setRegWord a w s).pwr = s.pwr := rfl
@[simp] theorem setRegWord_therm {a : Nat} {w : Word} : (setRegWord a w s).therm = s.therm := rfl
@[simp] theorem setRegWord_boot {a : Nat} {w : Word} : (setRegWord a w s).boot = s.boot := rfl
@[simp] theorem setRegWord_red {a : Nat} {w : Word} : (setRegWord a w s).red = s.red := rfl
@[simp] theorem setRegWord_freeCnt {a : Nat} {w : Word} : (setRegWord a w s).freeCnt = s.freeCnt := rfl
@[simp] theorem setRegWord_emitted {a : Nat} {w : Word} : (setRegWord a w s).emitted = s.emitted := rfl

/-! ### setEvt -/

@[simp] theorem setEvt_pending {f : EvtState → EvtState} : (setEvt f s).pending = s.pending := rfl
@[simp] theorem setEvt_board {f : EvtState → EvtState} : (setEvt f s).board = s.board := rfl
@[simp] theorem setEvt_regs {f : EvtState → EvtState} : (setEvt f s).regs = s.regs := rfl
@[simp] theorem setEvt_store {f : EvtState → EvtState} : (setEvt f s).store = s.store := rfl
@[simp] theorem setEvt_dram {f : EvtState → EvtState} : (setEvt f s).dram = s.dram := rfl
@[simp] theorem setEvt_eth {f : EvtState → EvtState} : (setEvt f s).eth = s.eth := rfl
@[simp] theorem setEvt_flac {f : EvtState → EvtState} : (setEvt f s).flac = s.flac := rfl
@[simp] theorem setEvt_evt {f : EvtState → EvtState} : (setEvt f s).evt = f s.evt := rfl
@[simp] theorem setEvt_lanes {f : EvtState → EvtState} : (setEvt f s).lanes = s.lanes := rfl
@[simp] theorem setEvt_ports {f : EvtState → EvtState} : (setEvt f s).ports = s.ports := rfl
@[simp] theorem setEvt_time {f : EvtState → EvtState} : (setEvt f s).time = s.time := rfl
@[simp] theorem setEvt_wt {f : EvtState → EvtState} : (setEvt f s).wt = s.wt := rfl
@[simp] theorem setEvt_ce {f : EvtState → EvtState} : (setEvt f s).ce = s.ce := rfl
@[simp] theorem setEvt_enumr {f : EvtState → EvtState} : (setEvt f s).enumr = s.enumr := rfl
@[simp] theorem setEvt_cmd {f : EvtState → EvtState} : (setEvt f s).cmd = s.cmd := rfl
@[simp] theorem setEvt_pkt {f : EvtState → EvtState} : (setEvt f s).pkt = s.pkt := rfl
@[simp] theorem setEvt_comp {f : EvtState → EvtState} : (setEvt f s).comp = s.comp := rfl
@[simp] theorem setEvt_pipe {f : EvtState → EvtState} : (setEvt f s).pipe = s.pipe := rfl
@[simp] theorem setEvt_lamp {f : EvtState → EvtState} : (setEvt f s).lamp = s.lamp := rfl
@[simp] theorem setEvt_dramc {f : EvtState → EvtState} : (setEvt f s).dramc = s.dramc := rfl
@[simp] theorem setEvt_pwr {f : EvtState → EvtState} : (setEvt f s).pwr = s.pwr := rfl
@[simp] theorem setEvt_therm {f : EvtState → EvtState} : (setEvt f s).therm = s.therm := rfl
@[simp] theorem setEvt_boot {f : EvtState → EvtState} : (setEvt f s).boot = s.boot := rfl
@[simp] theorem setEvt_red {f : EvtState → EvtState} : (setEvt f s).red = s.red := rfl
@[simp] theorem setEvt_freeCnt {f : EvtState → EvtState} : (setEvt f s).freeCnt = s.freeCnt := rfl
@[simp] theorem setEvt_emitted {f : EvtState → EvtState} : (setEvt f s).emitted = s.emitted := rfl

/-! ### setInst -/

@[simp] theorem setInst_pending {f : Fld} {i : Nat} {w : Word} : (setInst f i w s).pending = s.pending := rfl
@[simp] theorem setInst_board {f : Fld} {i : Nat} {w : Word} : (setInst f i w s).board = s.board := rfl
@[simp] theorem setInst_store {f : Fld} {i : Nat} {w : Word} : (setInst f i w s).store = s.store := rfl
@[simp] theorem setInst_dram {f : Fld} {i : Nat} {w : Word} : (setInst f i w s).dram = s.dram := rfl
@[simp] theorem setInst_eth {f : Fld} {i : Nat} {w : Word} : (setInst f i w s).eth = s.eth := rfl
@[simp] theorem setInst_flac {f : Fld} {i : Nat} {w : Word} : (setInst f i w s).flac = s.flac := rfl
@[simp] theorem setInst_evt {f : Fld} {i : Nat} {w : Word} : (setInst f i w s).evt = s.evt := rfl
@[simp] theorem setInst_lanes {f : Fld} {i : Nat} {w : Word} : (setInst f i w s).lanes = s.lanes := rfl
@[simp] theorem setInst_ports {f : Fld} {i : Nat} {w : Word} : (setInst f i w s).ports = s.ports := rfl
@[simp] theorem setInst_time {f : Fld} {i : Nat} {w : Word} : (setInst f i w s).time = s.time := rfl
@[simp] theorem setInst_wt {f : Fld} {i : Nat} {w : Word} : (setInst f i w s).wt = s.wt := rfl
@[simp] theorem setInst_ce {f : Fld} {i : Nat} {w : Word} : (setInst f i w s).ce = s.ce := rfl
@[simp] theorem setInst_enumr {f : Fld} {i : Nat} {w : Word} : (setInst f i w s).enumr = s.enumr := rfl
@[simp] theorem setInst_cmd {f : Fld} {i : Nat} {w : Word} : (setInst f i w s).cmd = s.cmd := rfl
@[simp] theorem setInst_pkt {f : Fld} {i : Nat} {w : Word} : (setInst f i w s).pkt = s.pkt := rfl
@[simp] theorem setInst_comp {f : Fld} {i : Nat} {w : Word} : (setInst f i w s).comp = s.comp := rfl
@[simp] theorem setInst_pipe {f : Fld} {i : Nat} {w : Word} : (setInst f i w s).pipe = s.pipe := rfl
@[simp] theorem setInst_lamp {f : Fld} {i : Nat} {w : Word} : (setInst f i w s).lamp = s.lamp := rfl
@[simp] theorem setInst_dramc {f : Fld} {i : Nat} {w : Word} : (setInst f i w s).dramc = s.dramc := rfl
@[simp] theorem setInst_pwr {f : Fld} {i : Nat} {w : Word} : (setInst f i w s).pwr = s.pwr := rfl
@[simp] theorem setInst_therm {f : Fld} {i : Nat} {w : Word} : (setInst f i w s).therm = s.therm := rfl
@[simp] theorem setInst_boot {f : Fld} {i : Nat} {w : Word} : (setInst f i w s).boot = s.boot := rfl
@[simp] theorem setInst_red {f : Fld} {i : Nat} {w : Word} : (setInst f i w s).red = s.red := rfl
@[simp] theorem setInst_freeCnt {f : Fld} {i : Nat} {w : Word} : (setInst f i w s).freeCnt = s.freeCnt := rfl
@[simp] theorem setInst_emitted {f : Fld} {i : Nat} {w : Word} : (setInst f i w s).emitted = s.emitted := rfl

/-! ### setFldAt -/

@[simp] theorem setFldAt_pending {f : Fld} {i v : Nat} : (setFldAt f i v s).pending = s.pending := rfl
@[simp] theorem setFldAt_board {f : Fld} {i v : Nat} : (setFldAt f i v s).board = s.board := rfl
@[simp] theorem setFldAt_store {f : Fld} {i v : Nat} : (setFldAt f i v s).store = s.store := rfl
@[simp] theorem setFldAt_dram {f : Fld} {i v : Nat} : (setFldAt f i v s).dram = s.dram := rfl
@[simp] theorem setFldAt_eth {f : Fld} {i v : Nat} : (setFldAt f i v s).eth = s.eth := rfl
@[simp] theorem setFldAt_flac {f : Fld} {i v : Nat} : (setFldAt f i v s).flac = s.flac := rfl
@[simp] theorem setFldAt_evt {f : Fld} {i v : Nat} : (setFldAt f i v s).evt = s.evt := rfl
@[simp] theorem setFldAt_lanes {f : Fld} {i v : Nat} : (setFldAt f i v s).lanes = s.lanes := rfl
@[simp] theorem setFldAt_ports {f : Fld} {i v : Nat} : (setFldAt f i v s).ports = s.ports := rfl
@[simp] theorem setFldAt_time {f : Fld} {i v : Nat} : (setFldAt f i v s).time = s.time := rfl
@[simp] theorem setFldAt_wt {f : Fld} {i v : Nat} : (setFldAt f i v s).wt = s.wt := rfl
@[simp] theorem setFldAt_ce {f : Fld} {i v : Nat} : (setFldAt f i v s).ce = s.ce := rfl
@[simp] theorem setFldAt_enumr {f : Fld} {i v : Nat} : (setFldAt f i v s).enumr = s.enumr := rfl
@[simp] theorem setFldAt_cmd {f : Fld} {i v : Nat} : (setFldAt f i v s).cmd = s.cmd := rfl
@[simp] theorem setFldAt_pkt {f : Fld} {i v : Nat} : (setFldAt f i v s).pkt = s.pkt := rfl
@[simp] theorem setFldAt_comp {f : Fld} {i v : Nat} : (setFldAt f i v s).comp = s.comp := rfl
@[simp] theorem setFldAt_pipe {f : Fld} {i v : Nat} : (setFldAt f i v s).pipe = s.pipe := rfl
@[simp] theorem setFldAt_lamp {f : Fld} {i v : Nat} : (setFldAt f i v s).lamp = s.lamp := rfl
@[simp] theorem setFldAt_dramc {f : Fld} {i v : Nat} : (setFldAt f i v s).dramc = s.dramc := rfl
@[simp] theorem setFldAt_pwr {f : Fld} {i v : Nat} : (setFldAt f i v s).pwr = s.pwr := rfl
@[simp] theorem setFldAt_therm {f : Fld} {i v : Nat} : (setFldAt f i v s).therm = s.therm := rfl
@[simp] theorem setFldAt_boot {f : Fld} {i v : Nat} : (setFldAt f i v s).boot = s.boot := rfl
@[simp] theorem setFldAt_red {f : Fld} {i v : Nat} : (setFldAt f i v s).red = s.red := rfl
@[simp] theorem setFldAt_freeCnt {f : Fld} {i v : Nat} : (setFldAt f i v s).freeCnt = s.freeCnt := rfl
@[simp] theorem setFldAt_emitted {f : Fld} {i v : Nat} : (setFldAt f i v s).emitted = s.emitted := rfl

/-! ### setFld -/

@[simp] theorem setFld_pending {f : Fld} {v : Nat} : (setFld f v s).pending = s.pending := rfl
@[simp] theorem setFld_board {f : Fld} {v : Nat} : (setFld f v s).board = s.board := rfl
@[simp] theorem setFld_store {f : Fld} {v : Nat} : (setFld f v s).store = s.store := rfl
@[simp] theorem setFld_dram {f : Fld} {v : Nat} : (setFld f v s).dram = s.dram := rfl
@[simp] theorem setFld_eth {f : Fld} {v : Nat} : (setFld f v s).eth = s.eth := rfl
@[simp] theorem setFld_flac {f : Fld} {v : Nat} : (setFld f v s).flac = s.flac := rfl
@[simp] theorem setFld_evt {f : Fld} {v : Nat} : (setFld f v s).evt = s.evt := rfl
@[simp] theorem setFld_lanes {f : Fld} {v : Nat} : (setFld f v s).lanes = s.lanes := rfl
@[simp] theorem setFld_ports {f : Fld} {v : Nat} : (setFld f v s).ports = s.ports := rfl
@[simp] theorem setFld_time {f : Fld} {v : Nat} : (setFld f v s).time = s.time := rfl
@[simp] theorem setFld_wt {f : Fld} {v : Nat} : (setFld f v s).wt = s.wt := rfl
@[simp] theorem setFld_ce {f : Fld} {v : Nat} : (setFld f v s).ce = s.ce := rfl
@[simp] theorem setFld_enumr {f : Fld} {v : Nat} : (setFld f v s).enumr = s.enumr := rfl
@[simp] theorem setFld_cmd {f : Fld} {v : Nat} : (setFld f v s).cmd = s.cmd := rfl
@[simp] theorem setFld_pkt {f : Fld} {v : Nat} : (setFld f v s).pkt = s.pkt := rfl
@[simp] theorem setFld_comp {f : Fld} {v : Nat} : (setFld f v s).comp = s.comp := rfl
@[simp] theorem setFld_pipe {f : Fld} {v : Nat} : (setFld f v s).pipe = s.pipe := rfl
@[simp] theorem setFld_lamp {f : Fld} {v : Nat} : (setFld f v s).lamp = s.lamp := rfl
@[simp] theorem setFld_dramc {f : Fld} {v : Nat} : (setFld f v s).dramc = s.dramc := rfl
@[simp] theorem setFld_pwr {f : Fld} {v : Nat} : (setFld f v s).pwr = s.pwr := rfl
@[simp] theorem setFld_therm {f : Fld} {v : Nat} : (setFld f v s).therm = s.therm := rfl
@[simp] theorem setFld_boot {f : Fld} {v : Nat} : (setFld f v s).boot = s.boot := rfl
@[simp] theorem setFld_red {f : Fld} {v : Nat} : (setFld f v s).red = s.red := rfl
@[simp] theorem setFld_freeCnt {f : Fld} {v : Nat} : (setFld f v s).freeCnt = s.freeCnt := rfl
@[simp] theorem setFld_emitted {f : Fld} {v : Nat} : (setFld f v s).emitted = s.emitted := rfl

/-! ### setFlagAt -/

@[simp] theorem setFlagAt_pending {f : Fld} {i : Nat} {b : Bool} : (setFlagAt f i b s).pending = s.pending := rfl
@[simp] theorem setFlagAt_board {f : Fld} {i : Nat} {b : Bool} : (setFlagAt f i b s).board = s.board := rfl
@[simp] theorem setFlagAt_store {f : Fld} {i : Nat} {b : Bool} : (setFlagAt f i b s).store = s.store := rfl
@[simp] theorem setFlagAt_dram {f : Fld} {i : Nat} {b : Bool} : (setFlagAt f i b s).dram = s.dram := rfl
@[simp] theorem setFlagAt_eth {f : Fld} {i : Nat} {b : Bool} : (setFlagAt f i b s).eth = s.eth := rfl
@[simp] theorem setFlagAt_flac {f : Fld} {i : Nat} {b : Bool} : (setFlagAt f i b s).flac = s.flac := rfl
@[simp] theorem setFlagAt_evt {f : Fld} {i : Nat} {b : Bool} : (setFlagAt f i b s).evt = s.evt := rfl
@[simp] theorem setFlagAt_lanes {f : Fld} {i : Nat} {b : Bool} : (setFlagAt f i b s).lanes = s.lanes := rfl
@[simp] theorem setFlagAt_ports {f : Fld} {i : Nat} {b : Bool} : (setFlagAt f i b s).ports = s.ports := rfl
@[simp] theorem setFlagAt_time {f : Fld} {i : Nat} {b : Bool} : (setFlagAt f i b s).time = s.time := rfl
@[simp] theorem setFlagAt_wt {f : Fld} {i : Nat} {b : Bool} : (setFlagAt f i b s).wt = s.wt := rfl
@[simp] theorem setFlagAt_ce {f : Fld} {i : Nat} {b : Bool} : (setFlagAt f i b s).ce = s.ce := rfl
@[simp] theorem setFlagAt_enumr {f : Fld} {i : Nat} {b : Bool} : (setFlagAt f i b s).enumr = s.enumr := rfl
@[simp] theorem setFlagAt_cmd {f : Fld} {i : Nat} {b : Bool} : (setFlagAt f i b s).cmd = s.cmd := rfl
@[simp] theorem setFlagAt_pkt {f : Fld} {i : Nat} {b : Bool} : (setFlagAt f i b s).pkt = s.pkt := rfl
@[simp] theorem setFlagAt_comp {f : Fld} {i : Nat} {b : Bool} : (setFlagAt f i b s).comp = s.comp := rfl
@[simp] theorem setFlagAt_pipe {f : Fld} {i : Nat} {b : Bool} : (setFlagAt f i b s).pipe = s.pipe := rfl
@[simp] theorem setFlagAt_lamp {f : Fld} {i : Nat} {b : Bool} : (setFlagAt f i b s).lamp = s.lamp := rfl
@[simp] theorem setFlagAt_dramc {f : Fld} {i : Nat} {b : Bool} : (setFlagAt f i b s).dramc = s.dramc := rfl
@[simp] theorem setFlagAt_pwr {f : Fld} {i : Nat} {b : Bool} : (setFlagAt f i b s).pwr = s.pwr := rfl
@[simp] theorem setFlagAt_therm {f : Fld} {i : Nat} {b : Bool} : (setFlagAt f i b s).therm = s.therm := rfl
@[simp] theorem setFlagAt_boot {f : Fld} {i : Nat} {b : Bool} : (setFlagAt f i b s).boot = s.boot := rfl
@[simp] theorem setFlagAt_red {f : Fld} {i : Nat} {b : Bool} : (setFlagAt f i b s).red = s.red := rfl
@[simp] theorem setFlagAt_freeCnt {f : Fld} {i : Nat} {b : Bool} : (setFlagAt f i b s).freeCnt = s.freeCnt := rfl
@[simp] theorem setFlagAt_emitted {f : Fld} {i : Nat} {b : Bool} : (setFlagAt f i b s).emitted = s.emitted := rfl

/-! ### setFlag -/

@[simp] theorem setFlag_pending {f : Fld} {b : Bool} : (setFlag f b s).pending = s.pending := rfl
@[simp] theorem setFlag_board {f : Fld} {b : Bool} : (setFlag f b s).board = s.board := rfl
@[simp] theorem setFlag_store {f : Fld} {b : Bool} : (setFlag f b s).store = s.store := rfl
@[simp] theorem setFlag_dram {f : Fld} {b : Bool} : (setFlag f b s).dram = s.dram := rfl
@[simp] theorem setFlag_eth {f : Fld} {b : Bool} : (setFlag f b s).eth = s.eth := rfl
@[simp] theorem setFlag_flac {f : Fld} {b : Bool} : (setFlag f b s).flac = s.flac := rfl
@[simp] theorem setFlag_evt {f : Fld} {b : Bool} : (setFlag f b s).evt = s.evt := rfl
@[simp] theorem setFlag_lanes {f : Fld} {b : Bool} : (setFlag f b s).lanes = s.lanes := rfl
@[simp] theorem setFlag_ports {f : Fld} {b : Bool} : (setFlag f b s).ports = s.ports := rfl
@[simp] theorem setFlag_time {f : Fld} {b : Bool} : (setFlag f b s).time = s.time := rfl
@[simp] theorem setFlag_wt {f : Fld} {b : Bool} : (setFlag f b s).wt = s.wt := rfl
@[simp] theorem setFlag_ce {f : Fld} {b : Bool} : (setFlag f b s).ce = s.ce := rfl
@[simp] theorem setFlag_enumr {f : Fld} {b : Bool} : (setFlag f b s).enumr = s.enumr := rfl
@[simp] theorem setFlag_cmd {f : Fld} {b : Bool} : (setFlag f b s).cmd = s.cmd := rfl
@[simp] theorem setFlag_pkt {f : Fld} {b : Bool} : (setFlag f b s).pkt = s.pkt := rfl
@[simp] theorem setFlag_comp {f : Fld} {b : Bool} : (setFlag f b s).comp = s.comp := rfl
@[simp] theorem setFlag_pipe {f : Fld} {b : Bool} : (setFlag f b s).pipe = s.pipe := rfl
@[simp] theorem setFlag_lamp {f : Fld} {b : Bool} : (setFlag f b s).lamp = s.lamp := rfl
@[simp] theorem setFlag_dramc {f : Fld} {b : Bool} : (setFlag f b s).dramc = s.dramc := rfl
@[simp] theorem setFlag_pwr {f : Fld} {b : Bool} : (setFlag f b s).pwr = s.pwr := rfl
@[simp] theorem setFlag_therm {f : Fld} {b : Bool} : (setFlag f b s).therm = s.therm := rfl
@[simp] theorem setFlag_boot {f : Fld} {b : Bool} : (setFlag f b s).boot = s.boot := rfl
@[simp] theorem setFlag_red {f : Fld} {b : Bool} : (setFlag f b s).red = s.red := rfl
@[simp] theorem setFlag_freeCnt {f : Fld} {b : Bool} : (setFlag f b s).freeCnt = s.freeCnt := rfl
@[simp] theorem setFlag_emitted {f : Fld} {b : Bool} : (setFlag f b s).emitted = s.emitted := rfl

/-! ### addFldAt -/

@[simp] theorem addFldAt_pending {f : Fld} {i n : Nat} : (addFldAt f i n s).pending = s.pending := rfl
@[simp] theorem addFldAt_board {f : Fld} {i n : Nat} : (addFldAt f i n s).board = s.board := rfl
@[simp] theorem addFldAt_store {f : Fld} {i n : Nat} : (addFldAt f i n s).store = s.store := rfl
@[simp] theorem addFldAt_dram {f : Fld} {i n : Nat} : (addFldAt f i n s).dram = s.dram := rfl
@[simp] theorem addFldAt_eth {f : Fld} {i n : Nat} : (addFldAt f i n s).eth = s.eth := rfl
@[simp] theorem addFldAt_flac {f : Fld} {i n : Nat} : (addFldAt f i n s).flac = s.flac := rfl
@[simp] theorem addFldAt_evt {f : Fld} {i n : Nat} : (addFldAt f i n s).evt = s.evt := rfl
@[simp] theorem addFldAt_lanes {f : Fld} {i n : Nat} : (addFldAt f i n s).lanes = s.lanes := rfl
@[simp] theorem addFldAt_ports {f : Fld} {i n : Nat} : (addFldAt f i n s).ports = s.ports := rfl
@[simp] theorem addFldAt_time {f : Fld} {i n : Nat} : (addFldAt f i n s).time = s.time := rfl
@[simp] theorem addFldAt_wt {f : Fld} {i n : Nat} : (addFldAt f i n s).wt = s.wt := rfl
@[simp] theorem addFldAt_ce {f : Fld} {i n : Nat} : (addFldAt f i n s).ce = s.ce := rfl
@[simp] theorem addFldAt_enumr {f : Fld} {i n : Nat} : (addFldAt f i n s).enumr = s.enumr := rfl
@[simp] theorem addFldAt_cmd {f : Fld} {i n : Nat} : (addFldAt f i n s).cmd = s.cmd := rfl
@[simp] theorem addFldAt_pkt {f : Fld} {i n : Nat} : (addFldAt f i n s).pkt = s.pkt := rfl
@[simp] theorem addFldAt_comp {f : Fld} {i n : Nat} : (addFldAt f i n s).comp = s.comp := rfl
@[simp] theorem addFldAt_pipe {f : Fld} {i n : Nat} : (addFldAt f i n s).pipe = s.pipe := rfl
@[simp] theorem addFldAt_lamp {f : Fld} {i n : Nat} : (addFldAt f i n s).lamp = s.lamp := rfl
@[simp] theorem addFldAt_dramc {f : Fld} {i n : Nat} : (addFldAt f i n s).dramc = s.dramc := rfl
@[simp] theorem addFldAt_pwr {f : Fld} {i n : Nat} : (addFldAt f i n s).pwr = s.pwr := rfl
@[simp] theorem addFldAt_therm {f : Fld} {i n : Nat} : (addFldAt f i n s).therm = s.therm := rfl
@[simp] theorem addFldAt_boot {f : Fld} {i n : Nat} : (addFldAt f i n s).boot = s.boot := rfl
@[simp] theorem addFldAt_red {f : Fld} {i n : Nat} : (addFldAt f i n s).red = s.red := rfl
@[simp] theorem addFldAt_freeCnt {f : Fld} {i n : Nat} : (addFldAt f i n s).freeCnt = s.freeCnt := rfl
@[simp] theorem addFldAt_emitted {f : Fld} {i n : Nat} : (addFldAt f i n s).emitted = s.emitted := rfl

/-! ### incFldAt -/

@[simp] theorem incFldAt_pending {f : Fld} {i : Nat} : (incFldAt f i s).pending = s.pending := rfl
@[simp] theorem incFldAt_board {f : Fld} {i : Nat} : (incFldAt f i s).board = s.board := rfl
@[simp] theorem incFldAt_store {f : Fld} {i : Nat} : (incFldAt f i s).store = s.store := rfl
@[simp] theorem incFldAt_dram {f : Fld} {i : Nat} : (incFldAt f i s).dram = s.dram := rfl
@[simp] theorem incFldAt_eth {f : Fld} {i : Nat} : (incFldAt f i s).eth = s.eth := rfl
@[simp] theorem incFldAt_flac {f : Fld} {i : Nat} : (incFldAt f i s).flac = s.flac := rfl
@[simp] theorem incFldAt_evt {f : Fld} {i : Nat} : (incFldAt f i s).evt = s.evt := rfl
@[simp] theorem incFldAt_lanes {f : Fld} {i : Nat} : (incFldAt f i s).lanes = s.lanes := rfl
@[simp] theorem incFldAt_ports {f : Fld} {i : Nat} : (incFldAt f i s).ports = s.ports := rfl
@[simp] theorem incFldAt_time {f : Fld} {i : Nat} : (incFldAt f i s).time = s.time := rfl
@[simp] theorem incFldAt_wt {f : Fld} {i : Nat} : (incFldAt f i s).wt = s.wt := rfl
@[simp] theorem incFldAt_ce {f : Fld} {i : Nat} : (incFldAt f i s).ce = s.ce := rfl
@[simp] theorem incFldAt_enumr {f : Fld} {i : Nat} : (incFldAt f i s).enumr = s.enumr := rfl
@[simp] theorem incFldAt_cmd {f : Fld} {i : Nat} : (incFldAt f i s).cmd = s.cmd := rfl
@[simp] theorem incFldAt_pkt {f : Fld} {i : Nat} : (incFldAt f i s).pkt = s.pkt := rfl
@[simp] theorem incFldAt_comp {f : Fld} {i : Nat} : (incFldAt f i s).comp = s.comp := rfl
@[simp] theorem incFldAt_pipe {f : Fld} {i : Nat} : (incFldAt f i s).pipe = s.pipe := rfl
@[simp] theorem incFldAt_lamp {f : Fld} {i : Nat} : (incFldAt f i s).lamp = s.lamp := rfl
@[simp] theorem incFldAt_dramc {f : Fld} {i : Nat} : (incFldAt f i s).dramc = s.dramc := rfl
@[simp] theorem incFldAt_pwr {f : Fld} {i : Nat} : (incFldAt f i s).pwr = s.pwr := rfl
@[simp] theorem incFldAt_therm {f : Fld} {i : Nat} : (incFldAt f i s).therm = s.therm := rfl
@[simp] theorem incFldAt_boot {f : Fld} {i : Nat} : (incFldAt f i s).boot = s.boot := rfl
@[simp] theorem incFldAt_red {f : Fld} {i : Nat} : (incFldAt f i s).red = s.red := rfl
@[simp] theorem incFldAt_freeCnt {f : Fld} {i : Nat} : (incFldAt f i s).freeCnt = s.freeCnt := rfl
@[simp] theorem incFldAt_emitted {f : Fld} {i : Nat} : (incFldAt f i s).emitted = s.emitted := rfl

/-! ### incFld -/

@[simp] theorem incFld_pending {f : Fld} : (incFld f s).pending = s.pending := rfl
@[simp] theorem incFld_board {f : Fld} : (incFld f s).board = s.board := rfl
@[simp] theorem incFld_store {f : Fld} : (incFld f s).store = s.store := rfl
@[simp] theorem incFld_dram {f : Fld} : (incFld f s).dram = s.dram := rfl
@[simp] theorem incFld_eth {f : Fld} : (incFld f s).eth = s.eth := rfl
@[simp] theorem incFld_flac {f : Fld} : (incFld f s).flac = s.flac := rfl
@[simp] theorem incFld_evt {f : Fld} : (incFld f s).evt = s.evt := rfl
@[simp] theorem incFld_lanes {f : Fld} : (incFld f s).lanes = s.lanes := rfl
@[simp] theorem incFld_ports {f : Fld} : (incFld f s).ports = s.ports := rfl
@[simp] theorem incFld_time {f : Fld} : (incFld f s).time = s.time := rfl
@[simp] theorem incFld_wt {f : Fld} : (incFld f s).wt = s.wt := rfl
@[simp] theorem incFld_ce {f : Fld} : (incFld f s).ce = s.ce := rfl
@[simp] theorem incFld_enumr {f : Fld} : (incFld f s).enumr = s.enumr := rfl
@[simp] theorem incFld_cmd {f : Fld} : (incFld f s).cmd = s.cmd := rfl
@[simp] theorem incFld_pkt {f : Fld} : (incFld f s).pkt = s.pkt := rfl
@[simp] theorem incFld_comp {f : Fld} : (incFld f s).comp = s.comp := rfl
@[simp] theorem incFld_pipe {f : Fld} : (incFld f s).pipe = s.pipe := rfl
@[simp] theorem incFld_lamp {f : Fld} : (incFld f s).lamp = s.lamp := rfl
@[simp] theorem incFld_dramc {f : Fld} : (incFld f s).dramc = s.dramc := rfl
@[simp] theorem incFld_pwr {f : Fld} : (incFld f s).pwr = s.pwr := rfl
@[simp] theorem incFld_therm {f : Fld} : (incFld f s).therm = s.therm := rfl
@[simp] theorem incFld_boot {f : Fld} : (incFld f s).boot = s.boot := rfl
@[simp] theorem incFld_red {f : Fld} : (incFld f s).red = s.red := rfl
@[simp] theorem incFld_freeCnt {f : Fld} : (incFld f s).freeCnt = s.freeCnt := rfl
@[simp] theorem incFld_emitted {f : Fld} : (incFld f s).emitted = s.emitted := rfl

/-! ### setStoreByte -/

@[simp] theorem setStoreByte_pending {o : Nat} {b : Byte} : (setStoreByte o b s).pending = s.pending := rfl
@[simp] theorem setStoreByte_board {o : Nat} {b : Byte} : (setStoreByte o b s).board = s.board := rfl
@[simp] theorem setStoreByte_regs {o : Nat} {b : Byte} : (setStoreByte o b s).regs = s.regs := rfl
@[simp] theorem setStoreByte_dram {o : Nat} {b : Byte} : (setStoreByte o b s).dram = s.dram := rfl
@[simp] theorem setStoreByte_eth {o : Nat} {b : Byte} : (setStoreByte o b s).eth = s.eth := rfl
@[simp] theorem setStoreByte_flac {o : Nat} {b : Byte} : (setStoreByte o b s).flac = s.flac := rfl
@[simp] theorem setStoreByte_evt {o : Nat} {b : Byte} : (setStoreByte o b s).evt = s.evt := rfl
@[simp] theorem setStoreByte_lanes {o : Nat} {b : Byte} : (setStoreByte o b s).lanes = s.lanes := rfl
@[simp] theorem setStoreByte_ports {o : Nat} {b : Byte} : (setStoreByte o b s).ports = s.ports := rfl
@[simp] theorem setStoreByte_time {o : Nat} {b : Byte} : (setStoreByte o b s).time = s.time := rfl
@[simp] theorem setStoreByte_wt {o : Nat} {b : Byte} : (setStoreByte o b s).wt = s.wt := rfl
@[simp] theorem setStoreByte_ce {o : Nat} {b : Byte} : (setStoreByte o b s).ce = s.ce := rfl
@[simp] theorem setStoreByte_enumr {o : Nat} {b : Byte} : (setStoreByte o b s).enumr = s.enumr := rfl
@[simp] theorem setStoreByte_cmd {o : Nat} {b : Byte} : (setStoreByte o b s).cmd = s.cmd := rfl
@[simp] theorem setStoreByte_pkt {o : Nat} {b : Byte} : (setStoreByte o b s).pkt = s.pkt := rfl
@[simp] theorem setStoreByte_comp {o : Nat} {b : Byte} : (setStoreByte o b s).comp = s.comp := rfl
@[simp] theorem setStoreByte_pipe {o : Nat} {b : Byte} : (setStoreByte o b s).pipe = s.pipe := rfl
@[simp] theorem setStoreByte_lamp {o : Nat} {b : Byte} : (setStoreByte o b s).lamp = s.lamp := rfl
@[simp] theorem setStoreByte_dramc {o : Nat} {b : Byte} : (setStoreByte o b s).dramc = s.dramc := rfl
@[simp] theorem setStoreByte_pwr {o : Nat} {b : Byte} : (setStoreByte o b s).pwr = s.pwr := rfl
@[simp] theorem setStoreByte_therm {o : Nat} {b : Byte} : (setStoreByte o b s).therm = s.therm := rfl
@[simp] theorem setStoreByte_boot {o : Nat} {b : Byte} : (setStoreByte o b s).boot = s.boot := rfl
@[simp] theorem setStoreByte_red {o : Nat} {b : Byte} : (setStoreByte o b s).red = s.red := rfl
@[simp] theorem setStoreByte_freeCnt {o : Nat} {b : Byte} : (setStoreByte o b s).freeCnt = s.freeCnt := rfl
@[simp] theorem setStoreByte_emitted {o : Nat} {b : Byte} : (setStoreByte o b s).emitted = s.emitted := rfl

/-! ### setDramByte -/

@[simp] theorem setDramByte_pending {o : Nat} {b : Byte} : (setDramByte o b s).pending = s.pending := rfl
@[simp] theorem setDramByte_board {o : Nat} {b : Byte} : (setDramByte o b s).board = s.board := rfl
@[simp] theorem setDramByte_regs {o : Nat} {b : Byte} : (setDramByte o b s).regs = s.regs := rfl
@[simp] theorem setDramByte_store {o : Nat} {b : Byte} : (setDramByte o b s).store = s.store := rfl
@[simp] theorem setDramByte_eth {o : Nat} {b : Byte} : (setDramByte o b s).eth = s.eth := rfl
@[simp] theorem setDramByte_flac {o : Nat} {b : Byte} : (setDramByte o b s).flac = s.flac := rfl
@[simp] theorem setDramByte_evt {o : Nat} {b : Byte} : (setDramByte o b s).evt = s.evt := rfl
@[simp] theorem setDramByte_lanes {o : Nat} {b : Byte} : (setDramByte o b s).lanes = s.lanes := rfl
@[simp] theorem setDramByte_ports {o : Nat} {b : Byte} : (setDramByte o b s).ports = s.ports := rfl
@[simp] theorem setDramByte_time {o : Nat} {b : Byte} : (setDramByte o b s).time = s.time := rfl
@[simp] theorem setDramByte_wt {o : Nat} {b : Byte} : (setDramByte o b s).wt = s.wt := rfl
@[simp] theorem setDramByte_ce {o : Nat} {b : Byte} : (setDramByte o b s).ce = s.ce := rfl
@[simp] theorem setDramByte_enumr {o : Nat} {b : Byte} : (setDramByte o b s).enumr = s.enumr := rfl
@[simp] theorem setDramByte_cmd {o : Nat} {b : Byte} : (setDramByte o b s).cmd = s.cmd := rfl
@[simp] theorem setDramByte_pkt {o : Nat} {b : Byte} : (setDramByte o b s).pkt = s.pkt := rfl
@[simp] theorem setDramByte_comp {o : Nat} {b : Byte} : (setDramByte o b s).comp = s.comp := rfl
@[simp] theorem setDramByte_pipe {o : Nat} {b : Byte} : (setDramByte o b s).pipe = s.pipe := rfl
@[simp] theorem setDramByte_lamp {o : Nat} {b : Byte} : (setDramByte o b s).lamp = s.lamp := rfl
@[simp] theorem setDramByte_dramc {o : Nat} {b : Byte} : (setDramByte o b s).dramc = s.dramc := rfl
@[simp] theorem setDramByte_pwr {o : Nat} {b : Byte} : (setDramByte o b s).pwr = s.pwr := rfl
@[simp] theorem setDramByte_therm {o : Nat} {b : Byte} : (setDramByte o b s).therm = s.therm := rfl
@[simp] theorem setDramByte_boot {o : Nat} {b : Byte} : (setDramByte o b s).boot = s.boot := rfl
@[simp] theorem setDramByte_red {o : Nat} {b : Byte} : (setDramByte o b s).red = s.red := rfl
@[simp] theorem setDramByte_freeCnt {o : Nat} {b : Byte} : (setDramByte o b s).freeCnt = s.freeCnt := rfl
@[simp] theorem setDramByte_emitted {o : Nat} {b : Byte} : (setDramByte o b s).emitted = s.emitted := rfl

/-! ### setLane -/

@[simp] theorem setLane_pending {i : Nat} {f : Lane → Lane} : (setLane i f s).pending = s.pending := rfl
@[simp] theorem setLane_board {i : Nat} {f : Lane → Lane} : (setLane i f s).board = s.board := rfl
@[simp] theorem setLane_regs {i : Nat} {f : Lane → Lane} : (setLane i f s).regs = s.regs := rfl
@[simp] theorem setLane_store {i : Nat} {f : Lane → Lane} : (setLane i f s).store = s.store := rfl
@[simp] theorem setLane_dram {i : Nat} {f : Lane → Lane} : (setLane i f s).dram = s.dram := rfl
@[simp] theorem setLane_eth {i : Nat} {f : Lane → Lane} : (setLane i f s).eth = s.eth := rfl
@[simp] theorem setLane_flac {i : Nat} {f : Lane → Lane} : (setLane i f s).flac = s.flac := rfl
@[simp] theorem setLane_evt {i : Nat} {f : Lane → Lane} : (setLane i f s).evt = s.evt := rfl
@[simp] theorem setLane_lanes {i : Nat} {f : Lane → Lane} : (setLane i f s).lanes = updAt f s.lanes i := rfl
@[simp] theorem setLane_ports {i : Nat} {f : Lane → Lane} : (setLane i f s).ports = s.ports := rfl
@[simp] theorem setLane_time {i : Nat} {f : Lane → Lane} : (setLane i f s).time = s.time := rfl
@[simp] theorem setLane_wt {i : Nat} {f : Lane → Lane} : (setLane i f s).wt = s.wt := rfl
@[simp] theorem setLane_ce {i : Nat} {f : Lane → Lane} : (setLane i f s).ce = s.ce := rfl
@[simp] theorem setLane_enumr {i : Nat} {f : Lane → Lane} : (setLane i f s).enumr = s.enumr := rfl
@[simp] theorem setLane_cmd {i : Nat} {f : Lane → Lane} : (setLane i f s).cmd = s.cmd := rfl
@[simp] theorem setLane_pkt {i : Nat} {f : Lane → Lane} : (setLane i f s).pkt = s.pkt := rfl
@[simp] theorem setLane_comp {i : Nat} {f : Lane → Lane} : (setLane i f s).comp = s.comp := rfl
@[simp] theorem setLane_pipe {i : Nat} {f : Lane → Lane} : (setLane i f s).pipe = s.pipe := rfl
@[simp] theorem setLane_lamp {i : Nat} {f : Lane → Lane} : (setLane i f s).lamp = s.lamp := rfl
@[simp] theorem setLane_dramc {i : Nat} {f : Lane → Lane} : (setLane i f s).dramc = s.dramc := rfl
@[simp] theorem setLane_pwr {i : Nat} {f : Lane → Lane} : (setLane i f s).pwr = s.pwr := rfl
@[simp] theorem setLane_therm {i : Nat} {f : Lane → Lane} : (setLane i f s).therm = s.therm := rfl
@[simp] theorem setLane_boot {i : Nat} {f : Lane → Lane} : (setLane i f s).boot = s.boot := rfl
@[simp] theorem setLane_red {i : Nat} {f : Lane → Lane} : (setLane i f s).red = s.red := rfl
@[simp] theorem setLane_freeCnt {i : Nat} {f : Lane → Lane} : (setLane i f s).freeCnt = s.freeCnt := rfl
@[simp] theorem setLane_emitted {i : Nat} {f : Lane → Lane} : (setLane i f s).emitted = s.emitted := rfl

/-! ### setPort -/

@[simp] theorem setPort_pending {i : Nat} {f : Port → Port} : (setPort i f s).pending = s.pending := rfl
@[simp] theorem setPort_board {i : Nat} {f : Port → Port} : (setPort i f s).board = s.board := rfl
@[simp] theorem setPort_regs {i : Nat} {f : Port → Port} : (setPort i f s).regs = s.regs := rfl
@[simp] theorem setPort_store {i : Nat} {f : Port → Port} : (setPort i f s).store = s.store := rfl
@[simp] theorem setPort_dram {i : Nat} {f : Port → Port} : (setPort i f s).dram = s.dram := rfl
@[simp] theorem setPort_eth {i : Nat} {f : Port → Port} : (setPort i f s).eth = s.eth := rfl
@[simp] theorem setPort_flac {i : Nat} {f : Port → Port} : (setPort i f s).flac = s.flac := rfl
@[simp] theorem setPort_evt {i : Nat} {f : Port → Port} : (setPort i f s).evt = s.evt := rfl
@[simp] theorem setPort_lanes {i : Nat} {f : Port → Port} : (setPort i f s).lanes = s.lanes := rfl
@[simp] theorem setPort_ports {i : Nat} {f : Port → Port} : (setPort i f s).ports = updAt f s.ports i := rfl
@[simp] theorem setPort_time {i : Nat} {f : Port → Port} : (setPort i f s).time = s.time := rfl
@[simp] theorem setPort_wt {i : Nat} {f : Port → Port} : (setPort i f s).wt = s.wt := rfl
@[simp] theorem setPort_ce {i : Nat} {f : Port → Port} : (setPort i f s).ce = s.ce := rfl
@[simp] theorem setPort_enumr {i : Nat} {f : Port → Port} : (setPort i f s).enumr = s.enumr := rfl
@[simp] theorem setPort_cmd {i : Nat} {f : Port → Port} : (setPort i f s).cmd = s.cmd := rfl
@[simp] theorem setPort_pkt {i : Nat} {f : Port → Port} : (setPort i f s).pkt = s.pkt := rfl
@[simp] theorem setPort_comp {i : Nat} {f : Port → Port} : (setPort i f s).comp = s.comp := rfl
@[simp] theorem setPort_pipe {i : Nat} {f : Port → Port} : (setPort i f s).pipe = s.pipe := rfl
@[simp] theorem setPort_lamp {i : Nat} {f : Port → Port} : (setPort i f s).lamp = s.lamp := rfl
@[simp] theorem setPort_dramc {i : Nat} {f : Port → Port} : (setPort i f s).dramc = s.dramc := rfl
@[simp] theorem setPort_pwr {i : Nat} {f : Port → Port} : (setPort i f s).pwr = s.pwr := rfl
@[simp] theorem setPort_therm {i : Nat} {f : Port → Port} : (setPort i f s).therm = s.therm := rfl
@[simp] theorem setPort_boot {i : Nat} {f : Port → Port} : (setPort i f s).boot = s.boot := rfl
@[simp] theorem setPort_red {i : Nat} {f : Port → Port} : (setPort i f s).red = s.red := rfl
@[simp] theorem setPort_freeCnt {i : Nat} {f : Port → Port} : (setPort i f s).freeCnt = s.freeCnt := rfl
@[simp] theorem setPort_emitted {i : Nat} {f : Port → Port} : (setPort i f s).emitted = s.emitted := rfl

/-! ### emit -/

@[simp] theorem emit_pending {e : Emit} : (emit e s).pending = s.pending := rfl
@[simp] theorem emit_board {e : Emit} : (emit e s).board = s.board := rfl
@[simp] theorem emit_regs {e : Emit} : (emit e s).regs = s.regs := rfl
@[simp] theorem emit_store {e : Emit} : (emit e s).store = s.store := rfl
@[simp] theorem emit_dram {e : Emit} : (emit e s).dram = s.dram := rfl
@[simp] theorem emit_eth {e : Emit} : (emit e s).eth = s.eth := rfl
@[simp] theorem emit_flac {e : Emit} : (emit e s).flac = s.flac := rfl
@[simp] theorem emit_evt {e : Emit} : (emit e s).evt = s.evt := rfl
@[simp] theorem emit_lanes {e : Emit} : (emit e s).lanes = s.lanes := rfl
@[simp] theorem emit_ports {e : Emit} : (emit e s).ports = s.ports := rfl
@[simp] theorem emit_time {e : Emit} : (emit e s).time = s.time := rfl
@[simp] theorem emit_wt {e : Emit} : (emit e s).wt = s.wt := rfl
@[simp] theorem emit_ce {e : Emit} : (emit e s).ce = s.ce := rfl
@[simp] theorem emit_enumr {e : Emit} : (emit e s).enumr = s.enumr := rfl
@[simp] theorem emit_cmd {e : Emit} : (emit e s).cmd = s.cmd := rfl
@[simp] theorem emit_pkt {e : Emit} : (emit e s).pkt = s.pkt := rfl
@[simp] theorem emit_comp {e : Emit} : (emit e s).comp = s.comp := rfl
@[simp] theorem emit_pipe {e : Emit} : (emit e s).pipe = s.pipe := rfl
@[simp] theorem emit_lamp {e : Emit} : (emit e s).lamp = s.lamp := rfl
@[simp] theorem emit_dramc {e : Emit} : (emit e s).dramc = s.dramc := rfl
@[simp] theorem emit_pwr {e : Emit} : (emit e s).pwr = s.pwr := rfl
@[simp] theorem emit_therm {e : Emit} : (emit e s).therm = s.therm := rfl
@[simp] theorem emit_boot {e : Emit} : (emit e s).boot = s.boot := rfl
@[simp] theorem emit_red {e : Emit} : (emit e s).red = s.red := rfl
@[simp] theorem emit_freeCnt {e : Emit} : (emit e s).freeCnt = s.freeCnt := rfl
@[simp] theorem emit_emitted {e : Emit} : (emit e s).emitted = e :: s.emitted := rfl

/-! ### setCmd -/

@[simp] theorem setCmd_pending {f : CmdState → CmdState} : (setCmd f s).pending = s.pending := rfl
@[simp] theorem setCmd_board {f : CmdState → CmdState} : (setCmd f s).board = s.board := rfl
@[simp] theorem setCmd_regs {f : CmdState → CmdState} : (setCmd f s).regs = s.regs := rfl
@[simp] theorem setCmd_store {f : CmdState → CmdState} : (setCmd f s).store = s.store := rfl
@[simp] theorem setCmd_dram {f : CmdState → CmdState} : (setCmd f s).dram = s.dram := rfl
@[simp] theorem setCmd_eth {f : CmdState → CmdState} : (setCmd f s).eth = s.eth := rfl
@[simp] theorem setCmd_flac {f : CmdState → CmdState} : (setCmd f s).flac = s.flac := rfl
@[simp] theorem setCmd_evt {f : CmdState → CmdState} : (setCmd f s).evt = s.evt := rfl
@[simp] theorem setCmd_lanes {f : CmdState → CmdState} : (setCmd f s).lanes = s.lanes := rfl
@[simp] theorem setCmd_ports {f : CmdState → CmdState} : (setCmd f s).ports = s.ports := rfl
@[simp] theorem setCmd_time {f : CmdState → CmdState} : (setCmd f s).time = s.time := rfl
@[simp] theorem setCmd_wt {f : CmdState → CmdState} : (setCmd f s).wt = s.wt := rfl
@[simp] theorem setCmd_ce {f : CmdState → CmdState} : (setCmd f s).ce = s.ce := rfl
@[simp] theorem setCmd_enumr {f : CmdState → CmdState} : (setCmd f s).enumr = s.enumr := rfl
@[simp] theorem setCmd_cmd {f : CmdState → CmdState} : (setCmd f s).cmd = f s.cmd := rfl
@[simp] theorem setCmd_pkt {f : CmdState → CmdState} : (setCmd f s).pkt = s.pkt := rfl
@[simp] theorem setCmd_comp {f : CmdState → CmdState} : (setCmd f s).comp = s.comp := rfl
@[simp] theorem setCmd_pipe {f : CmdState → CmdState} : (setCmd f s).pipe = s.pipe := rfl
@[simp] theorem setCmd_lamp {f : CmdState → CmdState} : (setCmd f s).lamp = s.lamp := rfl
@[simp] theorem setCmd_dramc {f : CmdState → CmdState} : (setCmd f s).dramc = s.dramc := rfl
@[simp] theorem setCmd_pwr {f : CmdState → CmdState} : (setCmd f s).pwr = s.pwr := rfl
@[simp] theorem setCmd_therm {f : CmdState → CmdState} : (setCmd f s).therm = s.therm := rfl
@[simp] theorem setCmd_boot {f : CmdState → CmdState} : (setCmd f s).boot = s.boot := rfl
@[simp] theorem setCmd_red {f : CmdState → CmdState} : (setCmd f s).red = s.red := rfl
@[simp] theorem setCmd_freeCnt {f : CmdState → CmdState} : (setCmd f s).freeCnt = s.freeCnt := rfl
@[simp] theorem setCmd_emitted {f : CmdState → CmdState} : (setCmd f s).emitted = s.emitted := rfl

/-! ### setRed -/

@[simp] theorem setRed_pending {f : RedState → RedState} : (setRed f s).pending = s.pending := rfl
@[simp] theorem setRed_board {f : RedState → RedState} : (setRed f s).board = s.board := rfl
@[simp] theorem setRed_regs {f : RedState → RedState} : (setRed f s).regs = s.regs := rfl
@[simp] theorem setRed_store {f : RedState → RedState} : (setRed f s).store = s.store := rfl
@[simp] theorem setRed_dram {f : RedState → RedState} : (setRed f s).dram = s.dram := rfl
@[simp] theorem setRed_eth {f : RedState → RedState} : (setRed f s).eth = s.eth := rfl
@[simp] theorem setRed_flac {f : RedState → RedState} : (setRed f s).flac = s.flac := rfl
@[simp] theorem setRed_evt {f : RedState → RedState} : (setRed f s).evt = s.evt := rfl
@[simp] theorem setRed_lanes {f : RedState → RedState} : (setRed f s).lanes = s.lanes := rfl
@[simp] theorem setRed_ports {f : RedState → RedState} : (setRed f s).ports = s.ports := rfl
@[simp] theorem setRed_time {f : RedState → RedState} : (setRed f s).time = s.time := rfl
@[simp] theorem setRed_wt {f : RedState → RedState} : (setRed f s).wt = s.wt := rfl
@[simp] theorem setRed_ce {f : RedState → RedState} : (setRed f s).ce = s.ce := rfl
@[simp] theorem setRed_enumr {f : RedState → RedState} : (setRed f s).enumr = s.enumr := rfl
@[simp] theorem setRed_cmd {f : RedState → RedState} : (setRed f s).cmd = s.cmd := rfl
@[simp] theorem setRed_pkt {f : RedState → RedState} : (setRed f s).pkt = s.pkt := rfl
@[simp] theorem setRed_comp {f : RedState → RedState} : (setRed f s).comp = s.comp := rfl
@[simp] theorem setRed_pipe {f : RedState → RedState} : (setRed f s).pipe = s.pipe := rfl
@[simp] theorem setRed_lamp {f : RedState → RedState} : (setRed f s).lamp = s.lamp := rfl
@[simp] theorem setRed_dramc {f : RedState → RedState} : (setRed f s).dramc = s.dramc := rfl
@[simp] theorem setRed_pwr {f : RedState → RedState} : (setRed f s).pwr = s.pwr := rfl
@[simp] theorem setRed_therm {f : RedState → RedState} : (setRed f s).therm = s.therm := rfl
@[simp] theorem setRed_boot {f : RedState → RedState} : (setRed f s).boot = s.boot := rfl
@[simp] theorem setRed_red {f : RedState → RedState} : (setRed f s).red = f s.red := rfl
@[simp] theorem setRed_freeCnt {f : RedState → RedState} : (setRed f s).freeCnt = s.freeCnt := rfl
@[simp] theorem setRed_emitted {f : RedState → RedState} : (setRed f s).emitted = s.emitted := rfl

/-! ### setTime -/

@[simp] theorem setTime_pending {f : TimeState → TimeState} : (setTime f s).pending = s.pending := rfl
@[simp] theorem setTime_board {f : TimeState → TimeState} : (setTime f s).board = s.board := rfl
@[simp] theorem setTime_regs {f : TimeState → TimeState} : (setTime f s).regs = s.regs := rfl
@[simp] theorem setTime_store {f : TimeState → TimeState} : (setTime f s).store = s.store := rfl
@[simp] theorem setTime_dram {f : TimeState → TimeState} : (setTime f s).dram = s.dram := rfl
@[simp] theorem setTime_eth {f : TimeState → TimeState} : (setTime f s).eth = s.eth := rfl
@[simp] theorem setTime_flac {f : TimeState → TimeState} : (setTime f s).flac = s.flac := rfl
@[simp] theorem setTime_evt {f : TimeState → TimeState} : (setTime f s).evt = s.evt := rfl
@[simp] theorem setTime_lanes {f : TimeState → TimeState} : (setTime f s).lanes = s.lanes := rfl
@[simp] theorem setTime_ports {f : TimeState → TimeState} : (setTime f s).ports = s.ports := rfl
@[simp] theorem setTime_time {f : TimeState → TimeState} : (setTime f s).time = f s.time := rfl
@[simp] theorem setTime_wt {f : TimeState → TimeState} : (setTime f s).wt = s.wt := rfl
@[simp] theorem setTime_ce {f : TimeState → TimeState} : (setTime f s).ce = s.ce := rfl
@[simp] theorem setTime_enumr {f : TimeState → TimeState} : (setTime f s).enumr = s.enumr := rfl
@[simp] theorem setTime_cmd {f : TimeState → TimeState} : (setTime f s).cmd = s.cmd := rfl
@[simp] theorem setTime_pkt {f : TimeState → TimeState} : (setTime f s).pkt = s.pkt := rfl
@[simp] theorem setTime_comp {f : TimeState → TimeState} : (setTime f s).comp = s.comp := rfl
@[simp] theorem setTime_pipe {f : TimeState → TimeState} : (setTime f s).pipe = s.pipe := rfl
@[simp] theorem setTime_lamp {f : TimeState → TimeState} : (setTime f s).lamp = s.lamp := rfl
@[simp] theorem setTime_dramc {f : TimeState → TimeState} : (setTime f s).dramc = s.dramc := rfl
@[simp] theorem setTime_pwr {f : TimeState → TimeState} : (setTime f s).pwr = s.pwr := rfl
@[simp] theorem setTime_therm {f : TimeState → TimeState} : (setTime f s).therm = s.therm := rfl
@[simp] theorem setTime_boot {f : TimeState → TimeState} : (setTime f s).boot = s.boot := rfl
@[simp] theorem setTime_red {f : TimeState → TimeState} : (setTime f s).red = s.red := rfl
@[simp] theorem setTime_freeCnt {f : TimeState → TimeState} : (setTime f s).freeCnt = s.freeCnt := rfl
@[simp] theorem setTime_emitted {f : TimeState → TimeState} : (setTime f s).emitted = s.emitted := rfl

/-! ### setWt -/

@[simp] theorem setWt_pending {f : WtState → WtState} : (setWt f s).pending = s.pending := rfl
@[simp] theorem setWt_board {f : WtState → WtState} : (setWt f s).board = s.board := rfl
@[simp] theorem setWt_regs {f : WtState → WtState} : (setWt f s).regs = s.regs := rfl
@[simp] theorem setWt_store {f : WtState → WtState} : (setWt f s).store = s.store := rfl
@[simp] theorem setWt_dram {f : WtState → WtState} : (setWt f s).dram = s.dram := rfl
@[simp] theorem setWt_eth {f : WtState → WtState} : (setWt f s).eth = s.eth := rfl
@[simp] theorem setWt_flac {f : WtState → WtState} : (setWt f s).flac = s.flac := rfl
@[simp] theorem setWt_evt {f : WtState → WtState} : (setWt f s).evt = s.evt := rfl
@[simp] theorem setWt_lanes {f : WtState → WtState} : (setWt f s).lanes = s.lanes := rfl
@[simp] theorem setWt_ports {f : WtState → WtState} : (setWt f s).ports = s.ports := rfl
@[simp] theorem setWt_time {f : WtState → WtState} : (setWt f s).time = s.time := rfl
@[simp] theorem setWt_wt {f : WtState → WtState} : (setWt f s).wt = f s.wt := rfl
@[simp] theorem setWt_ce {f : WtState → WtState} : (setWt f s).ce = s.ce := rfl
@[simp] theorem setWt_enumr {f : WtState → WtState} : (setWt f s).enumr = s.enumr := rfl
@[simp] theorem setWt_cmd {f : WtState → WtState} : (setWt f s).cmd = s.cmd := rfl
@[simp] theorem setWt_pkt {f : WtState → WtState} : (setWt f s).pkt = s.pkt := rfl
@[simp] theorem setWt_comp {f : WtState → WtState} : (setWt f s).comp = s.comp := rfl
@[simp] theorem setWt_pipe {f : WtState → WtState} : (setWt f s).pipe = s.pipe := rfl
@[simp] theorem setWt_lamp {f : WtState → WtState} : (setWt f s).lamp = s.lamp := rfl
@[simp] theorem setWt_dramc {f : WtState → WtState} : (setWt f s).dramc = s.dramc := rfl
@[simp] theorem setWt_pwr {f : WtState → WtState} : (setWt f s).pwr = s.pwr := rfl
@[simp] theorem setWt_therm {f : WtState → WtState} : (setWt f s).therm = s.therm := rfl
@[simp] theorem setWt_boot {f : WtState → WtState} : (setWt f s).boot = s.boot := rfl
@[simp] theorem setWt_red {f : WtState → WtState} : (setWt f s).red = s.red := rfl
@[simp] theorem setWt_freeCnt {f : WtState → WtState} : (setWt f s).freeCnt = s.freeCnt := rfl
@[simp] theorem setWt_emitted {f : WtState → WtState} : (setWt f s).emitted = s.emitted := rfl

/-! ### setCe -/

@[simp] theorem setCe_pending {f : CeState → CeState} : (setCe f s).pending = s.pending := rfl
@[simp] theorem setCe_board {f : CeState → CeState} : (setCe f s).board = s.board := rfl
@[simp] theorem setCe_regs {f : CeState → CeState} : (setCe f s).regs = s.regs := rfl
@[simp] theorem setCe_store {f : CeState → CeState} : (setCe f s).store = s.store := rfl
@[simp] theorem setCe_dram {f : CeState → CeState} : (setCe f s).dram = s.dram := rfl
@[simp] theorem setCe_eth {f : CeState → CeState} : (setCe f s).eth = s.eth := rfl
@[simp] theorem setCe_flac {f : CeState → CeState} : (setCe f s).flac = s.flac := rfl
@[simp] theorem setCe_evt {f : CeState → CeState} : (setCe f s).evt = s.evt := rfl
@[simp] theorem setCe_lanes {f : CeState → CeState} : (setCe f s).lanes = s.lanes := rfl
@[simp] theorem setCe_ports {f : CeState → CeState} : (setCe f s).ports = s.ports := rfl
@[simp] theorem setCe_time {f : CeState → CeState} : (setCe f s).time = s.time := rfl
@[simp] theorem setCe_wt {f : CeState → CeState} : (setCe f s).wt = s.wt := rfl
@[simp] theorem setCe_ce {f : CeState → CeState} : (setCe f s).ce = f s.ce := rfl
@[simp] theorem setCe_enumr {f : CeState → CeState} : (setCe f s).enumr = s.enumr := rfl
@[simp] theorem setCe_cmd {f : CeState → CeState} : (setCe f s).cmd = s.cmd := rfl
@[simp] theorem setCe_pkt {f : CeState → CeState} : (setCe f s).pkt = s.pkt := rfl
@[simp] theorem setCe_comp {f : CeState → CeState} : (setCe f s).comp = s.comp := rfl
@[simp] theorem setCe_pipe {f : CeState → CeState} : (setCe f s).pipe = s.pipe := rfl
@[simp] theorem setCe_lamp {f : CeState → CeState} : (setCe f s).lamp = s.lamp := rfl
@[simp] theorem setCe_dramc {f : CeState → CeState} : (setCe f s).dramc = s.dramc := rfl
@[simp] theorem setCe_pwr {f : CeState → CeState} : (setCe f s).pwr = s.pwr := rfl
@[simp] theorem setCe_therm {f : CeState → CeState} : (setCe f s).therm = s.therm := rfl
@[simp] theorem setCe_boot {f : CeState → CeState} : (setCe f s).boot = s.boot := rfl
@[simp] theorem setCe_red {f : CeState → CeState} : (setCe f s).red = s.red := rfl
@[simp] theorem setCe_freeCnt {f : CeState → CeState} : (setCe f s).freeCnt = s.freeCnt := rfl
@[simp] theorem setCe_emitted {f : CeState → CeState} : (setCe f s).emitted = s.emitted := rfl

/-! ### setEth -/

@[simp] theorem setEth_pending {f : EthState → EthState} : (setEth f s).pending = s.pending := rfl
@[simp] theorem setEth_board {f : EthState → EthState} : (setEth f s).board = s.board := rfl
@[simp] theorem setEth_regs {f : EthState → EthState} : (setEth f s).regs = s.regs := rfl
@[simp] theorem setEth_store {f : EthState → EthState} : (setEth f s).store = s.store := rfl
@[simp] theorem setEth_dram {f : EthState → EthState} : (setEth f s).dram = s.dram := rfl
@[simp] theorem setEth_eth {f : EthState → EthState} : (setEth f s).eth = f s.eth := rfl
@[simp] theorem setEth_flac {f : EthState → EthState} : (setEth f s).flac = s.flac := rfl
@[simp] theorem setEth_evt {f : EthState → EthState} : (setEth f s).evt = s.evt := rfl
@[simp] theorem setEth_lanes {f : EthState → EthState} : (setEth f s).lanes = s.lanes := rfl
@[simp] theorem setEth_ports {f : EthState → EthState} : (setEth f s).ports = s.ports := rfl
@[simp] theorem setEth_time {f : EthState → EthState} : (setEth f s).time = s.time := rfl
@[simp] theorem setEth_wt {f : EthState → EthState} : (setEth f s).wt = s.wt := rfl
@[simp] theorem setEth_ce {f : EthState → EthState} : (setEth f s).ce = s.ce := rfl
@[simp] theorem setEth_enumr {f : EthState → EthState} : (setEth f s).enumr = s.enumr := rfl
@[simp] theorem setEth_cmd {f : EthState → EthState} : (setEth f s).cmd = s.cmd := rfl
@[simp] theorem setEth_pkt {f : EthState → EthState} : (setEth f s).pkt = s.pkt := rfl
@[simp] theorem setEth_comp {f : EthState → EthState} : (setEth f s).comp = s.comp := rfl
@[simp] theorem setEth_pipe {f : EthState → EthState} : (setEth f s).pipe = s.pipe := rfl
@[simp] theorem setEth_lamp {f : EthState → EthState} : (setEth f s).lamp = s.lamp := rfl
@[simp] theorem setEth_dramc {f : EthState → EthState} : (setEth f s).dramc = s.dramc := rfl
@[simp] theorem setEth_pwr {f : EthState → EthState} : (setEth f s).pwr = s.pwr := rfl
@[simp] theorem setEth_therm {f : EthState → EthState} : (setEth f s).therm = s.therm := rfl
@[simp] theorem setEth_boot {f : EthState → EthState} : (setEth f s).boot = s.boot := rfl
@[simp] theorem setEth_red {f : EthState → EthState} : (setEth f s).red = s.red := rfl
@[simp] theorem setEth_freeCnt {f : EthState → EthState} : (setEth f s).freeCnt = s.freeCnt := rfl
@[simp] theorem setEth_emitted {f : EthState → EthState} : (setEth f s).emitted = s.emitted := rfl

/-! ### setLamp -/

@[simp] theorem setLamp_pending {f : LampState → LampState} : (setLamp f s).pending = s.pending := rfl
@[simp] theorem setLamp_board {f : LampState → LampState} : (setLamp f s).board = s.board := rfl
@[simp] theorem setLamp_regs {f : LampState → LampState} : (setLamp f s).regs = s.regs := rfl
@[simp] theorem setLamp_store {f : LampState → LampState} : (setLamp f s).store = s.store := rfl
@[simp] theorem setLamp_dram {f : LampState → LampState} : (setLamp f s).dram = s.dram := rfl
@[simp] theorem setLamp_eth {f : LampState → LampState} : (setLamp f s).eth = s.eth := rfl
@[simp] theorem setLamp_flac {f : LampState → LampState} : (setLamp f s).flac = s.flac := rfl
@[simp] theorem setLamp_evt {f : LampState → LampState} : (setLamp f s).evt = s.evt := rfl
@[simp] theorem setLamp_lanes {f : LampState → LampState} : (setLamp f s).lanes = s.lanes := rfl
@[simp] theorem setLamp_ports {f : LampState → LampState} : (setLamp f s).ports = s.ports := rfl
@[simp] theorem setLamp_time {f : LampState → LampState} : (setLamp f s).time = s.time := rfl
@[simp] theorem setLamp_wt {f : LampState → LampState} : (setLamp f s).wt = s.wt := rfl
@[simp] theorem setLamp_ce {f : LampState → LampState} : (setLamp f s).ce = s.ce := rfl
@[simp] theorem setLamp_enumr {f : LampState → LampState} : (setLamp f s).enumr = s.enumr := rfl
@[simp] theorem setLamp_cmd {f : LampState → LampState} : (setLamp f s).cmd = s.cmd := rfl
@[simp] theorem setLamp_pkt {f : LampState → LampState} : (setLamp f s).pkt = s.pkt := rfl
@[simp] theorem setLamp_comp {f : LampState → LampState} : (setLamp f s).comp = s.comp := rfl
@[simp] theorem setLamp_pipe {f : LampState → LampState} : (setLamp f s).pipe = s.pipe := rfl
@[simp] theorem setLamp_lamp {f : LampState → LampState} : (setLamp f s).lamp = f s.lamp := rfl
@[simp] theorem setLamp_dramc {f : LampState → LampState} : (setLamp f s).dramc = s.dramc := rfl
@[simp] theorem setLamp_pwr {f : LampState → LampState} : (setLamp f s).pwr = s.pwr := rfl
@[simp] theorem setLamp_therm {f : LampState → LampState} : (setLamp f s).therm = s.therm := rfl
@[simp] theorem setLamp_boot {f : LampState → LampState} : (setLamp f s).boot = s.boot := rfl
@[simp] theorem setLamp_red {f : LampState → LampState} : (setLamp f s).red = s.red := rfl
@[simp] theorem setLamp_freeCnt {f : LampState → LampState} : (setLamp f s).freeCnt = s.freeCnt := rfl
@[simp] theorem setLamp_emitted {f : LampState → LampState} : (setLamp f s).emitted = s.emitted := rfl

/-! ### setDramc -/

@[simp] theorem setDramc_pending {f : DramState → DramState} : (setDramc f s).pending = s.pending := rfl
@[simp] theorem setDramc_board {f : DramState → DramState} : (setDramc f s).board = s.board := rfl
@[simp] theorem setDramc_regs {f : DramState → DramState} : (setDramc f s).regs = s.regs := rfl
@[simp] theorem setDramc_store {f : DramState → DramState} : (setDramc f s).store = s.store := rfl
@[simp] theorem setDramc_dram {f : DramState → DramState} : (setDramc f s).dram = s.dram := rfl
@[simp] theorem setDramc_eth {f : DramState → DramState} : (setDramc f s).eth = s.eth := rfl
@[simp] theorem setDramc_flac {f : DramState → DramState} : (setDramc f s).flac = s.flac := rfl
@[simp] theorem setDramc_evt {f : DramState → DramState} : (setDramc f s).evt = s.evt := rfl
@[simp] theorem setDramc_lanes {f : DramState → DramState} : (setDramc f s).lanes = s.lanes := rfl
@[simp] theorem setDramc_ports {f : DramState → DramState} : (setDramc f s).ports = s.ports := rfl
@[simp] theorem setDramc_time {f : DramState → DramState} : (setDramc f s).time = s.time := rfl
@[simp] theorem setDramc_wt {f : DramState → DramState} : (setDramc f s).wt = s.wt := rfl
@[simp] theorem setDramc_ce {f : DramState → DramState} : (setDramc f s).ce = s.ce := rfl
@[simp] theorem setDramc_enumr {f : DramState → DramState} : (setDramc f s).enumr = s.enumr := rfl
@[simp] theorem setDramc_cmd {f : DramState → DramState} : (setDramc f s).cmd = s.cmd := rfl
@[simp] theorem setDramc_pkt {f : DramState → DramState} : (setDramc f s).pkt = s.pkt := rfl
@[simp] theorem setDramc_comp {f : DramState → DramState} : (setDramc f s).comp = s.comp := rfl
@[simp] theorem setDramc_pipe {f : DramState → DramState} : (setDramc f s).pipe = s.pipe := rfl
@[simp] theorem setDramc_lamp {f : DramState → DramState} : (setDramc f s).lamp = s.lamp := rfl
@[simp] theorem setDramc_dramc {f : DramState → DramState} : (setDramc f s).dramc = f s.dramc := rfl
@[simp] theorem setDramc_pwr {f : DramState → DramState} : (setDramc f s).pwr = s.pwr := rfl
@[simp] theorem setDramc_therm {f : DramState → DramState} : (setDramc f s).therm = s.therm := rfl
@[simp] theorem setDramc_boot {f : DramState → DramState} : (setDramc f s).boot = s.boot := rfl
@[simp] theorem setDramc_red {f : DramState → DramState} : (setDramc f s).red = s.red := rfl
@[simp] theorem setDramc_freeCnt {f : DramState → DramState} : (setDramc f s).freeCnt = s.freeCnt := rfl
@[simp] theorem setDramc_emitted {f : DramState → DramState} : (setDramc f s).emitted = s.emitted := rfl

/-! ### setPwr -/

@[simp] theorem setPwr_pending {f : PwrState → PwrState} : (setPwr f s).pending = s.pending := rfl
@[simp] theorem setPwr_board {f : PwrState → PwrState} : (setPwr f s).board = s.board := rfl
@[simp] theorem setPwr_regs {f : PwrState → PwrState} : (setPwr f s).regs = s.regs := rfl
@[simp] theorem setPwr_store {f : PwrState → PwrState} : (setPwr f s).store = s.store := rfl
@[simp] theorem setPwr_dram {f : PwrState → PwrState} : (setPwr f s).dram = s.dram := rfl
@[simp] theorem setPwr_eth {f : PwrState → PwrState} : (setPwr f s).eth = s.eth := rfl
@[simp] theorem setPwr_flac {f : PwrState → PwrState} : (setPwr f s).flac = s.flac := rfl
@[simp] theorem setPwr_evt {f : PwrState → PwrState} : (setPwr f s).evt = s.evt := rfl
@[simp] theorem setPwr_lanes {f : PwrState → PwrState} : (setPwr f s).lanes = s.lanes := rfl
@[simp] theorem setPwr_ports {f : PwrState → PwrState} : (setPwr f s).ports = s.ports := rfl
@[simp] theorem setPwr_time {f : PwrState → PwrState} : (setPwr f s).time = s.time := rfl
@[simp] theorem setPwr_wt {f : PwrState → PwrState} : (setPwr f s).wt = s.wt := rfl
@[simp] theorem setPwr_ce {f : PwrState → PwrState} : (setPwr f s).ce = s.ce := rfl
@[simp] theorem setPwr_enumr {f : PwrState → PwrState} : (setPwr f s).enumr = s.enumr := rfl
@[simp] theorem setPwr_cmd {f : PwrState → PwrState} : (setPwr f s).cmd = s.cmd := rfl
@[simp] theorem setPwr_pkt {f : PwrState → PwrState} : (setPwr f s).pkt = s.pkt := rfl
@[simp] theorem setPwr_comp {f : PwrState → PwrState} : (setPwr f s).comp = s.comp := rfl
@[simp] theorem setPwr_pipe {f : PwrState → PwrState} : (setPwr f s).pipe = s.pipe := rfl
@[simp] theorem setPwr_lamp {f : PwrState → PwrState} : (setPwr f s).lamp = s.lamp := rfl
@[simp] theorem setPwr_dramc {f : PwrState → PwrState} : (setPwr f s).dramc = s.dramc := rfl
@[simp] theorem setPwr_pwr {f : PwrState → PwrState} : (setPwr f s).pwr = f s.pwr := rfl
@[simp] theorem setPwr_therm {f : PwrState → PwrState} : (setPwr f s).therm = s.therm := rfl
@[simp] theorem setPwr_boot {f : PwrState → PwrState} : (setPwr f s).boot = s.boot := rfl
@[simp] theorem setPwr_red {f : PwrState → PwrState} : (setPwr f s).red = s.red := rfl
@[simp] theorem setPwr_freeCnt {f : PwrState → PwrState} : (setPwr f s).freeCnt = s.freeCnt := rfl
@[simp] theorem setPwr_emitted {f : PwrState → PwrState} : (setPwr f s).emitted = s.emitted := rfl

/-! ### setTherm -/

@[simp] theorem setTherm_pending {f : ThermState → ThermState} : (setTherm f s).pending = s.pending := rfl
@[simp] theorem setTherm_board {f : ThermState → ThermState} : (setTherm f s).board = s.board := rfl
@[simp] theorem setTherm_regs {f : ThermState → ThermState} : (setTherm f s).regs = s.regs := rfl
@[simp] theorem setTherm_store {f : ThermState → ThermState} : (setTherm f s).store = s.store := rfl
@[simp] theorem setTherm_dram {f : ThermState → ThermState} : (setTherm f s).dram = s.dram := rfl
@[simp] theorem setTherm_eth {f : ThermState → ThermState} : (setTherm f s).eth = s.eth := rfl
@[simp] theorem setTherm_flac {f : ThermState → ThermState} : (setTherm f s).flac = s.flac := rfl
@[simp] theorem setTherm_evt {f : ThermState → ThermState} : (setTherm f s).evt = s.evt := rfl
@[simp] theorem setTherm_lanes {f : ThermState → ThermState} : (setTherm f s).lanes = s.lanes := rfl
@[simp] theorem setTherm_ports {f : ThermState → ThermState} : (setTherm f s).ports = s.ports := rfl
@[simp] theorem setTherm_time {f : ThermState → ThermState} : (setTherm f s).time = s.time := rfl
@[simp] theorem setTherm_wt {f : ThermState → ThermState} : (setTherm f s).wt = s.wt := rfl
@[simp] theorem setTherm_ce {f : ThermState → ThermState} : (setTherm f s).ce = s.ce := rfl
@[simp] theorem setTherm_enumr {f : ThermState → ThermState} : (setTherm f s).enumr = s.enumr := rfl
@[simp] theorem setTherm_cmd {f : ThermState → ThermState} : (setTherm f s).cmd = s.cmd := rfl
@[simp] theorem setTherm_pkt {f : ThermState → ThermState} : (setTherm f s).pkt = s.pkt := rfl
@[simp] theorem setTherm_comp {f : ThermState → ThermState} : (setTherm f s).comp = s.comp := rfl
@[simp] theorem setTherm_pipe {f : ThermState → ThermState} : (setTherm f s).pipe = s.pipe := rfl
@[simp] theorem setTherm_lamp {f : ThermState → ThermState} : (setTherm f s).lamp = s.lamp := rfl
@[simp] theorem setTherm_dramc {f : ThermState → ThermState} : (setTherm f s).dramc = s.dramc := rfl
@[simp] theorem setTherm_pwr {f : ThermState → ThermState} : (setTherm f s).pwr = s.pwr := rfl
@[simp] theorem setTherm_therm {f : ThermState → ThermState} : (setTherm f s).therm = f s.therm := rfl
@[simp] theorem setTherm_boot {f : ThermState → ThermState} : (setTherm f s).boot = s.boot := rfl
@[simp] theorem setTherm_red {f : ThermState → ThermState} : (setTherm f s).red = s.red := rfl
@[simp] theorem setTherm_freeCnt {f : ThermState → ThermState} : (setTherm f s).freeCnt = s.freeCnt := rfl
@[simp] theorem setTherm_emitted {f : ThermState → ThermState} : (setTherm f s).emitted = s.emitted := rfl

/-! ### setBoot -/

@[simp] theorem setBoot_pending {f : BootState → BootState} : (setBoot f s).pending = s.pending := rfl
@[simp] theorem setBoot_board {f : BootState → BootState} : (setBoot f s).board = s.board := rfl
@[simp] theorem setBoot_regs {f : BootState → BootState} : (setBoot f s).regs = s.regs := rfl
@[simp] theorem setBoot_store {f : BootState → BootState} : (setBoot f s).store = s.store := rfl
@[simp] theorem setBoot_dram {f : BootState → BootState} : (setBoot f s).dram = s.dram := rfl
@[simp] theorem setBoot_eth {f : BootState → BootState} : (setBoot f s).eth = s.eth := rfl
@[simp] theorem setBoot_flac {f : BootState → BootState} : (setBoot f s).flac = s.flac := rfl
@[simp] theorem setBoot_evt {f : BootState → BootState} : (setBoot f s).evt = s.evt := rfl
@[simp] theorem setBoot_lanes {f : BootState → BootState} : (setBoot f s).lanes = s.lanes := rfl
@[simp] theorem setBoot_ports {f : BootState → BootState} : (setBoot f s).ports = s.ports := rfl
@[simp] theorem setBoot_time {f : BootState → BootState} : (setBoot f s).time = s.time := rfl
@[simp] theorem setBoot_wt {f : BootState → BootState} : (setBoot f s).wt = s.wt := rfl
@[simp] theorem setBoot_ce {f : BootState → BootState} : (setBoot f s).ce = s.ce := rfl
@[simp] theorem setBoot_enumr {f : BootState → BootState} : (setBoot f s).enumr = s.enumr := rfl
@[simp] theorem setBoot_cmd {f : BootState → BootState} : (setBoot f s).cmd = s.cmd := rfl
@[simp] theorem setBoot_pkt {f : BootState → BootState} : (setBoot f s).pkt = s.pkt := rfl
@[simp] theorem setBoot_comp {f : BootState → BootState} : (setBoot f s).comp = s.comp := rfl
@[simp] theorem setBoot_pipe {f : BootState → BootState} : (setBoot f s).pipe = s.pipe := rfl
@[simp] theorem setBoot_lamp {f : BootState → BootState} : (setBoot f s).lamp = s.lamp := rfl
@[simp] theorem setBoot_dramc {f : BootState → BootState} : (setBoot f s).dramc = s.dramc := rfl
@[simp] theorem setBoot_pwr {f : BootState → BootState} : (setBoot f s).pwr = s.pwr := rfl
@[simp] theorem setBoot_therm {f : BootState → BootState} : (setBoot f s).therm = s.therm := rfl
@[simp] theorem setBoot_boot {f : BootState → BootState} : (setBoot f s).boot = f s.boot := rfl
@[simp] theorem setBoot_red {f : BootState → BootState} : (setBoot f s).red = s.red := rfl
@[simp] theorem setBoot_freeCnt {f : BootState → BootState} : (setBoot f s).freeCnt = s.freeCnt := rfl
@[simp] theorem setBoot_emitted {f : BootState → BootState} : (setBoot f s).emitted = s.emitted := rfl

end Sys2Proof.Machine
end

