-- ==== Sys2Proof/Laws/Clock.lean ====
section
/-! SUPPORT. Cycles of the time unit: what their passing does to the counter and to the running adjustment. -/

namespace Sys2Proof.Machine

variable {ps : List Part} {fs : List (Fld × Nat)} {s t : State}

/-- `n` cycles outside a sleep: the counter, and the state beside it in the time unit. -/
theorem runCycles_time {n : Nat} (hon : s.time.sleep.isSome = false) : (runCycles n s).time =
    { s.time with
      mono := s.time.mono + 4 * n,
      counter := (s.time.counter + min n (adjustLeft s) * adjustedStep s + (n - min n (adjustLeft s)) * plainStep s) % counterMod,
      adjCount := adjustLeft s - min n (adjustLeft s) } := by
  unfold runCycles
  dsimp only
  obtain ⟨u, hu, hut, hur, ha, hl, hp⟩ : ∃ u, ({ s with time := { s.time with mono := s.time.mono + 4 * n } } : State) = u ∧
      u.time = { s.time with mono := s.time.mono + 4 * n } ∧ u.regs = s.regs ∧
      adjustedStep u = adjustedStep s ∧ adjustLeft u = adjustLeft s ∧ plainStep u = plainStep s := ⟨_, rfl, rfl, rfl, rfl, rfl, rfl⟩
  rw [hon, hu, ha, hl, hp]
  simp only [Bool.false_eq_true, if_false]
  have ht : ∀ b x, (if flag u F.TIME_STAT_adj_busy = true then
      setFlag F.TIME_STAT_adj_busy b (setFld F.TIME_ADJ_CNT_count x u) else u).time = u.time := by
    intro b x
    split
    · exact setFldAt_time.trans setFldAt_time
    · rfl
  rw [ht, hut]

/-- The registers after `n` cycles: TIME_ADJ_CNT counts down with the running adjustment. -/
theorem runCycles_regs {n : Nat} (hon : s.time.sleep.isSome = false) : (runCycles n s).regs =
    (if flag s F.TIME_STAT_adj_busy then
      setFlag F.TIME_STAT_adj_busy (decide (adjustLeft s - min n (adjustLeft s) > 0))
        (setFld F.TIME_ADJ_CNT_count (fld s F.TIME_ADJ_CNT_count - min n (adjustLeft s)) s)
      else s).regs := by
  unfold runCycles
  dsimp only
  obtain ⟨u, hu, hut, hur, hl, hb, hc⟩ : ∃ u, ({ s with time := { s.time with mono := s.time.mono + 4 * n } } : State) = u ∧
      u.time = { s.time with mono := s.time.mono + 4 * n } ∧ u.regs = s.regs ∧ adjustLeft u = adjustLeft s ∧
      flag u F.TIME_STAT_adj_busy = flag s F.TIME_STAT_adj_busy ∧ fld u F.TIME_ADJ_CNT_count = fld s F.TIME_ADJ_CNT_count :=
    ⟨_, rfl, rfl, rfl, rfl, rfl, rfl⟩
  rw [hon, hu, hl, hb, hc]
  simp only [Bool.false_eq_true, if_false]
  have e : ∀ v x : Nat, ∀ b : Bool, (setFlag F.TIME_STAT_adj_busy b (setFld F.TIME_ADJ_CNT_count x u)).regs =
      (setFlag F.TIME_STAT_adj_busy b (setFld F.TIME_ADJ_CNT_count x s)).regs := by
    intro v x b
    unfold setFlag setFld setFldAt setInst regWord
    simp only [hur]
  split
  · exact e 0 _ _
  · exact hur

theorem SetsC.runCycles {n : Nat} (h : SetsC ps fs s t) (hp : Part.time ∈ ps) (h1 : (F.TIME_ADJ_CNT_count, 0) ∈ fs)
    (h2 : (F.TIME_STAT_adj_busy, 0) ∈ fs) : SetsC ps fs s (runCycles n t) := by
  unfold Machine.runCycles
  extract_lets -merge -useContext +onlyGivenNames z u
  have hk : SetsC ps fs s u := h.setTime (f := fun x => { x with mono := t.time.mono + 4 * n }) hp
  clear_value u
  split
  · exact hk
  · extract_lets -merge -useContext +onlyGivenNames l a c v
    have hv : SetsC ps fs s v := by
      unfold v
      split
      · exact (hk.setFldAt (f := F.TIME_ADJ_CNT_count) (by decide) h1).setFldAt (f := F.TIME_STAT_adj_busy) (by decide) h2
      · exact hk
    clear_value v
    exact hv.setTime (f := fun x => { x with counter := c, adjCount := l - a }) hp

end Sys2Proof.Machine
end

