-- ==== Sys2Proof/Laws/Codes.lean ====
section
/-! SUPPORT. The coders: bits of numbers, symbols and bytes, the WCS coder's fields and planes (R195 to R199), the Reed–Solomon
parity (R38) and the scrambler (R39), each with what its decoder gives back. -/

namespace Sys2Proof.Machine

/-! ### Bits of a number, and the WCS coder (R195 to R199) -/

theorem msbBits_succ (n v : Nat) : msbBits (n + 1) v = bitOf v n :: msbBits n v := by
  unfold msbBits
  rw [List.range_succ_eq_map, List.map_cons, List.map_map]
  refine congrArg₂ _ rfl (List.map_congr_left fun i _ => ?_)
  show bitOf v (n + 1 - 1 - (i + 1)) = _
  congr 1
  omega

theorem msbBits_zero (v : Nat) : msbBits 0 v = [] := rfl

@[simp] theorem length_msbBits (n v : Nat) : (msbBits n v).length = n := by simp [msbBits]

theorem bitOf_top (v n : Nat) : v % 2 ^ (n + 1) = b2n (bitOf v n) * 2 ^ n + v % 2 ^ n := by
  have : v % 2 ^ (n + 1) = v % 2 ^ n + 2 ^ n * (v / 2 ^ n % 2) := by rw [Nat.pow_succ, Nat.mod_mul]
  rw [this]
  unfold bitOf b2n
  rcases Nat.mod_two_eq_zero_or_one (v / 2 ^ n) with h | h <;> rw [h] <;> simp [Nat.add_comm]

theorem foldl_msbBits (n v a : Nat) : (msbBits n v).foldl (fun a b => 2 * a + b2n b) a = a * 2 ^ n + v % 2 ^ n := by
  induction n generalizing a with
  | zero => simp [msbBits_zero, Nat.mod_one]
  | succ n ih =>
    rw [msbBits_succ, List.foldl_cons, ih, bitOf_top, Nat.pow_succ]
    ring

/-- A field of `n` bits reads back, and leaves what follows. -/
theorem takeBits_msbBits {n v : Nat} {t : List Bool} (h : v < 2 ^ n) : takeBits n (msbBits n v ++ t) = some (v, t) := by
  unfold takeBits
  rw [if_neg (by simp), List.take_left' (length_msbBits n v), List.drop_left' (length_msbBits n v), foldl_msbBits, Nat.zero_mul,
    Nat.zero_add, Nat.mod_eq_of_lt h]

theorem leadZeros_replicate {f n : Nat} {t : List Bool} (h : n < f) (hf : f ≤ 24) :
    leadZeros f (List.replicate n false ++ true :: t) = some (24 - f + n, t) := by
  induction n generalizing f with
  | zero =>
    obtain ⟨f, rfl⟩ : ∃ k, f = k + 1 := ⟨f - 1, by omega⟩
    simp only [List.replicate_zero, List.nil_append, leadZeros]
    congr 2
    omega
  | succ n ih =>
    obtain ⟨f, rfl⟩ : ∃ k, f = k + 1 := ⟨f - 1, by omega⟩
    rw [List.replicate_succ, List.cons_append, leadZeros, ih (by omega) (by omega)]
    simp only [Option.map_some]
    congr 2
    omega

theorem leadZeros_full {f : Nat} {t : List Bool} : leadZeros f (List.replicate f false ++ t) = some (24, t) := by
  induction f with
  | zero => rfl
  | succ f ih => rw [List.replicate_succ, List.cons_append, leadZeros, ih]; rfl

/-- A Rice code reads back as the number it codes, and leaves what follows (R198). -/
theorem readRice_riceBits {d q k u : Nat} {t : List Bool} (h : u < 2 ^ (d - q + 2)) :
    readRice d q k (riceBits d q k u ++ t) = some (u, t) := by
  unfold readRice riceBits
  by_cases hn : u / 2 ^ k < 24
  · rw [if_pos hn, List.append_assoc, List.append_assoc, List.singleton_append, leadZeros_replicate hn (Nat.le_refl _)]
    dsimp only
    have e : msbBits k u = msbBits k (u % 2 ^ k) := by
      unfold msbBits
      refine List.map_congr_left fun i hi => ?_
      rw [List.mem_range] at hi
      rw [bitOf_testBit, bitOf_testBit, Nat.testBit_mod_two_pow, decide_eq_true (by omega), Bool.true_and]
    rw [Nat.sub_self, Nat.zero_add, if_pos hn, e, takeBits_msbBits (Nat.mod_lt _ (Nat.two_pow_pos k))]
    simp only [Option.map_some]
    congr 2
    rw [Nat.mul_comm]
    exact Nat.div_add_mod u (2 ^ k)
  · rw [if_neg hn, List.append_assoc, leadZeros_full]
    exact takeBits_msbBits h

theorem wcsUnfold_wcsFold (r : Int) : wcsUnfold (wcsFold r) = r := by
  unfold wcsFold wcsUnfold
  split
  · rw [if_pos (by rw [beq_iff_eq]; omega)]; omega
  · rw [if_neg (by rw [beq_iff_eq]; omega)]; omega

/-- Two samples that differ by at most half a step of the quantiser `q` (R199). -/
def wcsClose (q x c : Nat) : Prop := 2 * ((x : Int) - c).natAbs ≤ 2 ^ q

theorem wcsPredict_lt {d : Nat} {l a c : Option Nat} (hd : 0 < d) (hl : ∀ x ∈ l, x < 2 ^ d) (ha : ∀ x ∈ a, x < 2 ^ d)
    (hc : ∀ x ∈ c, x < 2 ^ d) : wcsPredict d l a c < 2 ^ d := by
  unfold wcsPredict
  rcases l with _ | l <;> rcases a with _ | a <;> rcases c with _ | c <;>
    simp only [Option.mem_def, Option.some.injEq, forall_eq', reduceCtorEq, false_imp_iff, implies_true] at hl ha hc ⊢
  all_goals first
    | assumption
    | exact Nat.pow_lt_pow_right (by decide) (by omega)
    | skip
  split
  · omega
  · split <;> omega

/-- A residual fits its code, and stands for the sample to within half a step (R198, R199). -/
theorem wcsResidual_spec {d q x p : Nat} (hq : q ≤ d) (hx : x < 2 ^ d) (hp : p < 2 ^ d) :
    wcsFold (wcsResidual q x p) < 2 ^ (d - q + 2) ∧
      2 * ((x : Int) - (p + wcsResidual q x p * (2 ^ q : Nat))).natAbs ≤ 2 ^ q := by
  unfold wcsResidual
  dsimp only
  rcases Nat.eq_zero_or_pos q with rfl | h0
  · rw [if_pos (by decide)]
    refine ⟨?_, by simp⟩
    unfold wcsFold
    rw [Nat.sub_zero, Nat.pow_add]
    split <;> omega
  · rw [if_neg (by rw [beq_iff_eq]; omega)]
    obtain ⟨k, rfl⟩ : ∃ k, d = q + k := ⟨d - q, by omega⟩
    obtain ⟨j, rfl⟩ : ∃ j, q = j + 1 := ⟨q - 1, by omega⟩
    rw [show j + 1 + k - (j + 1) = k by omega, show j + 1 - 1 = j by omega]
    have e1 : 2 ^ (j + 1) = 2 * 2 ^ j := by rw [Nat.pow_succ, Nat.mul_comm]
    have e2 : 2 ^ (j + 1 + k) = 2 * 2 ^ j * 2 ^ k := by rw [Nat.pow_add, e1]
    have e3 : 2 ^ (k + 2) = 4 * 2 ^ k := by rw [Nat.pow_add]; omega
    have hj := Nat.two_pow_pos j
    have hk := Nat.two_pow_pos k
    rw [e2] at hx hp
    have key : ∀ m : Nat, m < 2 * 2 ^ j * 2 ^ k → (m + 2 ^ j) / (2 * 2 ^ j) ≤ 2 ^ k ∧
        2 * ((m : Int) - ((m + 2 ^ j) / (2 * 2 ^ j) : Nat) * (2 * 2 ^ j : Nat)).natAbs ≤ 2 * 2 ^ j := by
      intro m hm
      have hdm := Nat.div_add_mod (m + 2 ^ j) (2 * 2 ^ j)
      have hml := Nat.mod_lt (m + 2 ^ j) (show 0 < 2 * 2 ^ j by omega)
      generalize (m + 2 ^ j) / (2 * 2 ^ j) = n at *
      generalize (m + 2 ^ j) % (2 * 2 ^ j) = s at *
      constructor
      · by_contra hc
        have : 2 * 2 ^ j * (2 ^ k + 1) ≤ 2 * 2 ^ j * n := Nat.mul_le_mul_left _ (by omega)
        rw [Nat.mul_add, Nat.mul_one] at this
        omega
      · have : ((n : Nat) : Int) * (2 * 2 ^ j : Nat) = ((2 * 2 ^ j * n : Nat) : Int) := by push_cast; ring
        rw [this]
        omega
    rw [e1, e3]
    split
    · obtain ⟨k1, k2⟩ := key ((x : Int) - p).natAbs (by omega)
      generalize (((x : Int) - p).natAbs + 2 ^ j) / (2 * 2 ^ j) = n at *
      constructor
      · unfold wcsFold; split <;> omega
      · have : (-(n : Int)) * (2 * 2 ^ j : Nat) = -((n : Int) * (2 * 2 ^ j : Nat)) := by ring
        rw [this]
        generalize (n : Int) * (2 * 2 ^ j : Nat) = z at *
        omega
    · split
      · rename_i h
        have hz : (x : Int) = p := by simpa [sub_eq_zero] using h
        rw [hz]
        constructor
        · unfold wcsFold; rw [if_pos (by decide)]; simp
        · simp
      · obtain ⟨k1, k2⟩ := key ((x : Int) - p).natAbs (by omega)
        generalize (((x : Int) - p).natAbs + 2 ^ j) / (2 * 2 ^ j) = n at *
        constructor
        · unfold wcsFold; split <;> omega
        · generalize (n : Int) * (2 * 2 ^ j : Nat) = z at *
          omega

/-- The rebuilt sample stays in range and close to the sample (R198, R199). -/
theorem wcsRecon_spec {d q x p : Nat} (hq : q ≤ d) (hx : x < 2 ^ d) (hp : p < 2 ^ d) :
    wcsRecon d q p (wcsResidual q x p) < 2 ^ d ∧ wcsClose q x (wcsRecon d q p (wcsResidual q x p)) := by
  have h := (wcsResidual_spec hq hx hp).2
  unfold wcsRecon wcsClose clampZ
  generalize wcsResidual q x p * (2 ^ q : Nat) = z at *
  have := Nat.two_pow_pos d
  generalize 2 ^ d = n at *
  generalize 2 ^ q = m at *
  constructor <;> omega

/-- A coded row decodes to the row that the coder rebuilt, which is close to the row it coded (R197 to R199). -/
theorem decodeRow_wcsRow {d q k : Nat} (hd : 0 < d) (hq : q ≤ d) {xs : List Nat} (hx : ∀ x ∈ xs, x < 2 ^ d)
    {left corner : Option Nat} {above : List Nat} (hl : ∀ x ∈ left, x < 2 ^ d) (hc : ∀ x ∈ corner, x < 2 ^ d)
    (ha : ∀ x ∈ above, x < 2 ^ d) {t : List Bool} :
    decodeRow d q k xs.length left corner above ((wcsRow d q left corner above xs).1.flatMap (riceBits d q k) ++ t) =
        ((wcsRow d q left corner above xs).2, some t) ∧
      (∀ x ∈ (wcsRow d q left corner above xs).2, x < 2 ^ d) ∧
      List.Forall₂ (wcsClose q) xs (wcsRow d q left corner above xs).2 := by
  induction xs generalizing left corner above with
  | nil => simp [wcsRow, decodeRow]
  | cons x xs ih =>
    have hp : wcsPredict d left above.head? corner < 2 ^ d :=
      wcsPredict_lt hd hl (fun y hy => ha y (List.mem_of_mem_head? hy)) hc
    have hx0 := hx x (List.mem_cons_self ..)
    have hr := wcsRecon_spec hq hx0 hp
    simp only [wcsRow, List.length_cons, List.flatMap_cons, List.append_assoc, decodeRow]
    rw [readRice_riceBits (wcsResidual_spec hq hx0 hp).1]
    dsimp only
    rw [wcsUnfold_wcsFold]
    obtain ⟨h1, h2, h3⟩ := ih (fun y hy => hx y (List.mem_cons_of_mem _ hy))
      (left := some (wcsRecon d q (wcsPredict d left above.head? corner) (wcsResidual q x (wcsPredict d left above.head? corner))))
      (corner := above.head?) (above := above.drop 1)
      (fun y hy => by cases hy; exact hr.1) (fun y hy => ha y (List.mem_of_mem_head? hy))
      (fun y hy => ha y (List.mem_of_mem_drop hy))
    rw [h1]
    refine ⟨rfl, fun y hy => ?_, .cons hr.2 h3⟩
    rcases List.mem_cons.1 hy with rfl | hy
    · exact hr.1
    · exact h2 y hy

/-- A plane of a unit: `h` rows of `w` samples of depth `d` (R195). -/
def wcsPlaneOk (d h w : Nat) (p : Plane) : Prop := p.length = h ∧ ∀ row ∈ p, row.length = w ∧ ∀ x ∈ row, x < 2 ^ d

/-- A coded plane decodes to samples close to those coded, and leaves what follows (R196 to R199). -/
theorem decodeRows_wcsPlaneRows {d q k w : Nat} (hd : 0 < d) (hq : q ≤ d) {p : Plane} {last : Nat} {above : List Nat}
    (hp : ∀ row ∈ p, row.length = w ∧ ∀ x ∈ row, x < 2 ^ d) (ha : ∀ x ∈ above, x < 2 ^ d) {t : List Bool} :
    ∃ ps, decodeRows d q k w p.length last above (some ((wcsPlaneRows d q above p).flatMap (riceBits d q k) ++ t)) = (ps, some t) ∧
      List.Forall₂ (List.Forall₂ (wcsClose q)) p ps := by
  induction p generalizing last above with
  | nil => exact ⟨[], rfl, .nil⟩
  | cons row p ih =>
    obtain ⟨hw, hx⟩ := hp row (List.mem_cons_self ..)
    simp only [wcsPlaneRows, List.length_cons, decodeRows, List.flatMap_append, List.append_assoc]
    obtain ⟨h1, h2, h3⟩ := decodeRow_wcsRow (k := k) (left := none) (corner := none) hd hq hx
      (fun _ h => by cases h) (fun _ h => by cases h) ha
      (t := (wcsPlaneRows d q (wcsRow d q none none above row).2 p).flatMap (riceBits d q k) ++ t)
    have hl : (wcsRow d q none none above row).2.length = w := by rw [← h3.length_eq, hw]
    rw [hw] at h1
    rw [h1]
    dsimp only
    rw [hl, Nat.sub_self, List.replicate_zero, List.append_nil]
    obtain ⟨ps, e, hf⟩ := ih (last := (wcsRow d q none none above row).2.getLast?.getD last)
      (fun r hr => hp r (List.mem_cons_of_mem _ hr)) h2
    rw [e]
    exact ⟨_, rfl, .cons h3 hf⟩

/-- The planes of a unit, one after another (R196). -/
theorem decodePlanes_wcs {d q h : Nat} (hd : 0 < d) (hq : q ≤ d) {u : List Plane} {ws : List Nat}
    (hu : List.Forall₂ (fun p w => wcsPlaneOk d h w p) u ws) {t : List Bool} :
    ∃ ps, decodePlanes d q h (List.zip ws ((u.map (wcsPlane d q)).map (bestK d q)))
        (some ((List.zip (u.map (wcsPlane d q)) ((u.map (wcsPlane d q)).map (bestK d q))).flatMap
          (fun x => x.1.flatMap (riceBits d q x.2)) ++ t)) = (ps, some t) ∧
      List.Forall₂ (List.Forall₂ (List.Forall₂ (wcsClose q))) u ps := by
  induction hu with
  | nil => exact ⟨[], rfl, .nil⟩
  | @cons p w u ws hp _ ih =>
    obtain ⟨hl, hp⟩ := hp
    subst hl
    simp only [List.map_cons, List.zip_cons_cons, List.flatMap_cons, List.append_assoc, decodePlanes]
    obtain ⟨a, e, hf⟩ := decodeRows_wcsPlaneRows (k := bestK d q (wcsPlane d q p)) (last := 0) (above := []) hd hq hp
      (fun _ h => by cases h)
      (t := (List.zip (u.map (wcsPlane d q)) ((u.map (wcsPlane d q)).map (bestK d q))).flatMap
          (fun x => x.1.flatMap (riceBits d q x.2)) ++ t)
    rw [show wcsPlaneRows d q [] p = wcsPlane d q p from rfl] at e
    rw [e]
    obtain ⟨ps, e2, hf2⟩ := ih
    dsimp only
    rw [e2]
    exact ⟨_, rfl, .cons hf hf2⟩

theorem takeFields_msbBits {n : Nat} {vs : List Nat} (h : ∀ v ∈ vs, v < 2 ^ n) {t : List Bool} :
    takeFields n vs.length (vs.flatMap (msbBits n) ++ t) = (vs, some t) := by
  induction vs with
  | nil => rfl
  | cons v vs ih =>
    simp only [List.length_cons, List.flatMap_cons, List.append_assoc, takeFields]
    rw [takeBits_msbBits (h v (List.mem_cons_self ..))]
    dsimp only
    rw [ih (fun x hx => h x (List.mem_cons_of_mem _ hx))]

theorem bestK_le (d q : Nat) (us : List Nat) : bestK d q us ≤ d := by
  unfold bestK
  have : ∀ (l : List Nat) (b : Nat × Nat), (∀ k ∈ l, k ≤ d) → b.1 ≤ d → (l.foldl (fun (best : Nat × Nat) k =>
      let l := planeLen d q k us
      if k == 0 || l < best.2 then (k, l) else best) b).1 ≤ d := by
    intro l
    induction l with
    | nil => intro b _ h; exact h
    | cons k l ih =>
      intro b hl hb
      rw [List.foldl_cons]
      refine ih _ (fun x hx => hl x (List.mem_cons_of_mem _ hx)) ?_
      dsimp only
      split
      · exact hl k (List.mem_cons_self ..)
      · exact hb
  exact this _ _ (fun k hk => by rw [List.mem_range] at hk; omega) (Nat.zero_le d)

theorem foldl_bits_lt (c : List Bool) (a : Nat) : c.foldl (fun a x => 2 * a + b2n x) a < (a + 1) * 2 ^ c.length := by
  induction c generalizing a with
  | nil => simp
  | cons b c ih =>
    rw [List.foldl_cons, List.length_cons, Nat.pow_succ]
    refine Nat.lt_of_lt_of_le (ih _) ?_
    have : 2 * a + b2n b + 1 ≤ 2 * (a + 1) := by cases b <;> simp [b2n] <;> omega
    calc (2 * a + b2n b + 1) * 2 ^ c.length ≤ 2 * (a + 1) * 2 ^ c.length := Nat.mul_le_mul_right _ this
      _ = (a + 1) * (2 ^ c.length * 2) := by ring

/-- The bits of the number that bits spell are those bits. -/
theorem msbBits_foldl (c : List Bool) : msbBits c.length (c.foldl (fun a x => 2 * a + b2n x) 0) = c := by
  have : ∀ (c : List Bool) (a : Nat), msbBits c.length (c.foldl (fun a x => 2 * a + b2n x) a) = c := by
    intro c
    induction c with
    | nil => intro a; rfl
    | cons b c ih =>
      intro a
      rw [List.length_cons, msbBits_succ, List.foldl_cons, ih]
      congr 1
      have e : ∀ (c : List Bool) (a : Nat), c.foldl (fun a x => 2 * a + b2n x) a / 2 ^ c.length = a := by
        intro c
        induction c with
        | nil => intro a; simp
        | cons b c ih =>
          intro a
          rw [List.foldl_cons, List.length_cons, Nat.pow_succ, ← Nat.div_div_eq_div_mul, ih]
          cases b <;> simp [b2n] <;> omega
      unfold bitOf
      rw [e]
      cases b <;> simp [b2n, Nat.add_mod]
  exact this c 0

theorem foldl_bits_zeros (c : List Bool) (a m : Nat) :
    (c ++ List.replicate m false).foldl (fun a x => 2 * a + b2n x) a = c.foldl (fun a x => 2 * a + b2n x) a * 2 ^ m := by
  rw [List.foldl_append]
  generalize c.foldl (fun a x => 2 * a + b2n x) a = v
  induction m generalizing v with
  | zero => simp
  | succ m ih => rw [List.replicate_succ, List.foldl_cons, ih, Nat.pow_succ]; simp [b2n]; ring

theorem bytesBits_append (a b : List Byte) : bytesBits (a ++ b) = bytesBits a ++ bytesBits b := by
  unfold bytesBits; exact List.flatMap_append

theorem bytesBits_cons (a : Byte) (b : List Byte) : bytesBits (a :: b) = msbBits 8 a.toNat ++ bytesBits b := by
  unfold bytesBits; rw [List.flatMap_cons]; rfl

theorem bytesBits_zeros (n : Nat) : bytesBits (List.replicate n 0) = List.replicate (8 * n) false := by
  induction n with
  | zero => rfl
  | succ n ih =>
    rw [List.replicate_succ, bytesBits_cons, ih, Nat.mul_add, Nat.add_comm, List.replicate_add]
    rfl

/-- Bytes made of bits hold those bits, then zeros up to the byte's end (R195). -/
theorem bytesBits_bitsBytes' (bits : List Bool) : ∃ z < 8, bytesBits (encodeF.bitsBytes' bits) = bits ++ List.replicate z false ∧
    8 * (encodeF.bitsBytes' bits).length = bits.length + z := by
  unfold encodeF.bitsBytes' chunks
  have : ∀ (f : Nat) (bits : List Bool), bits.length ≤ f → ∃ z < 8,
      bytesBits ((chunksFuel f 8 bits).map (fun c => BitVec.ofNat 8 ((c.foldl (fun a x => 2 * a + b2n x) 0) * 2 ^ (8 - c.length)))) =
        bits ++ List.replicate z false ∧ 8 * ((chunksFuel f 8 bits).map (fun c =>
          BitVec.ofNat 8 ((c.foldl (fun a x => 2 * a + b2n x) 0) * 2 ^ (8 - c.length)))).length = bits.length + z := by
    intro f
    induction f with
    | zero =>
      intro bits h
      rw [List.length_eq_zero_iff.1 (Nat.le_zero.1 h)]
      exact ⟨0, by decide, rfl, rfl⟩
    | succ f ih =>
      intro bits h
      rcases bits with _ | ⟨b, rest⟩
      · exact ⟨0, by decide, rfl, rfl⟩
      · generalize hb : b :: rest = bits at *
        have hne : 1 ≤ bits.length := by rw [← hb]; simp
        rw [show chunksFuel (f + 1) 8 bits = bits.take 8 :: chunksFuel f 8 (bits.drop 8) by rw [← hb]; rfl]
        rw [List.map_cons, bytesBits_cons, List.length_cons]
        obtain ⟨z, hz, h1, h2⟩ := ih (bits.drop 8) (by rw [List.length_drop]; omega)
        rw [h1]
        have hlt := foldl_bits_lt (bits.take 8 ++ List.replicate (8 - (bits.take 8).length) false) 0
        have hlen : (bits.take 8 ++ List.replicate (8 - (bits.take 8).length) false).length = 8 := by
          simp only [List.length_append, List.length_take, List.length_replicate]; omega
        have hm := msbBits_foldl (bits.take 8 ++ List.replicate (8 - (bits.take 8).length) false)
        rw [hlen] at hlt hm
        rw [foldl_bits_zeros] at hlt hm
        rw [BitVec.toNat_ofNat, Nat.mod_eq_of_lt (by simpa using hlt), hm]
        rcases Nat.lt_or_ge bits.length 8 with h8 | h8
        · have hd : bits.drop 8 = [] := List.drop_eq_nil_of_le (by omega)
          have hz0 : z = 0 := by
            rw [hd] at h2
            cases f <;> simp [chunksFuel] at h2 <;> exact h2.symm
          subst hz0
          refine ⟨8 - bits.length, by omega, ?_, ?_⟩
          · rw [List.take_of_length_le (by omega), hd]; simp
          · rw [hd] at h2 ⊢; simp only [List.length_nil] at h2; omega
        · refine ⟨z, hz, ?_, ?_⟩
          · rw [List.length_take, Nat.min_eq_left h8, Nat.sub_self, List.replicate_zero, List.append_nil, ← List.append_assoc,
              List.take_append_drop]
          · rw [List.length_drop] at h2; omega
  exact this bits.length bits (Nat.le_refl _)

/-- The bytes of a unit, filled up to `b`, hold its bits and then zeros (R195). -/
theorem bytesBits_padTo {b : Nat} {bits : List Bool} (h : bits.length ≤ 8 * b) :
    (∃ z, bytesBits (padTo b (encodeF.bitsBytes' bits)) = bits ++ List.replicate z false) ∧
      (padTo b (encodeF.bitsBytes' bits)).length = b := by
  obtain ⟨z, hz, h1, h2⟩ := bytesBits_bitsBytes' bits
  unfold padTo
  refine ⟨⟨z + 8 * (b - (encodeF.bitsBytes' bits).length), ?_⟩, ?_⟩
  · rw [bytesBits_append, h1, bytesBits_zeros, List.append_assoc, List.replicate_add]
  · rw [List.length_append, List.length_replicate]; omega

/-- A plane's mean lies within the samples' range (R199). -/
theorem planeMean_lt {d h w : Nat} (hd : 0 < d) {p : Plane} (hp : wcsPlaneOk d h w p) : planeMean p < 2 ^ d := by
  unfold planeMean
  dsimp only
  have hs : ∀ (l : List Nat) (a : Nat), (∀ x ∈ l, x < 2 ^ d) → l.foldl (· + ·) a ≤ a + l.length * (2 ^ d - 1) := by
    intro l
    induction l with
    | nil => intro a _; simp
    | cons x l ih =>
      intro a hx
      rw [List.foldl_cons, List.length_cons]
      have := ih (a + x) (fun y hy => hx y (List.mem_cons_of_mem _ hy))
      have h0 := hx x (List.mem_cons_self ..)
      rw [Nat.add_mul, Nat.one_mul]
      omega
  have := hs p.flatten 0 (fun x hx => by
    obtain ⟨r, hr, hx⟩ := List.mem_flatten.1 hx
    exact (hp.2 r hr).2 x hx)
  have h2 := Nat.two_pow_pos d
  have hd2 : 2 ≤ 2 ^ d := Nat.le_self_pow (by omega) 2
  rw [Nat.div_lt_iff_lt_mul (by omega)]
  generalize p.flatten.length = n at *
  generalize p.flatten.foldl (· + ·) 0 = v at *
  generalize 2 ^ d = m at *
  obtain ⟨k, rfl⟩ : ∃ k, m = k + 1 := ⟨m - 1, by omega⟩
  rcases Nat.eq_zero_or_pos n with rfl | hn
  · simp at this; subst this; simp; omega
  · rw [Nat.max_eq_right hn]
    rw [Nat.add_sub_cancel, Nat.zero_add] at this
    have e : (k + 1) * (2 * n) = 2 * (n * k) + 2 * n := by ring
    omega

/-- The bits of a unit read back: its quantiser, its Rice parameters and its planes (R196 to R199). -/
theorem wcs_bits_decode {d q h : Nat} (hd : 0 < d) (hd15 : d < 15) (hq : q ≤ d) {u : List Plane} {ws : List Nat}
    (hu : List.Forall₂ (fun p w => wcsPlaneOk d h w p) u ws) (t : List Bool) :
    ∃ ps tail, takeBits 4 (wcsBits d q u ++ t) = some (q, tail) ∧
      (∃ rest, takeFields 4 u.length tail = ((u.map (wcsPlane d q)).map (bestK d q), some rest) ∧
        decodePlanes d q h (List.zip ws ((u.map (wcsPlane d q)).map (bestK d q))) (some rest) = (ps, some t)) ∧
      List.Forall₂ (List.Forall₂ (List.Forall₂ (wcsClose q))) u ps := by
  obtain ⟨ps, e, hf⟩ := decodePlanes_wcs hd hq hu (t := t)
  unfold wcsBits
  dsimp only
  rw [List.append_assoc, List.append_assoc, takeBits_msbBits (by omega)]
  refine ⟨ps, _, rfl, ⟨_, ?_, e⟩, hf⟩
  have := takeFields_msbBits (n := 4) (vs := (u.map (wcsPlane d q)).map (bestK d q)) (fun v hv => by
    rw [List.map_map, List.mem_map] at hv
    obtain ⟨p, _, rfl⟩ := hv
    exact Nat.lt_of_le_of_lt (bestK_le _ _ _) (by omega)) (t := (List.zip (u.map (wcsPlane d q)) ((u.map (wcsPlane d q)).map (bestK d q))).flatMap
          (fun x => x.1.flatMap (riceBits d q x.2)) ++ t)
  rw [List.length_map, List.length_map] at this
  exact this

/-! ### The field GF(2¹⁰) and the parity of a block (R38) -/

theorem nat_xor (a b : Nat) : Nat.xor a b = a ^^^ b := rfl

/-- Multiplication by α as a shift and a conditional subtraction (R38). -/
theorem gfStep_eq {a : Nat} (h : a < 1024) : gfStep a = 2 * a ^^^ (if a.testBit 9 then 1033 else 0) := by
  have : a.testBit 9 = decide (512 ≤ a) := by
    rw [Nat.testBit_eq_decide_div_mod_eq]
    exact decide_eq_decide.2 (by omega)
  unfold gfStep
  rw [this]
  by_cases h5 : a < 512
  · rw [if_pos h5, if_neg (by simpa using h5), Nat.xor_zero]
  · rw [if_neg h5, if_pos (by simpa using h5)]; rfl

theorem gfStep_lt {a : Nat} (h : a < 1024) : gfStep a < 1024 := by
  have : ∀ a < 1024, gfStep a < 1024 := by decide +kernel
  exact this a h

theorem xor_lt {a b : Nat} (ha : a < 1024) (hb : b < 1024) : a ^^^ b < 1024 := Nat.xor_lt_two_pow (n := 10) ha hb

theorem two_mul_xor (a b : Nat) : 2 * (a ^^^ b) = 2 * a ^^^ 2 * b := by
  have := Nat.shiftLeft_xor_distrib (a := a) (b := b) (i := 1)
  simpa [Nat.shiftLeft_eq, Nat.mul_comm] using this

theorem gfStep_xor {a b : Nat} (ha : a < 1024) (hb : b < 1024) : gfStep (a ^^^ b) = gfStep a ^^^ gfStep b := by
  rw [gfStep_eq ha, gfStep_eq hb, gfStep_eq (xor_lt ha hb), two_mul_xor, Nat.testBit_xor]
  rcases a.testBit 9 <;> rcases b.testBit 9 <;> simp [Nat.xor_assoc, Nat.xor_comm, Nat.xor_left_comm]

theorem xor4 (a b c d : Nat) : (a ^^^ b) ^^^ (c ^^^ d) = (a ^^^ c) ^^^ (b ^^^ d) := by
  rw [Nat.xor_assoc, Nat.xor_assoc, Nat.xor_left_comm b]

theorem gfMulFuel_xor {f a a' b : Nat} (ha : a < 1024) (ha' : a' < 1024) :
    gfMulFuel f (a ^^^ a') b = gfMulFuel f a b ^^^ gfMulFuel f a' b := by
  induction f generalizing a a' b with
  | zero => simp [gfMulFuel]
  | succ f ih =>
    unfold gfMulFuel
    simp only [nat_xor]
    rw [gfStep_xor ha ha', ih (gfStep_lt ha) (gfStep_lt ha'), xor4 _ (gfMulFuel _ _ _)]
    congr 1
    split <;> simp

theorem gfMulFuel_lt {f a b : Nat} (ha : a < 1024) : gfMulFuel f a b < 1024 := by
  induction f generalizing a b with
  | zero => simp [gfMulFuel]
  | succ f ih => exact xor_lt (by split <;> omega) (ih (gfStep_lt ha))

/-- Multiplication in the field is additive (R38). -/
theorem gfMul_xor {a a' b : Nat} (ha : a < 1024) (ha' : a' < 1024) : gfMul (a ^^^ a') b = gfMul a b ^^^ gfMul a' b :=
  gfMulFuel_xor ha ha'

theorem gfMul_lt {a b : Nat} (ha : a < 1024) : gfMul a b < 1024 := gfMulFuel_lt ha

/-- An additive function of field elements is known from its values on the ten powers of two. -/
theorem gf_additive_ext {F G : Nat → Nat} (hF : ∀ a b, a < 1024 → b < 1024 → F (a ^^^ b) = F a ^^^ F b)
    (hG : ∀ a b, a < 1024 → b < 1024 → G (a ^^^ b) = G a ^^^ G b) (h : ∀ i < 10, F (2 ^ i) = G (2 ^ i)) :
    ∀ a < 1024, F a = G a := by
  have h0 : F 0 = 0 ∧ G 0 = 0 := by
    have a := hF 0 0 (by decide) (by decide)
    have b := hG 0 0 (by decide) (by decide)
    rw [Nat.xor_self, Nat.xor_self] at a b
    exact ⟨a, b⟩
  have : ∀ n ≤ 10, ∀ a < 2 ^ n, F a = G a := by
    intro n
    induction n with
    | zero => intro _ a ha; rw [Nat.lt_one_iff.1 ha, h0.1, h0.2]
    | succ n ih =>
      intro hn a ha
      have h10 : 2 ^ (n + 1) ≤ 1024 := Nat.pow_le_pow_right (n := 2) (by decide) hn
      rw [Nat.pow_succ] at ha h10
      by_cases hb : a < 2 ^ n
      · exact ih (by omega) a hb
      · have e : a = 2 ^ n ^^^ (a - 2 ^ n) := by
          have : ∀ a < 1024, ∀ n < 10, 2 ^ n ≤ a → a < 2 * 2 ^ n → a = 2 ^ n ^^^ (a - 2 ^ n) := by decide +kernel
          exact this a (by omega) n (by omega) (by omega) (by omega)
        rw [e, hF _ _ (by omega) (by omega), hG _ _ (by omega) (by omega), h n (by omega), ih (by omega) _ (by omega)]
  exact fun a ha => this 10 (Nat.le_refl _) a ha

/-- Multiplication by `x`, `n` times. -/
def gfTimes (x : Nat) : Nat → Nat → Nat
  | 0, a => a
  | n + 1, a => gfMul (gfTimes x n a) x

theorem gfTimes_lt {x n a : Nat} (h : a < 1024) : gfTimes x n a < 1024 := by
  induction n with
  | zero => exact h
  | succ n ih => exact gfMul_lt ih

theorem gfTimes_xor {x n a b : Nat} (ha : a < 1024) (hb : b < 1024) : gfTimes x n (a ^^^ b) = gfTimes x n a ^^^ gfTimes x n b := by
  induction n with
  | zero => rfl
  | succ n ih => show gfMul _ _ = _; rw [ih, gfMul_xor (gfTimes_lt ha) (gfTimes_lt hb)]; rfl

theorem gfTimes_succ' {x n a : Nat} : gfTimes x n (gfMul a x) = gfMul (gfTimes x n a) x := by
  induction n with
  | zero => rfl
  | succ n ih => show gfMul _ _ = gfMul (gfMul _ _) _; rw [ih]

/-- Horner's rule at `x`, from the value `a`. -/
def gfFold (x : Nat) (a : Nat) (l : List Nat) : Nat := l.foldl (fun acc c => Nat.xor (gfMul acc x) c) a

theorem gfFold_lt {x a : Nat} {l : List Nat} (ha : a < 1024) (hl : ∀ c ∈ l, c < 1024) : gfFold x a l < 1024 := by
  induction l generalizing a with
  | nil => exact ha
  | cons c l ih => exact ih (xor_lt (gfMul_lt ha) (hl c (List.mem_cons_self ..))) (fun y hy => hl y (List.mem_cons_of_mem _ hy))

/-- The start of Horner's rule comes in as itself times a power of `x`. -/
theorem gfFold_split {x a : Nat} {l : List Nat} (ha : a < 1024) (hl : ∀ c ∈ l, c < 1024) :
    gfFold x a l = gfTimes x l.length a ^^^ gfFold x 0 l := by
  induction l generalizing a with
  | nil => show a = a ^^^ 0; simp
  | cons c l ih =>
    have hc := hl c (List.mem_cons_self ..)
    have hl' : ∀ y ∈ l, y < 1024 := fun y hy => hl y (List.mem_cons_of_mem _ hy)
    show gfFold x (gfMul a x ^^^ c) l = gfTimes x (l.length + 1) a ^^^ gfFold x (gfMul 0 x ^^^ c) l
    have h0 : gfMul 0 x = 0 := by
      have := gfMul_xor (a := 0) (a' := 0) (b := x) (by decide) (by decide)
      simpa using this
    rw [ih (xor_lt (gfMul_lt ha) hc) hl', gfTimes_xor (gfMul_lt ha) hc, gfTimes_succ', h0, Nat.zero_xor,
      ih hc hl', Nat.xor_assoc]
    rfl

/-- Horner's rule is additive. -/
theorem gfFold_zip {x a b : Nat} {l m : List Nat} (h : l.length = m.length) (ha : a < 1024) (hb : b < 1024)
    (hl : ∀ c ∈ l, c < 1024) (hm : ∀ c ∈ m, c < 1024) :
    gfFold x (a ^^^ b) (List.zipWith Nat.xor l m) = gfFold x a l ^^^ gfFold x b m := by
  induction l generalizing m a b with
  | nil => cases m with
    | nil => rfl
    | cons _ _ => cases h
  | cons c l ih => cases m with
    | nil => cases h
    | cons e m =>
      have hc := hl c (List.mem_cons_self ..)
      have he := hm e (List.mem_cons_self ..)
      show gfFold x (gfMul (a ^^^ b) x ^^^ (c ^^^ e)) (List.zipWith Nat.xor l m) = gfFold x (gfMul a x ^^^ c) l ^^^ gfFold x (gfMul b x ^^^ e) m
      rw [gfMul_xor ha hb, xor4]
      exact ih (by simpa using h) (xor_lt (gfMul_lt ha) hc) (xor_lt (gfMul_lt hb) he)
        (fun y hy => hl y (List.mem_cons_of_mem _ hy)) (fun y hy => hm y (List.mem_cons_of_mem _ hy))

/-- The generator's tail times `f`, evaluated at a root, is `f` times the eighth power of the root. -/
theorem genPoly_root : ∀ j < 8, ∀ f < 1024, gfFold (gfAlpha j) 0 ((genPoly.drop 1).map (gfMul f)) = gfTimes (gfAlpha j) 8 f := by
  intro j hj
  refine gf_additive_ext (fun a b ha hb => ?_) (fun a b ha hb => gfTimes_xor ha hb) ?_
  · have : (genPoly.drop 1).map (gfMul (a ^^^ b)) = List.zipWith Nat.xor ((genPoly.drop 1).map (gfMul a)) ((genPoly.drop 1).map (gfMul b)) := by
      rw [List.zipWith_map, List.zipWith_self]
      exact List.map_congr_left fun c _ => gfMul_xor ha hb
    rw [this]
    have := gfFold_zip (x := gfAlpha j) (a := 0) (b := 0) (l := (genPoly.drop 1).map (gfMul a)) (m := (genPoly.drop 1).map (gfMul b))
      (by simp) (by decide) (by decide) (fun c hc => by obtain ⟨_, _, rfl⟩ := List.mem_map.1 hc; exact gfMul_lt ha)
      (fun c hc => by obtain ⟨_, _, rfl⟩ := List.mem_map.1 hc; exact gfMul_lt hb)
    simpa using this
  · have : ∀ j < 8, ∀ i < 10, gfFold (gfAlpha j) 0 ((genPoly.drop 1).map (gfMul (2 ^ i))) = gfTimes (gfAlpha j) 8 (2 ^ i) := by
      decide +kernel
    exact this j hj

theorem gfFold_append_zero {x a : Nat} {l : List Nat} : gfFold x a (l ++ [0]) = gfMul (gfFold x a l) x := by
  unfold gfFold
  rw [List.foldl_append, List.foldl_cons, List.foldl_nil, nat_xor, Nat.xor_zero]

theorem genPoly_tail_length : (genPoly.drop 1).length = 8 := by decide +kernel

/-- One step of the parity: length and values stay, and the evaluation at a root goes on as Horner's rule does. -/
theorem rsParity_step {j c : Nat} {r : List Nat} (hj : j < 8) (hc : c < 1024) (hl : r.length = 8) (hr : ∀ y ∈ r, y < 1024) :
    let f := Nat.xor c (r.headD 0)
    let r' := List.zipWith Nat.xor (r.drop 1 ++ [0]) ((genPoly.drop 1).map (gfMul f))
    r'.length = 8 ∧ (∀ y ∈ r', y < 1024) ∧
      gfFold (gfAlpha j) 0 r' = gfMul (gfFold (gfAlpha j) 0 r) (gfAlpha j) ^^^ gfTimes (gfAlpha j) 8 c := by
  obtain ⟨r0, rest, rfl⟩ : ∃ a t, r = a :: t := by cases r with
    | nil => cases hl
    | cons a t => exact ⟨a, t, rfl⟩
  have h0 := hr r0 (List.mem_cons_self ..)
  have hrest : ∀ y ∈ rest, y < 1024 := fun y hy => hr y (List.mem_cons_of_mem _ hy)
  have hlen : rest.length = 7 := by simpa using hl
  have hf : c ^^^ r0 < 1024 := xor_lt hc h0
  have hg := genPoly_tail_length
  simp only [List.headD_cons, nat_xor, List.drop_one, List.tail_cons] at hg ⊢
  have hm : ∀ y ∈ genPoly.tail.map (gfMul (c ^^^ r0)), y < 1024 := fun y hy => by
    obtain ⟨_, _, rfl⟩ := List.mem_map.1 hy; exact gfMul_lt hf
  have hz : ∀ y ∈ rest ++ [0], y < 1024 := fun y hy => by
    rcases List.mem_append.1 hy with h | h
    · exact hrest y h
    · rw [List.mem_singleton.1 h]; decide
  refine ⟨by rw [List.length_zipWith, List.length_append, List.length_map, hg, hlen]; rfl, fun y hy => ?_, ?_⟩
  · obtain ⟨i, hi, rfl⟩ := List.getElem_of_mem hy
    rw [List.getElem_zipWith]
    exact xor_lt (hz _ (List.getElem_mem _)) (hm _ (List.getElem_mem _))
  · have e := gfFold_zip (x := gfAlpha j) (a := 0) (b := 0) (l := rest ++ [0]) (m := genPoly.tail.map (gfMul (c ^^^ r0)))
      (by rw [List.length_append, List.length_map, hg, hlen]; rfl) (by decide) (by decide) hz hm
    rw [Nat.xor_self] at e
    rw [e, gfFold_append_zero]
    have er : gfFold (gfAlpha j) 0 (r0 :: rest) = gfTimes (gfAlpha j) 7 r0 ^^^ gfFold (gfAlpha j) 0 rest := by
      show gfFold (gfAlpha j) (gfMul 0 (gfAlpha j) ^^^ r0) rest = _
      have : gfMul 0 (gfAlpha j) = 0 := by
        have := gfMul_xor (a := 0) (a' := 0) (b := gfAlpha j) (by decide) (by decide)
        simpa using this
      rw [this, Nat.zero_xor, gfFold_split h0 hrest, hlen]
    have eg := genPoly_root j hj _ hf
    rw [List.drop_one] at eg
    rw [eg, er, gfMul_xor (gfTimes_lt h0) (gfFold_lt (by decide) hrest), gfTimes_xor hc h0]
    show _ = gfTimes (gfAlpha j) 8 r0 ^^^ _ ^^^ _
    rw [Nat.xor_comm (gfTimes (gfAlpha j) 8 r0), Nat.xor_assoc, Nat.xor_comm (gfTimes (gfAlpha j) 8 r0)]

/-- The parity of a payload: eight symbols, whose value at each root is the payload's times the root's eighth power. -/
theorem rsParity_spec {p : List Nat} (hp : ∀ y ∈ p, y < 1024) :
    (rsParity p).length = 8 ∧ (∀ y ∈ rsParity p, y < 1024) ∧
      ∀ j < 8, gfFold (gfAlpha j) 0 (rsParity p) = gfTimes (gfAlpha j) 8 (gfFold (gfAlpha j) 0 p) := by
  have go : ∀ (p : List Nat) (r : List Nat) (a : Nat → Nat), (∀ y ∈ p, y < 1024) → r.length = 8 → (∀ y ∈ r, y < 1024) →
      (∀ j < 8, a j < 1024 ∧ gfFold (gfAlpha j) 0 r = gfTimes (gfAlpha j) 8 (a j)) →
      let r' := p.foldl (fun r c =>
        let f := Nat.xor c (r.headD 0)
        List.zipWith Nat.xor (r.drop 1 ++ [0]) ((genPoly.drop 1).map (gfMul f))) r
      r'.length = 8 ∧ (∀ y ∈ r', y < 1024) ∧ ∀ j < 8, gfFold (gfAlpha j) 0 r' = gfTimes (gfAlpha j) 8 (gfFold (gfAlpha j) (a j) p) := by
    intro p
    induction p with
    | nil => intro r a _ hl hr ha; exact ⟨hl, hr, fun j hj => (ha j hj).2⟩
    | cons c p ih =>
      intro r a hp hl hr ha
      have hc := hp c (List.mem_cons_self ..)
      have h0 := rsParity_step (j := 0) (by decide) hc hl hr
      refine ih _ (fun j => gfMul (a j) (gfAlpha j) ^^^ c) (fun y hy => hp y (List.mem_cons_of_mem _ hy)) h0.1 h0.2.1 (fun j hj => ?_)
      obtain ⟨a1, a2⟩ := ha j hj
      refine ⟨xor_lt (gfMul_lt a1) hc, ?_⟩
      rw [(rsParity_step hj hc hl hr).2.2, a2, gfTimes_xor (gfMul_lt a1) hc, gfTimes_succ']
  refine go p (List.replicate 8 0) (fun _ => 0) hp (by decide) (by decide) ?_
  decide +kernel

/-- A sent block has no syndrome (R38). -/
theorem syndromes_rsEncode {p : List Nat} (hp : ∀ y ∈ p, y < 1024) : (syndromes (rsEncode p)).all (· == 0) = true := by
  obtain ⟨h1, h2, h3⟩ := rsParity_spec hp
  unfold syndromes
  rw [List.all_map, List.all_eq_true]
  intro j hj
  rw [List.mem_range] at hj
  rw [Function.comp_apply, beq_iff_eq]
  show gfFold (gfAlpha j) 0 (p ++ rsParity p) = 0
  unfold gfFold
  rw [List.foldl_append]
  show gfFold (gfAlpha j) (gfFold (gfAlpha j) 0 p) (rsParity p) = 0
  rw [gfFold_split (gfFold_lt (by decide) hp) h2, h3 j hj, h1, Nat.xor_self]

/-- A sent block decodes to itself with no correction (R38, R43). -/
theorem rsDecode_rsEncode {p : List Nat} (hp : ∀ y ∈ p, y < 1024) :
    rsDecode (rsEncode p) = { syms := rsEncode p, corrected := 0, bad := false } := by
  unfold rsDecode
  dsimp only
  rw [if_pos (syndromes_rsEncode hp)]

/-! ### Bits in symbols and bytes -/

theorem chunksFuel_flatMap {n : Nat} (hn : 0 < n) {f : List Bool → List Bool} (hf : ∀ c, c.length = n → f c = c) :
    ∀ (k m : Nat) (bits : List Bool), bits.length = n * m → bits.length ≤ k → (chunksFuel k n bits).flatMap f = bits := by
  intro k
  induction k with
  | zero => intro m bits _ h; rw [List.length_eq_zero_iff.1 (Nat.le_zero.1 h)]; rfl
  | succ k ih =>
    intro m bits hm hk
    rcases bits with _ | ⟨b, rest⟩
    · rfl
    · generalize hb : b :: rest = bits at *
      have h1 : 1 ≤ bits.length := by rw [← hb]; simp
      obtain ⟨m, rfl⟩ : ∃ k, m = k + 1 := ⟨m - 1, by rcases m with _ | m <;> omega⟩
      rw [Nat.mul_add, Nat.mul_one] at hm
      rw [show chunksFuel (k + 1) n bits = bits.take n :: chunksFuel k n (bits.drop n) by rw [← hb]; rfl, List.flatMap_cons,
        hf _ (by rw [List.length_take]; omega), ih m (bits.drop n) (by rw [List.length_drop]; omega) (by rw [List.length_drop]; omega),
        List.take_append_drop]

theorem length_chunksFuel {α : Type} {n : Nat} (hn : 0 < n) :
    ∀ (k m : Nat) (l : List α), l.length = n * m → l.length ≤ k → (chunksFuel k n l).length = m := by
  intro k
  induction k with
  | zero =>
    intro m l h h2
    rw [List.length_eq_zero_iff.1 (Nat.le_zero.1 h2)] at h
    have : n * m = 0 := h.symm
    rcases Nat.mul_eq_zero.1 this with h | h
    · omega
    · rw [h]; rfl
  | succ k ih =>
    intro m l hm hk
    rcases l with _ | ⟨b, rest⟩
    · have : n * m = 0 := hm.symm
      rcases Nat.mul_eq_zero.1 this with h | h
      · omega
      · rw [h]; rfl
    · generalize hb : b :: rest = l at *
      have h1 : 1 ≤ l.length := by rw [← hb]; simp
      obtain ⟨m, rfl⟩ : ∃ k, m = k + 1 := ⟨m - 1, by rcases m with _ | m <;> omega⟩
      rw [Nat.mul_add, Nat.mul_one] at hm
      rw [show chunksFuel (k + 1) n l = l.take n :: chunksFuel k n (l.drop n) by rw [← hb]; rfl, List.length_cons,
        ih m (l.drop n) (by rw [List.length_drop]; omega) (by rw [List.length_drop]; omega)]

/-- Cutting the concatenation of pieces of `n` elements gives the pieces. -/
theorem chunks_flatten {α : Type} {n : Nat} (hn : 0 < n) {ls : List (List α)} (h : ∀ l ∈ ls, l.length = n) : chunks n ls.flatten = ls := by
  unfold chunks
  have : ∀ (k : Nat), ls.flatten.length ≤ k → chunksFuel k n ls.flatten = ls := by
    intro k
    induction ls generalizing k with
    | nil => intro _; cases k <;> rfl
    | cons a ls ih =>
      intro hk
      have ha := h a (List.mem_cons_self ..)
      rw [List.flatten_cons] at hk ⊢
      obtain ⟨k, rfl⟩ : ∃ j, k = j + 1 := ⟨k - 1, by rw [List.length_append] at hk; omega⟩
      obtain ⟨b, t, hb⟩ : ∃ b t, a = b :: t := by cases a with
        | nil => simp at ha; omega
        | cons b t => exact ⟨b, t, rfl⟩
      have e : chunksFuel (k + 1) n (a ++ ls.flatten) = (a ++ ls.flatten).take n :: chunksFuel k n ((a ++ ls.flatten).drop n) := by
        rw [hb]; rfl
      rw [e, List.take_left' ha, List.drop_left' ha, ih (fun l hl => h l (List.mem_cons_of_mem _ hl)) k (by
        rw [List.length_append] at hk; omega)]
  exact this _ (Nat.le_refl _)

/-- Whole symbols give back the bits they were made of. -/
theorem symBits_bitsSyms {bits : List Bool} {m : Nat} (h : bits.length = 10 * m) : symBits (bitsSyms bits) = bits := by
  unfold symBits bitsSyms chunks
  rw [List.flatMap_map]
  refine chunksFuel_flatMap (by decide) (fun c hc => ?_) _ m _ h (Nat.le_refl _)
  have := msbBits_foldl c
  rw [hc] at this
  exact this

theorem bitsSyms_lt {bits : List Bool} : ∀ y ∈ bitsSyms bits, y < 1024 := by
  intro y hy
  unfold bitsSyms at hy
  obtain ⟨c, hc, rfl⟩ := List.mem_map.1 hy
  have : ∀ (k : Nat) (bits : List Bool), ∀ c ∈ chunksFuel k 10 bits, c.length ≤ 10 := by
    intro k
    induction k with
    | zero => intro _ c hc; cases hc
    | succ k ih =>
      intro bits c hc
      cases bits with
      | nil => cases hc
      | cons b t =>
        rcases List.mem_cons.1 hc with rfl | hc
        · rw [List.length_take]; omega
        · exact ih _ _ hc
  refine Nat.lt_of_lt_of_le (foldl_bits_lt c 0) ?_
  rw [Nat.zero_add, Nat.one_mul]
  exact Nat.pow_le_pow_right (n := 2) (by decide) (this _ _ c hc)

theorem length_bitsSyms {bits : List Bool} {m : Nat} (h : bits.length = 10 * m) : (bitsSyms bits).length = m := by
  unfold bitsSyms chunks
  rw [List.length_map]
  exact length_chunksFuel (by decide) _ m _ h (Nat.le_refl _)

theorem length_bytesBits (bs : List Byte) : (bytesBits bs).length = 8 * bs.length := by
  induction bs with
  | nil => rfl
  | cons b bs ih => rw [bytesBits_cons, List.length_append, length_msbBits, ih, List.length_cons]; omega

/-- Bytes made of the bits of bytes are those bytes. -/
theorem bitsBytes_bytesBits (bs : List Byte) : bitsBytes (bytesBits bs) = bs := by
  have e : bytesBits bs = (bs.map (fun b => msbBits 8 b.toNat)).flatten := by
    induction bs with
    | nil => rfl
    | cons b bs ih => rw [bytesBits_cons, ih]; rfl
  unfold bitsBytes
  rw [e, chunks_flatten (by decide) (fun l hl => by obtain ⟨b, _, rfl⟩ := List.mem_map.1 hl; exact length_msbBits ..), List.map_map]
  conv_rhs => rw [← List.map_id bs]
  refine List.map_congr_left fun b _ => ?_
  rw [Function.comp_apply, foldl_msbBits, Nat.zero_mul, Nat.zero_add, Nat.mod_eq_of_lt b.isLt]
  simp

/-- The scrambler undoes itself (R39). -/
theorem descramble_descramble (st : Nat) (bits : List Bool) : descramble st (descramble st bits).1 = (bits, (descramble st bits).2) := by
  induction bits generalizing st with
  | nil => rfl
  | cons b t ih =>
    simp only [descramble]
    rw [ih]
    cases b <;> cases (scramBit st).1 <;> rfl

theorem length_descramble (st : Nat) (bits : List Bool) : (descramble st bits).1.length = bits.length := by
  induction bits generalizing st with
  | nil => rfl
  | cons b t ih => simp only [descramble, List.length_cons]; rw [ih]

/-- What a receiver finds in a block sent with `bits` as its payload. -/
theorem received_rsEncode {bits : List Bool} (h : bits.length = 1280) :
    rsDecode (rsEncode (bitsSyms bits)) = { syms := rsEncode (bitsSyms bits), corrected := 0, bad := false } ∧
      symBits ((rsEncode (bitsSyms bits)).take 128) = bits := by
  refine ⟨rsDecode_rsEncode bitsSyms_lt, ?_⟩
  unfold rsEncode
  rw [List.take_left' (length_bitsSyms (m := 128) h), symBits_bitsSyms (m := 128) h]

end Sys2Proof.Machine
end

