-- ==== Sys2Proof/Laws/Flits.lean ====
section
/-! SUPPORT. Chain packets as bytes: check values (R63), fields of headers (R62), what an outcome says of a packet, and the flits of
a packet as a tile sends them on (R77, R78). -/

namespace Sys2Proof.Machine

/-! ### Check values and bytes -/

theorem crcBit_lt {c : Nat} (h : c < 2 ^ 32) : crcBit c < 2 ^ 32 := by
  unfold crcBit
  split
  · exact Nat.xor_lt_two_pow (by omega) (by decide)
  · omega

theorem crcByte_lt {c : Nat} {b : Byte} (h : c < 2 ^ 32) : crcByte c b < 2 ^ 32 := by
  have : Nat.xor c b.toNat < 2 ^ 32 := Nat.xor_lt_two_pow h (Nat.lt_trans b.isLt (by decide))
  unfold crcByte
  exact crcBit_lt (crcBit_lt (crcBit_lt (crcBit_lt (crcBit_lt (crcBit_lt (crcBit_lt (crcBit_lt this)))))))

/-- The check is a 32-bit number (R63). -/
theorem crc32c_lt (bs : List Byte) : crc32c bs < 2 ^ 32 := by
  unfold crc32c
  refine Nat.xor_lt_two_pow ?_ (by decide)
  have : ∀ (bs : List Byte) (c : Nat), c < 2 ^ 32 → bs.foldl crcByte c < 2 ^ 32 := by
    intro bs
    induction bs with
    | nil => exact fun _ h => h
    | cons b t ih => exact fun c h => ih _ (crcByte_lt h)
  exact this bs _ (by decide)

theorem byteAt_append_left {a b : List Byte} {i : Nat} (h : i < a.length) : byteAt (a ++ b) i = byteAt a i := by
  unfold byteAt; rw [List.getD_append _ _ _ _ h]

theorem byteAt_append_right {a b : List Byte} {i : Nat} (h : a.length ≤ i) : byteAt (a ++ b) i = byteAt b (i - a.length) := by
  unfold byteAt; rw [List.getD_append_right _ _ _ _ h]

theorem beAt_congr {a b : List Byte} {i j n : Nat} (h : ∀ k < n, byteAt a (i + k) = byteAt b (j + k)) : beAt a i n = beAt b j n := by
  unfold beAt
  exact List.foldl_ext _ _ _ fun c k hk => by rw [h k (List.mem_range.1 hk)]

theorem length_beBytes (n v : Nat) : (beBytes n v).length = n := by simp [beBytes]

theorem beAt_beBytes {v : Nat} (h : v < 2 ^ 32) : beAt (beBytes 4 v) 0 4 = v := by
  simp only [beAt, beBytes, List.range_succ, List.range_zero, List.nil_append, List.cons_append, List.foldl_cons, List.foldl_nil,
    List.map_cons, List.map_nil, byteAt]
  show (((0 * 256 + v / 256 ^ 3 % 256) * 256 + v / 256 ^ 2 % 256) * 256 + v / 256 ^ 1 % 256) * 256 + v / 256 ^ 0 % 256 = v
  omega

/-- A 32-bit number written after `a` reads back. -/
theorem beAt_after {a t : List Byte} {v : Nat} (h : v < 2 ^ 32) : beAt (a ++ (beBytes 4 v ++ t)) a.length 4 = v := by
  refine Eq.trans (beAt_congr fun k hk => ?_) (beAt_beBytes h)
  rw [byteAt_append_right (Nat.le_add_right ..), Nat.add_sub_cancel_left, byteAt_append_left (by rw [length_beBytes]; exact hk),
    Nat.zero_add]

theorem beAt_append_left {a b : List Byte} {i n : Nat} (h : i + n ≤ a.length) : beAt (a ++ b) i n = beAt a i n :=
  beAt_congr fun k hk => byteAt_append_left (by omega)

theorem length_putBytes {l v : List Byte} {i : Nat} (h : i + v.length ≤ l.length) : (putBytes l i v).length = l.length := by
  unfold putBytes; simp only [List.length_append, List.length_take, List.length_drop]; omega

/-- Replaced bytes leave the others. -/
theorem byteAt_putBytes {l v : List Byte} {i k : Nat} (h : i + v.length ≤ l.length) (hk : k < i ∨ i + v.length ≤ k) :
    byteAt (putBytes l i v) k = byteAt l k := by
  unfold putBytes
  have hl : (l.take i).length = i := by rw [List.length_take]; omega
  rcases hk with hk | hk
  · rw [List.append_assoc, byteAt_append_left (by omega)]
    unfold byteAt
    congr 1
    simp [List.getD_eq_getElem?_getD, hk]
  · rw [byteAt_append_right (by rw [List.length_append]; omega)]
    unfold byteAt
    congr 1
    simp only [List.getD_eq_getElem?_getD, List.getElem?_drop, List.length_append, hl]
    congr 2
    omega

theorem beAt_putBytes {l : List Byte} {i v : Nat} (hv : v < 2 ^ 32) (h : i + 4 ≤ l.length) : beAt (putBytes l i (beBytes 4 v)) i 4 = v := by
  unfold putBytes
  have hl : (l.take i).length = i := by rw [List.length_take]; omega
  have := beAt_after (a := l.take i) (t := l.drop (i + (beBytes 4 v).length)) hv
  rw [hl] at this
  rw [List.append_assoc]
  exact this

theorem length_updAt {α : Type} {f : α → α} {l : List α} {i : Nat} : (updAt f l i).length = l.length := by
  induction l generalizing i with
  | nil => rfl
  | cons x t ih => cases i <;> simp [updAt, ih]

theorem byteAt_updAt {f : Byte → Byte} {l : List Byte} {i k : Nat} (h : k ≠ i) : byteAt (updAt f l i) k = byteAt l k := by
  induction l generalizing i k with
  | nil => rfl
  | cons x t ih =>
    cases i with
    | zero => cases k with
      | zero => exact absurd rfl h
      | succ k => rfl
    | succ i => cases k with
      | zero => rfl
      | succ k => exact ih (by omega)

/-! ### Judging a packet (R77) -/

/-- Flits as a receiver finds them in good blocks. -/
def cleanFlits (bs : List (List Byte)) : List Flit := bs.map fun b => { bytes := b, bad := false }

/-- An inverted check is not the check (R78). -/
theorem xor_ones_ne {c : Nat} : Nat.xor c 0xFFFFFFFF ≠ c := by
  intro h
  have h2 : c ^^^ 0xFFFFFFFF = c ^^^ 0 := by rw [Nat.xor_zero]; exact h
  exact absurd (Nat.xor_right_injective h2) (by decide)

/-- The judgement of a packet in good blocks whose header holds and whose end kind is not reserved, by its end check (R77). -/
theorem judge_clean {bs : List (List Byte)} (h0 : bs ≠ []) (hh : hcheckOk (bs.headD []) = true) (chk crc : Nat) (cov : List Byte)
    (hc : coveredAndCheck bs = (cov, chk)) (hcrc : crc = crc32c cov) :
    (chk = crc → (hClass (bs.headD []) = 0 ∨ byteAt (bs.getLastD []) 4 ≤ 1) → hLength (bs.headD []) ≤ lengthLimit (hClass (bs.headD [])) →
      judge (cleanFlits bs) = .confirmed) ∧
    (chk = crc → lengthLimit (hClass (bs.headD [])) < hLength (bs.headD []) → judge (cleanFlits bs) = .oversize) ∧
    (chk = Nat.xor crc 0xFFFFFFFF → judge (cleanFlits bs) = .failUpstream) := by
  have hm : (cleanFlits bs).map Flit.bytes = bs := by
    unfold cleanFlits; rw [List.map_map]; exact List.map_id bs
  have hb : ((cleanFlits bs).head?.map Flit.bad).getD true = false := by
    cases bs with
    | nil => exact absurd rfl h0
    | cons b t => rfl
  have ha : (cleanFlits bs).any Flit.bad = false := by
    unfold cleanFlits; rw [List.any_map, List.any_eq_false]; intro x _; simp
  unfold judge
  dsimp only
  rw [hm, hb, hh, ha, hc]
  dsimp only
  rw [← hcrc]
  subst hcrc
  generalize hClass (bs.headD []) = cl at *
  generalize hLength (bs.headD []) = le at *
  generalize byteAt (bs.getLastD []) 4 = k at *
  have hx : crc32c cov ^^^ 4294967295 ≠ crc32c cov := xor_ones_ne
  refine ⟨fun he hk hl => ?_, fun he hl => ?_, fun he => ?_⟩
  · subst he
    rw [if_neg (by simp), if_neg (by simp only [Bool.and_eq_true, bne_iff_ne, decide_eq_true_eq]; omega), if_pos (by simpa using hl)]
  · subst he
    have e : decide (le > lengthLimit cl) = true := decide_eq_true hl
    rw [if_neg (by simp), e, if_neg (by simp), if_neg (by simp), if_neg (by simp), if_neg (by simp),
      if_neg (by rw [beq_iff_eq]; exact fun h => hx h.symm)]
  · subst he
    have e : (Nat.xor (crc32c cov) 0xFFFFFFFF == crc32c cov) = false := by rw [beq_eq_false_iff_ne]; exact hx
    rw [if_neg (by simp), e, if_neg (by simp), if_neg (by simp), if_neg (by simp), if_neg (by simp), if_pos (beq_self_eq_true _)]

/-- What a packet's outcome says of its header, check and end kind (R77). -/
theorem judge_facts {fl : List Flit} (h : judge fl ≠ .framing) :
    fl ≠ [] ∧ hcheckOk ((fl.map Flit.bytes).headD []) = true ∧ ∃ cov chk, coveredAndCheck (fl.map Flit.bytes) = (cov, chk) ∧
      (judge fl = .confirmed → chk = crc32c cov ∧ fl.any Flit.bad = false ∧
        hLength ((fl.map Flit.bytes).headD []) ≤ lengthLimit (hClass ((fl.map Flit.bytes).headD [])) ∧
        (hClass ((fl.map Flit.bytes).headD []) = 0 ∨ byteAt ((fl.map Flit.bytes).getLastD []) 4 ≤ 1)) ∧
      (judge fl = .oversize → chk = crc32c cov ∧
        lengthLimit (hClass ((fl.map Flit.bytes).headD [])) < hLength ((fl.map Flit.bytes).headD [])) ∧
      (judge fl = .failUpstream → chk = Nat.xor (crc32c cov) 0xFFFFFFFF) ∧
      (fl.any Flit.bad = false → chk = crc32c cov → judge fl = .confirmed ∨ judge fl = .oversize) := by
  unfold judge at h ⊢
  dsimp only at h ⊢
  generalize (fl.map Flit.bytes).headD [] = hd at *
  generalize byteAt ((fl.map Flit.bytes).getLastD []) 4 = k at *
  generalize fl.any Flit.bad = bad at *
  rcases hcc : coveredAndCheck (fl.map Flit.bytes) with ⟨cov, chk⟩
  rw [hcc] at h
  dsimp only at h ⊢
  have hx : crc32c cov ^^^ 4294967295 ≠ crc32c cov := xor_ones_ne
  by_cases h1 : ((fl.head?.map Flit.bad).getD true || !hcheckOk hd) = true
  · rw [if_pos h1] at h; exact absurd rfl h
  · rw [if_neg h1] at h ⊢
    have hne : fl ≠ [] := by rintro rfl; exact h1 rfl
    have hok : hcheckOk hd = true := by
      rw [Bool.not_eq_true, Bool.or_eq_false_iff] at h1; simpa using h1.2
    refine ⟨hne, hok, cov, chk, rfl, ?_⟩
    generalize hClass hd = cl at *
    generalize hLength hd = le at *
    clear hcc h1 hok
    by_cases h2 : (cl != 0 && decide (k > 1) && !bad && !decide (le > lengthLimit cl) && chk == crc32c cov) = true
    · rw [if_pos h2] at h; exact absurd rfl h
    · rw [if_neg h2]
      simp only [Bool.and_eq_true, bne_iff_ne, decide_eq_true_eq, beq_iff_eq, Bool.not_eq_true', decide_eq_false_iff_not] at h2 ⊢
      by_cases e1 : chk = crc32c cov
      · subst e1
        rw [nat_xor] at *
        cases bad
        · by_cases e2 : le > lengthLimit cl
          · simp [e2, hx.symm]
          · have hk : cl = 0 ∨ k ≤ 1 := by
              by_contra hc
              rw [not_or, Nat.not_le] at hc
              exact h2 ⟨⟨⟨hc, rfl⟩, e2⟩, rfl⟩
            have e3 : le ≤ lengthLimit cl := Nat.not_lt.1 e2
            simp [e2, e3, hk]
        · simp
      · by_cases e2 : chk = crc32c cov ^^^ 4294967295
        · subst e2
          cases bad <;> simp [hx]
        · cases bad <;> simp [e1, e2]

/-! ### A packet one hop on (R69, R77, R78) -/

theorem headD_append {ds : List (List Byte)} (h : ds ≠ []) (x : List (List Byte)) : (ds ++ x).headD [] = ds.headD [] := by
  cases ds with
  | nil => exact absurd rfl h
  | cons a t => rfl

theorem getLastD_snoc (ds : List (List Byte)) (x : List Byte) : (ds ++ [x]).getLastD [] = x := by simp

theorem length_hopEnd (e : List Byte) : (hopEnd e).length = e.length := length_updAt

theorem beAt_hopEnd {e : List Byte} : beAt (hopEnd e) 0 4 = beAt e 0 4 :=
  beAt_congr fun _ hk => byteAt_updAt (by omega)

/-- A heart or base packet one hop on (R65, R77, R78). -/
theorem judge_body {addr : Nat} {fl : List Flit} {ds : List (List Byte)} {last : List Byte} (hbs : fl.map Flit.bytes = ds ++ [last])
    (hds : ds ≠ []) (hl : last.length = 32) (hcl : hClass (ds.headD []) ≠ 0) (hj : judge fl ≠ .framing) :
    ∃ e, e.length = 32 ∧ forwardFlits addr (judge fl) (fl.map Flit.bytes) = (ds ++ [e]).flatten ∧
      judge (cleanFlits (ds ++ [e])) = match judge fl with | .confirmed => .confirmed | .oversize => .oversize | _ => .failUpstream := by
  obtain ⟨-, hh, cov, chk, hcc, f1, f2, f3, -⟩ := judge_facts hj
  rw [hbs] at hh hcc f1 f2 ⊢
  have hhd := headD_append hds [last]
  have hlast := getLastD_snoc ds last
  rw [hhd] at hh f1 f2
  rw [hlast] at f1
  have hcov : ∀ e : List Byte, coveredAndCheck (ds ++ [e]) = (ds.flatten, beAt e 0 4) := by
    intro e
    unfold coveredAndCheck
    dsimp only
    rw [headD_append hds, if_neg (by rw [beq_iff_eq]; exact hcl), List.dropLast_concat, getLastD_snoc]
  rw [hcov] at hcc
  obtain ⟨rfl, rfl⟩ := Prod.mk.inj hcc
  have hne : ∀ e : List Byte, ds ++ [e] ≠ [] := by simp
  have key : ∀ e : List Byte, _ := fun e => judge_clean (hne e) (by rw [headD_append hds]; exact hh) _ _ _ (hcov e) rfl
  simp only [headD_append hds, getLastD_snoc] at key
  have hkind : byteAt (hopEnd last) 4 = byteAt last 4 := byteAt_updAt (by omega)
  have hdel : isDelayPkt (ds.headD []) = false := by
    unfold isDelayPkt; rw [beq_eq_false_iff_ne.2 hcl]; rfl
  have hst : ∃ e, e.length = 32 ∧ stompLast addr (ds ++ [last]) = e ∧ beAt e 0 4 = Nat.xor (crc32c ds.flatten) 0xFFFFFFFF := by
    refine ⟨_, ?_, rfl, ?_⟩
    all_goals
      unfold stompLast
      dsimp only
      rw [hhd, hlast, if_neg (by rw [beq_iff_eq]; exact hcl), List.dropLast_concat]
    · rw [length_putBytes, length_putBytes, length_hopEnd, hl]
      · rw [length_beBytes, length_hopEnd, hl]; decide
      · rw [length_putBytes] <;> rw [length_hopEnd, hl] <;> simp [length_beBytes]
    · have hlen : (putBytes (hopEnd last) 0 (beBytes 4 (Nat.xor (crc32c ds.flatten) 0xFFFFFFFF))).length = 32 := by
        rw [length_putBytes] <;> rw [length_hopEnd, hl]
        simp [length_beBytes]
      have e : beAt (putBytes (putBytes (hopEnd last) 0 (beBytes 4 (Nat.xor (crc32c ds.flatten) 0xFFFFFFFF))) 7 [BitVec.ofNat 8 addr]) 0 4 =
          beAt (putBytes (hopEnd last) 0 (beBytes 4 (Nat.xor (crc32c ds.flatten) 0xFFFFFFFF))) 0 4 :=
        beAt_congr fun k hk => byteAt_putBytes (by rw [hlen, List.length_singleton]; decide) (.inl (by omega))
      rw [e]
      exact beAt_putBytes (Nat.xor_lt_two_pow (crc32c_lt _) (by decide)) (by rw [length_hopEnd, hl]; decide)
  have hsame : (ds ++ [hopEnd last]).flatten = ds.flatten ++ hopEnd last := by rw [List.flatten_append]; simp
  obtain ⟨e, he1, he2, he3⟩ := hst
  cases ho : judge fl
  case confirmed =>
    obtain ⟨g1, -, g2, g3⟩ := f1 ho
    refine ⟨hopEnd last, by rw [length_hopEnd, hl], ?_, ?_⟩
    · unfold forwardFlits
      dsimp only
      rw [hhd, hdel, Bool.false_and, if_neg (by decide), if_neg (by rw [beq_iff_eq]; exact hcl), hlast, List.dropLast_concat, hsame]
    · exact (key _).1 (by rw [beAt_hopEnd]; exact g1) (by rw [hkind]; exact g3) g2
  case oversize =>
    obtain ⟨g1, g2⟩ := f2 ho
    refine ⟨hopEnd last, by rw [length_hopEnd, hl], ?_, ?_⟩
    · unfold forwardFlits
      dsimp only
      rw [hhd, if_neg (by rw [beq_iff_eq]; exact hcl), hlast, List.dropLast_concat, hsame]
    · exact (key _).2.1 (by rw [beAt_hopEnd]; exact g1) g2
  case failUpstream =>
    refine ⟨hopEnd last, by rw [length_hopEnd, hl], ?_, ?_⟩
    · unfold forwardFlits
      dsimp only
      rw [hhd, if_neg (by rw [beq_iff_eq]; exact hcl), hlast, List.dropLast_concat, hsame]
    · exact (key _).2.2 (by rw [beAt_hopEnd]; exact f3 ho)
  case framing => exact absurd ho hj
  all_goals
    refine ⟨e, he1, ?_, (key e).2.2 he3⟩
    unfold forwardFlits
    dsimp only
    rw [List.dropLast_concat, he2, List.flatten_append]
    simp

/-- A top-note packet with an end check one hop on (R64, R77, R78). -/
theorem judge_top {addr : Nat} {fl : List Flit} {ds : List (List Byte)} {last : List Byte} (hbs : fl.map Flit.bytes = ds ++ [last])
    (hds : ds ≠ []) (hl : last.length = 32) (hcl : hClass (ds.headD []) = 0) (hlen : hLength (ds.headD []) ≠ 0)
    (hj : judge fl ≠ .framing) :
    ∃ e, e.length = 32 ∧ forwardFlits addr (judge fl) (fl.map Flit.bytes) = (ds ++ [e]).flatten ∧
      judge (cleanFlits (ds ++ [e])) = match judge fl with | .confirmed => .confirmed | .oversize => .oversize | _ => .failUpstream := by
  obtain ⟨-, hh, cov, chk, hcc, f1, f2, f3, -⟩ := judge_facts hj
  rw [hbs] at hh hcc f1 f2 ⊢
  have hhd := headD_append hds [last]
  rw [hhd] at hh f1 f2
  have hcov : ∀ e : List Byte, e.length = 32 → coveredAndCheck (ds ++ [e]) = (ds.flatten ++ e.take 28, beAt e 28 4) := by
    intro e he
    unfold coveredAndCheck
    dsimp only
    rw [headD_append hds, if_pos (by rw [hcl]; rfl), if_neg (by rw [beq_iff_eq]; exact hlen), List.flatten_append, List.flatten_singleton,
      List.length_append, he]
    refine Prod.ext ?_ ?_
    · show (ds.flatten ++ e).take (ds.flatten.length + 32 - 4) = _
      rw [show ds.flatten.length + 32 - 4 = ds.flatten.length + 28 by omega, List.take_append]
      rw [List.take_of_length_le (by omega), Nat.add_sub_cancel_left]
    · exact beAt_congr fun k _ => by
        rw [byteAt_append_right (by omega)]; congr 1; omega
  rw [hcov _ hl] at hcc
  obtain ⟨rfl, rfl⟩ := Prod.mk.inj hcc
  have hne : ∀ e : List Byte, ds ++ [e] ≠ [] := by simp
  have key : ∀ e : List Byte, e.length = 32 → _ := fun e he => judge_clean (hne e) (by rw [headD_append hds]; exact hh) _ _ _ (hcov e he) rfl
  simp only [headD_append hds] at key
  have hz : (hClass (ds.headD []) == 0) = true := by rw [hcl]; rfl
  have hdel : (isDelayPkt (ds.headD []) && hLength (ds.headD []) == 0) = false := by
    rw [Bool.and_eq_false_iff]; right; rw [beq_eq_false_iff_ne]; exact hlen
  have hx : (putBytes last 28 (beBytes 4 (Nat.xor (crc32c (ds.flatten ++ last.take 28)) 0xFFFFFFFF))).length = 32 := by
    rw [length_putBytes] <;> rw [hl]
    simp [length_beBytes]
  have hst : stompLast addr (ds ++ [last]) = putBytes last 28 (beBytes 4 (Nat.xor (crc32c (ds.flatten ++ last.take 28)) 0xFFFFFFFF)) := by
    unfold stompLast
    dsimp only
    rw [hhd, hz, if_pos rfl, getLastD_snoc]
    have := congrArg Prod.fst (hcov last hl)
    unfold coveredAndCheck at this
    dsimp only at this
    rw [hhd, hz, if_pos rfl, if_neg (by rw [beq_iff_eq]; exact hlen)] at this
    dsimp only at this
    rw [this]
  cases ho : judge fl
  case confirmed =>
    obtain ⟨g1, -, g2, -⟩ := f1 ho
    refine ⟨last, hl, ?_, (key _ hl).1 g1 (.inl hcl) g2⟩
    unfold forwardFlits
    dsimp only
    rw [hhd, hdel, if_neg (by decide), hz, if_pos rfl]
  case oversize =>
    obtain ⟨g1, g2⟩ := f2 ho
    refine ⟨last, hl, ?_, (key _ hl).2.1 g1 g2⟩
    unfold forwardFlits
    dsimp only
    rw [hhd, hz, if_pos rfl]
  case failUpstream =>
    refine ⟨last, hl, ?_, (key _ hl).2.2 (f3 ho)⟩
    unfold forwardFlits
    dsimp only
    rw [hhd, hz, if_pos rfl]
  case framing => exact absurd ho hj
  all_goals
    refine ⟨_, hx, ?_, (key _ hx).2.2 ?_⟩
    · unfold forwardFlits
      dsimp only
      rw [List.dropLast_concat, hst, List.flatten_append]
      simp
    · have et : (putBytes last 28 (beBytes 4 (Nat.xor (crc32c (ds.flatten ++ last.take 28)) 0xFFFFFFFF))).take 28 = last.take 28 := by
        unfold putBytes
        rw [List.append_assoc, List.take_left' (by rw [List.length_take, hl]; rfl)]
      rw [et]
      exact beAt_putBytes (Nat.xor_lt_two_pow (crc32c_lt _) (by decide)) (by rw [hl])

/-- A made header flit holds, and keeps the first bytes of what it was made from. -/
theorem headerFlit_spec {b : List Byte} (h : b.length = 28) :
    (headerFlit b).length = 32 ∧ hcheckOk (headerFlit b) = true ∧ (headerFlit b).take 28 = b ∧ hClass (headerFlit b) = hClass b ∧
      hLength (headerFlit b) = hLength b := by
  unfold headerFlit
  have ht : (b ++ beBytes 4 (crc32c b)).take 28 = b := List.take_left' h
  refine ⟨by rw [List.length_append, h, length_beBytes], ?_, ht, ?_, ?_⟩
  · unfold hcheckOk
    rw [ht, beq_iff_eq]
    have := beAt_after (a := b) (t := []) (crc32c_lt b)
    rw [h, List.append_nil] at this
    exact this
  · unfold hClass; rw [byteAt_append_left (by omega)]
  · unfold hLength; rw [beAt_append_left (by omega)]

/-- A packet of one header flit is confirmed (R64, R77). -/
theorem judge_single {h : List Byte} (hh : hcheckOk h = true) (hc : hClass h = 0) (hl : hLength h = 0) :
    judge (cleanFlits [h]) = .confirmed := by
  have hcov : coveredAndCheck [h] = (h.take 28, beAt h 28 4) := by
    unfold coveredAndCheck
    dsimp only [List.headD_cons]
    rw [if_pos (by rw [hc]; rfl), if_pos (by rw [hl]; rfl)]
  refine (judge_clean (bs := [h]) (by simp) hh _ _ _ hcov rfl).1 (beq_iff_eq.1 hh) (.inl hc) ?_
  rw [List.headD_cons, hl]
  exact Nat.zero_le _

theorem beAt4_lt (b : List Byte) (i : Nat) : beAt b i 4 < 2 ^ 32 := by
  simp only [beAt, List.range_succ, List.range_zero, List.nil_append, List.cons_append, List.foldl_cons, List.foldl_nil]
  have h : ∀ k, byteAt b k < 256 := fun k => by unfold byteAt; exact BitVec.isLt _
  have := h (i + 0)
  have := h (i + 1)
  have := h (i + 2)
  have := h (i + 3)
  omega

theorem beAt_beBytes_mod (v : Nat) : beAt (beBytes 4 v) 0 4 = v % 2 ^ 32 := by
  simp only [beAt, beBytes, List.range_succ, List.range_zero, List.nil_append, List.cons_append, List.foldl_cons, List.foldl_nil,
    List.map_cons, List.map_nil, byteAt]
  show (((0 * 256 + v / 256 ^ 3 % 256) * 256 + v / 256 ^ 2 % 256) * 256 + v / 256 ^ 1 % 256) * 256 + v / 256 ^ 0 % 256 = v % 2 ^ 32
  omega

theorem beAt_beBytes2 (v : Nat) : beAt (beBytes 2 v) 0 2 = v % 65536 := by
  simp only [beAt, beBytes, List.range_succ, List.range_zero, List.nil_append, List.cons_append, List.foldl_cons, List.foldl_nil,
    List.map_cons, List.map_nil, byteAt]
  show (0 * 256 + v / 256 ^ 1 % 256) * 256 + v / 256 ^ 0 % 256 = v % 65536
  omega

theorem byteAt_putBytes_in {l v : List Byte} {i k : Nat} (h : i + v.length ≤ l.length) (hk : k < v.length) :
    byteAt (putBytes l i v) (i + k) = byteAt v k := by
  unfold putBytes
  have hl : (l.take i).length = i := by rw [List.length_take]; omega
  rw [List.append_assoc, byteAt_append_right (by omega), hl, Nat.add_sub_cancel_left, byteAt_append_left hk]

end Sys2Proof.Machine
end

