-- ==== Sys2Proof/Laws/View.lean ====
section
/-! SUPPORT. What is read after a setter or after a raised event: the fields of the registers, the sticky bits and the parts. -/

namespace Sys2Proof.Machine

variable {s : State}

/-! ### After a raised event -/

@[simp] theorem raise_board {n : Nat} : (raise n s).board = s.board := (foot_raise (Foot.refl _ s) (Nat.or_self _)).parts .board rfl
@[simp] theorem raise_store {n : Nat} : (raise n s).store = s.store := (foot_raise (Foot.refl _ s) (Nat.or_self _)).parts .store rfl
@[simp] theorem raise_dram {n : Nat} : (raise n s).dram = s.dram := (foot_raise (Foot.refl _ s) (Nat.or_self _)).parts .dram rfl
@[simp] theorem raise_eth {n : Nat} : (raise n s).eth = s.eth := (foot_raise (Foot.refl _ s) (Nat.or_self _)).parts .eth rfl
@[simp] theorem raise_flac {n : Nat} : (raise n s).flac = s.flac := (foot_raise (Foot.refl _ s) (Nat.or_self _)).parts .flac rfl
@[simp] theorem raise_lanes {n : Nat} : (raise n s).lanes = s.lanes := (foot_raise (Foot.refl _ s) (Nat.or_self _)).parts .lanes rfl
@[simp] theorem raise_ports {n : Nat} : (raise n s).ports = s.ports := (foot_raise (Foot.refl _ s) (Nat.or_self _)).parts .ports rfl
@[simp] theorem raise_time {n : Nat} : (raise n s).time = s.time := (foot_raise (Foot.refl _ s) (Nat.or_self _)).parts .time rfl
@[simp] theorem raise_wt {n : Nat} : (raise n s).wt = s.wt := (foot_raise (Foot.refl _ s) (Nat.or_self _)).parts .wt rfl
@[simp] theorem raise_ce {n : Nat} : (raise n s).ce = s.ce := (foot_raise (Foot.refl _ s) (Nat.or_self _)).parts .ce rfl
@[simp] theorem raise_enumr {n : Nat} : (raise n s).enumr = s.enumr := (foot_raise (Foot.refl _ s) (Nat.or_self _)).parts .enumr rfl
@[simp] theorem raise_cmd {n : Nat} : (raise n s).cmd = s.cmd := (foot_raise (Foot.refl _ s) (Nat.or_self _)).parts .cmd rfl
@[simp] theorem raise_pkt {n : Nat} : (raise n s).pkt = s.pkt := (foot_raise (Foot.refl _ s) (Nat.or_self _)).parts .pkt rfl
@[simp] theorem raise_comp {n : Nat} : (raise n s).comp = s.comp := (foot_raise (Foot.refl _ s) (Nat.or_self _)).parts .comp rfl
@[simp] theorem raise_pipe {n : Nat} : (raise n s).pipe = s.pipe := (foot_raise (Foot.refl _ s) (Nat.or_self _)).parts .pipe rfl
@[simp] theorem raise_lamp {n : Nat} : (raise n s).lamp = s.lamp := (foot_raise (Foot.refl _ s) (Nat.or_self _)).parts .lamp rfl
@[simp] theorem raise_dramc {n : Nat} : (raise n s).dramc = s.dramc := (foot_raise (Foot.refl _ s) (Nat.or_self _)).parts .dramc rfl
@[simp] theorem raise_pwr {n : Nat} : (raise n s).pwr = s.pwr := (foot_raise (Foot.refl _ s) (Nat.or_self _)).parts .pwr rfl
@[simp] theorem raise_therm {n : Nat} : (raise n s).therm = s.therm := (foot_raise (Foot.refl _ s) (Nat.or_self _)).parts .therm rfl
@[simp] theorem raise_boot {n : Nat} : (raise n s).boot = s.boot := (foot_raise (Foot.refl _ s) (Nat.or_self _)).parts .boot rfl
@[simp] theorem raise_red {n : Nat} : (raise n s).red = s.red := (foot_raise (Foot.refl _ s) (Nat.or_self _)).parts .red rfl
@[simp] theorem raise_freeCnt {n : Nat} : (raise n s).freeCnt = s.freeCnt := (foot_raise (Foot.refl _ s) (Nat.or_self _)).parts .freeCnt rfl
@[simp] theorem raise_emitted {n : Nat} : (raise n s).emitted = s.emitted := (foot_raise (Foot.refl _ s) (Nat.or_self _)).parts .emitted rfl

theorem raise_fldAt {n i : Nat} {f : Fld} (h : maskAvoids 0x41000000000000000000010000e00000000020 (f.addr i) = true) :
    fldAt (raise n s) f i = fldAt s f i := (foot_raise (Foot.refl _ s) (Nat.or_self _)).fldAt_eq h
theorem State.canonical.regs (h : s.canonical) : Memory.wf resetWord s.regs := h.1

/-! ### After a setter of another part -/

@[simp] theorem setEvt_fldAt {f : EvtState → EvtState} {g : Fld} {i : Nat} : fldAt (setEvt f s) g i = fldAt s g i := rfl
theorem setEvt_canonical {f : EvtState → EvtState} (h : s.canonical) : (setEvt f s).canonical := h
@[simp] theorem setEvt_sticky {f : EvtState → EvtState} {n : Nat} : stickyBit (setEvt f s) n = stickyBit s n := rfl
@[simp] theorem setTime_fldAt {f : TimeState → TimeState} {g : Fld} {i : Nat} : fldAt (setTime f s) g i = fldAt s g i := rfl
theorem setTime_canonical {f : TimeState → TimeState} (h : s.canonical) : (setTime f s).canonical := h
@[simp] theorem setTime_sticky {f : TimeState → TimeState} {n : Nat} : stickyBit (setTime f s) n = stickyBit s n := rfl
@[simp] theorem setWt_fldAt {f : WtState → WtState} {g : Fld} {i : Nat} : fldAt (setWt f s) g i = fldAt s g i := rfl
theorem setWt_canonical {f : WtState → WtState} (h : s.canonical) : (setWt f s).canonical := h
@[simp] theorem setWt_sticky {f : WtState → WtState} {n : Nat} : stickyBit (setWt f s) n = stickyBit s n := rfl
@[simp] theorem setCe_fldAt {f : CeState → CeState} {g : Fld} {i : Nat} : fldAt (setCe f s) g i = fldAt s g i := rfl
theorem setCe_canonical {f : CeState → CeState} (h : s.canonical) : (setCe f s).canonical := h
@[simp] theorem setCe_sticky {f : CeState → CeState} {n : Nat} : stickyBit (setCe f s) n = stickyBit s n := rfl
@[simp] theorem setCmd_fldAt {f : CmdState → CmdState} {g : Fld} {i : Nat} : fldAt (setCmd f s) g i = fldAt s g i := rfl
theorem setCmd_canonical {f : CmdState → CmdState} (h : s.canonical) : (setCmd f s).canonical := h
@[simp] theorem setCmd_sticky {f : CmdState → CmdState} {n : Nat} : stickyBit (setCmd f s) n = stickyBit s n := rfl
@[simp] theorem setEth_fldAt {f : EthState → EthState} {g : Fld} {i : Nat} : fldAt (setEth f s) g i = fldAt s g i := rfl
theorem setEth_canonical {f : EthState → EthState} (h : s.canonical) : (setEth f s).canonical := h
@[simp] theorem setEth_sticky {f : EthState → EthState} {n : Nat} : stickyBit (setEth f s) n = stickyBit s n := rfl
@[simp] theorem setBoot_fldAt {f : BootState → BootState} {g : Fld} {i : Nat} : fldAt (setBoot f s) g i = fldAt s g i := rfl
@[simp] theorem setBoot_sticky {f : BootState → BootState} {n : Nat} : stickyBit (setBoot f s) n = stickyBit s n := rfl
@[simp] theorem setTherm_fldAt {f : ThermState → ThermState} {g : Fld} {i : Nat} : fldAt (setTherm f s) g i = fldAt s g i := rfl
theorem setTherm_canonical {f : ThermState → ThermState} (h : s.canonical) : (setTherm f s).canonical := h
@[simp] theorem setTherm_sticky {f : ThermState → ThermState} {n : Nat} : stickyBit (setTherm f s) n = stickyBit s n := rfl
@[simp] theorem setDramc_fldAt {f : DramState → DramState} {g : Fld} {i : Nat} : fldAt (setDramc f s) g i = fldAt s g i := rfl
theorem setDramc_canonical {f : DramState → DramState} (h : s.canonical) : (setDramc f s).canonical := h
@[simp] theorem setDramc_sticky {f : DramState → DramState} {n : Nat} : stickyBit (setDramc f s) n = stickyBit s n := rfl
@[simp] theorem setLamp_fldAt {f : LampState → LampState} {g : Fld} {i : Nat} : fldAt (setLamp f s) g i = fldAt s g i := rfl
theorem setLamp_canonical {f : LampState → LampState} (h : s.canonical) : (setLamp f s).canonical := h
@[simp] theorem setLamp_sticky {f : LampState → LampState} {n : Nat} : stickyBit (setLamp f s) n = stickyBit s n := rfl
@[simp] theorem setPwr_fldAt {f : PwrState → PwrState} {g : Fld} {i : Nat} : fldAt (setPwr f s) g i = fldAt s g i := rfl
@[simp] theorem setPwr_sticky {f : PwrState → PwrState} {n : Nat} : stickyBit (setPwr f s) n = stickyBit s n := rfl
@[simp] theorem setRed_fldAt {f : RedState → RedState} {g : Fld} {i : Nat} : fldAt (setRed f s) g i = fldAt s g i := rfl
theorem setRed_canonical {f : RedState → RedState} (h : s.canonical) : (setRed f s).canonical := h
@[simp] theorem setRed_sticky {f : RedState → RedState} {n : Nat} : stickyBit (setRed f s) n = stickyBit s n := rfl
@[simp] theorem setLane_fldAt {j : Nat} {f : Lane → Lane} {g : Fld} {i : Nat} : fldAt (setLane j f s) g i = fldAt s g i := rfl
@[simp] theorem setLane_sticky {j : Nat} {f : Lane → Lane} {n : Nat} : stickyBit (setLane j f s) n = stickyBit s n := rfl
@[simp] theorem setPort_fldAt {j : Nat} {f : Port → Port} {g : Fld} {i : Nat} : fldAt (setPort j f s) g i = fldAt s g i := rfl
@[simp] theorem setPort_sticky {j : Nat} {f : Port → Port} {n : Nat} : stickyBit (setPort j f s) n = stickyBit s n := rfl
@[simp] theorem emit_fldAt {e : Emit} {g : Fld} {i : Nat} : fldAt (emit e s) g i = fldAt s g i := rfl
@[simp] theorem emit_sticky {e : Emit} {n : Nat} : stickyBit (emit e s) n = stickyBit s n := rfl

theorem setFldAt_sticky {f : Fld} {i v n : Nat} (h : f.addr i < 0x10100 ∨ 0x10120 ≤ f.addr i) (hn : n < 256) :
    stickyBit (setFldAt f i v s) n = stickyBit s n := by
  unfold stickyBit
  rw [fldAt_setFldAt_ne]
  simp only [Fld.addr, F.EVT_STAT_sticky] at h ⊢
  omega

end Sys2Proof.Machine
end

