-- ==== Sys2Proof/WellFormed.lean ====
section
/-! DEFINITION. Which commands name something the device has: the operands of each row inside the ranges that its rule gives
them (lanes 0 to 15, ports 0 to 7, flows 0 to 15, slots 0 to 63, sources 0 to 255, and so on). The meanings of Machine/ hold
for every command: one that names nothing leaves the device as it is. -/

namespace Sys2Proof

/-- Every operand lies in the range that the command's rule gives it. -/
def Instr.wf (i : Instr) : Bool :=
  match i with
  | .powerOnReset _ => true
  | .resetNAssert => true
  | .resetNRise => true
  | .strapSample _ bootSel => decide (bootSel < 4)
  | .romBoot => true
  | .firmwareStart => true
  | .settingsRetry => true
  | .recordRewrite => true
  | .hspiCmdWrite _ => true
  | .rplRead _ => true
  | .hspiStatus => true
  | .hspiUnknownInstruction _ => true
  | .ringCommand => true
  | .nop _ => true
  | .ident _ => true
  | .reset _ => true
  | .resetCmdExpire => true
  | .ping _ => true
  | .read _ => true
  | .write _ => true
  | .modify _ => true
  | .blockRead _ => true
  | .blockWrite _ => true
  | .replyReceive => true
  | .fanoutTimeout tag => decide (tag < 65536)
  | .stage _ => true
  | .commitAt _ => true
  | .discard _ => true
  | .stageQuery _ => true
  | .flaconBind _ => true
  | .flaconRelease _ => true
  | .fenceQuery _ => true
  | .fenceClear n => decide (n < 256)
  | .accordLoad _ => true
  | .accordQuery _ => true
  | .tableLoad _ => true
  | .tableDataEmit => true
  | .tableDataReceive => true
  | .tableQuery _ => true
  | .epochReserve _ => true
  | .reserveBroadcast => true
  | .timeQuery _ => true
  | .diagRead _ => true
  | .diagClear _ => true
  | .redStatus _ => true
  | .redSwap _ => true
  | .redSnapshot _ => true
  | .updBegin _ => true
  | .updEraseDone => true
  | .updBlock _ => true
  | .firmwareDataEmit => true
  | .firmwareDataReceive => true
  | .flashProgramDone => true
  | .holdupWaitEnd => true
  | .updSeal _ => true
  | .updSchedule _ => true
  | .updActivation => true
  | .updConfirm _ => true
  | .svnRaise => true
  | .confirmDeadline => true
  | .updAbort _ => true
  | .updRecover _ => true
  | .otpLockProgram _ key => decide (key < 65536)
  | .pwrState _ => true
  | .pwrQuery _ => true
  | .evtRead _ => true
  | .evtClear _ => true
  | .evtConfig _ => true
  | .registerWrite _ addr _ _ => decide (addr % 4 = 0) && decide (addr < 0x100000000)
  | .rcRead _ addr => decide (addr % 4 = 0) && decide (addr < 0x100000000)
  | .glbBoardCommit _ board => decide (board < 2 ^ 24)
  | .storeDebugRead _ addr => decide (addr % 4 = 0) && (decide (0x10000000 ≤ addr) && decide (addr < 0x11800000) || decide (0x80000000 ≤ addr) && decide (addr < 0x100000000))
  | .topoTileWrite _ address => decide (address < 256)
  | .topoEnumStart _ ports _ => decide (ports < 128)
  | .enumTieReceive => true
  | .enumCwTile => true
  | .enumCcwTile => true
  | .enumLenTile => true
  | .enumCountSender => true
  | .enumLenSender => true
  | .enumCountTimeout port => decide (port < 7)
  | .enumDoneTimeout port => decide (port < 7)
  | .portEnableWrite _ port _ => decide (port < 8)
  | .portWidthWrite _ port width => decide (port < 8) && decide (width < 4)
  | .laneCntClear _ lane => decide (lane < 16)
  | .laneRetrain _ lane => decide (lane < 16)
  | .eidleRequest _ lane => decide (lane < 16)
  | .eidleWithdraw _ lane => decide (lane < 16)
  | .signalDetect lane => decide (lane < 16)
  | .cdrLock lane => decide (lane < 16)
  | .trainingFrameReceive lane control => decide (lane < 16) && decide (control < 2 ^ 16)
  | .equaliseReady lane => decide (lane < 16)
  | .trainingTimeout lane => decide (lane < 16)
  | .trainingRetry lane => decide (lane < 16)
  | .markerBlockReceive lane symbols => decide (lane < 16) && symbols.all (fun x => decide (x < 2 ^ 10))
  | .deskewComplete port _ => decide (port < 8)
  | .deskewDriftFail port => decide (port < 8)
  | .negotiateComplete port => decide (port < 8)
  | .widthRecheck => true
  | .negotiateMarkerTimeout lane => decide (lane < 16)
  | .laneSignalLoss lane => decide (lane < 16)
  | .resyncStart port => decide (port < 8)
  | .egressPhaseMove port => decide (port < 8)
  | .resyncTimeout lane => decide (lane < 16)
  | .eidleTimeout lane => decide (lane < 16)
  | .wakeBurstDetect lane => decide (lane < 16)
  | .wakeBurstEnd lane => decide (lane < 16)
  | .wakeComplete lane => decide (lane < 16)
  | .wakeTimeout lane => decide (lane < 16)
  | .dataBlockDecode lane symbols => decide (lane < 16) && symbols.all (fun x => decide (x < 2 ^ 10))
  | .corrIntervalEnd => true
  | .senderSlotFill port => decide (port < 8)
  | .tileSlotInsert port _ => decide (port < 8)
  | .voidFlitReceive port => decide (port < 8)
  | .packetEnd port => decide (port < 8)
  | .pktCntClear _ => true
  | .lineDeadline _ => true
  | .heartPacketDue port => decide (port < 8)
  | .wallFrameBoundary => true
  | .latchPoint => true
  | .calSliceTimer => true
  | .calSliceEnd item => decide (item < 4)
  | .calStart _ items => decide (items < 16)
  | .ethModeWrite _ mode => decide (mode < 16)
  | .ethCntClear _ => true
  | .ethLinkUp port => decide (port < 8)
  | .ethLinkDown link => decide (link.port < 8)
  | .ethFrameReceive port _ => decide (port < 8)
  | .reassemblyTimeout _ => true
  | .igmpReportTimer => true
  | .flowPathTimeout flow _ => decide (flow < 16)
  | .flowFrameClose flow => decide (flow < 16)
  | .flowFrameStart flow => decide (flow < 16)
  | .flowEntryWrite _ flow word _ => decide (flow < 16) && decide (word < 9)
  | .flowCntClear _ flow => decide (flow < 16)
  | .ingestShedTick => true
  | .ingestRestoreTick => true
  | .dramEnable _ _ => true
  | .dramTrainDone failed => decide (failed < 16)
  | .dramDisable _ => true
  | .dramMr4Poll _ => true
  | .dramZqCal => true
  | .dramOscTrack _ => true
  | .dramRequest client wr offset data => decide (client.port < 12) && decide (offset < 2 ^ 36) && (!wr || data.length == 64)
  | .dramCommandSlot channel => decide (channel < 4)
  | .dramUnderrun port => decide (port < 12)
  | .dramRatSweepEnd channel bank => decide (channel < 4) && decide (bank < 32)
  | .dramRatWindow => true
  | .dramSrEntry => true
  | .dramSrExit => true
  | .tfRegen _ bank => decide (bank < 2)
  | .tfRefillDone => true
  | .pipeCntClear _ => true
  | .tcompTempWrite _ temp => decide (temp < 2 ^ 16)
  | .tcompStale => true
  | .llEnable _ _ => true
  | .llRestart _ => true
  | .llCntClear _ => true
  | .llBringupStep => true
  | .llDiagGo _ _ => true
  | .diagSend group => decide (group < 16)
  | .llRetReply group _ => decide (group < 16)
  | .llRetTimeout group => decide (group < 16)
  | .llStatusPoll => true
  | .rowAdvAction => true
  | .grayEmit _ view => decide (view < 4)
  | .gainEmit => true
  | .blotterAction _ => true
  | .ldEnable _ _ => true
  | .ldResume _ => true
  | .ldCntClear _ => true
  | .ldCfgResend _ _ _ => true
  | .headroomCycleEnd => true
  | .faultSweepStart => true
  | .faultSweepEnd => true
  | .ceSlotEnable _ slot => decide (slot < 64)
  | .ceSlotDisable _ slot => decide (slot < 64)
  | .ceStateWrite _ slot word _ => decide (slot < 64) && decide (16 ≤ word) && decide (word ≤ 19)
  | .ceCntClear _ => true
  | .cePeriodicTrigger slot => decide (slot < 64)
  | .ceStepWrite _ slot value => decide (slot < 64) && decide (0 < value) && decide (value < 2 ^ 16)
  | .ceEvaluation => true
  | .ceStepEvaluation => true
  | .pwmPeriodStart phase => decide (phase < 4)
  | .pwmStaleTimeout => true
  | .adcConversion synced holdup turn => decide (synced < 2 ^ 12) && decide (holdup < 2 ^ 12) && decide (turn < 2 ^ 12)
  | .timeIncrWrite _ _ => true
  | .timeShadowRead _ => true
  | .timeStep _ => true
  | .timeLoad _ => true
  | .timeAdjustGo _ count => decide (count < 2 ^ 31)
  | .timeAdjustEnd => true
  | .timeSample _ _ => true
  | .timeSampleTimeout => true
  | .timeSyncSend => true
  | .timeSyncForward => true
  | .timeSyncReceive => true
  | .timeSyncFarEnd => true
  | .delayReqSend port => decide (port < 8)
  | .delayReqReceive => true
  | .delayRespReceive => true
  | .evtOutArm _ n _ => decide (n < 8)
  | .evtOutPulse n => decide (n < 8)
  | .evtOutPulseEnd n => decide (n < 8)
  | .evtInEdge n _ => decide (n < 8)
  | .evtInPop _ n => decide (n < 8)
  | .aonSleepCapture => true
  | .aonSourceSwitch _ _ => true
  | .timeWakeRestore _ => true
  | .wtFrameRead _ => true
  | .epochAnnounceSend => true
  | .epochAnnounceReceive => true
  | .wtPendArm _ _ => true
  | .wtPendBroadcast => true
  | .noMasterTimeout => true
  | .wtmOffsetPoll _ _ => true
  | .holdoverExpire => true
  | .redEnable _ _ => true
  | .redListenEnd => true
  | .heartbeatSend => true
  | .heartbeatReceive => true
  | .claimResend => true
  | .claimReceive => true
  | .tileRedundancyRecord => true
  | .tileRecordExpire port => decide (port < 8)
  | .pathSilent path => decide (path < 8)
  | .journalReceive => true
  | .latchEntryTimeout => true
  | .relayEntryEmit => true
  | .snapshotCapture => true
  | .snapshotPeriod => true
  | .snapshotSend => true
  | .snapshotChunkReceive => true
  | .swapTimer => true
  | .swapArmRetry => true
  | .sourceRaise sources => sources.all (fun n => decide (n < 256))
  | .evtAck _ => true
  | .reactionAutoEnd => true
  | .reactionRestart => true
  | .evtStatClear _ group _ => decide (group < 8)
  | .evtTestGo _ source => decide (source < 256)
  | .sensorReport sensor report => decide (sensor < 12) && decide (report < 2 ^ 16)
  | .tripComparator => true
  | .pdEnableWrite _ domain _ => decide (domain < 33)
  | .domainReady _ => true
  | .domainReadyTimeout => true
  | .domainDemand _ domain => decide (domain < 33)
  | .domainIdleGate domain => decide (domain < 33)
  | .pwrTargetWrite _ target => decide (target < 16)
  | .autoStateIdle => true
  | .entryTimerExpire => true
  | .sleepAttempt => true
  | .quiesceDone => true
  | .quiesceTimeout => true
  | .domainStop => true
  | .wakeNAssert => true
  | .aonAlarmExpire => true
  | .hspiCsWake => true
  | .hkWdogKick _ => true
  | .hkWdogExpire => true
  | .updRecoverReset => true
  | .otpLockDone => true

end Sys2Proof
end

