-- ==== Sys2Proof/Tests/Slice0.lean ====
section
/-! SUPPORT. Tests: ill-formed commands that the check refuses, one step of some commands on small states, and for the statements
with hypotheses a concrete state and operands that meet them. -/

namespace Sys2Proof.Tests

open Sys2Proof.Machine

/-! ### Ill-formed commands, one for each kind of check -/

theorem test_wf_strap : (Instr.strapSample true 4).wf = false := by decide
theorem test_wf_tag : (Instr.fanoutTimeout 65536).wf = false := by decide
theorem test_wf_fence : (Instr.fenceClear 256).wf = false := by decide
theorem test_wf_key : (Instr.otpLockProgram .hspi 65536).wf = false := by decide
theorem test_wf_write_align : (Instr.registerWrite .hspi 2 0 0).wf = false := by decide
theorem test_wf_write_range : (Instr.registerWrite .hspi 0x100000000 0 0).wf = false := by decide
theorem test_wf_rc_align : (Instr.rcRead .hspi 1).wf = false := by decide
theorem test_wf_rc_range : (Instr.rcRead .hspi 0x100000000).wf = false := by decide
theorem test_wf_board : (Instr.glbBoardCommit .hspi (2 ^ 24)).wf = false := by decide
theorem test_wf_store_align : (Instr.storeDebugRead .hspi 0x10000002).wf = false := by decide
theorem test_wf_store_low : (Instr.storeDebugRead .hspi 0).wf = false := by decide
theorem test_wf_store_high : (Instr.storeDebugRead .hspi 0x11800000).wf = false := by decide
theorem test_wf_window_low : (Instr.storeDebugRead .hspi 0x7FFFFFFC).wf = false := by decide
theorem test_wf_window_high : (Instr.storeDebugRead .hspi 0x100000000).wf = false := by decide
theorem test_wf_tile : (Instr.topoTileWrite .hspi 256).wf = false := by decide
theorem test_wf_enum : (Instr.topoEnumStart .hspi 128 false).wf = false := by decide
theorem test_wf_ring_port : (Instr.enumCountTimeout 7).wf = false := by decide
theorem test_wf_port : (Instr.portEnableWrite .hspi 8 true).wf = false := by decide
theorem test_wf_width : (Instr.portWidthWrite .hspi 0 4).wf = false := by decide
theorem test_wf_lane : (Instr.laneRetrain .hspi 16).wf = false := by decide
theorem test_wf_control : (Instr.trainingFrameReceive 0 (2 ^ 16)).wf = false := by decide
theorem test_wf_symbol : (Instr.markerBlockReceive 0 [1024]).wf = false := by decide
theorem test_wf_item : (Instr.calSliceEnd 4).wf = false := by decide
theorem test_wf_items : (Instr.calStart .hspi 16).wf = false := by decide
theorem test_wf_mode : (Instr.ethModeWrite .hspi 16).wf = false := by decide
theorem test_wf_flow : (Instr.flowFrameStart 16).wf = false := by decide
theorem test_wf_flow_word : (Instr.flowEntryWrite .hspi 0 9 0).wf = false := by decide
theorem test_wf_train : (Instr.dramTrainDone 16).wf = false := by decide
theorem test_wf_dram_port : (Instr.dramRequest ⟨12, 0⟩ false 0 []).wf = false := by decide
theorem test_wf_dram_offset : (Instr.dramRequest ⟨0, 0⟩ false (2 ^ 36) []).wf = false := by decide
theorem test_wf_dram_data : (Instr.dramRequest ⟨0, 0⟩ true 0 []).wf = false := by decide
theorem test_wf_channel : (Instr.dramCommandSlot 4).wf = false := by decide
theorem test_wf_bank : (Instr.dramRatSweepEnd 0 32).wf = false := by decide
theorem test_wf_tf_bank : (Instr.tfRegen .hspi 2).wf = false := by decide
theorem test_wf_temp : (Instr.tcompTempWrite .hspi 65536).wf = false := by decide
theorem test_wf_group : (Instr.diagSend 16).wf = false := by decide
theorem test_wf_view : (Instr.grayEmit 0 4).wf = false := by decide
theorem test_wf_slot : (Instr.ceSlotEnable .hspi 64).wf = false := by decide
theorem test_wf_state_low : (Instr.ceStateWrite .hspi 0 15 0).wf = false := by decide
theorem test_wf_state_high : (Instr.ceStateWrite .hspi 0 20 0).wf = false := by decide
theorem test_wf_step_zero : (Instr.ceStepWrite .hspi 0 0).wf = false := by decide
theorem test_wf_step_range : (Instr.ceStepWrite .hspi 0 65536).wf = false := by decide
theorem test_wf_phase : (Instr.pwmPeriodStart 4).wf = false := by decide
theorem test_wf_adc_synced : (Instr.adcConversion 4096 0 0).wf = false := by decide
theorem test_wf_adc_holdup : (Instr.adcConversion 0 4096 0).wf = false := by decide
theorem test_wf_adc_turn : (Instr.adcConversion 0 0 4096).wf = false := by decide
theorem test_wf_count : (Instr.timeAdjustGo .hspi (2 ^ 31)).wf = false := by decide
theorem test_wf_pin : (Instr.evtOutArm .hspi 8 0).wf = false := by decide
theorem test_wf_path : (Instr.pathSilent 8).wf = false := by decide
theorem test_wf_source : (Instr.sourceRaise [256]).wf = false := by decide
theorem test_wf_event_group : (Instr.evtStatClear .hspi 8 0).wf = false := by decide
theorem test_wf_sensor : (Instr.sensorReport 12 0).wf = false := by decide
theorem test_wf_report : (Instr.sensorReport 0 65536).wf = false := by decide
theorem test_wf_domain : (Instr.pdEnableWrite .hspi 33 true).wf = false := by decide
theorem test_wf_target : (Instr.pwrTargetWrite .hspi 16).wf = false := by decide

/-! ### Small states -/

/-- A tile after reset with domain `d` serving. -/
def tileOn (d : Nat) : State := setFldAt F.PD_CTRL_state d 1 { State.reset with board := { State.reset.board with role := .tile } }

/-- A sender after reset with domain `d` serving. -/
def senderOn (d : Nat) : State := setFldAt F.PD_CTRL_state d 1 { State.reset with board := { State.reset.board with role := .sender } }

/-- `s` with a reaction of class `c` running. -/
def running (c : Nat) (s : State) : State := setFldAt F.EVT_CAUSE_class 0 c (setFldAt F.EVT_CAUSE_running 0 1 s)

theorem test_reset_canonical : State.reset.canonical := ⟨by decide, by decide, by decide, by decide, by decide, rfl, rfl⟩

theorem test_tile_canonical {d : Nat} : (tileOn d).canonical := setFldAt_canonical test_reset_canonical

theorem test_sender_canonical {d : Nat} : (senderOn d).canonical := setFldAt_canonical test_reset_canonical

theorem test_running_canonical {c : Nat} {s : State} (h : s.canonical) : (running c s).canonical := setFldAt_canonical (setFldAt_canonical h)

/-! ### States and operands that meet the hypotheses of the statements -/

theorem test_witness_front : ({ State.reset with pending := [.nop .hspi] } : State).pending = .nop .hspi :: [] := rfl

/-- An adjustment of five cycles running. -/
def adjusting : State := setFlag F.TIME_STAT_adj_busy true (setTime (fun t => { t with adjCount := 5 }) (tileOn 3))

theorem test_adjusting_canonical : adjusting.canonical :=
  setFldAt_canonical (s := setTime _ (tileOn 3)) (test_tile_canonical (d := 3))

/-- Between E0 and E1 of a sleep. -/
def asleep : State := setTime (fun t => { t with sleep := some { captured := 0, segs := [(false, 0)] } }) (tileOn 0)

theorem test_witness_idle : (tileOn 3).pending = [] ∧ (tileOn 3).time.sleep = none ∧ flag (tileOn 3) F.TIME_STAT_adj_busy = false := by decide

theorem test_witness_idle_adjust : adjusting.pending = [] ∧ adjusting.canonical ∧ adjusting.time.sleep = none ∧
    flag adjusting F.TIME_STAT_adj_busy = true ∧ 0 < adjusting.time.adjCount :=
  ⟨rfl, test_adjusting_canonical, rfl, by decide, by decide⟩

theorem test_witness_idle_asleep : asleep.pending = [] ∧ asleep.time.sleep ≠ none := by decide

theorem test_witness_step : (tileOn 3).canonical ∧ ∃ t, step (tileOn 3) = .next t := ⟨test_tile_canonical, _, rfl⟩

theorem test_witness_role : (∀ b, (tileOn 3).pending.head? ≠ some (.powerOnReset b)) ∧ ∀ a b, (tileOn 3).pending.head? ≠ some (.strapSample a b) :=
  ⟨fun _ => Option.some_ne_none _ |>.symm, fun _ _ => Option.some_ne_none _ |>.symm⟩

theorem test_witness_start : reacting (tileOn 0) = false ∧ srcExists 1 = true ∧ eligible (tileOn 0) 1 = true ∧
    srcExcluded (tileOn 0) 1 = false ∧ srcClass (tileOn 0) 5 < srcClass (tileOn 0) 1 := by decide +kernel

/-- A state in which a reaction has just ended and source 1 is pending. -/
def ended : State := setEvt (fun e => { e with ended := true }) (setGroupBit F.EVT_PEND_pending 1 true (tileOn 0))

theorem test_witness_restart : ended.evt.ended = true ∧ reacting ended = false ∧ pendBit ended 1 = true ∧ eligible ended 1 = true ∧
    ∀ m < 256, pendBit ended m = true → eligible ended m = true →
      srcClass ended m < srcClass ended 1 ∨ (srcClass ended m = srcClass ended 1 ∧ 1 ≤ m) := by decide +kernel

theorem test_witness_no_restart : (setEvt (fun e => { e with ended := true }) (tileOn 0)).evt.ended = true ∧
    reacting (setEvt (fun e => { e with ended := true }) (tileOn 0)) = false ∧
    ∀ n < 256, pendBit (setEvt (fun e => { e with ended := true }) (tileOn 0)) n = true →
      eligible (setEvt (fun e => { e with ended := true }) (tileOn 0)) n = false := by decide +kernel

theorem test_witness_merge : srcExists 5 = true ∧ srcExcluded (running 2 (tileOn 0)) 5 = false ∧ eligible (running 2 (tileOn 0)) 5 = true ∧ reacting (running 2 (tileOn 0)) = true ∧
    srcClass (running 2 (tileOn 0)) 5 ≤ fld (running 2 (tileOn 0)) F.EVT_CAUSE_class ∧
    bitOf (reactBits (running 2 (tileOn 0)) (fld (running 2 (tileOn 0)) F.EVT_CAUSE_class)) 3 = false := by decide +kernel

theorem test_witness_escalate : srcExists 34 = true ∧ srcExcluded (running 2 (tileOn 0)) 34 = false ∧ eligible (running 2 (tileOn 0)) 34 = true ∧ reacting (running 2 (tileOn 0)) = true ∧
    fld (running 2 (tileOn 0)) F.EVT_CAUSE_class < srcClass (running 2 (tileOn 0)) 34 ∧
    bitOf (reactBits (running 2 (tileOn 0)) (srcClass (running 2 (tileOn 0)) 34)) 3 = false := by decide +kernel

theorem test_witness_ack : reacting (running 2 (tileOn 5)) = true ∧ isTile (running 2 (tileOn 5)) = true ∧
    domainOn (running 2 (tileOn 5)) 5 = true ∧ accessBehind (running 2 (tileOn 5)) .hspi (F.EVT_CTRL_ack.addr 0) = false := by
  decide +kernel

theorem test_witness_test_go : srcExists 255 = false ∧ srcExists 0 = true ∧ srcExcluded (tileOn 0) Src.ETH_LINK_UP = true ∧
    accessBehind (tileOn 0) .hspi (F.EVT_TEST_go.addr 0) = false ∧ accessBehind (tileOn 0) .hspi (F.EVT_STAT_sticky.addr 7) = false := by
  decide +kernel

/-- With no access waiting and no stage applied, no access waits for its turn: every statement's premise of that name. -/
theorem test_witness_turn {m : Master} {a : Nat} : accessBehind (tileOn 3) m a = false := rfl

theorem test_witness_clears : (isTile (tileOn 11) = true ∧ domainOn (tileOn 11) 11 = true) ∧
    (isSender (senderOn 11) = true ∧ domainOn (senderOn 11) 11 = true) ∧ domainOn (tileOn 10) 10 = true ∧
    (isTile (tileOn 16) = true ∧ domainOn (tileOn 16) 16 = true) ∧ (isTile (tileOn 5) = true ∧ domainOn (tileOn 5) 5 = true) ∧
    domainOn (tileOn 4) 4 = true := by decide +kernel

theorem test_witness_register_write : ∃ d, findReg 0x40010 = some (d, 0) ∧ d.plain = true ∧ roleAbsent (tileOn 3) d 0 = false ∧
    domainOn (tileOn 3) (regDomain 0x40010) = true ∧ absentBits (tileOn 3) d 0 = 0 ∧ arrayReserved d 0 = 0 :=
  ⟨_, rfl, by decide, by decide, by decide, by decide, by decide⟩

theorem test_witness_off : domainOn (tileOn 3) (regDomain 0x80000) = false ∧ domainUsable (tileOn 3) (regDomain 0x80000) = false := by decide

theorem test_witness_role_absent : ∃ d, findReg F.RED_STAT_state.base = some (d, 0) ∧
    domainOn (tileOn 1) (regDomain F.RED_STAT_state.base) = true ∧ roleAbsent (tileOn 1) d 0 = true := ⟨_, rfl, by decide, by decide⟩

theorem test_witness_unassigned : findReg 0x4000C = none ∧ (spanOf 0x4000C).isSome = true ∧
    domainOn (tileOn 3) (regDomain 0x4000C) = true ∧ (tfPlace 0x4000C).isSome = false := by decide

theorem test_witness_rc_read : ∃ d, findReg (F.EVT_OUT_COUNT_skipped.addr 7) = some (d, 7) ∧ roleAbsent (tileOn 3) d 7 = false ∧
    domainOn (tileOn 3) (regDomain (F.EVT_OUT_COUNT_skipped.addr 7)) = true ∧ d.base ≠ F.EVT_IN_FRAC_valid.base :=
  ⟨_, rfl, by decide, by decide, by decide⟩

/-- PD_11 gated, and an access of the HSPI that waits for it. -/
def gatedCoush : State := setPwr (fun p => { p with
  gated := [11], waits := [{ kind := .read, master := .hspi, addr := 0x80000 }] }) (setFlagAt F.PD_CTRL_enable 11 true (tileOn 3))

theorem test_witness_waits : pdCtrlWord 0x40010 = false ∧ (spanOf 0x40010).isSome = true ∧
    (∃ w ∈ gatedCoush.pwr.waits, w.master = .hspi ∧ w.stage = none) :=
  ⟨by decide, by decide, _, List.mem_singleton.2 rfl, rfl, rfl⟩

theorem test_witness_demand : accessBehind gatedCoush .hk0 0x80000 = false ∧ domainOn gatedCoush (regDomain 0x80000) = false ∧
    domainUsable gatedCoush (regDomain 0x80000) = true ∧ flag gatedCoush F.THERM_TRIP_LOG_tripped = false ∧
    regDomain 0x80000 ∈ gatedCoush.pwr.gated ∧ gatedCoush.pwr.restarts = [] := by decide +kernel

theorem test_witness_reads : domainOn (tileOn 3) 3 = true ∧ (tileOn 3).time.shadows.length = 5 ∧ (tileOn 3).time.ins.length = 8 := by decide

theorem test_witness_store_read : 0x10000000 % 4 = 0 ∧ inStore 0x10000000 = true ∧
    domainOn (tileOn 14) (placeDomain 0x10000000) = true ∧ inPool (tileOn 14) 0x10000000 = false ∧
    inIngest (tileOn 14) 0x10000000 = false ∧ inRedBuf (tileOn 14) 0 0 = false := by decide

theorem test_witness_adjust : domainOn adjusting 3 = true ∧ flag adjusting F.TIME_STAT_adj_busy = true ∧ adjusting.time.sleep = none ∧
    adjusting.time.tailIncr = none := by decide

theorem test_witness_frames : (tileOn 3).pwr.waits = [] ∧ (∀ x ∈ (tileOn 3).cmd.stages, x.applying = false) ∧
    pwrPhase (setFld F.PWR_STAT_phase 1 (tileOn 3)) = 1 := by decide

theorem test_witness_sample_step : flag (tileOn 3) F.TIME_SERVO_CFG_auto_step = true ∧ 16000 < (sgn 32 0x7FFFFFFF).natAbs := by decide

theorem test_witness_sample_locked : flag (setFlag F.TIME_STAT_locked true (tileOn 3)) F.TIME_STAT_locked = true ∧
    flag (tileOn 3) F.TIME_STAT_locked = false := by decide

/-- A unit of one RGB pixel of depth 10. -/
def onePixel : List Plane := [[[5]], [[1023]], [[0]]]

theorem test_witness_unit : pixLegal 4 = true ∧ List.Forall₂ (fun p x => p.length = 1 ∧ ∀ row ∈ p, row.length = x ∧ ∀ v ∈ row, v < 2 ^ pixDepth 4)
    onePixel ((List.range (pixComps 4)).map (planeWidth 4 1)) ∧
    ((List.range (pixDepth 4 + 1)).find? (fun q => decide ((wcsBits (pixDepth 4) q onePixel).length ≤ 8 * 10))).isSome = true := by
  refine ⟨rfl, ?_, by decide +kernel⟩
  exact .cons (by decide) (.cons (by decide) (.cons (by decide) .nil))

/-- A unit so wide that no quantiser makes it fit ten bytes: it is flat. -/
theorem test_witness_flat : ((List.range (pixDepth 4 + 1)).find? (fun q =>
    decide ((wcsBits (pixDepth 4) q (List.replicate 3 [List.replicate 80 7])).length ≤ 8 * 10))).isSome = false := by decide +kernel

theorem test_witness_blocks : (List.replicate 128 (1023 : Nat)).length = 128 ∧ (∀ y ∈ List.replicate 128 (1023 : Nat), y < 1024) ∧
    (List.replicate 5 (List.replicate 32 (0xA5 : Byte))).length = 5 ∧ ∀ x ∈ List.replicate 5 (List.replicate 32 (0xA5 : Byte)), x.length = 32 := by
  decide +kernel

/-- The first piece of a heart-note packet of one payload flit, and a top-note packet. -/
def heartPiece : TxProgress :=
  { hdr := mkHeader 1 1 true 0 1 0 5 0 0 0 [], flits := [], now := [List.replicate 32 7], sent := 2, pad := 0, owner := 0, latest := 0 }
@[inherit_doc heartPiece] def topPacket : TxPkt := { hdr := mkHeader 0 0x18 true 0 1 10 0xFF 0 0 0 [], payload := [1] }

theorem test_witness_piece : heartPiece.hdr.length = 28 ∧ hClass heartPiece.hdr = 1 ∧ (∀ f ∈ heartPiece.now, f.length = 32) ∧
    heartPiece.now.length ≤ lengthLimit 1 ∧ topPacket.hdr.length = 28 ∧ hClass topPacket.hdr = 0 ∧ hLength topPacket.hdr = 1 := by decide

/-- The flits of that piece as a tile receives them: in good blocks, with the block of the payload uncorrectable, with a wrong check,
stomped, and as a packet over its limit. -/
def arrived (bad : Bool) (bytes : List Byte) : List Flit :=
  (List.zip (List.range 8) (chunks 32 bytes)).map (fun x => { bytes := x.2, bad := bad && x.1 == 1 })

theorem test_witness_outcomes : (∀ f ∈ arrived true (pieceBytes heartPiece 0), f.bytes.length = 32) ∧
    (arrived true (pieceBytes heartPiece 0)).length = packetFlits (((arrived true (pieceBytes heartPiece 0)).map Flit.bytes).headD []) ∧
    judge (arrived false (pieceBytes heartPiece 0)) = .confirmed ∧ judge (arrived true (pieceBytes heartPiece 0)) = .failBlock ∧
    judge (arrived false (putBytes (pieceBytes heartPiece 0) 64 [0, 0, 0, 0])) = .failLocal := by decide +kernel

end Sys2Proof.Tests
end

section
/-! PROOF. Accesses that wait for their turn or for their domain (R4, R393, R398). -/

namespace Sys2Proof.Machine

variable {s : State} {w : WaitingAccess} {m : Master} {a d : Nat} {l : List Nat}

/-! ### The queue of waiting accesses -/

/-- Access `w` joins the end of the queue of waiting accesses. -/
def joinQueue (w : WaitingAccess) (s : State) : State := setPwr (fun p => { p with waits := p.waits ++ [w] }) s

theorem accessBehind_of_master_waits (h : ∃ w ∈ s.pwr.waits, w.master = m ∧ w.stage = none) : accessBehind s m a = true := by
  obtain ⟨w, hw, hm, hs⟩ := h
  have : s.pwr.waits.any (fun w => w.master == m && w.stage.isNone) = true :=
    List.any_eq_true.2 ⟨w, hw, by simp [hm, hs]⟩
  simp [accessBehind, this]

/-- An access behind another one joins the queue (R4). -/
theorem access_behind (hs : w.stage = none) (hb : accessBehind s w.master w.addr = true) : access w s = joinQueue w s := by
  simp [access, behind, hs, hb, joinQueue]

theorem serve_waits (hon : domainOn s d = false) (hu : domainUsable s d = true) (ht : flag s F.THERM_TRIP_LOG_tripped = false)
    (hd : d ∈ s.pwr.restarts ∨ d ∈ s.pwr.gated) : serve s d = .waits := by
  simp [serve, tripped, hon, hu, ht, hd]

/-- An access to a register of a domain that is gated or restarting joins the queue and is a demand (R393, R398). -/
theorem access_waits (hm : w.addr < 0x10000000) (hs : w.stage = none) (hb : accessBehind s w.master w.addr = false)
    (hv : serve s (regDomain w.addr) = .waits) : access w s = demand (regDomain w.addr) (joinQueue w s) := by
  obtain ⟨hplace, -, hdram⟩ := place_low hm
  simp [access, behind, accessServe, hs, hb, hplace, hdram, hv, joinQueue]

theorem masterWrite_waits {mask v : Word} (hm : a < 0x10000000) (hb : accessBehind s m a = false)
    (hv : serve s (regDomain a) = .waits) : masterWrite m a mask v s =
      demand (regDomain a) (joinQueue { kind := .write, master := m, addr := a, mask := mask, value := v } s) :=
  access_waits (w := { kind := .write, master := m, addr := a, mask := mask, value := v }) hm rfl hb hv

theorem masterRead_waits (hm : a < 0x10000000) (hb : accessBehind s m a = false) (hv : serve s (regDomain a) = .waits) :
    masterRead m a s = demand (regDomain a) (joinQueue { kind := .read, master := m, addr := a } s) :=
  access_waits (w := { kind := .read, master := m, addr := a }) hm rfl hb hv

/-! ### Domains queued for restart -/

theorem startHead_pwr : (startHead s).pwr.waits = s.pwr.waits ∧ (startHead s).pwr.gated = s.pwr.gated ∧
    (startHead s).pwr.restarts = s.pwr.restarts := by
  unfold startHead
  split <;> exact ⟨rfl, rfl, rfl⟩

/-- Domains queued for restart come behind those that restart already, each once; no wait ends and no gated domain goes. -/
theorem queueRestarts_pwr : (queueRestarts l s).pwr.waits = s.pwr.waits ∧ (queueRestarts l s).pwr.gated = s.pwr.gated ∧
    (queueRestarts l s).pwr.restarts = s.pwr.restarts ++ l.filter (fun d => !s.pwr.restarts.contains d) := by
  unfold queueRestarts
  dsimp only
  split
  · exact startHead_pwr
  · exact ⟨rfl, rfl, rfl⟩

theorem mem_queueRestarts (h : d ∈ l) : d ∈ (queueRestarts l s).pwr.restarts := by
  rw [queueRestarts_pwr.2.2, List.mem_append]
  by_cases hd : d ∈ s.pwr.restarts
  · exact .inl hd
  · exact .inr (List.mem_filter.2 ⟨h, by simpa using hd⟩)

/-- Where no domain restarts, the first one queued starts to change. -/
theorem queueRestarts_head_changes (hs : Memory.wf resetWord s.regs) (hr : s.pwr.restarts = []) (hd : d < 33) :
    fldAt (queueRestarts (d :: l) s) F.PD_CTRL_state d = 3 := by
  have hq : queueRestarts (d :: l) s = setPdState d 3 (setPwr (fun p => { p with
      restarts := d :: l, again := false, startedAt := s.time.mono }) s) := by
    simp [queueRestarts, hr, startHead, setPwr]
  rw [hq]
  exact fldAt_setFldAt_same hs (by decide) hd

/-! ### A demand -/

/-- The gated domains that a demand for the gated domain `d` restarts, in their order: PD_13 comes before PD_12. -/
def demandSet (s : State) (d : Nat) : List Nat :=
  if d == 12 || d == 13 then [13, 12].filter (s.pwr.gated.contains ·) else [d]

theorem mem_demandSet (h : d ∈ s.pwr.gated) : d ∈ demandSet s d := by
  unfold demandSet
  split
  · rename_i hd
    simp only [Bool.or_eq_true, beq_iff_eq] at hd
    rcases hd with rfl | rfl <;> simp [h]
  · exact List.mem_singleton_self d

theorem demandSet_head (h : d ∈ s.pwr.gated) (hd : d ≠ 12) : ∃ l, demandSet s d = d :: l := by
  unfold demandSet
  by_cases h13 : d = 13
  · subst h13
    exact ⟨[12].filter (s.pwr.gated.contains ·), by simp [h]⟩
  · exact ⟨[], by simp [hd, h13]⟩

/-- A demand for a gated domain takes its demand set off the gated domains, at base idle length, and queues it for restart. -/
theorem demand_of_gated (h : d ∈ s.pwr.gated) : demand d s = queueRestarts (demandSet s d) (setPwr (fun p => { p with
    gated := p.gated.filter (fun x => !(demandSet s d).contains x)
    lengths := (demandSet s d).foldl (fun m x => smPut (fun _ => 0) m x 0) p.lengths }) s) := by
  unfold demand
  rw [if_pos (List.contains_iff_mem.2 h)]
  rfl

theorem demand_of_not_gated (h : d ∉ s.pwr.gated) :
    demand d s = setPwr (fun p => { p with lengths := smPut (fun _ => 0) p.lengths d 0 }) s := by
  unfold demand
  rw [if_neg (by simpa using h)]

theorem demand_waits : (demand d s).pwr.waits = s.pwr.waits := by
  by_cases h : d ∈ s.pwr.gated
  · rw [demand_of_gated h]
    exact queueRestarts_pwr.1
  · rw [demand_of_not_gated h]
    rfl

theorem demand_ungates (h : d ∈ s.pwr.gated) : d ∉ (demand d s).pwr.gated := by
  rw [demand_of_gated h, queueRestarts_pwr.2.1]
  intro hg
  have hout := (List.mem_filter.1 hg).2
  simp [mem_demandSet h] at hout

theorem demand_restarts (h : d ∈ s.pwr.gated) : d ∈ (demand d s).pwr.restarts := by
  rw [demand_of_gated h]
  exact mem_queueRestarts (mem_demandSet h)

/-- Where no other domain restarts, the demanded one changes; PD_12 may restart behind PD_13. -/
theorem demand_changes_state (hs : Memory.wf resetWord s.regs) (h : d ∈ s.pwr.gated) (hr : s.pwr.restarts = []) (hd : d < 33)
    (h12 : d ≠ 12) : fldAt (demand d s) F.PD_CTRL_state d = 3 := by
  obtain ⟨l, hl⟩ := demandSet_head h h12
  rw [demand_of_gated h, hl]
  exact queueRestarts_head_changes hs hr hd

theorem demand_joinQueue_changes : Changes [.pwr] [F.PD_CTRL_enable] s (demand d (joinQueue w s)) :=
  (foot_demand (foot_setPwr (Foot.refl _ s) rfl (by decide)) (Nat.or_self _)).changes (by decide +kernel)

/-- From `s` to `t`, access `w` joins the queue and is a demand for domain `d` (R393, R398). -/
def JoinsAsDemand (w : WaitingAccess) (d : Nat) (s t : State) : Prop :=
  t.pwr.waits = s.pwr.waits ++ [w] ∧
    (d ∉ s.pwr.gated → t = setPwr (fun p => { p with lengths := smPut (fun _ => 0) p.lengths d 0 }) (joinQueue w s)) ∧
    (d ∈ s.pwr.gated → d ∉ t.pwr.gated ∧ d ∈ t.pwr.restarts ∧ Changes [.pwr] [F.PD_CTRL_enable] s t ∧
      (s.pwr.restarts = [] → 1 ≤ d → d ≤ 32 → d ≠ 12 → fldAt t F.PD_CTRL_state d = 3))

theorem demand_joinQueue (hs : Memory.wf resetWord s.regs) : JoinsAsDemand w d s (demand d (joinQueue w s)) :=
  ⟨demand_waits, fun h => demand_of_not_gated h, fun h => ⟨demand_ungates h, demand_restarts h, demand_joinQueue_changes,
    fun hr _ hd h12 => demand_changes_state hs h hr (by omega) h12⟩⟩

/-! ### The two commands that access a register -/

theorem exec_registerWrite_aligned {mask v : Word} (h4 : a % 4 = 0) (hp : pdCtrlWord a = false) :
    exec (.registerWrite m a mask v) s = .next (masterWrite m a mask v s) := by
  have : alignedWrite m a mask v s = masterWrite m a mask v s := by simp [alignedWrite, h4, hp]
  exact congrArg Host.Outcome.next this

theorem exec_rcRead_mapped (h4 : a % 4 = 0) (hspan : (spanOf a).isSome = true) :
    exec (.rcRead m a) s = .next (masterRead m a s) := by
  have : (a % 4 == 0 && (spanOf a).isSome) = true := by simp [h4, hspan]
  exact congrArg Host.Outcome.next (if_pos this)

/-- The PD_CTRL words belong to PD_00 (R411, R436). -/
theorem regDomain_pdCtrlWord (h4 : a % 4 = 0) (hp : pdCtrlWord a = true) : regDomain a = 0 := by
  have hall : ∀ k < 33, regDomain (0x20100 + 4 * k) = 0 := by decide +kernel
  rw [pdCtrlWord, Bool.and_eq_true, decide_eq_true_eq, decide_eq_true_eq] at hp
  obtain ⟨hlo, hhi⟩ : 0x20104 ≤ a ∧ a ≤ 0x20180 := hp
  have := hall ((a - 0x20100) / 4) (by omega)
  rwa [show 0x20100 + 4 * ((a - 0x20100) / 4) = a by omega] at this

/-- PD_00 always serves (R393), so a word of a domain that does not is no PD_CTRL word. -/
theorem pdCtrlWord_of_off (h4 : a % 4 = 0) (hon : domainOn s (regDomain a) = false) : pdCtrlWord a = false := by
  by_contra hp
  rw [regDomain_pdCtrlWord h4 (by simpa using hp)] at hon
  cases hon

/-- Settles O18: behind an earlier access both commands only join the queue; for a domain that is gated or restarting they
join it and are a demand. -/
theorem accessesWaitInTurn : Obligations.AccessesWaitInTurn := by
  intro m a mask v s hcan h4 hm
  refine ⟨fun hp hwait => ?_, fun hspan hwait => ?_, fun hb hon hu ht hd => ?_⟩
  · refine ⟨_, exec_registerWrite_aligned h4 hp, ?_⟩
    rw [masterWrite, access_behind rfl (accessBehind_of_master_waits hwait)]
    rfl
  · refine ⟨_, exec_rcRead_mapped h4 hspan, ?_⟩
    rw [masterRead, access_behind rfl (accessBehind_of_master_waits hwait)]
    rfl
  · have hv : serve s (regDomain a) = .waits := serve_waits hon hu ht hd
    refine ⟨⟨_, exec_registerWrite_aligned h4 (pdCtrlWord_of_off h4 hon), ?_⟩,
      fun hspan => ⟨_, exec_rcRead_mapped h4 hspan, ?_⟩⟩
    · rw [masterWrite_waits hm hb hv]
      exact demand_joinQueue hcan.regs
    · rw [masterRead_waits hm hb hv]
      exact demand_joinQueue hcan.regs

end Sys2Proof.Machine
end

section
/-! PROOF. The owner lock, the security version, the record of what has left the device and the role over a step (R13, R431, R432). -/

namespace Sys2Proof.Machine

variable {s t : State}

/-! ### What only grows -/

/-- From `s` to `t` the owner lock stays set (R432), the OTP entries of the security version stay written (R431) and the record of
what has left the device stays. -/
structure OnlyGrows (s t : State) : Prop where
  lock : s.boot.otpLock = true → t.boot.otpLock = true
  svn : s.boot.otpSvn <+: t.boot.otpSvn
  record : s.emitted <:+ t.emitted

theorem OnlyGrows.refl (s : State) : OnlyGrows s s := ⟨id, List.prefix_refl _, List.suffix_refl _⟩

theorem OnlyGrows.trans {a b c : State} (h : OnlyGrows a b) (k : OnlyGrows b c) : OnlyGrows a c :=
  ⟨fun x => k.lock (h.lock x), h.svn.trans k.svn, h.record.trans k.record⟩

theorem Keeps.onlyGrows (h : Keeps s t) : OnlyGrows s t := ⟨h.lock, h.svn, h.record⟩

/-! ### The two commands that may change the role -/

/-- The device at a power-on reset, before the reset works on its blocks: of `s` only flash, OTP cells, the waiting commands and the
model's own clock, count of free values and record are left (R459). -/
def unpowered (s : State) : State :=
  { State.reset with
    pending := s.pending
    time := { mono := s.time.mono }
    boot := { flash := s.boot.flash, flashBytes := s.boot.flashBytes, otpSvn := s.boot.otpSvn, otpLock := s.boot.otpLock }
    freeCnt := s.freeCnt
    emitted := s.emitted }

theorem unpowered_onlyGrows : OnlyGrows s (unpowered s) := ⟨id, List.prefix_refl _, List.suffix_refl _⟩

/-- A power-on reset is a chip reset of the unpowered device; with RESET_N high the release counts as its rising edge (R459, R460). -/
theorem exec_powerOnReset {b : Bool} : exec (.powerOnReset b) s =
    .next (if b then resetSequence { resetChip 0 (unpowered s) with
        board := { (resetChip 0 (unpowered s)).board with resetHigh := true, strapsDue := true } }
      else { resetChip 0 (unpowered s) with board := { (resetChip 0 (unpowered s)).board with resetHigh := false } }) := rfl

theorem powerOnReset_keeps {b : Bool} (h : exec (.powerOnReset b) s = .next t) : Keeps (unpowered s) t := by
  have hchip : Keeps (unpowered s) (resetChip 0 (unpowered s)) := (foot_resetChip (Foot.refl _ _) (Nat.or_self _)).keeps
  rw [exec_powerOnReset] at h
  injection h with h
  subst h
  split
  · refine .trans ?_ (foot_resetSequence (Foot.refl _ _) (Nat.or_self _)).keeps
    exact hchip.board rfl
  · exact hchip.board rfl

theorem powerOnReset_onlyGrows {b : Bool} (h : exec (.powerOnReset b) s = .next t) : OnlyGrows s t :=
  unpowered_onlyGrows.trans (powerOnReset_keeps h).onlyGrows

theorem strapSample_onlyGrows {a : Bool} {b : Nat} (h : exec (.strapSample a b) s = .next t) : OnlyGrows s t := by
  obtain rfl | ⟨n, x, rfl⟩ := strapSample_canonical h
  · exact OnlyGrows.refl t
  · obtain ⟨lock, svn, record⟩ := (foot_elapse (a1 := n) (Foot.refl _ s) (Nat.or_self _)).keeps.onlyGrows
    exact ⟨lock, svn, record⟩

/-! ### A command, and a step -/

theorem exec_onlyGrows {c : Instr} (h : exec c s = .next t) : OnlyGrows s t := by
  by_cases hp : ∃ b, c = .powerOnReset b
  · obtain ⟨b, rfl⟩ := hp
    exact powerOnReset_onlyGrows h
  by_cases hs : ∃ a b, c = .strapSample a b
  · obtain ⟨a, b, rfl⟩ := hs
    exact strapSample_onlyGrows h
  exact (exec_keeps h (fun b e => hp ⟨b, e⟩) (fun a b e => hs ⟨a, b, e⟩)).onlyGrows

theorem idleCycle_keeps : Keeps s (idleCycle s) := (foot_idleCycle (Foot.refl _ s) (Nat.or_self _)).keeps

/-- A step is an idle cycle where no command waits, and otherwise runs the front command on the state with the queue's rest. -/
theorem step_cases (h : step s = .next t) :
    (s.pending = [] ∧ t = idleCycle s) ∨ ∃ c rest, s.pending = c :: rest ∧ exec c { s with pending := rest } = .next t := by
  unfold step at h
  split at h
  next c rest hq => exact .inr ⟨c, rest, hq, h⟩
  next hq =>
    injection h with h
    exact .inl ⟨hq, h.symm⟩

theorem step_onlyGrows (h : step s = .next t) : OnlyGrows s t := by
  obtain ⟨-, rfl⟩ | ⟨c, rest, -, hx⟩ := step_cases h
  · exact idleCycle_keeps.onlyGrows
  · obtain ⟨lock, svn, record⟩ := exec_onlyGrows hx
    exact ⟨lock, svn, record⟩

/-- The role that the straps gave (R13) stays while neither a power-on reset nor a sampling of the straps is at the queue's front. -/
theorem step_role (h : step s = .next t) (hp : ∀ b, s.pending.head? ≠ some (.powerOnReset b))
    (hs : ∀ a b, s.pending.head? ≠ some (.strapSample a b)) : t.board.role = s.board.role := by
  obtain ⟨-, rfl⟩ | ⟨c, rest, hq, hx⟩ := step_cases h
  · exact idleCycle_keeps.role
  · simp only [hq, List.head?_cons, ne_eq, Option.some.injEq] at hp hs
    exact (exec_keeps hx hp hs).role

/-- Settles O5: at a power-on reset because flash, OTP cells and the record outlast it, at a sampling of the straps because only
time passes and the board changes, and at every other step by the relation Keeps, which names the role too. -/
theorem nothingUndoesTheLock : Obligations.NothingUndoesTheLock := by
  intro s t h
  obtain ⟨lock, svn, record⟩ := step_onlyGrows h
  exact ⟨lock, svn, record, step_role h⟩

end Sys2Proof.Machine
end

section
/-! PROOF. Blocks sent and received (R38, R39, R41, R42). -/

namespace Sys2Proof.Machine

/-! ### A block of any payload -/

theorem length_rsEncode {p : List Nat} (hp : ∀ y ∈ p, y < 1024) : (rsEncode p).length = p.length + 8 := by
  rw [rsEncode, List.length_append, (rsParity_spec hp).1]

/-- A sent block is received as it was sent. -/
theorem rsEncode_received {p : List Nat} (hl : p.length = 128) (hp : ∀ y ∈ p, y < 1024) :
    rsDecode (rsEncode p) = { syms := rsEncode p, corrected := 0, bad := false } ∧ (rsEncode p).length = 136 ∧
      (rsEncode p).take 128 = p :=
  ⟨rsDecode_rsEncode hp, by rw [length_rsEncode hp, hl], List.take_left' hl⟩

/-! ### A data block (R39, R42) -/

/-- The flits of a data block come back, and the receiver's scrambler ends where the sender's does. -/
theorem dataSyms_received {sc : Nat} {flits : List (List Byte)} (hn : flits.length = 5) (hx : ∀ x ∈ flits, x.length = 32) :
    let d := rsDecode (dataSyms sc flits).1
    let r := descramble sc (symBits (d.syms.take 128))
    d.bad = false ∧ chunks 32 (bitsBytes r.1) = flits ∧ r.2 = (dataSyms sc flits).2 := by
  have hflat : flits.flatten.length = 160 := by
    rw [List.length_flatten, List.eq_replicate_of_mem (l := flits.map List.length) (a := 32) (by simpa using hx)]
    simp [hn]
  have hbits : (descramble sc (bytesBits flits.flatten)).1.length = 1280 := by
    rw [length_descramble, length_bytesBits, hflat]
  obtain ⟨hdec, hsym⟩ := received_rsEncode hbits
  simp only [dataSyms, hdec, hsym, descramble_descramble, bitsBytes_bytesBits, true_and, and_true]
  exact chunks_flatten (by decide) hx

/-! ### A marker block (R41) -/

theorem length_padTo {n : Nat} {bs : List Byte} (h : bs.length ≤ n) : (padTo n bs).length = n := by
  rw [padTo, List.length_append, List.length_replicate, Nat.add_sub_cancel' h]

theorem b2n_le_one (b : Bool) : b2n b ≤ 1 := by cases b <;> decide

section MarkerBlock

variable {laneIndex width state port sequence : Nat} {sender loopTimed : Bool}

theorem length_markerPayload : (markerPayload laneIndex width state sender port loopTimed sequence).length = 160 :=
  length_padTo (by rw [List.length_append, List.length_append, length_beBytes, length_beBytes]; simp)

/-- The payload of a sent marker block comes back. -/
theorem markerSyms_received {payload : List Byte} (h : payload.length = 160) :
    (rsDecode (markerSyms payload)).bad = false ∧ markerBytes (rsDecode (markerSyms payload)).syms = payload := by
  obtain ⟨hdec, hsym⟩ := received_rsEncode (bits := bytesBits payload) (by rw [length_bytesBits, h])
  simp only [markerSyms, hdec, markerBytes, hsym, bitsBytes_bytesBits, and_self]

theorem markerPayload_pattern :
    beAt (markerPayload laneIndex width state sender port loopTimed sequence) 0 6 = markerPattern := by
  have h6 (l : List Byte) : 0 + 6 ≤ (beBytes 6 markerPattern ++ l).length := by
    rw [List.length_append, length_beBytes]
    omega
  rw [markerPayload, padTo, List.append_assoc, beAt_append_left (h6 _), beAt_append_left (by rw [length_beBytes])]
  decide

theorem markerPayload_laneByte :
    byteAt (markerPayload laneIndex width state sender port loopTimed sequence) 6 =
      laneIndex % 4 * 64 + width % 4 * 16 + state % 16 := by
  show (BitVec.ofNat 8 _).toNat = _
  rw [BitVec.toNat_ofNat]
  omega

theorem markerPayload_portByte :
    byteAt (markerPayload laneIndex width state sender port loopTimed sequence) 7 =
      b2n sender * 128 + port % 8 * 16 + b2n loopTimed * 8 := by
  have hs := b2n_le_one sender
  have ht := b2n_le_one loopTimed
  show (BitVec.ofNat 8 _).toNat = _
  rw [BitVec.toNat_ofNat]
  omega

theorem markerPayload_count (h : sequence < 65536) :
    beAt (markerPayload laneIndex width state sender port loopTimed sequence) 8 2 = sequence := by
  show (0 * 256 + (BitVec.ofNat 8 (sequence / 256)).toNat) * 256 + (BitVec.ofNat 8 (sequence / 1)).toNat = sequence
  rw [BitVec.toNat_ofNat, BitVec.toNat_ofNat]
  omega

/-- The fields of a marker block, as a receiver reads them from its payload bytes. -/
theorem markerPayload_fields (hl : laneIndex < 4) (hw : width < 4) (hst : state < 16) (hp : port < 8) (hq : sequence < 65536) :
    let b := markerPayload laneIndex width state sender port loopTimed sequence
    byteAt b 6 / 64 = laneIndex ∧ byteAt b 6 / 16 % 4 = width ∧ byteAt b 6 % 16 = state ∧
      byteAt b 7 / 128 = b2n sender ∧ byteAt b 7 / 16 % 8 = port ∧ byteAt b 7 / 8 % 2 = b2n loopTimed ∧ beAt b 8 2 = sequence := by
  have ht := b2n_le_one loopTimed
  dsimp only
  rw [markerPayload_laneByte, markerPayload_portByte, markerPayload_count hq]
  omega

end MarkerBlock

/-- Settles O23: a sent block has no syndrome (R38), the scrambler undoes itself (R39), and the marker's payload bytes spell its
fields (R41). -/
theorem blocksSentAreReceived : Obligations.BlocksSentAreReceived := by
  refine ⟨fun p hl hp => rsEncode_received hl hp, fun sc flits hn hx => dataSyms_received hn hx, ?_⟩
  intro laneIndex width state port sequence sender loopTimed hl hw hst hp hq
  obtain ⟨hgood, hbytes⟩ := markerSyms_received
    (length_markerPayload (laneIndex := laneIndex) (width := width) (state := state) (port := port) (sequence := sequence)
      (sender := sender) (loopTimed := loopTimed))
  dsimp only
  rw [goodMarker, hgood, hbytes, markerPayload_pattern]
  exact ⟨rfl, markerPayload_fields hl hw hst hp hq⟩

end Sys2Proof.Machine
end

section
/-! PROOF. The writes of cnt_clear (R58, R87, R127, R224, R249, R272, R290). -/

namespace Sys2Proof.Machine

variable {s : State} {m : Master} {f : Fld} {i lane flow dom : Nat} {K L : List (Fld × Nat)}

/-! ### A write of 1 to a write-only field -/

/-- The register table that holds field `f`. -/
def Fld.desc (f : Fld) : RegDesc :=
  match findReg f.base with
  | some (d, _) => d
  | none => ⟨f.base, f.stride, 0, 0, 0, 0, 0, 0, []⟩

/-- Number `i` of `f` is a field of a register of power domain `dom`, its bits are write-only (R11), and the register has no
bits without function. For one given field and number the register table answers each of these. -/
structure WriteOnly (f : Fld) (i dom : Nat) : Prop where
  found : findReg (f.addr i) = some (f.desc, i) := by rfl
  low : f.addr i < 0x10000000 := by decide
  domain : regDomain (f.addr i) = dom := by rfl
  listed : f.desc.fields.any (fun x => x.fld == f) = true := by decide
  inside : rcMask.fieldBits f &&& ~~~ bitsWhere f.desc (fun _ => true) = 0 := by decide
  alone : rcMask.fieldBits f &&& bitsWhere f.desc (fun x => x != .wo) = 0 := by decide
  whole : arrayReserved f.desc i = 0 := by rfl
  present : ∀ s : State, absentBits s f.desc i = 0 := by exact fun _ => rfl

/-- `s` after the effect of a write of 1 to field `f` number `i`. -/
def effectOfOne (f : Fld) (i : Nat) (s : State) : State :=
  writeEffect f.desc i (rcMask.fieldBits f) (wordOf (1 % 2 ^ (f.hi + 1 - f.lo) * 2 ^ f.lo)) s s

/-- A write of 1 to a write-only field of a register that serves is its effect alone (R440). -/
theorem WriteOnly.write_one (h : WriteOnly f i dom) (hs : s.canonical) (hr : roleAbsent s f.desc i = false)
    (hon : domainOn s dom = true) (hb : accessBehind s m (f.addr i) = false) : writeField m f i 1 s = effectOfOne f i s := by
  have hall : rcMask.fieldBits f &&& ~~~ (0 : Word) = rcMask.fieldBits f := BitVec.and_allOnes
  refine writeField_wo hs.regs h.found h.listed (findReg_base h.found) h.low (h.domain ▸ hon) hr hb ?_ h.alone ?_
  · rw [h.whole]
    exact (congrArg (fun w => _ &&& ~~~ w) BitVec.and_allOnes).trans h.inside
  · rw [h.present, h.whole]
    exact (congrArg (· &&& _) hall).trans hall

/-- Outside the pipeline, the accords and the tile maps the role excludes a register only by its bounds; so it does on a tile
inside the pipeline. -/
theorem roleAbsent_of_bounds {d : RegDesc} (hi : (d.bounds s.board.role).1 ≤ i ∧ i < (d.bounds s.board.role).2)
    (hp : isTile s = true ∨ d.base < 0x200000)
    (hd : d.base ∉ [F.ACCORD_WORD_word.base, F.TMAP_HI_x0.base, F.TMAP_LO_w.base]) : roleAbsent s d i = false := by
  have hpipe : (isSender s && decide (0x200000 ≤ d.base)) = false := by
    rcases hp with ht | hlow
    · have hrole : s.board.role = .tile := eq_of_beq ht
      simp [isSender, hrole]
    · simp [hlow]
  simp only [List.mem_cons, List.not_mem_nil, or_false, not_or] at hd
  simp [roleAbsent, hi, hpipe, hd]

/-! ### Fields that clear -/

/-- From `s` to `t` the numbered fields of `K` are set to 0, and no other bit of the machine changes. -/
structure Clears (K : List (Fld × Nat)) (s t : State) : Prop where
  zero : ∀ x ∈ K, fldAt t x.1 x.2 = 0
  sets : Sets [] K s t

/-- The fields of `L` set to 0, one after another. -/
def zeroed (L : List (Fld × Nat)) (s : State) : State := forEach L (fun x => setFldAt x.1 x.2 0) s

theorem zeroed_append : zeroed (L ++ K) s = zeroed K (zeroed L s) := List.foldl_append

theorem zeroed_each {n : Nat} {fs : List Fld} : zeroed (each n fs) s = forEach (List.range n) (fun k => zeroed (ofInst k fs)) s :=
  List.foldl_flatMap

/-- The numbered fields of `K` are fields that the device has, and no two of them overlap. -/
def separate (K : List (Fld × Nat)) : Bool := K.all fun x => decide (x.1.fits ∧ x.2 < x.1.count) && K.all (apart x)

/-- Separate fields set to 0 clear, in whatever order. -/
theorem zeroed_clears (hs : s.canonical) (hp : K.Perm L) (hk : separate K = true) : Clears K s (zeroed L s) := by
  simp only [separate, List.all_eq_true, Bool.and_eq_true, decide_eq_true_eq, hp.mem_iff] at hk
  obtain ⟨hzero, hsets⟩ := clearAll_spec hs.regs (fun x hx => (hk x hx).1)
    (List.all_eq_true.2 fun x hx => List.all_eq_true.2 (hk x hx).2)
  exact ⟨fun x hx => hzero x (hp.mem_iff.1 hx), hsets.toSets.mono fun x hx => hp.mem_iff.2 hx⟩

/-- A command that writes 1 to a write-only field whose effect sets fields to 0 clears them. -/
theorem WriteOnly.runs_clears {c : Instr} (h : WriteOnly f i dom) (hc : exec c s = .next (writeField m f i 1 s))
    (he : effectOfOne f i s = zeroed L s) (hp : K.Perm L) (hk : separate K = true) (hs : s.canonical)
    (hr : roleAbsent s f.desc i = false) (hon : domainOn s dom = true) (hb : accessBehind s m (f.addr i) = false) :
    Runs c s (Clears K s) :=
  ⟨_, hc, by rw [h.write_one hs hr hon hb, he]; exact zeroed_clears hs hp hk⟩

/-! ### The fields cnt_clear -/

theorem writeOnly_laneCntClear (h : lane < 16) : WriteOnly F.LANE_CTRL_cnt_clear lane 11 where
  found := by interval_cases lane <;> rfl
  low := by simp only [F.LANE_CTRL_cnt_clear, Fld.addr]; omega
  domain := by interval_cases lane <;> rfl

theorem writeOnly_pktCntClear : WriteOnly F.PKT_CTRL_cnt_clear 0 11 := {}

theorem writeOnly_ethCntClear : WriteOnly F.ETH_CFG_cnt_clear 0 10 := {}

theorem writeOnly_flowCntClear (h : flow < 16) : WriteOnly F.FLOW_CTRL_cnt_clear flow 10 where
  found := by interval_cases flow <;> rfl
  low := by simp only [F.FLOW_CTRL_cnt_clear, Fld.addr]; omega
  domain := by interval_cases flow <;> rfl

theorem writeOnly_pipeCntClear : WriteOnly F.PIPE_CFG_cnt_clear 0 16 := {}

theorem writeOnly_llCntClear : WriteOnly F.LL_CTRL_cnt_clear 0 5 := {}

theorem writeOnly_ldCntClear : WriteOnly F.LD_CTRL_cnt_clear 0 5 := {}

theorem writeOnly_ceCntClear : WriteOnly F.CE_CTRL_cnt_clear 0 4 := {}

/-! ### Their effects -/

theorem effect_laneCntClear : effectOfOne F.LANE_CTRL_cnt_clear lane s = zeroed (ofInst lane laneCounters) s := rfl

theorem effect_pktCntClear : effectOfOne F.PKT_CTRL_cnt_clear 0 s = zeroed (each 8 portCounters ++ one packetCounters) s := by
  rw [zeroed_append, zeroed_each]
  rfl

theorem effect_ethCntClear : effectOfOne F.ETH_CFG_cnt_clear 0 s = zeroed (each 8 [F.ETH_DISCARD_count, F.ETH_FCS_count]) s := rfl

theorem effect_flowCntClear : effectOfOne F.FLOW_CTRL_cnt_clear flow s = zeroed (ofInst flow flowCounters.reverse) s := rfl

theorem effect_pipeCntClear : effectOfOne F.PIPE_CFG_cnt_clear 0 s = zeroed (one pipeCounters.reverse) s := rfl

/-- The lamp lanes neither start nor stop, since the write leaves `enable` as it is (R245). -/
theorem effect_llCntClear : effectOfOne F.LL_CTRL_cnt_clear 0 s =
    zeroed (each 16 [F.LL_GRP_CNT_crc_fail, F.LL_GRP_CNT_no_reply] ++ one [F.LL_STAT_gray_drop]) s := by
  show (if (flag s F.LL_CTRL_enable && (!flag s F.LL_CTRL_enable || false)) = true then llStart (llClear s)
    else if (flag s F.LL_CTRL_enable && !flag s F.LL_CTRL_enable) = true then llStop (llClear s) else llClear s) = llClear s
  cases flag s F.LL_CTRL_enable <;> rfl

/-- The lamp drive neither starts nor stops, since the write leaves `enable` as it is (R251). -/
theorem effect_ldCntClear : effectOfOne F.LD_CTRL_cnt_clear 0 s = zeroed (one driveCounters.reverse) s := by
  show (if (flag s F.LD_CTRL_enable && !flag s F.LD_CTRL_enable) = true then driveStart (driveClear s)
    else if (flag s F.LD_CTRL_enable && !flag s F.LD_CTRL_enable) = true then driveStop (driveClear s) else driveClear s) = driveClear s
  cases flag s F.LD_CTRL_enable <;> rfl

theorem effect_ceCntClear : effectOfOne F.CE_CTRL_cnt_clear 0 s = zeroed (each 64 [F.CE_SLOT_STAT_overruns]) s := rfl

/-! ### The commands -/

/-- The eight low lanes are a tile's, the eight high ones a sender's (R60). -/
theorem roleAbsent_laneCtrl (h : isTile s = true ∧ lane < 8 ∨ isSender s = true ∧ 8 ≤ lane ∧ lane < 16) :
    roleAbsent s F.LANE_CTRL_cnt_clear.desc lane = false := by
  refine roleAbsent_of_bounds ?_ (.inr (by decide)) (by decide)
  rcases h with ⟨ht, hl⟩ | ⟨hs, hl⟩
  · rw [show s.board.role = .tile from eq_of_beq ht]
    exact ⟨Nat.zero_le _, hl⟩
  · rw [show s.board.role = .sender from eq_of_beq hs]
    exact hl

theorem laneCntClear_clears (hs : s.canonical) (hl : isTile s = true ∧ lane < 8 ∨ isSender s = true ∧ 8 ≤ lane ∧ lane < 16)
    (hon : domainOn s 11 = true) (hb : accessBehind s m (F.LANE_CTRL_cnt_clear.addr lane) = false) :
    Runs (.laneCntClear m lane) s (Clears (ofInst lane laneCounters) s) := by
  have h16 : lane < 16 := by omega
  have hk : ∀ l < 16, separate (ofInst l laneCounters) = true := by decide +kernel
  exact (writeOnly_laneCntClear h16).runs_clears rfl effect_laneCntClear (.refl _) (hk lane h16) hs (roleAbsent_laneCtrl hl) hon hb

theorem pktCntClear_clears (hs : s.canonical) (hon : domainOn s 11 = true)
    (hb : accessBehind s m (F.PKT_CTRL_cnt_clear.addr 0) = false) :
    Runs (.pktCntClear m) s (Clears (each 8 portCounters ++ one packetCounters) s) :=
  writeOnly_pktCntClear.runs_clears rfl effect_pktCntClear (.refl _) (by decide +kernel) hs
    (roleAbsent_of_bounds (by cases s.board.role <;> decide) (.inr (by decide)) (by decide)) hon hb

theorem ethCntClear_clears (hs : s.canonical) (hon : domainOn s 10 = true)
    (hb : accessBehind s m (F.ETH_CFG_cnt_clear.addr 0) = false) :
    Runs (.ethCntClear m) s (Clears (each 8 [F.ETH_FCS_count, F.ETH_DISCARD_count]) s) :=
  writeOnly_ethCntClear.runs_clears rfl effect_ethCntClear (by decide +kernel) (by decide +kernel) hs
    (roleAbsent_of_bounds (by cases s.board.role <;> decide) (.inr (by decide)) (by decide)) hon hb

theorem flowCntClear_clears (hs : s.canonical) (hf : flow < 16) (hon : domainOn s 10 = true)
    (hb : accessBehind s m (F.FLOW_CTRL_cnt_clear.addr flow) = false) :
    Runs (.flowCntClear m flow) s (Clears (ofInst flow flowCounters) s) := by
  have hk : ∀ n < 16, separate (ofInst n flowCounters) = true := by decide +kernel
  have hi : ∀ role, (F.FLOW_CTRL_cnt_clear.desc.bounds role).1 ≤ flow ∧ flow < (F.FLOW_CTRL_cnt_clear.desc.bounds role).2 :=
    fun role => by cases role <;> exact ⟨Nat.zero_le _, hf⟩
  exact (writeOnly_flowCntClear hf).runs_clears rfl effect_flowCntClear ((List.reverse_perm _).symm.map _) (hk flow hf) hs
    (roleAbsent_of_bounds (hi _) (.inr (by decide)) (by decide)) hon hb

theorem ceCntClear_clears (hs : s.canonical) (hon : domainOn s 4 = true)
    (hb : accessBehind s m (F.CE_CTRL_cnt_clear.addr 0) = false) :
    Runs (.ceCntClear m) s (Clears (each 64 [F.CE_SLOT_STAT_overruns]) s) :=
  writeOnly_ceCntClear.runs_clears rfl effect_ceCntClear (.refl _) (by decide +kernel) hs
    (roleAbsent_of_bounds (by cases s.board.role <;> decide) (.inr (by decide)) (by decide)) hon hb

/-- A tile has the first register of a family that its bounds hold, outside the accords and the tile maps. -/
theorem roleAbsent_of_tile {d : RegDesc} (ht : isTile s = true) (hi : d.tileLo ≤ 0 ∧ 0 < d.tileHi)
    (hd : d.base ∉ [F.ACCORD_WORD_word.base, F.TMAP_HI_x0.base, F.TMAP_LO_w.base]) : roleAbsent s d 0 = false :=
  roleAbsent_of_bounds (by rw [show s.board.role = .tile from eq_of_beq ht]; exact hi) (.inl ht) hd

theorem pipeCntClear_clears (hs : s.canonical) (ht : isTile s = true) (hon : domainOn s 16 = true)
    (hb : accessBehind s m (F.PIPE_CFG_cnt_clear.addr 0) = false) : Runs (.pipeCntClear m) s (Clears (one pipeCounters) s) :=
  writeOnly_pipeCntClear.runs_clears rfl effect_pipeCntClear (by decide) (by decide) hs
    (roleAbsent_of_tile ht (by decide) (by decide)) hon hb

theorem llCntClear_clears (hs : s.canonical) (ht : isTile s = true) (hon : domainOn s 5 = true)
    (hb : accessBehind s m (F.LL_CTRL_cnt_clear.addr 0) = false) :
    Runs (.llCntClear m) s
      (Clears (each 16 [F.LL_GRP_CNT_no_reply, F.LL_GRP_CNT_crc_fail] ++ one [F.LL_STAT_gray_drop]) s) :=
  writeOnly_llCntClear.runs_clears rfl effect_llCntClear (by decide +kernel) (by decide +kernel) hs
    (roleAbsent_of_tile ht (by decide) (by decide)) hon hb

theorem ldCntClear_clears (hs : s.canonical) (ht : isTile s = true) (hon : domainOn s 5 = true)
    (hb : accessBehind s m (F.LD_CTRL_cnt_clear.addr 0) = false) : Runs (.ldCntClear m) s (Clears (one driveCounters) s) :=
  writeOnly_ldCntClear.runs_clears rfl effect_ldCntClear (by decide) (by decide) hs
    (roleAbsent_of_tile ht (by decide) (by decide)) hon hb

/-! ### The clears, read field by field -/

theorem Clears.ofInst_zero {fs : List Fld} {t : State} (h : Clears (ofInst i fs) s t) : ∀ g ∈ fs, fldAt t g i = 0 :=
  fun _ hg => h.zero _ (mem_ofInst hg)

theorem Clears.one_zero {fs : List Fld} {t : State} (h : Clears (one fs) s t) : ∀ g ∈ fs, fld t g = 0 :=
  fun _ hg => h.zero _ (mem_one hg)

theorem Clears.each_zero {n : Nat} {fs : List Fld} {t : State} (h : Clears (each n fs) s t) :
    ∀ k < n, ∀ g ∈ fs, fldAt t g k = 0 := fun _ hk _ hg => h.zero _ (mem_each hk hg)

theorem Clears.each_append_zero {n : Nat} {fs gs : List Fld} {t : State} (h : Clears (each n fs ++ one gs) s t) :
    (∀ k < n, ∀ g ∈ fs, fldAt t g k = 0) ∧ ∀ g ∈ gs, fld t g = 0 :=
  ⟨fun _ hk _ hg => h.zero _ (mem_each_append hk hg), fun _ hg => h.zero _ (List.mem_append_right _ (mem_one hg))⟩

/-- Settles O15: each cnt_clear is a write-only field whose write has its effect alone, and the effect sets the counters of its
block to 0, one after another. -/
theorem countersClear : Obligations.CountersClear := by
  intro m s hs
  refine ⟨fun lane hl hon hb => ?_, fun hon hb => ?_, fun hon hb => ?_, fun flow hf hon hb => ?_, fun ht hon hb => ?_,
    fun ht hon hb => ?_, fun ht hon hb => ?_, fun hon hb => ?_⟩
  · obtain ⟨t, he, hc⟩ := laneCntClear_clears hs hl hon hb
    exact ⟨t, he, hc.ofInst_zero, hc.sets⟩
  · obtain ⟨t, he, hc⟩ := pktCntClear_clears hs hon hb
    obtain ⟨hports, hrest⟩ := hc.each_append_zero
    exact ⟨t, he, hports, hrest, hc.sets⟩
  · obtain ⟨t, he, hc⟩ := ethCntClear_clears hs hon hb
    exact ⟨t, he, fun p hp => ⟨hc.each_zero p hp _ (by decide), hc.each_zero p hp _ (by decide)⟩, hc.sets⟩
  · obtain ⟨t, he, hc⟩ := flowCntClear_clears hs hf hon hb
    exact ⟨t, he, hc.ofInst_zero, hc.sets⟩
  · obtain ⟨t, he, hc⟩ := pipeCntClear_clears hs ht hon hb
    exact ⟨t, he, hc.one_zero, hc.sets⟩
  · obtain ⟨t, he, hc⟩ := llCntClear_clears hs ht hon hb
    obtain ⟨hgroups, hgray⟩ := hc.each_append_zero
    exact ⟨t, he, fun g hg => ⟨hgroups g hg _ (by decide), hgroups g hg _ (by decide)⟩, hgray _ (by decide), hc.sets⟩
  · obtain ⟨t, he, hc⟩ := ldCntClear_clears hs ht hon hb
    exact ⟨t, he, hc.one_zero, hc.sets⟩
  · obtain ⟨t, he, hc⟩ := ceCntClear_clears hs hon hb
    exact ⟨t, he, fun n hn => hc.each_zero n hn _ (by decide), hc.sets⟩

end Sys2Proof.Machine
end

section
/-! PROOF. What the next hop makes of a packet that a tile sends on (R27, R65, R69, R77, R78, R300). -/

namespace Sys2Proof.Machine

variable {s : State} {p : Nat} {o : PktOutcome} {fl : List Flit} {f : Flit} {b h : List Byte}

/-! ### Bytes that stay where they are -/

theorem byteAt_take {l : List Byte} {n k : Nat} (hk : k < n) : byteAt (l.take n) k = byteAt l k := by
  simp [byteAt, List.getD_eq_getElem?_getD, hk]

/-- Two headers with the same first four bytes are of one class and one length (R62). -/
theorem hClass_hLength_congr (e : ∀ k < 4, byteAt b k = byteAt h k) : hClass b = hClass h ∧ hLength b = hLength h := by
  refine ⟨?_, ?_⟩
  · rw [hClass, hClass, e 0 (by decide)]
  · exact beAt_congr fun k hk => e _ (by omega)

/-! ### The outcome at the next hop -/

/-- What the next hop makes of a packet of outcome `o`: one that failed here or further up fails upstream there (R77, R78). -/
def PktOutcome.nextHop : PktOutcome → PktOutcome
  | .confirmed => .confirmed
  | .oversize => .oversize
  | _ => .failUpstream

/-- `bytes` arrive in good blocks as a packet of `n` flits that ends as `o`. -/
def ArrivesAs (n : Nat) (o : PktOutcome) (bytes : List Byte) : Prop :=
  (chunks 32 bytes).length = n ∧ judge (cleanFlits (chunks 32 bytes)) = o

theorem arrivesAs_flatten {bs : List (List Byte)} (hb : ∀ x ∈ bs, x.length = 32) (hj : judge (cleanFlits bs) = o) :
    ArrivesAs bs.length o bs.flatten := by
  rw [ArrivesAs, chunks_flatten (by decide) hb]
  exact ⟨rfl, hj⟩

/-! ### Packets of one flit (R64) -/

/-- The header flit of a packet that is no loss of framing lay in a good block. -/
theorem head_good (hj : judge (f :: fl) ≠ .framing) : f.bad = false := by
  by_contra hb
  exact hj (by simp [judge, hb])

/-- A packet of one flit is confirmed, or lost as framing: its end check is its hcheck. -/
theorem judge_single_of_not_framing (hc : hClass f.bytes = 0) (hl : hLength f.bytes = 0) (hj : judge [f] ≠ .framing) :
    judge [f] = .confirmed ∧ hcheckOk f.bytes = true := by
  obtain ⟨-, hok, cov, chk, hcov, -, hover, -, hgood⟩ := judge_facts hj
  have hcov' : coveredAndCheck [f.bytes] = (f.bytes.take 28, beAt f.bytes 28 4) := by simp [coveredAndCheck, hc, hl]
  have hchk : chk = crc32c cov := by
    obtain ⟨rfl, rfl⟩ := Prod.mk.inj (hcov.symm.trans hcov')
    exact eq_of_beq hok
  refine ⟨(hgood (by simp [head_good hj]) hchk).resolve_right fun ho => ?_, hok⟩
  have hlong : lengthLimit (hClass f.bytes) < hLength f.bytes := (hover ho).2
  simp [hl] at hlong

theorem arrivesAs_single (hh : h.length = 32) (hok : hcheckOk h = true) (hc : hClass h = 0) (hl : hLength h = 0) :
    ArrivesAs 1 .confirmed h := by
  simpa using arrivesAs_flatten (bs := [h]) (by simpa using hh) (judge_single hok hc hl)

/-- A header made anew over 28 bytes of class 0 and length 0 arrives as a confirmed packet. -/
theorem arrivesAs_headerFlit (hb : b.length = 28) (hc : hClass b = 0) (hl : hLength b = 0) :
    ArrivesAs 1 .confirmed (headerFlit b) := by
  obtain ⟨hlen, hok, -, hclass, hlength⟩ := headerFlit_spec hb
  exact arrivesAs_single hlen hok (hclass.trans hc) (hlength.trans hl)

/-- The first 28 bytes of a header, rewritten only from byte 4 on, under a new check. -/
theorem arrivesAs_rewritten (hb : 28 ≤ b.length) (e : ∀ k < 4, byteAt b k = byteAt h k) (hc : hClass h = 0) (hl : hLength h = 0) :
    ArrivesAs 1 .confirmed (headerFlit (b.take 28)) := by
  obtain ⟨hclass, hlength⟩ := hClass_hLength_congr (b := b.take 28) (h := h) fun k hk => by
    rw [byteAt_take (by omega), e k hk]
  exact arrivesAs_headerFlit (by simpa using hb) (hclass.trans hc) (hlength.trans hl)

/-- An enumeration packet that a tile has counted on arrives confirmed (R27, R480). -/
theorem arrivesAs_enumForward {count : Nat} {rev : Bool} (hh : h.length = 32) (hc : hClass h = 0) (hl : hLength h = 0) :
    ArrivesAs 1 .confirmed (enumForward h count rev) := by
  have hcount : (putBytes h 13 [BitVec.ofNat 8 count]).length = 32 := by
    rw [length_putBytes (by simp [hh]), hh]
  have ecount : ∀ k < 4, byteAt (putBytes h 13 [BitVec.ofNat 8 count]) k = byteAt h k := fun k hk =>
    byteAt_putBytes (by simp [hh]) (.inl (by omega))
  unfold enumForward
  cases rev with
  | false => exact arrivesAs_rewritten (by simp [hcount]) ecount hc hl
  | true =>
    refine arrivesAs_rewritten ?_ (fun k hk => ?_) hc hl
    · simp [length_putBytes, hcount]
    · exact (byteAt_putBytes (by simp [hcount]) (.inl (by omega))).trans (ecount k hk)

/-- A delay packet whose hops a tile has counted on arrives confirmed (R300, R301). -/
theorem arrivesAs_hopDelay (hh : h.length = 32) (hc : hClass h = 0) (hl : hLength h = 0) : ArrivesAs 1 .confirmed (hopDelay h) := by
  obtain ⟨hclass, hlength⟩ := hClass_hLength_congr (h := h)
    (b := putBytes (h.take 28) 14 [BitVec.ofNat 8 (satAdd 255 (hSpec h 2) 1)]) fun k hk => by
      rw [byteAt_putBytes (by simp [hh]) (.inl (by omega)), byteAt_take (by omega)]
  exact arrivesAs_headerFlit (by simp [length_putBytes, hh]) (hclass.trans hc) (hlength.trans hl)

/-! ### Top-note packets of two flits (R64, R299, R300) -/

/-- A top-note packet made of a header and 28 bytes with their check is judged by that check alone. -/
theorem judge_pair {body : List Byte} {c : Nat} (hb : b.length = 28) (hc : hClass b = 0) (hl : hLength b = 1)
    (hbody : body.length = 28) (hlt : c < 2 ^ 32) :
    (c = crc32c (headerFlit b ++ body) → judge (cleanFlits [headerFlit b, body ++ beBytes 4 c]) = .confirmed) ∧
      (c = Nat.xor (crc32c (headerFlit b ++ body)) 0xFFFFFFFF →
        judge (cleanFlits [headerFlit b, body ++ beBytes 4 c]) = .failUpstream) := by
  obtain ⟨hlen, hok, -, hclass, hlength⟩ := headerFlit_spec hb
  have hall : [headerFlit b, body ++ beBytes 4 c].flatten = (headerFlit b ++ body) ++ beBytes 4 c := by simp
  have hsize : (headerFlit b ++ body).length = 60 := by rw [List.length_append, hlen, hbody]
  have hchk : beAt ((headerFlit b ++ body) ++ beBytes 4 c) 60 4 = c := by
    have := beAt_after (a := headerFlit b ++ body) (t := []) hlt
    rwa [hsize, List.append_nil] at this
  have hcov : coveredAndCheck [headerFlit b, body ++ beBytes 4 c] = (headerFlit b ++ body, c) := by
    unfold coveredAndCheck
    dsimp only [List.headD_cons]
    rw [if_pos (by rw [hclass, hc]; rfl), if_neg (by rw [hlength, hl]; decide), hall, List.length_append, length_beBytes,
      Nat.add_sub_cancel, List.take_left, hsize, hchk]
  obtain ⟨hgood, -, hstomped⟩ := judge_clean (bs := [headerFlit b, body ++ beBytes 4 c]) (by simp) hok _ _ _ hcov rfl
  refine ⟨fun e => hgood e (.inl (hclass.trans hc)) ?_, hstomped⟩
  simp [hclass, hc, hlength, hl, lengthLimit]

/-- A TIME_SYNC that a tile has corrected arrives confirmed, or stomped where its input failed (R78, R300). -/
theorem arrivesAs_syncForward {body : List Byte} {stomp : Bool} (hh : h.length = 32) (hbody : body.length = 32) (hc : hClass h = 0)
    (hl : hLength h = 1) : ArrivesAs 2 (if stomp then .failUpstream else .confirmed) (syncForward s p h body stomp) := by
  unfold syncForward
  dsimp only
  generalize hx : [BitVec.ofNat 8 (satAdd 255 (hSpec h 12) 1), _] = x
  have hx2 : x.length = 2 := by rw [← hx]; rfl
  generalize hb : putBytes (h.take 28) 24 x = b
  generalize hy : beBytes 8 _ ++ beBytes 4 _ ++ beBytes 2 _ ++ (body.drop 14).take 14 = y
  have hb28 : b.length = 28 := by rw [← hb, length_putBytes (by simp [hh, hx2])]; simp [hh]
  have hy28 : y.length = 28 := by rw [← hy]; simp [length_beBytes, hbody]
  obtain ⟨hclass, hlength⟩ := hClass_hLength_congr (b := b) (h := h) fun k hk => by
    rw [← hb, byteAt_putBytes (by simp [hh, hx2]) (.inl (by omega)), byteAt_take (by omega)]
  have hpair : ∀ c < 2 ^ 32, _ := fun c hlt => judge_pair (c := c) hb28 (hclass.trans hc) (hlength.trans hl) hy28 hlt
  have hflat : ∀ c, ∀ o, judge (cleanFlits [headerFlit b, y ++ beBytes 4 c]) = o → ArrivesAs 2 o (headerFlit b ++ y ++ beBytes 4 c) := by
    intro c o hj
    have := arrivesAs_flatten (by simp [(headerFlit_spec hb28).1, hy28, length_beBytes]) hj
    simpa using this
  have hcrc := crc32c_lt (headerFlit b ++ y)
  cases stomp with
  | false => exact hflat _ _ ((hpair _ hcrc).1 rfl)
  | true => exact hflat _ _ ((hpair _ (Nat.xor_lt_two_pow hcrc (by decide))).2 rfl)

/-- A time packet of a tile's making is stomped where its input was not confirmed; it has no length that could be over its limit. -/
theorem judge_timeSync_nextHop (hs : isTimeSync ((fl.map Flit.bytes).headD []) = true) (hj : judge fl ≠ .framing) :
    (if judge fl != .confirmed then .failUpstream else .confirmed) = (judge fl).nextHop := by
  obtain ⟨-, -, cov, chk, -, -, hover, -⟩ := judge_facts hj
  simp only [isTimeSync, Bool.and_eq_true, beq_iff_eq] at hs
  obtain ⟨⟨hc, hl⟩, -⟩ := hs
  cases ho : judge fl
  case oversize =>
    have hlong := (hover ho).2
    rw [hc, hl] at hlong
    exact absurd hlong (by decide)
  case framing => exact absurd ho hj
  all_goals rfl

/-! ### Every packet -/

/-- A packet is one header flit, or it has an end flit or a second flit of its own (R61, R64). -/
theorem packet_shape {hd : List Byte} (hn : fl.length = packetFlits hd) :
    (hClass hd = 0 ∧ hLength hd = 0 ∧ ∃ f, fl = [f]) ∨
      ((hClass hd ≠ 0 ∨ hLength hd ≠ 0) ∧ ∃ ds last, fl.map Flit.bytes = ds ++ [last] ∧ ds ≠ []) := by
  have hlong : 2 ≤ fl.length → ∃ ds last, fl.map Flit.bytes = ds ++ [last] ∧ ds ≠ [] := by
    intro h2
    have hne : fl.map Flit.bytes ≠ [] := List.ne_nil_of_length_pos (by rw [List.length_map]; omega)
    refine ⟨_, _, (List.dropLast_append_getLast hne).symm, ?_⟩
    rw [← List.length_pos_iff, List.length_dropLast, List.length_map]
    omega
  unfold packetFlits at hn
  split at hn
  case isTrue hc =>
    by_cases hl : hLength hd = 0
    · exact .inl ⟨eq_of_beq hc, hl, List.length_eq_one_iff.1 (by omega)⟩
    · exact .inr ⟨.inr hl, hlong (by omega)⟩
  case isFalse hc => exact .inr ⟨.inl fun e => hc (by rw [e]; rfl), hlong (by omega)⟩

theorem isEnumCount_of_long (hshape : hClass h ≠ 0 ∨ hLength h ≠ 0) : isEnumCount h = false := by
  rcases hshape with hc | hl
  · simp [isEnumCount, hc]
  · simp [isEnumCount, hl]

theorem forwardFlits_single {addr : Nat} (hc : hClass h = 0) (hl : hLength h = 0) :
    forwardFlits addr .confirmed [h] = if isDelayPkt h then hopDelay h else h := by
  simp [forwardFlits, hc, hl]

/-- A packet of one flit as a tile sends it on. -/
theorem arrivesAs_sendOn_single (hf : f.bytes.length = 32) (hc : hClass f.bytes = 0) (hl : hLength f.bytes = 0)
    (hj : judge [f] ≠ .framing) : ArrivesAs 1 (judge [f]).nextHop (sendOn s p (judge [f]) [f.bytes]) := by
  obtain ⟨hconf, hok⟩ := judge_single_of_not_framing hc hl hj
  have hsync : isTimeSync f.bytes = false := by simp [isTimeSync, hl]
  rw [hconf]
  unfold sendOn
  dsimp only [List.headD_cons]
  split
  case isTrue => exact arrivesAs_enumForward hf hc hl
  case isFalse =>
    rw [hsync, Bool.false_and, if_neg Bool.false_ne_true]
    rw [forwardFlits_single hc hl]
    cases isDelayPkt f.bytes with
    | true => exact arrivesAs_hopDelay hf hc hl
    | false => exact arrivesAs_single hf hok hc hl

/-- A longer packet that a tile changes only in its last flit. -/
theorem arrivesAs_forwardFlits {addr : Nat} {ds : List (List Byte)} {last : List Byte} (hbs : fl.map Flit.bytes = ds ++ [last])
    (hds : ds ≠ []) (hlen : ∀ x ∈ ds ++ [last], x.length = 32) (hshape : hClass (ds.headD []) ≠ 0 ∨ hLength (ds.headD []) ≠ 0)
    (hj : judge fl ≠ .framing) : ArrivesAs fl.length (judge fl).nextHop (forwardFlits addr (judge fl) (fl.map Flit.bytes)) := by
  have hl : last.length = 32 := hlen last (by simp)
  obtain ⟨e, he, hsent, hout⟩ : ∃ e, e.length = 32 ∧ forwardFlits addr (judge fl) (fl.map Flit.bytes) = (ds ++ [e]).flatten ∧
      judge (cleanFlits (ds ++ [e])) = (judge fl).nextHop := by
    by_cases hcl : hClass (ds.headD []) = 0
    · exact judge_top hbs hds hl hcl (hshape.resolve_left fun h => h hcl) hj
    · exact judge_body hbs hds hl hcl hj
  have hcount : fl.length = (ds ++ [e]).length := by simpa using congrArg List.length hbs
  rw [hsent, hcount]
  refine arrivesAs_flatten (fun x hx => ?_) hout
  rcases List.mem_append.1 hx with hx | hx
  · exact hlen x (List.mem_append_left _ hx)
  · rw [List.mem_singleton.1 hx, he]

/-- What a tile sends on for a packet keeps its number of flits, and ends at the next hop as its outcome says (R69, R77, R78). -/
theorem arrivesAs_sendOn (hlen : ∀ f ∈ fl, f.bytes.length = 32) (hn : fl.length = packetFlits ((fl.map Flit.bytes).headD []))
    (hj : judge fl ≠ .framing) : ArrivesAs fl.length (judge fl).nextHop (sendOn s p (judge fl) (fl.map Flit.bytes)) := by
  rcases packet_shape hn with ⟨hc, hl, f, rfl⟩ | ⟨hshape, ds, last, hbs, hds⟩
  · exact arrivesAs_sendOn_single (hlen f (by simp)) hc hl hj
  · have hflits : ∀ x ∈ fl.map Flit.bytes, x.length = 32 := by simpa using hlen
    unfold sendOn
    dsimp only
    rw [isEnumCount_of_long hshape, if_neg Bool.false_ne_true]
    split
    case isTrue hsync =>
      obtain ⟨hsync, -⟩ := Bool.and_eq_true_iff.1 hsync
      rw [← judge_timeSync_nextHop hsync hj]
      simp only [isTimeSync, Bool.and_eq_true, beq_iff_eq] at hsync
      obtain ⟨⟨hc, hl⟩, -⟩ := hsync
      have htwo : fl.length = 2 := by rw [hn, packetFlits, hc, hl]; rfl
      obtain ⟨f, g, rfl⟩ := List.length_eq_two.1 htwo
      exact arrivesAs_syncForward (hlen f (by simp)) (hlen g (by simp)) hc hl
    case isFalse =>
      rw [hbs, headD_append hds] at hshape
      exact arrivesAs_forwardFlits hbs hds (hbs ▸ hflits) hshape hj

/-- Settles O24: each way in which a tile sends a packet on (its enumeration count, its time correction, its hops, or the flits as
they came with a new last flit) keeps the flits and leaves a check that tells the next hop the outcome. -/
theorem outcomesTravelDownstream : Obligations.OutcomesTravelDownstream := by
  intro s p fl hlen hn hj
  obtain ⟨hcount, hout⟩ := arrivesAs_sendOn (s := s) (p := p) hlen hn hj
  exact ⟨hcount, hout⟩

end Sys2Proof.Machine
end

section
/-! PROOF. What the receiver makes of the pieces and the top-note packets that this chip sends (R62 to R65, R71, R77). -/

namespace Sys2Proof.Machine

variable {x : TxProgress} {kind pad i j n v : Nat} {l b w : List Byte}

/-! ### Numbers written into a header -/

theorem beAt_putBytes_other (h : j + w.length ≤ l.length) (hi : i + n ≤ j ∨ j + w.length ≤ i) :
    beAt (putBytes l j w) i n = beAt l i n :=
  beAt_congr fun k hk => byteAt_putBytes h (by omega)

theorem beAt_putBytes_self (h : i + w.length ≤ l.length) (hn : w.length = n) : beAt (putBytes l i w) i n = beAt w 0 n :=
  beAt_congr fun k hk => by rw [byteAt_putBytes_in h (by omega), Nat.zero_add]

theorem byteAt_headerFlit (hb : b.length = 28) (hi : i < 28) : byteAt (headerFlit b) i = byteAt b i :=
  byteAt_append_left (hb ▸ hi)

theorem beAt_headerFlit (hb : b.length = 28) (hi : i + n ≤ 28) : beAt (headerFlit b) i n = beAt b i n :=
  beAt_append_left (hb ▸ hi)

/-! ### The header of a piece (R62, R71) -/

/-- Where a header of a heart or base packet carries its offset (R64). -/
def offsetPlace (h : List Byte) : Nat := if hClass h == 1 then 16 else 12

/-- The sequence field of a piece: the index of its first payload flit in the packet's frame (R71, R74). -/
def pieceSeq (x : TxProgress) : Nat := beAt x.hdr 4 4 / 2 ^ 20 * 2 ^ 20 + (beAt x.hdr 4 4 % 2 ^ 20 + x.sent) % 2 ^ 20

/-- What a piece's header holds, apart from the bytes that it has from its packet's. -/
structure PieceHeader (x : TxProgress) (h : List Byte) : Prop where
  kept : ∀ k, k = 0 ∨ 8 ≤ k ∧ k < 12 → byteAt h k = byteAt x.hdr k
  flags : byteAt h 1 = withBits (byteAt x.hdr 1) 6 6 (b2n x.cont)
  length : beAt h 2 2 = x.now.length % 2 ^ 16
  seq : beAt h 4 4 = pieceSeq x
  offset : beAt h (offsetPlace x.hdr) 4 = (beAt x.hdr (offsetPlace x.hdr) 4 + 32 * x.sent) % 2 ^ 32

theorem offsetPlace_bounds (h : List Byte) : 12 ≤ offsetPlace h ∧ offsetPlace h ≤ 16 := by
  unfold offsetPlace; split <;> decide

theorem pieceSeq_lt : pieceSeq x < 2 ^ 32 := by
  have := beAt4_lt x.hdr 4
  unfold pieceSeq
  omega

theorem byteAt_lt : byteAt l i < 256 := BitVec.isLt _

theorem withBits_byte (hn : n < 256) : withBits n 6 6 v < 256 := by
  unfold withBits
  omega

/-- Four runs of bytes written one after another into a header, none over another, read as they were written. -/
theorem header_rewritten {h flags len seq off : List Byte} {place : Nat} (hh : h.length = 28) (hf : flags.length = 1)
    (hl : len.length = 2) (hs : seq.length = 4) (ho : off.length = 4) (hp : 12 ≤ place ∧ place ≤ 16) :
    let r := putBytes (putBytes (putBytes (putBytes h 1 flags) 2 len) 4 seq) place off
    r.length = 28 ∧ (∀ k, k = 0 ∨ 8 ≤ k ∧ k < 12 → byteAt r k = byteAt h k) ∧ byteAt r 1 = byteAt flags 0 ∧
      beAt r 2 2 = beAt len 0 2 ∧ beAt r 4 4 = beAt seq 0 4 ∧ beAt r place 4 = beAt off 0 4 := by
  have h1 : (putBytes h 1 flags).length = 28 := by rw [length_putBytes (by omega), hh]
  have h2 : (putBytes (putBytes h 1 flags) 2 len).length = 28 := by rw [length_putBytes (by omega), h1]
  have h3 : (putBytes (putBytes (putBytes h 1 flags) 2 len) 4 seq).length = 28 := by rw [length_putBytes (by omega), h2]
  refine ⟨by rw [length_putBytes (by omega), h3], fun k hk => ?_, ?_, ?_, ?_, ?_⟩
  · rw [byteAt_putBytes (by omega) (by omega), byteAt_putBytes (by omega) (by omega), byteAt_putBytes (by omega) (by omega),
      byteAt_putBytes (by omega) (by omega)]
  · rw [byteAt_putBytes (by omega) (by omega), byteAt_putBytes (by omega) (by omega), byteAt_putBytes (by omega) (by omega)]
    exact byteAt_putBytes_in (k := 0) (by omega) (by omega)
  · rw [beAt_putBytes_other (by omega) (by omega), beAt_putBytes_other (by omega) (by omega)]
    exact beAt_putBytes_self (by omega) hl
  · rw [beAt_putBytes_other (by omega) (by omega)]
    exact beAt_putBytes_self (by omega) hs
  · exact beAt_putBytes_self (by omega) ho

theorem pieceHeader_spec (hh : x.hdr.length = 28) : (pieceHeader x).length = 28 ∧ PieceHeader x (pieceHeader x) := by
  have hflags : withBits (byteAt x.hdr 1) 6 6 (b2n x.cont) < 256 := withBits_byte byteAt_lt
  obtain ⟨hlen, hkept, hfl, hcount, hseq, hoff⟩ := header_rewritten (place := offsetPlace x.hdr)
    (flags := [BitVec.ofNat 8 (withBits (byteAt x.hdr 1) 6 6 (b2n x.cont))]) (len := beBytes 2 x.now.length)
    (seq := beBytes 4 (pieceSeq x)) (off := beBytes 4 (beAt x.hdr (offsetPlace x.hdr) 4 + 32 * x.sent)) hh rfl
    (length_beBytes ..) (length_beBytes ..) (length_beBytes ..) (offsetPlace_bounds x.hdr)
  exact ⟨hlen, hkept, hfl.trans (Nat.mod_eq_of_lt hflags), hcount.trans (beAt_beBytes2 _),
    hseq.trans (beAt_beBytes pieceSeq_lt), hoff.trans (beAt_beBytes_mod _)⟩

/-- The check of the header leaves the fields as they are. -/
theorem PieceHeader.headerFlit (hb : b.length = 28) (h : PieceHeader x b) : PieceHeader x (headerFlit b) where
  kept k hk := (byteAt_headerFlit hb (by omega)).trans (h.kept k hk)
  flags := (byteAt_headerFlit hb (by omega)).trans h.flags
  length := (beAt_headerFlit hb (by omega)).trans h.length
  seq := (beAt_headerFlit hb (by omega)).trans h.seq
  offset := (beAt_headerFlit hb (by have := offsetPlace_bounds x.hdr; omega)).trans h.offset

/-- The fields that a piece's header has from its packet's (R62, R71). -/
theorem PieceHeader.same (h : PieceHeader x b) : hClass b = hClass x.hdr ∧ hType b = hType x.hdr ∧ hDup b = hDup x.hdr ∧
    hDst b = hDst x.hdr ∧ hSrc b = hSrc x.hdr := by
  refine ⟨?_, ?_, ?_, h.kept 8 (by omega), h.kept 9 (by omega)⟩
  · rw [hClass, hClass, h.kept 0 (.inl rfl)]
  · rw [hType, hType, h.kept 0 (.inl rfl)]
  · rw [hDup, hDup, h.flags, bitOf_withBits_ne (by decide)]

/-- The fields that tell the pieces of a packet apart (R71, R74). -/
theorem PieceHeader.own (h : PieceHeader x b) (hn : x.now.length < 2 ^ 16) : hCont b = x.cont ∧ hLength b = x.now.length ∧
    hFrame b = hFrame x.hdr ∧ hIndex b = (hIndex x.hdr + x.sent) % 2 ^ 20 := by
  refine ⟨?_, h.length.trans (Nat.mod_eq_of_lt hn), ?_, ?_⟩
  · rw [hCont, h.flags, bitOf_withBits_self]
  · rw [hFrame, h.seq, pieceSeq, hFrame]
    omega
  · rw [hIndex, h.seq, pieceSeq, hIndex]
    omega

/-! ### The flits of a piece (R61, R65) -/

theorem length_endFlit {content : List Byte} : (endFlit content kind pad).length = 32 :=
  length_padTo (by simp [length_beBytes])

/-- The end flit carries the check of the content and the kind of the end. -/
theorem endFlit_spec {content : List Byte} (hk : kind < 256) :
    beAt (endFlit content kind pad) 0 4 = crc32c content ∧ byteAt (endFlit content kind pad) 4 = kind := by
  have h4 : (beBytes 4 (crc32c content)).length = 4 := length_beBytes ..
  refine ⟨?_, ?_⟩
  · rw [endFlit, padTo, List.append_assoc, beAt_append_left (by omega), beAt_beBytes (crc32c_lt _)]
  · rw [endFlit, padTo, List.append_assoc, byteAt_append_right (by omega), h4]
    exact Nat.mod_eq_of_lt hk

/-- The end flit of the present piece. -/
def pieceEnd (x : TxProgress) (kind : Nat) : List Byte :=
  endFlit (headerFlit (pieceHeader x) ++ x.now.flatten) kind (if kind == 0 then x.pad else 0)

/-- A piece leaves as its header, its payload flits and its end flit. -/
theorem chunks_pieceBytes (hh : x.hdr.length = 28) (hf : ∀ f ∈ x.now, f.length = 32) :
    chunks 32 (pieceBytes x kind) = (headerFlit (pieceHeader x) :: x.now) ++ [pieceEnd x kind] := by
  have hflat : pieceBytes x kind = ((headerFlit (pieceHeader x) :: x.now) ++ [pieceEnd x kind]).flatten := by
    simp [pieceBytes, pieceEnd]
  rw [hflat]
  refine chunks_flatten (by decide) fun f hmem => ?_
  rcases List.mem_append.1 hmem with hmem | hmem
  · rcases List.mem_cons.1 hmem with rfl | hmem
    · exact (headerFlit_spec (pieceHeader_spec hh).1).1
    · exact hf f hmem
  · rw [List.mem_singleton.1 hmem]
    exact length_endFlit

/-- A heart or base packet whose end flit has the check of what came before it, a known end kind, and a length within its
class's limit is confirmed (R65, R70, R77). -/
theorem judge_sealed {ds : List (List Byte)} {e : List Byte} (hds : ds ≠ []) (hok : hcheckOk (ds.headD []) = true)
    (hc : hClass (ds.headD []) ≠ 0) (hl : hLength (ds.headD []) ≤ lengthLimit (hClass (ds.headD []))) (hk : byteAt e 4 ≤ 1)
    (hchk : beAt e 0 4 = crc32c ds.flatten) : judge (cleanFlits (ds ++ [e])) = .confirmed := by
  have hcov : coveredAndCheck (ds ++ [e]) = (ds.flatten, beAt e 0 4) := by
    unfold coveredAndCheck
    dsimp only
    rw [headD_append hds, if_neg (by rw [beq_iff_eq]; exact hc), List.dropLast_concat, getLastD_snoc]
  refine (judge_clean (by simp) (by rw [headD_append hds]; exact hok) _ _ _ hcov rfl).1 hchk (.inr ?_) ?_
  · rw [getLastD_snoc]
    exact hk
  · rw [headD_append hds]
    exact hl

theorem lengthLimit_lt (c : Nat) : lengthLimit c < 2 ^ 16 := by
  unfold lengthLimit; split <;> decide

/-- A top-note packet of this chip's making is confirmed (R64, R77). -/
theorem judge_topFlits {t : TxPkt} (hh : t.hdr.length = 28) (hc : hClass t.hdr = 0)
    (hl : hLength t.hdr = if t.payload.isEmpty then 0 else 1) : judge (cleanFlits (topFlits t)) = .confirmed := by
  obtain ⟨hlen, hok, -, hclass, hlength⟩ := headerFlit_spec hh
  unfold topFlits
  dsimp only
  cases he : t.payload.isEmpty with
  | true =>
    rw [he, if_pos rfl] at hl
    exact judge_single hok (hclass.trans hc) (hlength.trans hl)
  | false =>
    rw [he, if_neg Bool.false_ne_true] at hl
    refine (judge_pair hh hc hl ?_ (crc32c_lt _)).1 rfl
    rw [List.length_take, padTo, List.length_append, List.length_replicate]
    omega

/-- Settles O25: the header of a piece is its packet's with four runs of bytes written over, and the checks over the header and
over the piece are those that the receiver works out. -/
theorem sentPiecesConfirm : Obligations.SentPiecesConfirm := by
  refine ⟨fun x kind hh hcl hf hn hk => ?_, fun t hh hc hl => judge_topFlits hh hc hl⟩
  obtain ⟨hlen, hpiece⟩ := pieceHeader_spec hh
  obtain ⟨-, hok, -, -, -⟩ := headerFlit_spec hlen
  have hhead := hpiece.headerFlit hlen
  obtain ⟨hclass, htype, hdup, hdst, hsrc⟩ := hhead.same
  obtain ⟨hcont, hlength, hframe, hindex⟩ := hhead.own (hn.trans_lt (lengthLimit_lt _))
  obtain ⟨hchk, hkind⟩ := endFlit_spec (content := headerFlit (pieceHeader x) ++ x.now.flatten)
    (pad := if kind == 0 then x.pad else 0) (hk.trans_lt (by decide : 1 < 256))
  dsimp only
  rw [chunks_pieceBytes hh hf]
  refine ⟨judge_sealed (List.cons_ne_nil _ _) hok ?_ ?_ ?_ hchk, ?_, ?_, hclass, htype, hdup, hdst, hsrc, hcont, hlength, hframe,
    hindex, hhead.offset⟩
  · rw [List.headD_cons, hclass]
    omega
  · rw [List.headD_cons, hclass, hlength]
    exact hn
  · exact hkind.trans_le hk
  · simp
  · rw [getLastD_snoc]
    exact hkind

end Sys2Proof.Machine
end

section
/-! PROOF. What a master's read returns, clears and latches (R81, R293, R311, R340, R440). -/

namespace Sys2Proof.Machine

variable {s t : State} {m : Master} {a i n : Nat} {d : RegDesc} {ps : List Part}

/-! ### Reads of registers -/

/-- Every register lies inside a span of the address map (R436). -/
theorem spanOf_of_findReg (h : findReg a = some (d, i)) : (spanOf a).isSome = true := by
  have hblock : a / 0x10000 < 6 ∨ 8 ≤ a / 0x10000 ∧ a / 0x10000 < 52 := by
    by_contra hout
    have hnone : regTable a = [] := by
      unfold regTable
      split
      case h_51 => rfl
      all_goals omega
    simp [findReg, hnone] at h
  simp only [spanOf, spans, List.find?_isSome, List.mem_cons, List.not_mem_nil, or_false, exists_eq_or_imp, exists_eq_left,
    Bool.and_eq_true, decide_eq_true_eq]
  omega

/-- A read without an effect of its own on what it reads. -/
theorem readEffect_none (ha : a ∉ [F.TIME_NOW_SEC_HI_value.base, F.WT_FRAME_HI_frame.base]) (hf : a / 0x2000 ≠ 0xA0) :
    readEffect m a s = s := by
  simp only [List.mem_cons, List.not_mem_nil, or_false, not_or] at ha
  have hflacon : (decide (0x140000 ≤ a) && decide (a < 0x142000)) = false := by
    rw [Bool.and_eq_false_iff, decide_eq_false_iff_not, decide_eq_false_iff_not]
    omega
  simp [readEffect, ha, hflacon]

/-- A read clears the RC bits of its register, and no others (R440). -/
theorem readClears_spec (hs : Memory.wf resetWord s.regs) (hr : roleAbsent s d i = false)
    (hb : d.base ≠ F.EVT_IN_FRAC_valid.base) (ha : d.base + d.stride * i = a) :
    regWord (readClears d i s) a = regWord s a &&& ~~~ rcMask d ∧ (readClears d i s).emitted = s.emitted ∧
      SetsC ps [wordAt a] s (readClears d i s) := by
  have hbase : (d.base == F.EVT_IN_FRAC_valid.base) = false := beq_eq_false_iff_ne.2 hb
  unfold readClears
  dsimp only
  rw [hr, hbase, if_neg Bool.false_ne_true, if_neg Bool.false_ne_true, ha]
  by_cases hz : rcMask d = 0
  · rw [if_pos (by rw [hz]; rfl), hz]
    exact ⟨BitVec.and_allOnes.symm, rfl, SetsC.refl hs⟩
  · rw [if_neg (by simpa using hz)]
    exact ⟨regWord_setRegWord_same hs, rfl, (SetsC.refl hs).word (List.mem_singleton.2 rfl)⟩

/-- A read of a register without RC fields clears nothing. -/
theorem readClears_none (hz : rcMask d = 0) (hb : d.base ≠ F.EVT_IN_FRAC_valid.base) : readClears d i s = s := by
  simp [readClears, hz, hb]

/-- A read of a register: its value leaves, and its RC fields clear (R440). -/
theorem rcRead_register (hs : s.canonical) (h4 : a % 4 = 0) (hlow : a < 0x10000000) (hd : findReg a = some (d, i))
    (hr : roleAbsent s d i = false) (hon : domainOn s (regDomain a) = true) (hw : accessBehind s m a = false)
    (hb : d.base ≠ F.EVT_IN_FRAC_valid.base) (ha : a ∉ [F.TIME_NOW_SEC_HI_value.base, F.WT_FRAME_HI_frame.base])
    (hf : a / 0x2000 ≠ 0xA0) :
    Runs (.rcRead m a) s fun t =>
      t.emitted = .value a (viewReg m s d i) :: s.emitted ∧ regWord t a = regWord s a &&& ~~~ rcMask d ∧
        Sets [.emitted] [wordAt a] s t := by
  obtain ⟨hword, hemit, hsets⟩ := readClears_spec hs.regs hr hb (findReg_base hd)
  refine ⟨_, exec_rcRead_mapped h4 (spanOf_of_findReg hd), ?_⟩
  rw [read_low hlow hd hon hw, readEffect_none ha hf]
  exact ⟨congrArg _ hemit, hword, (hsets.emit (List.mem_singleton.2 rfl)).toSets⟩

/-! ### TIME_NOW and WT_FRAME (R293, R340) -/

theorem roleAbsent_timeNow : roleAbsent s F.TIME_NOW_SEC_HI_value.desc 0 = false :=
  roleAbsent_of_bounds (by cases s.board.role <;> decide) (.inr (by decide)) (by decide)

theorem roleAbsent_wtFrame : roleAbsent s F.WT_FRAME_HI_frame.desc 0 = false :=
  roleAbsent_of_bounds (by cases s.board.role <;> decide) (.inr (by decide)) (by decide)

theorem viewReg_timeNow : viewReg m s F.TIME_NOW_SEC_HI_value.desc 0 = wordOf (secOf (shadowAt s m) / 2 ^ 32 % 2 ^ 16) := by
  unfold viewReg
  rw [roleAbsent_timeNow]
  rfl

theorem viewReg_wtFrame : viewReg m s F.WT_FRAME_HI_frame.desc 0 = wordOf (fNow s / 2 ^ 32) := by
  unfold viewReg
  rw [roleAbsent_wtFrame]
  rfl

theorem shadowOf_lt (m : Master) : shadowOf m < 5 := by
  unfold shadowOf; split <;> decide

theorem shadowAt_takeShadow (h5 : s.time.shadows.length = 5) : shadowAt (takeShadow m s) m = s.time.counter :=
  updAt_get (h5 ▸ shadowOf_lt m)

theorem shadowAt_takeShadow_other {k : Master} (hk : shadowOf k ≠ shadowOf m) : shadowAt (takeShadow m s) k = shadowAt s k :=
  updAt_get_ne hk

theorem masterRead_timeNow (hon : domainOn s 3 = true) (hw : accessBehind s m F.TIME_NOW_SEC_HI_value.base = false) :
    masterRead m F.TIME_NOW_SEC_HI_value.base s = emit (.value F.TIME_NOW_SEC_HI_value.base
      (wordOf (secOf (shadowAt (takeShadow m s) m) / 2 ^ 32 % 2 ^ 16))) (takeShadow m s) := by
  rw [read_low (d := F.TIME_NOW_SEC_HI_value.desc) (i := 0) (by decide) rfl hon hw,
    show readEffect m F.TIME_NOW_SEC_HI_value.base s = takeShadow m s from rfl]
  dsimp only
  rw [viewReg_timeNow, readClears_none (by decide) (by decide)]

theorem masterRead_wtFrame (hon : domainOn s 3 = true) (hw : accessBehind s m F.WT_FRAME_HI_frame.base = false) :
    masterRead m F.WT_FRAME_HI_frame.base s =
      emit (.value F.WT_FRAME_HI_frame.base (wordOf (fNow (latchFrame s) / 2 ^ 32))) (latchFrame s) := by
  rw [read_low (d := F.WT_FRAME_HI_frame.desc) (i := 0) (by decide) rfl hon hw,
    show readEffect m F.WT_FRAME_HI_frame.base s = latchFrame s from rfl]
  dsimp only
  rw [viewReg_wtFrame, readClears_none (by decide) (by decide)]

/-- The latch of WT_FRAME holds the frame index, and F goes on as before (R318, R340). -/
theorem latchFrame_spec (hs : Memory.wf resetWord s.regs) :
    fld (latchFrame s) F.WT_FRAME_HI_frame = fNow s / 2 ^ 32 % 2 ^ 32 ∧ fld (latchFrame s) F.WT_FRAME_LO_frame = fNow s % 2 ^ 32 ∧
      fNow (latchFrame s) = fNow s ∧ SetsC ps (one [F.WT_FRAME_HI_frame, F.WT_FRAME_LO_frame]) s (latchFrame s) := by
  unfold latchFrame setPair fld setFld
  refine ⟨?_, ?_, rfl, ((SetsC.refl hs).setFldAt (by decide) (by decide)).setFldAt (by decide) (by decide)⟩
  · rw [fldAt_setFldAt_ne (by decide), fldAt_setFldAt_same hs (by decide) (by decide)]
    show fNow s % 2 ^ 64 / 2 ^ 32 % 2 ^ 32 = _
    omega
  · rw [fldAt_setFldAt_same (setFldAt_wf hs) (by decide) (by decide)]
    show fNow s % 2 ^ 64 % 2 ^ 32 % 2 ^ 32 = _
    omega

/-! ### Event inputs (R311) -/

theorem setInst_eq_setRegWord {f : Fld} {w : Word} (hi : i < f.count) : setInst f i w s = setRegWord (f.addr i) w s := by
  unfold setInst setRegWord
  rw [if_pos hi]

theorem fldAt_setInst_same {f g : Fld} {w : Word} (hs : Memory.wf resetWord s.regs) (hi : i < f.count) (ha : g.addr i = f.addr i) :
    fldAt (setInst f i w s) g i = bitsOf w.toNat g.hi g.lo := by
  rw [fldAt, ha, regWord_setInst_same hs hi]

theorem fldAt_setInst_ne {f g : Fld} {w : Word} (ha : g.addr i ≠ f.addr i) : fldAt (setInst f i w s) g i = fldAt s g i := by
  rw [fldAt, regWord_setInst_ne ha, fldAt]

/-- What the registers of pin `n` show of its queue. -/
structure ShowsQueue (n : Nat) (q : List (Nat × Bool)) (t : State) : Prop where
  fill : fldAt t F.EVT_IN_CFG_fill n = q.length % 32
  head : ∀ x rising rest, q = (x, rising) :: rest →
    fldAt t F.EVT_IN_SEC_value n = secOf x % 2 ^ 32 ∧ fldAt t F.EVT_IN_NS_value n = nsOf x ∧
      fldAt t F.EVT_IN_FRAC_valid n = 1 ∧ fldAt t F.EVT_IN_FRAC_rising n = b2n rising ∧
      fldAt t F.EVT_IN_FRAC_quarter n = fracOf x / 2 ^ 30
  empty : q = [] → fldAt t F.EVT_IN_FRAC_valid n = 0

/-- The bits of pin `n` that follow its queue. -/
def inPinBits (n : Nat) : List (Fld × Nat) :=
  [(F.EVT_IN_CFG_fill, n), (F.EVT_IN_SEC_value, n), (F.EVT_IN_NS_value, n), wordAt (F.EVT_IN_FRAC_valid.addr n)]

/-- The registers of a pin lie apart. -/
theorem inAddr_ne {f g : Fld} (hf : f.stride = 0x10) (hg : g.stride = 0x10) (h : f.base ≠ g.base) : f.addr n ≠ g.addr n := by
  simpa [Fld.addr, hf, hg] using h

/-- The fields of the word that shows a time stamp's fraction. -/
theorem fracWord_fields {x : Nat} {rising : Bool} :
    bitsOf (BitVec.ofNat 32 (2 ^ 31 + b2n rising * 2 ^ 30 + fracOf x / 2 ^ 30)).toNat 31 31 = 1 ∧
      bitsOf (BitVec.ofNat 32 (2 ^ 31 + b2n rising * 2 ^ 30 + fracOf x / 2 ^ 30)).toNat 30 30 = b2n rising ∧
      bitsOf (BitVec.ofNat 32 (2 ^ 31 + b2n rising * 2 ^ 30 + fracOf x / 2 ^ 30)).toNat 1 0 = fracOf x / 2 ^ 30 := by
  have hr := b2n_le_one rising
  have hfrac : fracOf x / 2 ^ 30 < 4 := by unfold fracOf; omega
  generalize fracOf x / 2 ^ 30 = q at hfrac ⊢
  generalize b2n rising = r at hr ⊢
  rw [BitVec.toNat_ofNat, Nat.mod_eq_of_lt (by omega)]
  unfold bitsOf
  omega

/-- The registers of a pin show its queue, and nothing else changes (R311). -/
theorem showIn_spec (ht : SetsC ps (inPinBits n) s t) (hn : n < 8) :
    ShowsQueue n (inPin t n).queue (showIn n t) ∧ SetsC ps (inPinBits n) s (showIn n t) := by
  have hfill : fldAt (setFldAt F.EVT_IN_CFG_fill n (inPin t n).queue.length t) F.EVT_IN_CFG_fill n = (inPin t n).queue.length % 32 :=
    fldAt_setFldAt_same ht.wf (by decide) hn
  have hsets : SetsC ps (inPinBits n) s (setFldAt F.EVT_IN_CFG_fill n (inPin t n).queue.length t) :=
    ht.setFldAt (by decide) (by simp [inPinBits])
  unfold showIn
  dsimp only
  generalize setFldAt F.EVT_IN_CFG_fill n (inPin t n).queue.length t = u at hfill hsets ⊢
  split
  case h_1 hq =>
    refine ⟨⟨?_, fun x rising rest e => by simp [hq] at e, fun _ => ?_⟩, ?_⟩
    · rw [fldAt_setFldAt_ne (inAddr_ne rfl rfl (by decide)), fldAt_setFldAt_ne (inAddr_ne rfl rfl (by decide)),
        fldAt_setInst_ne (inAddr_ne rfl rfl (by decide)), hfill]
    · rw [fldAt_setFldAt_ne (inAddr_ne rfl rfl (by decide)), fldAt_setFldAt_ne (inAddr_ne rfl rfl (by decide)),
        fldAt_setInst_same hsets.wf hn rfl]
      rfl
    · rw [setInst_eq_setRegWord hn]
      exact ((hsets.word (by simp [inPinBits])).setFldAt (by decide) (by simp [inPinBits])).setFldAt (by decide) (by simp [inPinBits])
  case h_2 x rising rest hq =>
    have hsec := hsets.setFldAt (f := F.EVT_IN_SEC_value) (i := n) (v := secOf x) (by decide) (by simp [inPinBits])
    have hns := hsec.setFldAt (f := F.EVT_IN_NS_value) (i := n) (v := nsOf x) (by decide) (by simp [inPinBits])
    refine ⟨⟨?_, fun x' rising' rest' e => ?_, fun e => by simp [hq] at e⟩, ?_⟩
    · rw [fldAt_setInst_ne (inAddr_ne rfl rfl (by decide)), fldAt_setFldAt_ne (inAddr_ne rfl rfl (by decide)),
        fldAt_setFldAt_ne (inAddr_ne rfl rfl (by decide)), hfill]
    · obtain ⟨⟨rfl, rfl⟩, rfl⟩ : (x = x' ∧ rising = rising') ∧ rest = rest' := by simpa [hq] using e
      obtain ⟨hvalid, hrising, hquarter⟩ := fracWord_fields (x := x) (rising := rising)
      refine ⟨?_, ?_, ?_, ?_, ?_⟩
      · rw [fldAt_setInst_ne (inAddr_ne rfl rfl (by decide)), fldAt_setFldAt_ne (inAddr_ne rfl rfl (by decide)),
          fldAt_setFldAt_same hsets.wf (by decide) hn]
        rfl
      · rw [fldAt_setInst_ne (inAddr_ne rfl rfl (by decide)), fldAt_setFldAt_same hsec.wf (by decide) hn]
        have hlt : nsOf x < 2 ^ 32 := (Nat.mod_lt _ (by decide)).trans (by decide)
        exact Nat.mod_eq_of_lt hlt
      · exact (fldAt_setInst_same (g := F.EVT_IN_FRAC_valid) hns.wf hn rfl).trans hvalid
      · exact (fldAt_setInst_same (g := F.EVT_IN_FRAC_rising) hns.wf hn rfl).trans hrising
      · exact (fldAt_setInst_same (g := F.EVT_IN_FRAC_quarter) hns.wf hn rfl).trans hquarter
    · rw [setInst_eq_setRegWord hn]
      exact hns.word (by simp [inPinBits])

theorem showIn_time (hs : Memory.wf resetWord s.regs) (hn : n < 8) : (showIn n s).time = s.time :=
  (showIn_spec (ps := []) (SetsC.refl hs) hn).2.parts .time List.not_mem_nil

theorem showIn_emitted (hs : Memory.wf resetWord s.regs) (hn : n < 8) : (showIn n s).emitted = s.emitted :=
  (showIn_spec (ps := []) (SetsC.refl hs) hn).2.parts .emitted List.not_mem_nil

/-- A pin without its head entry. -/
def InPin.popped (q : InPin) : InPin := { q with queue := q.queue.drop 1 }

/-- The head entry of a pin's queue goes, and its registers show the next one (R311). -/
theorem inPop_spec (hs : Memory.wf resetWord s.regs) (hn : n < 8) :
    (inPop n s).time = { s.time with ins := updAt InPin.popped s.time.ins n } ∧
      ShowsQueue n (inPin (inPop n s) n).queue (inPop n s) ∧ (inPop n s).emitted = s.emitted ∧
      SetsC [.time, .emitted] (inPinBits n) s (inPop n s) := by
  have htime : SetsC [.time, .emitted] (inPinBits n) s (setTime (fun t => { t with ins := updAt InPin.popped t.ins n }) s) :=
    (SetsC.refl hs).setTime (by decide)
  obtain ⟨hshows, hsets⟩ := showIn_spec htime hn
  have hkept : (inPop n s).time = { s.time with ins := updAt InPin.popped s.time.ins n } := showIn_time htime.wf hn
  refine ⟨hkept, ?_, showIn_emitted htime.wf hn, hsets⟩
  have hq : (inPin (inPop n s) n).queue = _ := congrArg (fun t => (t.ins.getD n {}).queue) hkept
  rw [hq]
  exact hshows

theorem findReg_inFrac (hn : n < 8) : findReg (F.EVT_IN_FRAC_valid.addr n) = some (F.EVT_IN_FRAC_valid.desc, n) := by
  interval_cases n <;> rfl

theorem roleAbsent_inFrac (hn : n < 8) : roleAbsent s F.EVT_IN_FRAC_valid.desc n = false := by
  have hb : (F.EVT_IN_FRAC_valid.desc.bounds s.board.role) = (0, 8) := by cases s.board.role <;> rfl
  exact roleAbsent_of_bounds (by rw [hb]; exact ⟨Nat.zero_le _, hn⟩) (.inr (by decide)) (by decide)

/-- A read of EVT_IN_FRAC: the word leaves, then the head entry goes (R311). -/
theorem masterRead_inFrac (hn : n < 8) (hon : domainOn s 3 = true) (hw : accessBehind s m (F.EVT_IN_FRAC_valid.addr n) = false) :
    masterRead m (F.EVT_IN_FRAC_valid.addr n) s =
      emit (.value (F.EVT_IN_FRAC_valid.addr n) (regWord s (F.EVT_IN_FRAC_valid.addr n))) (inPop n s) := by
  have hdom : regDomain (F.EVT_IN_FRAC_valid.addr n) = 3 := by interval_cases n <;> rfl
  have haddr : F.EVT_IN_FRAC_valid.addr n = 0x4030C + 0x10 * n := rfl
  have hview : viewReg m s F.EVT_IN_FRAC_valid.desc n = regWord s (F.EVT_IN_FRAC_valid.addr n) := by
    have hwhole : viewReg m s F.EVT_IN_FRAC_valid.desc n = regWord s (F.EVT_IN_FRAC_valid.addr n) &&& ~~~ (0 : Word) := by
      unfold viewReg
      rw [roleAbsent_inFrac hn]
      interval_cases n <;> rfl
    exact hwhole.trans BitVec.and_allOnes
  have hclear : readClears F.EVT_IN_FRAC_valid.desc n s = inPop n s := by
    unfold readClears
    rw [roleAbsent_inFrac hn]
    rfl
  rw [read_low (by omega) (findReg_inFrac hn) (by rw [hdom]; exact hon) hw,
    readEffect_none (by simp [F.TIME_NOW_SEC_HI_value, F.WT_FRAME_HI_frame]; omega) (by omega)]
  dsimp only
  rw [hview, hclear]

/-! ### The store (R81) -/

/-- A read of a store word of a domain that serves, where lines, ingest and snapshots leave nothing of theirs (R81). -/
theorem masterRead_store (ha : inStore a = true) (hon : domainOn s (placeDomain a) = true) (hw : accessBehind s m a = false)
    (hpool : inPool s a = false) (hin : inIngest s a = false) (hred : inRedBuf s 0 (a - 0x10000000) = false) :
    masterRead m a s = { s with emitted := .value a (storeWord s (a - 0x10000000)) :: s.emitted } := by
  have hdram : inDram a = false := by
    simp only [inStore, inDram, Bool.and_eq_true, Bool.and_eq_false_iff, decide_eq_true_eq, decide_eq_false_iff_not] at ha ⊢
    omega
  have hserve : accessServe s { kind := .read, master := m, addr := a } = .now := by simp [accessServe, hdram, serve, hon]
  have hread : busRead m a s = (storeWord s (a - 0x10000000), s) := by simp [busRead, hon, ha, readStore, hpool, hin, hred]
  have hfirst : behind s { kind := .read, master := m, addr := a } = false := hw
  rw [masterRead, access, hfirst, hserve]
  simp only [Bool.false_eq_true, if_false, performAccess, hread]
  rfl

/-! ### The commands -/

theorem timeShadowRead_latches (hs : s.canonical) (hon : domainOn s 3 = true)
    (hw : accessBehind s m F.TIME_NOW_SEC_HI_value.base = false) (h5 : s.time.shadows.length = 5) :
    Runs (.timeShadowRead m) s fun t =>
      shadowAt t m = s.time.counter ∧ (∀ k, shadowOf k ≠ shadowOf m → shadowAt t k = shadowAt s k) ∧
      t.time = { s.time with shadows := t.time.shadows } ∧
      t.emitted = .value F.TIME_NOW_SEC_HI_value.base (wordOf (secOf s.time.counter / 2 ^ 32 % 2 ^ 16)) :: s.emitted ∧
      Sets [.time, .emitted] [] s t := by
  have hshadow : shadowAt (takeShadow m s) m = s.time.counter := shadowAt_takeShadow h5
  refine ⟨masterRead m F.TIME_NOW_SEC_HI_value.base s, rfl, ?_⟩
  rw [masterRead_timeNow hon hw, hshadow]
  exact ⟨hshadow, fun k hk => shadowAt_takeShadow_other hk, rfl, rfl,
    (((SetsC.refl hs.regs).setTime (by decide)).emit (by decide)).toSets⟩

theorem wtFrameRead_latches (hs : s.canonical) (hon : domainOn s 3 = true)
    (hw : accessBehind s m F.WT_FRAME_HI_frame.base = false) :
    Runs (.wtFrameRead m) s fun t =>
      fld t F.WT_FRAME_HI_frame = fNow s / 2 ^ 32 % 2 ^ 32 ∧ fld t F.WT_FRAME_LO_frame = fNow s % 2 ^ 32 ∧
      t.emitted = .value F.WT_FRAME_HI_frame.base (wordOf (fNow s / 2 ^ 32)) :: s.emitted ∧
      Sets [.emitted] (one [F.WT_FRAME_HI_frame, F.WT_FRAME_LO_frame]) s t := by
  obtain ⟨hhi, hlo, hnow, hsets⟩ := latchFrame_spec (ps := [.emitted]) hs.regs
  refine ⟨masterRead m F.WT_FRAME_HI_frame.base s, rfl, ?_⟩
  rw [masterRead_wtFrame hon hw, hnow]
  exact ⟨hhi, hlo, rfl, (hsets.emit (by decide)).toSets⟩

theorem exec_evtInPop (hn : n < 8) : exec (.evtInPop m n) s = .next (masterRead m (F.EVT_IN_FRAC_valid.addr n) s) := by
  have hinst : hasInst F.EVT_IN_FRAC_valid n = true := by interval_cases n <;> rfl
  show Host.Outcome.next (readInst m F.EVT_IN_FRAC_valid n s) = _
  rw [readInst, if_pos hinst]

theorem evtInPop_pops (hs : s.canonical) (hn : n < 8) (hon : domainOn s 3 = true)
    (hw : accessBehind s m (F.EVT_IN_FRAC_valid.addr n) = false) (h8 : s.time.ins.length = 8) :
    Runs (.evtInPop m n) s fun t =>
      inPin t n = (inPin s n).popped ∧ (∀ k, k ≠ n → inPin t k = inPin s k) ∧ ShowsQueue n (inPin s n).popped.queue t ∧
      t.time = { s.time with ins := t.time.ins } ∧
      t.emitted = .value (F.EVT_IN_FRAC_valid.addr n) (regWord s (F.EVT_IN_FRAC_valid.addr n)) :: s.emitted ∧
      Sets [.time, .emitted] (inPinBits n) s t := by
  obtain ⟨htime, hshows, hemit, hsets⟩ := inPop_spec hs.regs hn
  have hpin : inPin (inPop n s) n = (inPin s n).popped := by
    rw [inPin, htime]
    exact updAt_get (h8 ▸ hn)
  have hother : ∀ k, k ≠ n → inPin (inPop n s) k = inPin s k := fun k hk => by
    rw [inPin, htime]
    exact updAt_get_ne hk
  refine ⟨_, exec_evtInPop hn, ?_⟩
  rw [masterRead_inFrac hn hon hw]
  rw [hpin] at hshows
  exact ⟨hpin, hother, ⟨hshows.fill, hshows.head, hshows.empty⟩, by rw [emit_time, htime], congrArg _ hemit,
    (hsets.emit (by decide)).toSets⟩

theorem exec_storeDebugRead (h4 : a % 4 = 0) (ha : inStore a = true) :
    exec (.storeDebugRead m a) s = .next (masterRead m a s) := by
  have hcond : (a % 4 == 0 && (inStore a || inDram a)) = true := by simp [h4, ha]
  show Host.Outcome.next (if (a % 4 == 0 && (inStore a || inDram a)) = true then masterRead m a s else s) = _
  rw [if_pos hcond]

/-- Settles O19: a read that waits for nothing takes effect at once, and what it changes is the effect of its register's read. -/
theorem readsReturnAndClear : Obligations.ReadsReturnAndClear := by
  intro m s hs
  refine ⟨fun a i d h4 hlow hd hr hon hw hb ha hf => rcRead_register hs h4 hlow hd hr hon hw hb ha hf,
    timeShadowRead_latches hs, wtFrameRead_latches hs, fun n hn hon hw h8 => ?_, fun a h4 ha hon hw hpool hin hred =>
      ⟨_, exec_storeDebugRead h4 ha, masterRead_store ha hon hw hpool hin hred⟩⟩
  obtain ⟨t, he, hpin, hother, hshows, htime, hemit, hsets⟩ := evtInPop_pops hs hn hon hw h8
  refine ⟨t, he, by rw [hpin, InPin.popped], by rw [hpin, InPin.popped], fun k _ hk => hother k hk, ?_, hshows.head, hshows.empty,
    htime, hemit, hsets⟩
  rw [hshows.fill, InPin.popped, List.length_drop]

end Sys2Proof.Machine
end

section
/-! PROOF. Coded units: what the WCS-F encoder writes, and what the decoder takes back (R195 to R199, R201). -/

namespace Sys2Proof.Machine

variable {f w h b d q : Nat} {u : List Plane} {ws : List Nat} {t : List Bool} {bytes : List Byte}

/-! ### Units (R195) -/

/-- A unit of `w` columns and `h` rows in format `f`: a plane of samples for each component. -/
def UnitOk (f w h : Nat) (u : List Plane) : Prop :=
  List.Forall₂ (fun p x => wcsPlaneOk (pixDepth f) h x p) u ((List.range (pixComps f)).map (planeWidth f w))

theorem UnitOk.length (hu : UnitOk f w h u) : u.length = pixComps f := by
  rw [List.Forall₂.length_eq hu, List.length_map, List.length_range]

theorem pixDepth_bounds (f : Nat) : 10 ≤ pixDepth f ∧ pixDepth f ≤ 12 := by
  unfold pixDepth; split <;> decide

theorem pixComps_le (f : Nat) : pixComps f ≤ 4 := by
  unfold pixComps; split <;> decide

/-! ### The stream that the encoder chooses (R199) -/

/-- The first quantiser that makes the unit fit its budget. -/
def firstFit (d b : Nat) (u : List Plane) : Option Nat :=
  (List.range (d + 1)).find? (fun q => decide ((wcsBits d q u).length ≤ 8 * b))

/-- The stream of a unit: under the first quantiser that makes it fit, or else flat. -/
def unitBits (d b : Nat) (u : List Plane) : List Bool := ((firstFit d b u).map (fun q => wcsBits d q u)).getD (flatBits d u)

theorem encodeF_eq (d b : Nat) (u : List Plane) : encodeF d b u = padTo b (encodeF.bitsBytes' (unitBits d b u)) := by
  unfold encodeF unitBits firstFit
  rw [List.find?_map]
  rfl

theorem firstFit_spec (hq : firstFit d b u = some q) : q ≤ d ∧ (wcsBits d q u).length ≤ 8 * b := by
  have hfits := List.find?_some (p := fun q => decide ((wcsBits d q u).length ≤ 8 * b)) hq
  have hmem := List.mem_of_find?_eq_some hq
  exact ⟨Nat.le_of_lt_succ (List.mem_range.1 hmem), of_decide_eq_true hfits⟩

theorem length_flatBits (d : Nat) (u : List Plane) : (flatBits d u).length = 4 + u.length * d := by
  simp [flatBits, List.length_flatMap]

/-- A flat unit of at most four components always fits (R199). -/
theorem flatBits_fits (hb : 10 ≤ b) (hu : UnitOk f w h u) : (flatBits (pixDepth f) u).length ≤ 8 * b := by
  have hmul : u.length * pixDepth f ≤ 4 * 12 := Nat.mul_le_mul (hu.length ▸ pixComps_le f) (pixDepth_bounds f).2
  rw [length_flatBits]
  omega

theorem unitBits_fits (hb : 10 ≤ b) (hu : UnitOk f w h u) : (unitBits (pixDepth f) b u).length ≤ 8 * b := by
  unfold unitBits
  cases hq : firstFit (pixDepth f) b u with
  | none => exact flatBits_fits hb hu
  | some q => exact (firstFit_spec hq).2

/-! ### A stream under a quantiser, decoded (R196 to R199) -/

theorem decodeUnit_wcsBits (hq : q ≤ pixDepth f) (hu : UnitOk f w h u)
    (hbytes : bytesBits bytes = wcsBits (pixDepth f) q u ++ t) :
    (decodeUnit f w h bytes).corrupt = false ∧
      List.Forall₂ (List.Forall₂ (List.Forall₂ (wcsClose q))) u (decodeUnit f w h bytes).planes := by
  obtain ⟨hd, hd'⟩ := pixDepth_bounds f
  obtain ⟨ps, tail, hhead, ⟨rest, hks, hps⟩, hclose⟩ := wcs_bits_decode (by omega) (by omega) hq hu t
  rw [hu.length] at hks
  have hdec : decodeUnit f w h bytes = { planes := ps, corrupt := false } := by
    have h15 : (q == 15) = false := by rw [beq_eq_false_iff_ne]; omega
    simp [decodeUnit, hbytes, hhead, h15, hks, hps, hq, -List.map_map]
  rw [hdec]
  exact ⟨rfl, hclose⟩

/-! ### A flat stream, decoded (R196, R199) -/

/-- A plane with every sample replaced by the plane's mean. -/
def meanPlane (p : Plane) : Plane := p.map (fun row => row.map (fun _ => planeMean p))

theorem meanPlane_eq {x : Nat} {p : Plane} (hp : wcsPlaneOk d h x p) : meanPlane p = List.replicate h (List.replicate x (planeMean p)) := by
  obtain ⟨rfl, hrow⟩ := hp
  rw [meanPlane, List.eq_replicate_iff]
  refine ⟨List.length_map .., fun r hr => ?_⟩
  obtain ⟨row, hmem, rfl⟩ := List.mem_map.1 hr
  rw [List.map_const', (hrow row hmem).1]

theorem zip_means (hu : List.Forall₂ (fun p x => wcsPlaneOk d h x p) u ws) :
    (List.zip ws (u.map planeMean)).map (fun x => List.replicate h (List.replicate x.1 x.2)) = u.map meanPlane := by
  induction hu with
  | nil => rfl
  | cons hp _ ih => rw [List.map_cons, List.zip_cons_cons, List.map_cons, ih, List.map_cons, meanPlane_eq hp]

theorem planeMeans_lt (hd : 0 < d) (hu : List.Forall₂ (fun p x => wcsPlaneOk d h x p) u ws) : ∀ v ∈ u.map planeMean, v < 2 ^ d := by
  induction hu with
  | nil => intro v hv; cases hv
  | cons hp _ ih => exact List.forall_mem_cons.2 ⟨planeMean_lt hd hp, ih⟩

theorem decodeUnit_flatBits (hu : UnitOk f w h u) (hbytes : bytesBits bytes = flatBits (pixDepth f) u ++ t) :
    decodeUnit f w h bytes = { planes := u.map meanPlane, corrupt := false } := by
  have hd : 0 < pixDepth f := Nat.lt_of_lt_of_le (by decide) (pixDepth_bounds f).1
  have hhead : takeBits 4 (bytesBits bytes) = some (15, u.flatMap (fun p => msbBits (pixDepth f) (planeMean p)) ++ t) := by
    rw [hbytes, flatBits, List.append_assoc, takeBits_msbBits (by decide)]
  have hmeans := takeFields_msbBits (planeMeans_lt hd hu) (t := t)
  rw [List.length_map, hu.length, List.flatMap_map] at hmeans
  simp [decodeUnit, hhead, hmeans, zip_means hu]

/-! ### Encoder and decoder -/

/-- Settles O22: the chosen stream fits the budget, so the bytes spell it and then zeros (R195), and its fields read back. -/
theorem codedUnitsDecode : Obligations.CodedUnitsDecode := by
  intro f w h b u _ hb hu
  obtain ⟨⟨z, hbits⟩, hlen⟩ := bytesBits_padTo (unitBits_fits hb hu)
  rw [← encodeF_eq] at hbits hlen
  refine ⟨hlen, ?_⟩
  change _ ∧ match firstFit (pixDepth f) b u with | some _ => _ | none => _
  cases hq : firstFit (pixDepth f) b u with
  | some q =>
    rw [unitBits, hq] at hbits
    exact decodeUnit_wcsBits (firstFit_spec hq).1 hu hbits
  | none =>
    rw [unitBits, hq] at hbits
    rw [decodeUnit_flatBits hu hbits]
    exact ⟨rfl, rfl⟩

end Sys2Proof.Machine
end

section
/-! PROOF. The counter corrected by steps, loads and adjustments (R292, R294). -/

namespace Sys2Proof.Machine

variable {s t : State} {m : Master} {f g : Fld} {k n new : Nat}

/-! ### Flags and sticky bits -/

theorem flag_setFlag_same {b : Bool} (hs : s.canonical) (hf : f.lo = f.hi ∧ f.hi < 32) (hc : 0 < f.count) :
    flag (setFlag f b s) f = b := by
  obtain ⟨hbit, hword⟩ := hf
  unfold flag flagAt setFlag
  rw [fldAt_setFldAt_same hs.regs ⟨hbit.le, hword⟩ hc, hbit, Nat.add_sub_cancel_left]
  cases b <;> rfl

/-- A flag leaves the other flags of its register alone. -/
theorem flag_setFlag_other {b : Bool} (hs : s.canonical)
    (h : f.fits ∧ g.fits ∧ g.addr 0 = f.addr 0 ∧ (f.hi < g.lo ∨ g.hi < f.lo)) : flag (setFlag f b s) g = flag s g := by
  obtain ⟨hf, hg, haddr, hapart⟩ := h
  unfold flag flagAt setFlag
  rw [fldAt_setFldAt_other hs.regs hf hg haddr hapart]

theorem flag_raise (h : maskAvoids 0x41000000000000000000010000e00000000020 (f.addr 0) = true) : flag (raise n s) f = flag s f :=
  (foot_raise (Foot.refl _ s) (Nat.or_self _)).flag_eq h

theorem sticky_of_raise (hs : s.canonical) (hn : srcExists n = true) : stickyBit (raise n s) n = true := by
  rw [sticky_raise hs.regs hn (srcExists_lt hn), beq_self_eq_true, Bool.or_true]

theorem raise_keeps_sticky (hs : s.canonical) (hn : srcExists n = true) (hk : k < 256) (h : stickyBit s k = true) :
    stickyBit (raise n s) k = true := by
  rw [sticky_raise hs.regs hn hk, h, Bool.true_or]

/-! ### The corrected counter (R294, R310, R336) -/

/-- From `s` to `t` the counter has taken the value `new` and TIME_STEPPED is raised; of the time unit's own state only the event
output pins follow. -/
structure Corrected (new : Nat) (s t : State) : Prop where
  canonical : t.canonical
  time : t.time = { s.time with counter := new, outs := t.time.outs }
  stepped : stickyBit t Src.TIME_STEPPED = true

theorem Corrected.ite {c : Prop} [Decidable c] {u : State} (h : Corrected new s t) (k : Corrected new s u) :
    Corrected new s (if c then t else u) := by
  split <;> assumption

theorem Corrected.raise (h : Corrected new s t) (hn : srcExists n = true) : Corrected new s (raise n t) where
  canonical := raise_canonical h.canonical
  time := by rw [raise_time]; exact h.time
  stepped := raise_keeps_sticky h.canonical hn (by decide) h.stepped

theorem Corrected.setWt {w : WtState → WtState} (h : Corrected new s t) : Corrected new s (setWt w t) := ⟨h.canonical, h.time, h.stepped⟩

theorem Corrected.setOut {q : OutPin → OutPin} (h : Corrected new s t) : Corrected new s (setOut n q t) where
  canonical := h.canonical
  time := by unfold Machine.setOut; rw [setTime_time, h.time]
  stepped := h.stepped

theorem Corrected.setFldAt {i v : Nat} (h : Corrected new s t) (ha : f.addr i < 0x10100 ∨ 0x10120 ≤ f.addr i) :
    Corrected new s (setFldAt f i v t) where
  canonical := setFldAt_canonical h.canonical
  time := by rw [setFldAt_time]; exact h.time
  stepped := (setFldAt_sticky ha (by decide)).trans h.stepped

theorem Corrected.outLate (h : Corrected new s t) : Corrected new s (outLate n t) :=
  (h.setOut.setFldAt (.inr (by simp only [F.EVT_OUT_CTRL_late, Fld.addr]; omega))).raise (by decide)

/-- The armed pins recompute their next edges (R310). -/
theorem Corrected.outStepped {forward : Bool} (h : Corrected new s t) : Corrected new s (outStepped forward t) := by
  refine forEach_inv (P := Corrected new s) (fun n u hu => ?_) h
  have hskipped : F.EVT_OUT_COUNT_skipped.addr n < 0x10100 ∨ 0x10120 ≤ F.EVT_OUT_COUNT_skipped.addr n :=
    .inr (by simp only [F.EVT_OUT_COUNT_skipped, Fld.addr]; omega)
  exact hu.ite ((hu.outLate.ite hu).ite ((hu.setOut.setFldAt hskipped).ite hu.setOut))

theorem corrected_set {w : WtState → WtState} (hs : s.canonical) :
    Corrected new s (raise Src.TIME_STEPPED (setTime (fun x => { x with counter := new }) (setWt w s))) where
  canonical := raise_canonical hs
  time := by rw [raise_time]; rfl
  stepped := sticky_of_raise (s := setTime (fun x => { x with counter := new }) (setWt w s)) hs (by decide)

/-- A correction of the counter: a small step counts a slip and any other correction is unscheduled (R336), and the pins follow. -/
theorem retime_corrected {size : Option Nat} (hs : s.canonical) : Corrected new s (retime new size s) := by
  unfold retime
  dsimp only
  have hset := corrected_set (new := new) (w := fun w => { w with rateWas := rateAhead s }) hs
  exact (Corrected.ite (hset.setFldAt (.inr (by decide))) (hset.setWt.raise (by decide))).setWt.outStepped

/-- The registers that a correction may write: beside the event collector's those of the pins (R310) and WT_SLIPS (R336). -/
def correctionFlds : List Fld := [F.EVT_OUT_CTRL_enable, F.EVT_OUT_COUNT_skipped, F.WT_SLIPS_slips] ++ eventFlds

theorem retime_foot {size : Option Nat} : Foot 0x10000041001000000000800000010000e00000000320 s (retime new size s) :=
  foot_retime (Foot.refl _ s) (Nat.or_self _)

/-- From `s` to `t` the counter has taken the value `new`, TIME_STEPPED is raised, a running adjustment runs on (R294), and beside
the time unit only the event collector, wall timing and the registers of `correctionFlds` change. -/
def CorrectsTo (new : Nat) (s t : State) : Prop :=
  t.time.counter = new ∧ stickyBit t Src.TIME_STEPPED = true ∧ t.time.adjDelta = s.time.adjDelta ∧
    t.time.adjCount = s.time.adjCount ∧ fld t F.TIME_STAT_adj_busy = fld s F.TIME_STAT_adj_busy ∧
    fld t F.TIME_ADJ_CNT_count = fld s F.TIME_ADJ_CNT_count ∧ Changes [.evt, .time, .wt] correctionFlds s t

theorem retime_spec {size : Option Nat} (hs : s.canonical) : CorrectsTo new s (retime new size s) := by
  obtain ⟨-, htime, hstepped⟩ := retime_corrected (new := new) (size := size) hs
  refine ⟨by rw [htime], hstepped, by rw [htime], by rw [htime], retime_foot.fld_eq ?_, retime_foot.fld_eq ?_, retime_foot.changes ?_⟩ <;>
    decide +kernel

/-! ### The triggers of TIME_CTRL (R294) -/

theorem writeOnly_stepGo : WriteOnly F.TIME_CTRL_step_go 0 3 := {}

theorem writeOnly_stepLoad : WriteOnly F.TIME_CTRL_step_load 0 3 := {}

theorem effect_stepGo : effectOfOne F.TIME_CTRL_step_go 0 s = timeStep s := rfl

theorem effect_stepLoad : effectOfOne F.TIME_CTRL_step_load 0 s = timeLoad s := rfl

theorem counterMod_eq : counterMod = 2 ^ 80 * 10 ^ 9 := by decide

theorem timeStep_spec (hs : s.canonical) : CorrectsTo (((s.time.counter : Int) + (sgn 48 (stepSeconds s) * 10 ^ 9 +
    clampZ (-999999999) 999999999 (sgn 32 (fld s F.TIME_STEP_NS_value))) * 2 ^ 32) % (2 ^ 80 * 10 ^ 9)).toNat s (timeStep s) := by
  unfold timeStep stepBy
  rw [counterMod_eq]
  exact retime_spec hs

theorem timeLoad_spec (hs : s.canonical) : CorrectsTo
    ((stepSeconds s * 10 ^ 9 + (clampZ 0 999999999 (sgn 32 (fld s F.TIME_STEP_NS_value))).toNat) * 2 ^ 32) s (timeLoad s) := by
  unfold timeLoad nsUnit
  exact retime_spec hs

theorem exec_timeStep (hs : s.canonical) (hon : domainOn s 3 = true) (hb : accessBehind s m F.TIME_CTRL_step_go.base = false) :
    exec (.timeStep m) s = .next (timeStep s) := by
  show Host.Outcome.next (writeField m F.TIME_CTRL_step_go 0 1 s) = _
  rw [writeOnly_stepGo.write_one hs (roleAbsent_of_bounds (by cases s.board.role <;> decide) (.inr (by decide)) (by decide)) hon hb,
    effect_stepGo]

theorem exec_timeLoad (hs : s.canonical) (hon : domainOn s 3 = true) (hb : accessBehind s m F.TIME_CTRL_step_go.base = false) :
    exec (.timeLoad m) s = .next (timeLoad s) := by
  show Host.Outcome.next (writeField m F.TIME_CTRL_step_load 0 1 s) = _
  rw [writeOnly_stepLoad.write_one hs (roleAbsent_of_bounds (by cases s.board.role <;> decide) (.inr (by decide)) (by decide)) hon hb,
    effect_stepLoad]

/-! ### Writes of a whole register -/

/-- Field `g` lies in a register of the time unit of which `f` holds all RW bits; its other bits are write-only (R11). -/
structure WholeWrite (g f : Fld) : Prop where
  place : g.addr 0 = f.addr 0 := by rfl
  found : findReg (f.addr 0) = some (f.desc, 0) := by rfl
  low : f.addr 0 < 0x10000000 := by decide
  domain : regDomain (f.addr 0) = 3 := by rfl
  block : f.desc.base < 0x80000 := by decide
  bounds : ∀ role, (f.desc.bounds role).1 ≤ 0 ∧ 0 < (f.desc.bounds role).2 := by exact fun role => by cases role <;> decide
  listed : f.desc.fields.any (fun x => x.fld == g) = true := by decide
  fits : f.fits := by decide
  count : 0 < f.count := by decide
  inside : ~~~ bitsWhere f.desc (fun _ => true) = 0 := by decide
  alone : bitsWhere f.desc (fun x => x != .rw && x != .wo) = 0 := by decide
  written : bitsWhere f.desc (fun x => x == .rw) = rcMask.fieldBits f := by decide
  whole : arrayReserved f.desc 0 = 0 := by rfl
  present : ∀ s : State, absentBits s f.desc 0 = 0 := by exact fun _ => rfl
  own : ownBits f.desc = 0 := by rfl

/-- A write of the whole register: its RW field takes its bits, and the write has its effect (R440). -/
theorem WholeWrite.write {v : Word} (h : WholeWrite g f) (hon : domainOn s 3 = true) (hb : accessBehind s m (f.addr 0) = false) :
    writeInst m g 0 0xFFFFFFFF v s = writeEffect f.desc 0 0xFFFFFFFF v s (setFld f (bitsOf v.toNat f.hi f.lo) s) := by
  have hall : ∀ x : Word, 0xFFFFFFFF &&& x = x := fun x => BitVec.allOnes_and
  have hnone : ∀ x : Word, x &&& ~~~ BitVec.ofNat 32 0 = x := fun x => BitVec.and_allOnes
  have hrole : roleAbsent s f.desc 0 = false := by
    have hlow := h.block
    refine roleAbsent_of_bounds (h.bounds _) (.inr (by omega)) ?_
    simp only [F.ACCORD_WORD_word, F.TMAP_HI_x0, F.TMAP_LO_w, List.mem_cons, List.not_mem_nil, or_false, not_or]
    omega
  rw [writeInst_plain (h.place ▸ h.found) h.listed ((findReg_base h.found).trans h.place.symm) (h.place ▸ h.low)
    (by rw [h.place, h.domain, hon]) hrole (h.place ▸ hb) (by rw [h.whole, hnone, hall]; exact h.inside)
    (by rw [hall]; exact h.alone) (by rw [h.present, h.whole, hnone, hnone])
    ((hall _).trans h.written) h.own,
    h.place, setReg_field h.fits h.count]
  rfl

theorem wholeWrite_adjCnt : WholeWrite F.TIME_ADJ_CNT_go F.TIME_ADJ_CNT_count := {}

theorem wholeWrite_incr : WholeWrite F.TIME_INCR_incr F.TIME_INCR_incr := {}

theorem wholeWrite_err : WholeWrite F.TIME_ERR_offset F.TIME_ERR_offset := {}

theorem effect_incr {v : Word} : writeEffect F.TIME_INCR_incr.desc 0 0xFFFFFFFF v s t = t := rfl

theorem effect_err {v : Word} : writeEffect F.TIME_ERR_offset.desc 0 0xFFFFFFFF v s t = timeErrWritten t := rfl

/-- A field of 32 bits takes the whole word. -/
theorem bitsOf_wholeWord {v : Word} (hlo : f.lo = 0) (hhi : f.hi = 31) : bitsOf v.toNat f.hi f.lo = v.toNat := by
  have hlt := v.isLt
  rw [hlo, hhi, bitsOf]
  omega

/-- TIME_INCR takes the increment (R292). -/
theorem timeIncrWrite_sets {value : Word} (hs : s.canonical) (hon : domainOn s 3 = true)
    (hb : accessBehind s m F.TIME_INCR_incr.base = false) :
    Runs (.timeIncrWrite m value) s fun t => fld t F.TIME_INCR_incr = value.toNat ∧ Sets [] (one [F.TIME_INCR_incr]) s t := by
  refine ⟨_, congrArg Host.Outcome.next (wholeWrite_incr.write hon hb), ?_⟩
  rw [effect_incr, bitsOf_wholeWord rfl rfl]
  exact ⟨(fldAt_setFldAt_same hs.regs (by decide) (by decide)).trans (Nat.mod_eq_of_lt value.isLt),
    ((SetsC.refl hs.regs).setFldAt (by decide) (by decide)).toSets⟩

/-! ### Adjustments (R294) -/

/-- The word that starts an adjustment of `count` cycles: go above the count. -/
theorem goWord_fields {count : Nat} (hc : count < 2 ^ 31) :
    bitsOf (wordOf (2 ^ 31 + count % 2 ^ 31)).toNat 30 0 = count ∧
      bitOf (wordOf (2 ^ 31 + count % 2 ^ 31) &&& 0xFFFFFFFF).toNat 31 = true := by
  have hall : wordOf (2 ^ 31 + count % 2 ^ 31) &&& 0xFFFFFFFF = wordOf (2 ^ 31 + count % 2 ^ 31) := BitVec.and_allOnes
  rw [hall, wordOf, BitVec.toNat_ofNat]
  simp only [bitsOf, bitOf, beq_iff_eq]
  omega

theorem exec_timeAdjustGo {count : Nat} (hc : count < 2 ^ 31) (hon : domainOn s 3 = true)
    (hb : accessBehind s m F.TIME_ADJ_CNT_count.base = false) :
    exec (.timeAdjustGo m count) s = .next (adjustGo (setFld F.TIME_ADJ_CNT_count count s)) := by
  obtain ⟨hcount, hgo⟩ := goWord_fields hc
  refine congrArg Host.Outcome.next ((wholeWrite_adjCnt.write hon hb).trans ?_)
  rw [show bitsOf _ F.TIME_ADJ_CNT_count.hi F.TIME_ADJ_CNT_count.lo = count from hcount]
  exact if_pos hgo

/-- A start samples the delta and the count, and replaces a running adjustment. -/
theorem timeAdjustGo_starts {count : Nat} (hs : s.canonical) (hon : domainOn s 3 = true)
    (hb : accessBehind s m F.TIME_ADJ_CNT_count.base = false) (hc : count < 2 ^ 31) :
    Runs (.timeAdjustGo m count) s fun t =>
      fld t F.TIME_ADJ_CNT_count = count ∧ flag t F.TIME_STAT_adj_busy = decide (0 < count) ∧
      t.time = { s.time with adjDelta := sgn 32 (fld s F.TIME_ADJ_delta), adjCount := count } ∧
      Sets [.time] (one [F.TIME_ADJ_CNT_count, F.TIME_STAT_adj_busy]) s t := by
  refine ⟨_, exec_timeAdjustGo hc hon hb, ?_⟩
  have hcount : fld (setFld F.TIME_ADJ_CNT_count count s) F.TIME_ADJ_CNT_count = count :=
    (fldAt_setFldAt_same hs.regs (by decide) (by decide)).trans (Nat.mod_eq_of_lt hc)
  have hdelta : fld (setFld F.TIME_ADJ_CNT_count count s) F.TIME_ADJ_delta = fld s F.TIME_ADJ_delta := fldAt_setFldAt_ne (by decide)
  have hset : (setFld F.TIME_ADJ_CNT_count count s).canonical := setFldAt_canonical hs
  have hsets : SetsC [.time] (one [F.TIME_ADJ_CNT_count, F.TIME_STAT_adj_busy]) s (setFld F.TIME_ADJ_CNT_count count s) :=
    (SetsC.refl hs.regs).setFldAt (by decide) (by decide)
  unfold adjustGo
  rw [hcount, hdelta]
  exact ⟨(fldAt_setFldAt_ne (by decide)).trans hcount, flag_setFlag_same (setTime_canonical hset) (by decide) (by decide), rfl,
    ((hsets.setTime (by decide)).setFldAt (by decide) (by decide)).toSets⟩

theorem fldAt_congr {i : Nat} (h : t.regs = s.regs) : fldAt t f i = fldAt s f i := by
  unfold fldAt regWord
  rw [h]

/-- At the end of an adjustment its cycles have passed: each has added the increment with the delta. -/
theorem timeAdjustEnd_ends (hs : s.canonical) (hon : domainOn s 3 = true) (hbusy : flag s F.TIME_STAT_adj_busy = true)
    (hsleep : s.time.sleep = none) :
    Runs .timeAdjustEnd s fun t =>
      t.time.counter = (s.time.counter + s.time.adjCount * adjustedStep s) % counterMod ∧
      fld t F.TIME_ADJ_CNT_count = fld s F.TIME_ADJ_CNT_count - s.time.adjCount ∧ t.time.adjCount = 0 ∧
      flag t F.TIME_STAT_adj_busy = false ∧ Sets [.time] (one [F.TIME_ADJ_CNT_count, F.TIME_STAT_adj_busy]) s t := by
  have hleft : adjustLeft s = s.time.adjCount := if_pos hbusy
  have hend : exec .timeAdjustEnd s = .next (runCycles s.time.adjCount s) := by
    refine congrArg Host.Outcome.next ?_
    rw [whenOn, if_pos hon, adjustEnd, if_pos hbusy, hleft]
  have hawake : s.time.sleep.isSome = false := by rw [hsleep]; rfl
  have htime := runCycles_time (n := s.time.adjCount) hawake
  have hregs := runCycles_regs (n := s.time.adjCount) hawake
  rw [hleft, Nat.min_self, Nat.sub_self] at htime hregs
  rw [if_pos hbusy] at hregs
  have hcounted : fld (setFld F.TIME_ADJ_CNT_count (fld s F.TIME_ADJ_CNT_count - s.time.adjCount) s) F.TIME_ADJ_CNT_count =
      fld s F.TIME_ADJ_CNT_count - s.time.adjCount := by
    have hlt : fld s F.TIME_ADJ_CNT_count < 2 ^ 31 := fldAt_lt
    exact (fldAt_setFldAt_same hs.regs (by decide) (by decide)).trans
      (Nat.mod_eq_of_lt ((Nat.sub_le ..).trans_lt hlt))
  refine ⟨_, hend, ?_, ?_, by rw [htime], ?_, ((SetsC.refl hs.regs).runCycles (by decide) (by decide) (by decide)).toSets⟩
  · rw [htime]
    simp
  · rw [fld, fldAt_congr hregs]
    exact (fldAt_setFldAt_ne (by decide)).trans hcounted
  · rw [flag, flagAt, fldAt_congr hregs]
    exact flag_setFlag_same (b := false) (setFldAt_canonical hs) (by decide) (by decide)

/-- Settles O20: a step and a load correct the counter by one operation, which leaves the adjustment as it is; an adjustment is
sampled at its start, and its end is the passing of the cycles that are left. -/
theorem counterIsCorrected : Obligations.CounterIsCorrected := by
  intro m s hs hon hb
  simp only [List.forall_mem_cons, List.not_mem_nil, false_imp_iff, implies_true, and_true] at hb
  obtain ⟨hctrl, hcnt, hincr⟩ := hb
  refine ⟨⟨_, exec_timeStep hs hon hctrl, timeStep_spec hs⟩, ⟨_, exec_timeLoad hs hon hctrl, timeLoad_spec hs⟩,
    fun count hc => timeAdjustGo_starts hs hon hcnt hc, fun value => timeIncrWrite_sets hs hon hincr, fun hbusy hsleep htail => ?_⟩
  obtain ⟨t, he, hcounter, hrest⟩ := timeAdjustEnd_ends hs hon hbusy hsleep
  refine ⟨t, he, ?_, hrest⟩
  rw [hcounter, adjustedStep, incrActing, htail, counterMod_eq]
  rfl

end Sys2Proof.Machine
end

section
/-! PROOF. The clock steps, locks and loses its lock by time samples (R305). -/

namespace Sys2Proof.Machine

variable {s t u : State} {m : Master} {f : Fld} {o : Int} {lockable : Bool} {value : Word}

theorem setFlag_canonical {b : Bool} (hs : s.canonical) : (setFlag f b s).canonical := setFldAt_canonical hs

@[simp] theorem setTime_flag {x : TimeState → TimeState} : flag (setTime x s) f = flag s f := rfl

/-! ### The lock gained (R305, R327, R337) -/

/-- `s` with locked set, estimated clear and TIME_LOCKED raised. -/
def lockGained (s : State) : State := raise Src.TIME_LOCKED (setFlag F.TIME_STAT_estimated false (setFlag F.TIME_STAT_locked true s))

theorem gainLock_foot : Foot 0x80010000000000000200 (lockGained s) (gainLock s) :=
  foot_syncTiming (foot_setWt (foot_setFlag (Foot.refl _ _) fun i hi => .inr ⟨47, by decide, i, hi, rfl⟩) (by decide)) (by decide)

theorem gainLock_time : (gainLock s).time = s.time := (gainLock_foot.parts .time rfl).trans raise_time

theorem gainLock_stat (hf : f.addr 0 = F.TIME_STAT_locked.addr 0) : flag (gainLock s) f =
    flag (setFlag F.TIME_STAT_estimated false (setFlag F.TIME_STAT_locked true s)) f :=
  (gainLock_foot.flag_eq (by rw [hf]; decide +kernel)).trans (flag_raise (by rw [hf]; decide +kernel))

theorem gainLock_locked (hs : s.canonical) : flag (gainLock s) F.TIME_STAT_locked = true := by
  rw [gainLock_stat (by decide), flag_setFlag_other (setFlag_canonical hs) (by decide),
    flag_setFlag_same hs (by decide) (by decide)]

theorem gainLock_estimated (hs : s.canonical) : flag (gainLock s) F.TIME_STAT_estimated = false := by
  rw [gainLock_stat (by decide), flag_setFlag_same (setFlag_canonical hs) (by decide) (by decide)]

theorem gainLock_holdover (hs : s.canonical) : flag (gainLock s) F.TIME_STAT_holdover = flag s F.TIME_STAT_holdover := by
  rw [gainLock_stat (by decide), flag_setFlag_other (setFlag_canonical hs) (by decide),
    flag_setFlag_other hs (by decide)]

theorem gainLock_sticky (hs : s.canonical) : stickyBit (gainLock s) Src.TIME_LOCKED = true := by
  rw [sticky_keep gainLock_foot (by decide +kernel)]
  exact sticky_of_raise (setFlag_canonical (setFlag_canonical hs)) (by decide)

/-! ### The lock lost (R305, R337) -/

/-- From `s` to `t` locked has cleared, with TIME_LOCK_LOST, and the runs of samples start afresh. -/
structure LockLost (s t : State) : Prop where
  canonical : t.canonical
  time : t.time = { s.time with good := 0, bad := 0 }
  unlocked : flag t F.TIME_STAT_locked = false
  holdover : flag t F.TIME_STAT_holdover = flag s F.TIME_STAT_holdover
  lost : stickyBit t Src.TIME_LOCK_LOST = true

/-- `s` with locked clear and TIME_LOCK_LOST raised. -/
def lockCleared (s : State) : State :=
  raise Src.TIME_LOCK_LOST (setTime (fun x => { x with good := 0, bad := 0 }) (setFlag F.TIME_STAT_locked false s))

theorem lockCleared_spec (hs : s.canonical) : LockLost s (lockCleared s) where
  canonical := raise_canonical (setTime_canonical (setFlag_canonical hs))
  time := by rw [lockCleared, raise_time]; rfl
  unlocked := by rw [lockCleared, flag_raise (by decide +kernel), setTime_flag, flag_setFlag_same hs (by decide) (by decide)]
  holdover := by
    rw [lockCleared, flag_raise (by decide +kernel), setTime_flag, flag_setFlag_other hs (by decide)]
  lost := sticky_of_raise (setTime_canonical (setFlag_canonical hs)) (by decide)

theorem LockLost.raise {n : Nat} (h : LockLost s t) (hn : srcExists n = true) : LockLost s (raise n t) where
  canonical := raise_canonical h.canonical
  time := raise_time.trans h.time
  unlocked := (flag_raise (by decide +kernel)).trans h.unlocked
  holdover := (flag_raise (by decide +kernel)).trans h.holdover
  lost := raise_keeps_sticky h.canonical hn (by decide) h.lost

/-- What wall timing makes of it (R327, R337) leaves the lock lost. -/
theorem LockLost.wallTiming (h : LockLost s t) (hf : Foot 0x80010000000000000000 t u) : LockLost s u where
  canonical := hf.keeps.canonical h.canonical
  time := (hf.parts .time rfl).trans h.time
  unlocked := (hf.flag_eq (by decide +kernel)).trans h.unlocked
  holdover := (hf.flag_eq (by decide +kernel)).trans h.holdover
  lost := (sticky_keep hf (by decide +kernel)).trans h.lost

theorem wtHoldover_foot : Foot 0x80010000000000000000 s (setFlag F.WT_STAT_holdover true s) :=
  foot_setFlag (Foot.refl _ _) fun i hi => .inr ⟨47, by decide, i, hi, rfl⟩

theorem syncTiming_foot : Foot 0x80010000000000000000 s (syncTiming s) := foot_syncTiming (Foot.refl _ s) (by decide)

theorem syncDry_flag (h : f.addr 0 ≠ F.LD_STAT_dry_causes.base) : flag (syncDry s) f = flag s f := by
  unfold flag flagAt
  rw [syncDry_fld h]

theorem syncTiming_holdover (hs : s.canonical) : flag (syncTiming s) F.WT_STAT_holdover = flag s F.WT_STAT_holdover := by
  unfold syncTiming
  split
  · rw [syncDry_flag (by decide), flag_setFlag_other hs (by decide)]
  · rfl

theorem loseLock_eq : loseLock s = if isTile s then
    syncTiming (raise Src.WT_HOLDOVER (setFlag F.WT_STAT_holdover true (lockCleared s))) else lockCleared s := by
  have htile : isTile (lockCleared s) = isTile s := by unfold isTile lockCleared; rw [raise_board]; rfl
  rw [← htile]
  rfl

theorem loseLock_spec (hs : s.canonical) : LockLost s (loseLock s) := by
  have hlost := lockCleared_spec hs
  rw [loseLock_eq]
  split
  · exact ((hlost.wallTiming wtHoldover_foot).raise (n := Src.WT_HOLDOVER) (by decide)).wallTiming syncTiming_foot
  · exact hlost

/-- At a tile wall timing goes into holdover with the lock (R337). -/
theorem loseLock_tile (hs : s.canonical) (ht : isTile s = true) :
    flag (loseLock s) F.WT_STAT_holdover = true ∧ stickyBit (loseLock s) Src.WT_HOLDOVER = true := by
  have hlost := (lockCleared_spec hs).canonical
  have hset : (setFlag F.WT_STAT_holdover true (lockCleared s)).canonical := setFldAt_canonical hlost
  rw [loseLock_eq, if_pos ht]
  constructor
  · rw [syncTiming_holdover (raise_canonical hset), flag_raise (by decide +kernel), flag_setFlag_same hlost (by decide) (by decide)]
  · rw [sticky_keep syncTiming_foot (by decide +kernel), sticky_of_raise hset (by decide)]

/-! ### A sample that steps (R305) -/

/-- Whether a sample of offset `o` steps the counter. -/
abbrev Steps (o : Int) (s : State) : Prop := flag s F.TIME_SERVO_CFG_auto_step = true ∧ 16000 < o.natAbs

theorem timeSample_cond : (flag (setFlag F.TIME_STAT_holdover false s) F.TIME_SERVO_CFG_auto_step && decide (o.natAbs > 16000)) = true ↔
    Steps o s := by
  rw [Bool.and_eq_true, decide_eq_true_eq, flag, flagAt, setFlag, fldAt_setFldAt_ne (by decide)]
  rfl

theorem timeSample_of_steps (h : Steps o s) : timeSample o lockable s =
    stepBy ((-o + 8) / 16 * 2 ^ 32) (setTime (fun x => { x with good := 0 }) (setFlag F.TIME_STAT_holdover false s)) :=
  if_pos (timeSample_cond.2 h)

theorem timeSample_steps (hs : s.canonical) (h : Steps o s) :
    (timeSample o lockable s).time.counter = (((s.time.counter : Int) + (-o + 8) / 16 * 2 ^ 32) % (2 ^ 80 * 10 ^ 9)).toNat ∧
      stickyBit (timeSample o lockable s) Src.TIME_STEPPED = true ∧ (timeSample o lockable s).time.good = 0 ∧
      (timeSample o lockable s).time.bad = s.time.bad ∧
      flag (timeSample o lockable s) F.TIME_STAT_locked = flag s F.TIME_STAT_locked ∧
      flag (timeSample o lockable s) F.TIME_STAT_holdover = false := by
  obtain ⟨-, htime, hstepped⟩ := retime_corrected (s := setTime (fun x => { x with good := 0 }) (setFlag F.TIME_STAT_holdover false s))
    (setTime_canonical (setFlag_canonical hs))
  rw [timeSample_of_steps h, stepBy, counterMod_eq]
  refine ⟨by rw [htime]; rfl, hstepped, by rw [htime]; rfl, by rw [htime]; rfl, ?_, ?_⟩
  · rw [retime_foot.flag_eq (by decide +kernel), setTime_flag, flag_setFlag_other hs (by decide)]
  · rw [retime_foot.flag_eq (by decide +kernel), setTime_flag, flag_setFlag_same hs (by decide) (by decide)]

/-! ### A sample that counts for the lock (R305) -/

/-- Whether an offset is within lock_ns. -/
abbrev Inside (o : Int) (s : State) : Prop := o.natAbs ≤ fld s F.TIME_SERVO_CFG_lock_ns * 16

/-- The run of good samples after a sample of offset `o`, and the run of bad ones. -/
def goodAfter (o : Int) (lockable : Bool) (s : State) : Nat := if Inside o s ∧ lockable = true then s.time.good + 1 else 0

def badAfter (o : Int) (s : State) : Nat := if Inside o s then 0 else s.time.bad + 1

/-- `s` after a sample of offset `o` has ended holdover, counted in the runs and gone to the control engine (R279). -/
def counted (o : Int) (lockable : Bool) (s : State) : State :=
  ceBlockSample 1 (clampZ (-32768) 32767 (o * 2))
    (setTime (fun x => { x with good := goodAfter o lockable s, bad := badAfter o s }) (setFlag F.TIME_STAT_holdover false s))

/-- `s` after the runs of samples have set locked or cleared it. -/
def lockJudged (s : State) : State :=
  if !flag s F.TIME_STAT_locked then (if s.time.good ≥ 8 then gainLock s else s) else if s.time.bad ≥ 4 then loseLock s else s

theorem timeSample_of_not_steps (h : ¬ Steps o s) : timeSample o lockable s = lockJudged (counted o lockable s) := by
  have hns : fld (setFlag F.TIME_STAT_holdover false s) F.TIME_SERVO_CFG_lock_ns = fld s F.TIME_SERVO_CFG_lock_ns :=
    fldAt_setFldAt_ne (by decide)
  refine (if_neg (mt timeSample_cond.1 h)).trans ?_
  show lockJudged (ceBlockSample 1 _ (setTime (fun x => { x with
    good := if (decide (o.natAbs ≤ fld (setFlag F.TIME_STAT_holdover false s) F.TIME_SERVO_CFG_lock_ns * 16) && lockable) = true
      then x.good + 1 else 0
    bad := if decide (o.natAbs ≤ fld (setFlag F.TIME_STAT_holdover false s) F.TIME_SERVO_CFG_lock_ns * 16) = true
      then 0 else x.bad + 1 }) (setFlag F.TIME_STAT_holdover false s))) = _
  rw [hns]
  simp only [counted, goodAfter, badAfter, Inside, Bool.and_eq_true, decide_eq_true_eq]
  rfl

theorem counted_foot : Foot 0x41000000000000000020010000e00000000420
    (setTime (fun x => { x with good := goodAfter o lockable s, bad := badAfter o s }) (setFlag F.TIME_STAT_holdover false s))
    (counted o lockable s) := foot_ceBlockSample (Foot.refl _ _) (Nat.or_self _)

theorem counted_canonical (hs : s.canonical) : (counted o lockable s).canonical :=
  counted_foot.keeps.canonical (setTime_canonical (setFldAt_canonical hs))

theorem counted_time : (counted o lockable s).time = { s.time with good := goodAfter o lockable s, bad := badAfter o s } :=
  counted_foot.parts .time rfl

theorem counted_locked (hs : s.canonical) : flag (counted o lockable s) F.TIME_STAT_locked = flag s F.TIME_STAT_locked := by
  rw [counted_foot.flag_eq (by decide +kernel), setTime_flag, flag_setFlag_other hs (by decide)]

theorem counted_holdover (hs : s.canonical) : flag (counted o lockable s) F.TIME_STAT_holdover = false := by
  rw [counted_foot.flag_eq (by decide +kernel), setTime_flag, flag_setFlag_same hs (by decide) (by decide)]

theorem eight_le_goodAfter : 8 ≤ goodAfter o lockable s ↔ Inside o s ∧ lockable = true ∧ 7 ≤ s.time.good := by
  unfold goodAfter
  split
  case isTrue h => exact ⟨fun k => ⟨h.1, h.2, by omega⟩, fun ⟨_, _, k⟩ => by omega⟩
  case isFalse h => exact ⟨fun k => absurd k (by decide), fun ⟨hi, hl, _⟩ => absurd ⟨hi, hl⟩ h⟩

theorem four_le_badAfter : 4 ≤ badAfter o s ↔ ¬ Inside o s ∧ 3 ≤ s.time.bad := by
  unfold badAfter
  split <;> omega

theorem lockJudged_unlocked (hl : flag s F.TIME_STAT_locked = false) : lockJudged s = if 8 ≤ s.time.good then gainLock s else s := by
  rw [lockJudged, hl]
  rfl

theorem lockJudged_locked (hl : flag s F.TIME_STAT_locked = true) : lockJudged s = if 4 ≤ s.time.bad then loseLock s else s := by
  rw [lockJudged, hl]
  rfl

/-- Out of lock the runs go on, and locked sets, with estimated clear and TIME_LOCKED, when eight samples in a row were good. -/
structure JudgedUnlocked (s t : State) : Prop where
  time : t.time = s.time
  holdover : flag t F.TIME_STAT_holdover = flag s F.TIME_STAT_holdover
  locked : flag t F.TIME_STAT_locked = true ↔ 8 ≤ s.time.good
  gained : 8 ≤ s.time.good → flag t F.TIME_STAT_estimated = false ∧ stickyBit t Src.TIME_LOCKED = true

theorem lockJudged_of_unlocked (hs : s.canonical) (hl : flag s F.TIME_STAT_locked = false) : JudgedUnlocked s (lockJudged s) := by
  rw [lockJudged_unlocked hl]
  split
  case isTrue h8 =>
    exact ⟨gainLock_time, gainLock_holdover hs, iff_of_true (gainLock_locked hs) h8,
      fun _ => ⟨gainLock_estimated hs, gainLock_sticky hs⟩⟩
  case isFalse h8 => exact ⟨rfl, rfl, iff_of_false (by rw [hl]; decide) h8, fun h => absurd h h8⟩

/-- In lock, locked clears with TIME_LOCK_LOST when four samples in a row were bad. -/
structure JudgedLocked (s t : State) : Prop where
  counter : t.time.counter = s.time.counter
  holdover : flag t F.TIME_STAT_holdover = flag s F.TIME_STAT_holdover
  unlocked : flag t F.TIME_STAT_locked = false ↔ 4 ≤ s.time.bad
  lost : 4 ≤ s.time.bad → stickyBit t Src.TIME_LOCK_LOST = true

theorem lockJudged_of_locked (hs : s.canonical) (hl : flag s F.TIME_STAT_locked = true) : JudgedLocked s (lockJudged s) := by
  rw [lockJudged_locked hl]
  split
  case isTrue h4 =>
    have hlost := loseLock_spec hs
    exact ⟨by rw [hlost.time], hlost.holdover, iff_of_true hlost.unlocked h4, fun _ => hlost.lost⟩
  case isFalse h4 => exact ⟨rfl, rfl, iff_of_false (by rw [hl]; decide) h4, fun h => absurd h h4⟩

/-! ### What a sample does -/

/-- What a sample of offset `o` makes of `s` (R305). -/
structure Sampled (o : Int) (lockable : Bool) (s t : State) : Prop where
  holdover : flag t F.TIME_STAT_holdover = false
  stepped : Steps o s → t.time.counter = (((s.time.counter : Int) + (-o + 8) / 16 * 2 ^ 32) % (2 ^ 80 * 10 ^ 9)).toNat ∧
    stickyBit t Src.TIME_STEPPED = true ∧ t.time.good = 0 ∧ t.time.bad = s.time.bad ∧
    flag t F.TIME_STAT_locked = flag s F.TIME_STAT_locked
  kept : ¬ Steps o s → t.time.counter = s.time.counter
  unlocked : ¬ Steps o s → flag s F.TIME_STAT_locked = false →
    t.time.good = goodAfter o lockable s ∧ t.time.bad = badAfter o s ∧
    (flag t F.TIME_STAT_locked = true ↔ Inside o s ∧ lockable = true ∧ 7 ≤ s.time.good) ∧
    (flag t F.TIME_STAT_locked = true → flag t F.TIME_STAT_estimated = false ∧ stickyBit t Src.TIME_LOCKED = true)
  locked : ¬ Steps o s → flag s F.TIME_STAT_locked = true →
    (flag t F.TIME_STAT_locked = false ↔ ¬ Inside o s ∧ 3 ≤ s.time.bad) ∧
    (flag t F.TIME_STAT_locked = false → stickyBit t Src.TIME_LOCK_LOST = true)

theorem timeSample_sampled (hs : s.canonical) : Sampled o lockable s (timeSample o lockable s) := by
  by_cases h : Steps o s
  · obtain ⟨hcounter, hstepped, hgood, hbad, hlocked, hheld⟩ := timeSample_steps (lockable := lockable) hs h
    exact ⟨hheld, fun _ => ⟨hcounter, hstepped, hgood, hbad, hlocked⟩, absurd h, absurd h, absurd h⟩
  have hc : (counted o lockable s).canonical := counted_canonical hs
  have htime : (counted o lockable s).time = { s.time with good := goodAfter o lockable s, bad := badAfter o s } := counted_time
  have hheld : flag (counted o lockable s) F.TIME_STAT_holdover = false := counted_holdover hs
  have hl : flag (counted o lockable s) F.TIME_STAT_locked = flag s F.TIME_STAT_locked := counted_locked hs
  rw [timeSample_of_not_steps h]
  cases hlocked : flag s F.TIME_STAT_locked with
  | false =>
    obtain ⟨hkept, hsame, hset, hgained⟩ := lockJudged_of_unlocked hc (hl.trans hlocked)
    rw [htime] at hkept hset hgained
    exact ⟨hsame.trans hheld, (absurd · h), fun _ => by rw [hkept],
      fun _ _ => ⟨by rw [hkept], by rw [hkept], hset.trans eight_le_goodAfter, fun k => hgained (hset.1 k)⟩,
      fun _ k => absurd (hlocked.symm.trans k) (by decide)⟩
  | true =>
    obtain ⟨hkept, hsame, hclear, hlost⟩ := lockJudged_of_locked hc (hl.trans hlocked)
    rw [htime] at hkept hclear hlost
    exact ⟨hsame.trans hheld, (absurd · h), fun _ => hkept, fun _ k => absurd (hlocked.symm.trans k) (by decide),
      fun _ _ => ⟨hclear.trans four_le_badAfter, fun k => hlost (hclear.1 k)⟩⟩

/-! ### The commands -/

/-- Whether a sample written by a master counts for the lock (R305, log 14). -/
def countsForLock (s : State) : Bool := isSender s || (!flag s F.TIME_STAT_path_est && s.time.timeOk)

theorem countsForLock_iff : countsForLock s = true ↔ isSender s = true ∨ (flag s F.TIME_STAT_path_est = false ∧ s.time.timeOk = true) := by
  rw [countsForLock, Bool.or_eq_true, Bool.and_eq_true, Bool.not_eq_true']

/-- `s` with TIME_ERR written. -/
def errSet (value : Word) (s : State) : State := setFld F.TIME_ERR_offset value.toNat s

theorem errSet_fld (h : f.addr 0 ≠ F.TIME_ERR_offset.addr 0) : fld (errSet value s) f = fld s f := fldAt_setFldAt_ne h

theorem errSet_flag (h : f.addr 0 ≠ F.TIME_ERR_offset.addr 0) : flag (errSet value s) f = flag s f :=
  congrArg (· == 1) (errSet_fld h)

theorem errSet_offset (hs : s.canonical) : fld (errSet value s) F.TIME_ERR_offset = value.toNat :=
  (fldAt_setFldAt_same hs.regs (by decide) (by decide)).trans (Nat.mod_eq_of_lt value.isLt)

theorem exec_timeSample (hs : s.canonical) (hon : domainOn s 3 = true) (hb : accessBehind s m F.TIME_ERR_offset.base = false) :
    exec (.timeSample m value) s = .next (timeSample (sgn 32 value.toNat) (countsForLock s) (errSet value s)) := by
  refine congrArg Host.Outcome.next ((wholeWrite_err.write hon hb).trans ?_)
  rw [effect_err, bitsOf_wholeWord rfl rfl, ← errSet, timeErrWritten, errSet_offset hs, errSet_flag (by decide)]
  rfl

/-- A sample at `errSet value s` does to it what it does to `s`: TIME_ERR has no part in it. -/
theorem Sampled.of_errSet (h : Sampled o lockable (errSet value s) t) : Sampled o lockable s t := by
  have hsteps : Steps o (errSet value s) = Steps o s := by rw [Steps, errSet_flag (by decide)]
  have hinside : Inside o (errSet value s) = Inside o s := by rw [Inside, errSet_fld (by decide)]
  have hlocked : flag (errSet value s) F.TIME_STAT_locked = flag s F.TIME_STAT_locked := errSet_flag (by decide)
  have htime : (errSet value s).time = s.time := rfl
  obtain ⟨hheld, hstepped, hkept, hunlocked, hlost⟩ := h
  simp only [hsteps, hinside, hlocked, htime, goodAfter, badAfter] at hstepped hkept hunlocked hlost
  exact ⟨hheld, hstepped, hkept, hunlocked, hlost⟩

theorem timeSample_foot :
    Foot (0x10000041001000000000a000a0010000e00000000720 ||| 2 ^ 192) s (timeSample o lockable (errSet value s)) :=
  foot_timeSample (foot_setFld (Foot.refl _ s) fun i hi => .inr ⟨160, by decide, i, hi, rfl⟩) (by decide)

/-- Without samples holdover sets and locked clears. -/
theorem samplesStop_spec (hs : s.canonical) :
    flag (samplesStop s) F.TIME_STAT_holdover = true ∧ flag (samplesStop s) F.TIME_STAT_locked = false ∧
      (samplesStop s).time.counter = s.time.counter ∧
      (flag s F.TIME_STAT_locked = true → stickyBit (samplesStop s) Src.TIME_LOCK_LOST = true ∧
        (isTile s = true → flag (samplesStop s) F.WT_STAT_holdover = true ∧ stickyBit (samplesStop s) Src.WT_HOLDOVER = true)) := by
  have hset : (setFlag F.TIME_STAT_holdover true s).canonical := setFlag_canonical hs
  have hheld : flag (setFlag F.TIME_STAT_holdover true s) F.TIME_STAT_holdover = true := flag_setFlag_same hs (by decide) (by decide)
  have hl : flag (setFlag F.TIME_STAT_holdover true s) F.TIME_STAT_locked = flag s F.TIME_STAT_locked := flag_setFlag_other hs (by decide)
  unfold samplesStop
  dsimp only
  rw [hl]
  cases hlocked : flag s F.TIME_STAT_locked with
  | false => exact ⟨hheld, hl.trans hlocked, rfl, nofun⟩
  | true =>
    have hlost := loseLock_spec hset
    exact ⟨hlost.holdover.trans hheld, hlost.unlocked, by rw [if_pos rfl, hlost.time]; rfl,
      fun _ => ⟨hlost.lost, fun ht => loseLock_tile hset ht⟩⟩

/-- Settles O21: a written sample is one of the offset that TIME_ERR then holds; it steps the counter, or counts in the runs, which
set locked or clear it. Without samples the lock goes as a bad run takes it. -/
theorem samplesLockTheClock : Obligations.SamplesLockTheClock := by
  intro m value s hs hon hb
  have hsample : Sampled (sgn 32 value.toNat) (countsForLock s) s
      (timeSample (sgn 32 value.toNat) (countsForLock s) (errSet value s)) :=
    (timeSample_sampled (setFldAt_canonical hs)).of_errSet
  obtain ⟨hheld, hstepped, hkept, hunlocked, hlocked⟩ := hsample
  have hchanges := (timeSample_foot (o := sgn 32 value.toNat) (lockable := countsForLock s) (value := value) (s := s)).changes
    (ps := [.evt, .time, .wt, .ce]) (rs := [F.TIME_ERR_offset, F.TIME_STAT_locked, F.CE_SLOT_STAT_admitted, F.WT_STAT_rec_valid,
      F.EVT_OUT_CTRL_enable, F.EVT_OUT_COUNT_skipped, F.WT_SLIPS_slips] ++ eventFlds) (by decide +kernel)
  have herr : fld (timeSample (sgn 32 value.toNat) (countsForLock s) (errSet value s)) F.TIME_ERR_offset = value.toNat :=
    ((foot_timeSample (Foot.refl _ _) (Nat.or_self _)).fld_eq (by decide +kernel)).trans (errSet_offset hs)
  simp only [countsForLock_iff, goodAfter, badAfter] at hunlocked
  refine ⟨⟨_, exec_timeSample hs hon hb, herr, hheld, hstepped, fun h => ⟨hkept h, ?_, hlocked h⟩, hchanges⟩, ?_⟩
  · exact hunlocked h
  · obtain ⟨hset, hclear, hcounter, hlost⟩ := samplesStop_spec hs
    exact ⟨_, congrArg Host.Outcome.next (if_pos hon), hset, hclear, hcounter, hlost,
      (foot_samplesStop (Foot.refl _ s) (Nat.or_self _)).changes (by decide +kernel)⟩

end Sys2Proof.Machine
end

section
/-! PROOF. What the operations of the event collector leave alone, and the ends of a reaction (R365, R368, R371). -/

namespace Sys2Proof.Machine

variable {s t : State} {m : Master} {f : Fld} {M c k : Nat}

/-! ### Registers that an operation avoids -/

theorem stickyBit_foot (h : Foot M s t) (hM : ∀ g < 8, maskAvoids M (F.EVT_STAT_sticky.addr g) = true) (hk : k < 256) :
    stickyBit t k = stickyBit s k :=
  sticky_keep h (hM _ (by omega))

theorem pendBit_foot (h : Foot M s t) (hM : ∀ g < 8, maskAvoids M (F.EVT_PEND_pending.addr g) = true) (hk : k < 256) :
    pendBit t k = pendBit s k := by
  unfold pendBit
  rw [h.fldAt_eq (hM _ (by omega))]

theorem reactBits_foot (h : Foot M s t) (hM : maskAvoids M F.EVT_REACT_class1.base = true) : reactBits t c = reactBits s c :=
  reactBits_eq (h.reg_eq hM)

/-! ### The end of a reaction (R371) -/

theorem endReaction_idle (h : reacting s = false) : endReaction s = s := by rw [endReaction, h]; rfl

theorem autoEnd_of_not_due (h : endDue s = false) : autoEnd s = s := by rw [autoEnd_eq, h]; rfl

theorem reacting_of_endDue (h : endDue s = true) : reacting s = true := by
  unfold endDue at h
  rw [Bool.and_eq_true, Bool.and_eq_true] at h
  exact h.1.1

theorem autoEnd_evt : (autoEnd s).evt = if endDue s then { s.evt with prior := 0, ended := true } else s.evt := by
  rw [autoEnd_eq]
  split
  case isTrue h => rw [endReaction_evt, if_pos (reacting_of_endDue h)]
  case isFalse => rfl

theorem SetsC.autoEnd {ps : List Part} {fs : List (Fld × Nat)} (h : SetsC ps fs s t) (he : Part.evt ∈ ps)
    (hm : (F.LD_STAT_dry_causes, 0) ∈ fs) (hr : (F.EVT_CAUSE_running, 0) ∈ fs) : SetsC ps fs s (autoEnd t) := by
  rw [autoEnd_eq]
  split
  · exact h.endReaction he hm hr
  · exact h

/-- Bits 0 to 3 of the drydown causes reach no further than bit 3. -/
theorem bitOf_lowCauses {a b c d : Bool} :
    bitOf ((b2n (bitOf 0 2) * 16 + b2n a * 8 + b2n b * 4 + b2n c * 2 + b2n d) % 2 ^ (29 + 1 - 25)) 4 = false := by
  revert a b c d
  decide

/-- While no reaction acts the event cause of the drydown is clear on a tile (R268, R368). -/
theorem syncDry_eventCause (hs : s.canonical) (ht : isTile s = true) (hon : domainOn s 5 = true) (ha : actingBits s = 0) :
    bitOf (fld (syncDry s) F.LD_STAT_dry_causes) 4 = false := by
  unfold syncDry
  rw [ht, hon, ha, if_pos (by decide), fld, setFld, fldAt_setFldAt_same hs.regs (by decide) (by decide)]
  exact bitOf_lowCauses

/-- `s` with its reaction ended, before the drydown follows. -/
def stopped (s : State) : State :=
  setEvt (fun e => { e with prior := 0, ended := true }) (setFlag F.EVT_CAUSE_running false s)

theorem endReaction_running (h : reacting s = true) : endReaction s = syncDry (stopped s) := if_pos h

theorem stopped_idle (hs : s.canonical) : reacting (stopped s) = false :=
  flag_setFlag_same (f := F.EVT_CAUSE_running) (b := false) hs (by decide) (by decide)

theorem stopped_domain : domainOn (stopped s) 5 = domainOn s 5 := by
  have h : fldAt (stopped s) F.PD_CTRL_state 5 = fldAt s F.PD_CTRL_state 5 :=
    fldAt_setFldAt_ne (f := F.EVT_CAUSE_running) (i := 0) (v := b2n false) (by decide)
  unfold domainOn
  rw [h]

theorem endReaction_eventCause (hs : s.canonical) (hr : reacting s = true) (ht : isTile s = true)
    (hon : domainOn s 5 = true) : bitOf (fld (endReaction s) F.LD_STAT_dry_causes) 4 = false := by
  rw [endReaction_running hr]
  have hstopped : (stopped s).canonical := setFlag_canonical (f := F.EVT_CAUSE_running) (b := false) hs
  exact syncDry_eventCause hstopped ht (stopped_domain.trans hon) (acting_none (stopped_idle hs))

/-! ### The acknowledgement -/

theorem writeOnly_ack : WriteOnly F.EVT_CTRL_ack 0 0 := {}

theorem effect_ack : effectOfOne F.EVT_CTRL_ack 0 s = endReaction s := rfl

theorem exec_evtAck (hs : s.canonical) (hb : accessBehind s m (F.EVT_CTRL_ack.addr 0) = false) :
    exec (.evtAck m) s = .next (endReaction s) := by
  show Host.Outcome.next (writeField m F.EVT_CTRL_ack 0 1 s) = _
  rw [writeOnly_ack.write_one hs (roleAbsent_of_bounds (by cases s.board.role <;> decide) (.inr (by decide)) (by decide)) rfl hb,
    effect_ack]

/-- Settles O8: the write of ack has the end of the running reaction as its one effect. -/
theorem acknowledgeEndsReaction : Obligations.AcknowledgeEndsReaction := by
  intro m s hs hb
  have hidle : reacting (endReaction s) = false := endReaction_ends hs.regs
  have hsets : SetsC [.evt] (one [F.EVT_CAUSE_running, F.LD_STAT_dry_causes]) s (endReaction s) :=
    (SetsC.refl hs.regs).endReaction (by decide) (by decide) (by decide)
  exact ⟨_, exec_evtAck hs hb, endReaction_idle, hidle, acting_none hidle, fun hr => by rw [endReaction_evt, if_pos hr],
    endReaction_eventCause hs, hsets.toSets⟩

/-! ### The notifications taken -/

/-- `s` with the notifications taken and recorded (R368). -/
def notesTaken (s : State) : State := setEvt (fun e => { e with
  hkLog := (e.notes.map (fun n => (n.source, n.cls, s.time.counter / 2 ^ 32))).reverse ++ e.hkLog
  notes := [] }) s

theorem takeNotes_eq : takeNotes s = autoEnd (notesTaken s) := rfl

/-- Once the firmware has taken its notifications, a reaction ends by itself if its class has auto. -/
theorem endDue_notesTaken : endDue (notesTaken s) = (reacting s && bitOf (reactBits s (fld s F.EVT_CAUSE_class)) 3) := by
  show (reacting s && bitOf (reactBits s (fld s F.EVT_CAUSE_class)) 3 &&
    (!bitOf (reactBits s (fld s F.EVT_CAUSE_class)) 1 || true)) = _
  rw [Bool.or_true, Bool.and_true]

/-- Settles O9: the notifications are recorded, and what is then due to end is a reaction whose class has auto. -/
theorem firmwareTakesNotes : Obligations.FirmwareTakesNotes := by
  intro s hs
  have hevt := autoEnd_evt (s := notesTaken s)
  have hreacting : reacting (autoEnd (notesTaken s)) = (reacting s && !endDue (notesTaken s)) := reacting_autoEnd hs.regs
  have hsets : SetsC [.evt] (one [F.EVT_CAUSE_running, F.LD_STAT_dry_causes]) s (autoEnd (notesTaken s)) :=
    ((SetsC.refl hs.regs).setEvt (by decide)).autoEnd (by decide) (by decide) (by decide)
  rw [endDue_notesTaken] at hevt hreacting
  refine ⟨_, congrArg Host.Outcome.next takeNotes_eq, ?_, ?_, ?_, ?_, hsets.toSets⟩
  · rw [hevt]; split <;> rfl
  · rw [hevt]; split <;> rfl
  · rw [hreacting]; cases reacting s <;> rfl
  · rw [hevt]
    split
    case isTrue h => rw [h, Bool.or_true]
    case isFalse h => rw [Bool.not_eq_true] at h; rw [h, Bool.or_false]; rfl

end Sys2Proof.Machine
end

section
/-! PROOF. A reaction that starts on raised or on pending sources (R368, R369, R372). -/

namespace Sys2Proof.Machine

variable {s t u v : State} {l : List Nat} {c k m n : Nat}

/-- An operation within a mask is within every mask that contains it. -/
theorem Foot.mono {M N : Nat} (h : Foot M s t) (e : M ||| N = N) : Foot N s t where
  keeps := h.keeps
  parts p hp := h.parts p (Bool.eq_false_iff.2 fun hM => Bool.eq_false_iff.1 hp (bit e hM))
  regs a ha := h.regs a fun hM => ha (hM.imp (bit e) fun ⟨k, hk, hi⟩ => ⟨k, bit e hk, hi⟩)

/-! ### EVT_STAT, EVT_PEND and LD_STAT in a mask of `Foot` -/

/-- EVT_STAT_gg. -/
abbrev stickyFoot : Nat := 2 ^ 150

/-- EVT_PEND_gg. -/
abbrev pendingFoot : Nat := 2 ^ 144

/-- LD_STAT. -/
abbrev dryFoot : Nat := 2 ^ 64

/-- EVT_CAUSE, EVT_CAUSE_SEC and EVT_CAUSE_NS, and the event part of the state. -/
abbrev startFoot : Nat := 0xe00000000020

/-- EVT_CAUSE and LD_STAT, and the event part of the state. -/
abbrev endFoot : Nat := 0x10000800000000020

theorem setSticky_foot : Foot stickyFoot s (setGroupBit F.EVT_STAT_sticky n true s) :=
  foot_setGroupBit (Foot.refl _ s) fun i hi => .inr ⟨118, by decide, i, hi, rfl⟩

/-- `s` with the sticky bits of sources `l` set. -/
def marked (l : List Nat) (s : State) : State := forEach l (fun m st => setGroupBit F.EVT_STAT_sticky m true st) s

theorem marked_foot : Foot stickyFoot s (marked l s) :=
  foot_forEach (fun _ _ h => h.trans setSticky_foot) (Foot.refl _ s)

/-- `s` with the pending bits of sources `l` set. -/
def merged (l : List Nat) (s : State) : State := forEach l (fun m st => setGroupBit F.EVT_PEND_pending m true st) s

theorem merged_foot : Foot pendingFoot s (merged l s) :=
  foot_forEach (fun _ _ h => foot_setGroupBit h fun i hi => .inr ⟨112, by decide, i, hi, rfl⟩) (Foot.refl _ s)

theorem merged_pendBit (hs : s.canonical) (hl : ∀ n ∈ l, n < 256) : pendBit (merged l s) m = (pendBit s m || l.contains m) :=
  groupBits_set hs.regs (by decide) rfl rfl (by decide) fun n hn => by
    have := hl n hn
    simp only [F.EVT_PEND_pending]
    omega

/-- `s` after the drydown has followed and a reaction that is due to has ended. -/
def settled (s : State) : State := autoEnd (syncDry s)

theorem settled_foot : Foot endFoot s (settled s) := foot_autoEnd (foot_syncDry (Foot.refl _ s) (by decide)) (by decide)

theorem settled_pendBit (hm : m < 256) : pendBit (settled s) m = pendBit s m :=
  pendBit_foot settled_foot (by decide +kernel) hm

/-! ### What a start leaves in EVT_CAUSE -/

theorem startReaction_foot : Foot startFoot s (startReaction n c k s) := foot_startReaction (Foot.refl _ s) (by decide)

/-- EVT_CAUSE of a start, field by field. -/
theorem causeWord_fields (hc : c < 4) (hk : k ≤ 255) (hn : n < 256) :
    let w := 2 ^ 31 + c * 2 ^ 28 + c * 2 ^ 26 + k * 2 ^ 8 + n
    bitsOf w 29 28 = c ∧ bitsOf w 27 26 = c ∧ bitsOf w 7 0 = n ∧ bitsOf w 30 30 = 0 ∧ bitsOf w 15 8 = k := by
  simp only [bitsOf]
  interval_cases c <;> omega

/-- EVT_CAUSE, the wall time and the notifications in `t`, after a reaction of class `c` has started in `s` with the first cause
`n` and `k` further sources merged (R368, R369). -/
structure Caused (n c k : Nat) (s t : State) : Prop where
  cls : fld t F.EVT_CAUSE_class = c
  firstClass : fld t F.EVT_CAUSE_first_class = c
  first : fld t F.EVT_CAUSE_first = n
  escalated : fld t F.EVT_CAUSE_escalated = 0
  merged : fld t F.EVT_CAUSE_merged = min 255 k
  sec : fld t F.EVT_CAUSE_SEC_value = secOf s.time.counter % 2 ^ 32
  ns : fld t F.EVT_CAUSE_NS_value = nsOf s.time.counter
  notes : t.evt.notes = if bitOf (reactBits s c) 1 then s.evt.notes ++ [{ source := n, cls := c, escalation := false }]
    else s.evt.notes

theorem startReaction_caused (hu : u.canonical) (hm : Foot stickyFoot s u) (hc : c < 4) (hn : n < 256) :
    Caused n c k s (startReaction n c k u) := by
  have hfld : ∀ f : Fld, f.addr 0 = F.EVT_CAUSE_first.base → fld (startReaction n c k u) f = _ :=
    fun _ => startReaction_fld hu.regs hc hn
  obtain ⟨hcls, hfirstClass, hfirst, hescalated, hmerged⟩ := causeWord_fields (k := min 255 k) hc (Nat.min_le_left ..) hn
  obtain ⟨hsec, hns⟩ := startReaction_time (first := n) (cls := c) (merged := k) hu.regs
  have hevt : u.evt = s.evt := hm.parts .evt rfl
  have htime : u.time = s.time := hm.parts .time rfl
  rw [htime] at hsec hns
  refine ⟨(hfld _ rfl).trans hcls, (hfld _ rfl).trans hfirstClass, (hfld _ rfl).trans hfirst, (hfld _ rfl).trans hescalated,
    (hfld _ rfl).trans hmerged, hsec, hns, ?_⟩
  rw [startReaction_notes hu.regs hc hn, reactBits_foot hm (by decide +kernel), hevt]

/-- The fields that a start loads (R369), beside the one that says that a reaction runs. -/
def startFlds : List Fld :=
  [F.EVT_CAUSE_class, F.EVT_CAUSE_first_class, F.EVT_CAUSE_first, F.EVT_CAUSE_escalated, F.EVT_CAUSE_merged, F.EVT_CAUSE_SEC_value,
    F.EVT_CAUSE_NS_value]

theorem Caused.of_eq (h : Caused n c k s t) (hf : ∀ f ∈ startFlds, fld u f = fld t f) (hn : u.evt.notes = t.evt.notes) :
    Caused n c k s u where
  cls := (hf _ (by decide)).trans h.cls
  firstClass := (hf _ (by decide)).trans h.firstClass
  first := (hf _ (by decide)).trans h.first
  escalated := (hf _ (by decide)).trans h.escalated
  merged := (hf _ (by decide)).trans h.merged
  sec := (hf _ (by decide)).trans h.sec
  ns := (hf _ (by decide)).trans h.ns
  notes := hn.trans h.notes

theorem Caused.along (h : Caused n c k s t) (hf : Foot (pendingFoot ||| dryFoot) t u) : Caused n c k s u := by
  have havoids : ∀ f ∈ startFlds, maskAvoids (pendingFoot ||| dryFoot) (f.addr 0) = true := by decide +kernel
  have hevt : u.evt = t.evt := hf.parts .evt rfl
  exact h.of_eq (fun f hm => hf.fld_eq (havoids f hm)) (by rw [hevt])

theorem Caused.autoEnd (h : Caused n c k s t) (ht : t.canonical) : Caused n c k s (autoEnd t) := by
  have hapart : ∀ f ∈ startFlds, f.fits ∧ f.addr 0 ≠ F.LD_STAT_dry_causes.base ∧
      (f.addr 0 ≠ F.EVT_CAUSE_running.base ∨ f.hi < 31) := by decide
  refine h.of_eq (fun f hm => ?_) autoEnd_notes
  obtain ⟨hfits, hdry, hrunning⟩ := hapart f hm
  exact autoEnd_fld ht.regs hfits hdry hrunning

/-- A reaction that has just started is due to end by itself if its class has auto without hk: with hk the firmware has its
notification still to take (R371). -/
theorem Caused.endDue (h : Caused n c k s t) (hrun : reacting t = true) (hbits : reactBits t c = reactBits s c) :
    endDue t = (bitOf (reactBits s c) 3 && !bitOf (reactBits s c) 1) := by
  unfold Machine.endDue
  rw [hrun, h.cls, hbits, h.notes, Bool.true_and]
  cases bitOf (reactBits s c) 1 with
  | false => simp
  | true => simp

/-- What a start leaves once the pending bits are written, the drydown has followed and the reaction may have ended. -/
theorem startReaction_settled (hu : u.canonical) (hm : Foot stickyFoot s u) (hc : c < 4) (hn : n < 256)
    (hv : Foot pendingFoot (startReaction n c k u) v) :
    Caused n c k s (settled v) ∧ reacting (settled v) = !(bitOf (reactBits s c) 3 && !bitOf (reactBits s c) 1) := by
  have hstart : (startReaction n c k u).canonical := startReaction_foot.keeps.canonical hu
  have hdry : Foot (pendingFoot ||| dryFoot) (startReaction n c k u) (syncDry v) :=
    foot_syncDry (hv.mono (by decide)) (by decide)
  have hcaused : Caused n c k s (syncDry v) := (startReaction_caused hu hm hc hn).along hdry
  have hcanonical : (syncDry v).canonical := hdry.keeps.canonical hstart
  have hrun : reacting (syncDry v) = true :=
    (hdry.flag_eq (by decide +kernel)).trans (beq_of_eq (startReaction_run hu.regs hc hn))
  have hbits : reactBits (syncDry v) c = reactBits s c :=
    (reactBits_foot hdry (by decide +kernel)).trans
      ((reactBits_foot startReaction_foot (by decide +kernel)).trans (reactBits_foot hm (by decide +kernel)))
  refine ⟨hcaused.autoEnd hcanonical, ?_⟩
  rw [settled, reacting_autoEnd hcanonical.regs, hrun, hcaused.endDue hrun hbits, Bool.true_and]

theorem srcClass_lt : srcClass s n < 4 := Nat.mod_lt _ (by decide)

/-! ### Raised sources (R369) -/

/-- The existing sources of a list, in ascending order. -/
def existing (l : List Nat) : List Nat := (List.range 256).filter (fun m => l.contains m && srcExists m)

/-- The existing eligible sources of a list beside `n`, in ascending order. -/
def raisedBeside (s : State) (n : Nat) (l : List Nat) : List Nat :=
  (List.range 256).filter (fun m => l.contains m && srcExists m && eligible s m && m != n)

theorem lt_of_mem_raisedBeside (h : m ∈ raisedBeside s n l) : m < 256 := List.mem_range.1 (List.mem_filter.1 h).1

/-- Settles O7: the raise starts a reaction on `n`, the lowest of the highest class, and merges the others into it. -/
theorem reactionStart : Obligations.ReactionStart := by
  intro l n s hs hidle raised hn hex hel hmax
  have hraise : raiseMany raised s = settled (merged (raisedBeside s n raised)
      (startReaction n (srcClass s n) (raisedBeside s n raised).length (marked (existing raised) s))) :=
    raiseMany_start hidle hn hex hel hmax
  have hmarked : (marked (existing raised) s).canonical := marked_foot.keeps.canonical hs
  have hpending : ∀ m < 256, pendBit (raiseMany raised s) m = (pendBit s m || (raisedBeside s n raised).contains m) := by
    intro m hm
    rw [hraise, settled_pendBit hm, merged_pendBit (startReaction_foot.keeps.canonical hmarked) fun _ => lt_of_mem_raisedBeside,
      pendBit_foot startReaction_foot (by decide +kernel) hm, pendBit_foot marked_foot (by decide +kernel) hm]
  obtain ⟨hcaused, hreacting⟩ := startReaction_settled (k := (raisedBeside s n raised).length) hmarked marked_foot srcClass_lt
    (srcExists_lt hex) (merged_foot (l := raisedBeside s n raised))
  rw [← hraise] at hcaused hreacting
  obtain ⟨hcls, hfirstClass, hfirst, hescalated, hmerged, hsec, hns, hnotes⟩ := hcaused
  have hchanges : Changes [.evt] eventFlds s (raiseMany raised s) :=
    (foot_raiseMany (Foot.refl _ s) (Nat.or_self _)).changes (by decide +kernel)
  exact ⟨_, rfl, hcls, hfirstClass, hfirst, hescalated, hmerged, hsec, hns, hpending, fun m => raiseMany_sticky hs.regs,
    hreacting, fun hhk => hnotes.trans (if_pos hhk), hchanges⟩

/-! ### Pending sources (R372) -/

theorem mem_pendingEligible : m ∈ pendingEligible s ↔ m < 256 ∧ pendBit s m = true ∧ eligible s m = true := by
  rw [pendingEligible, List.mem_filter, List.mem_range, Bool.and_eq_true]

/-- `s` with all pending bits clear. -/
def unpended (s : State) : State := forEach (List.range 8) (fun g st => setFldAt F.EVT_PEND_pending g 0 st) s

theorem unpended_foot : Foot pendingFoot s (unpended s) :=
  foot_forEach (fun _ _ h => foot_setFldAt h fun i hi => .inr ⟨112, by decide, i, hi, rfl⟩) (Foot.refl _ s)

theorem unpended_pendBit (hs : s.canonical) (hm : m < 256) : pendBit (unpended s) m = false := by
  obtain ⟨hzero, -⟩ := zeroed_clears (K := each 8 [F.EVT_PEND_pending]) hs (.refl _) (by decide +kernel)
  have hword : fldAt (unpended s) F.EVT_PEND_pending (m / 32) = 0 :=
    hzero (F.EVT_PEND_pending, m / 32) (mem_each (by omega) (List.mem_singleton.2 rfl))
  rw [pendBit, hword, bitOf, Nat.zero_div]
  rfl

/-- The pending sources beside `n`, in ascending order. -/
def pendingBeside (s : State) (n : Nat) : List Nat := (List.range 256).filter (fun m => pendBit s m && m != n)

/-- A restart with eligible pending sources, of which `n` is to be the first cause. -/
theorem restartReaction_start (hidle : reacting s = false) (hn : n ∈ pendingEligible s)
    (hmax : ∀ m ∈ pendingEligible s, srcClass s m < srcClass s n ∨ (srcClass s m = srcClass s n ∧ n ≤ m)) :
    restartReaction s = settled (unpended (startReaction n (srcClass s n) (pendingBeside s n).length s)) := by
  have htop : topClass s (pendingEligible s) = srcClass s n :=
    topClass_eq hn fun m hm => by rcases hmax m hm with h | h <;> omega
  have hlow : lowestOf s (srcClass s n) (pendingEligible s) = n :=
    lowestOf_eq hn fun m hm e => by rcases hmax m hm with h | h <;> omega
  have hsome : (pendingEligible s).isEmpty = false := List.isEmpty_eq_false_iff.2 (List.ne_nil_of_mem hn)
  unfold restartReaction
  dsimp only
  rw [hidle, hsome, htop, hlow]
  rfl

theorem restartReaction_idle (h : pendingEligible s = []) : restartReaction s = setEvt (fun e => { e with ended := false }) s := by
  unfold restartReaction
  rw [h]
  exact if_pos (Bool.or_true _)

/-- Settles O10: the restart is a start on the lowest eligible pending source of the highest class, with every pending bit cleared. -/
theorem pendingSourcesRestart : Obligations.PendingSourcesRestart := by
  intro s hs hended hidle
  have hexec : exec .reactionRestart s = .next (restartReaction s) := congrArg Host.Outcome.next (if_pos hended)
  constructor
  · intro n hn hpend hel hmax
    have hrestart := restartReaction_start hidle (mem_pendingEligible.2 ⟨hn, hpend, hel⟩) fun m hm => by
      obtain ⟨hlt, hp, he⟩ := mem_pendingEligible.1 hm
      exact hmax m hlt hp he
    have hcleared : ∀ m < 256, pendBit (restartReaction s) m = false := fun m hm => by
      rw [hrestart, settled_pendBit hm, unpended_pendBit (startReaction_foot.keeps.canonical hs) hm]
    obtain ⟨hcaused, hreacting⟩ := startReaction_settled (k := (pendingBeside s n).length) hs (Foot.refl _ s) srcClass_lt hn
      unpended_foot
    rw [← hrestart] at hcaused hreacting
    obtain ⟨hcls, hfirstClass, hfirst, hescalated, hmerged, -, -, -⟩ := hcaused
    exact ⟨_, hexec, hcls, hfirstClass, hfirst, hescalated, hmerged, hcleared, hreacting,
      (foot_restartReaction (Foot.refl _ s) (Nat.or_self _)).changes (by decide +kernel)⟩
  · intro hnone
    refine ⟨_, hexec, restartReaction_idle (List.eq_nil_iff_forall_not_mem.2 fun m hm => ?_)⟩
    obtain ⟨hlt, hp, he⟩ := mem_pendingEligible.1 hm
    rw [hnone m hlt hp] at he
    cases he

end Sys2Proof.Machine
end

section
/-! PROOF. A source raised while a reaction runs (R370, R371). -/

namespace Sys2Proof.Machine

variable {s t u : State} {f : Fld} {ps : List Part} {fs : List (Fld × Nat)} {l : List Nat} {a b c m n : Nat}

/-! ### A raise of one source -/

theorem marked_srcClass (hl : ∀ n ∈ l, n < 256) : srcClass (marked l s) m = srcClass s m :=
  srcClass_eq fun _ ha => marked_reg hl (.inr (by omega))

theorem marked_eligible (hl : ∀ n ∈ l, n < 256) : eligible (marked l s) m = eligible s m :=
  eligible_eq fun _ ha => marked_reg hl (.inr (by omega))

theorem marked_reacting : reacting (marked l s) = reacting s := marked_foot.flag_eq (by decide +kernel)

theorem marked_cls : fld (marked l s) F.EVT_CAUSE_class = fld s F.EVT_CAUSE_class := marked_foot.fld_eq (by decide +kernel)

theorem marked_reactBits : reactBits (marked l s) c = reactBits s c := reactBits_foot marked_foot (by decide +kernel)

theorem marked_canonical (hs : s.canonical) : (marked l s).canonical := marked_foot.keeps.canonical hs

theorem SetsC.marked_one (h : SetsC ps fs s t) (hn : n < 256) (hm : ∀ g < 8, (F.EVT_STAT_sticky, g) ∈ fs) :
    SetsC ps fs s (marked [n] t) := h.setFldAt (by decide) (hm _ (by omega))

theorem SetsC.notifyHk {e : Bool} (h : SetsC ps fs s t) (hp : Part.evt ∈ ps) : SetsC ps fs s (notifyHk a b e t) := by
  unfold Machine.notifyHk
  split
  · exact h.setEvt hp
  · exact h

/-- An eligible source raised while a reaction runs joins it. -/
theorem raise_running (hn : n < 256) (hel : eligible s n = true) (hr : reacting s = true) :
    raise n s = settled (joinReaction n (marked [n] s)) := by
  have hl : ∀ k ∈ [n], k < 256 := List.forall_mem_singleton.2 hn
  have hel' : eligible (setGroupBit F.EVT_STAT_sticky n true s) n = true := (marked_eligible hl).trans hel
  have hr' : reacting (setGroupBit F.EVT_STAT_sticky n true s) = true := (marked_reacting (l := [n])).trans hr
  unfold raise
  dsimp only
  rw [hel', hr']
  rfl

theorem exec_sourceRaise (hex : srcExists n = true) (hin : srcExcluded s n = false) :
    exec (.sourceRaise [n]) s = .next (raise n s) := by
  show Host.Outcome.next (raiseMany ([n].filter (fun m => !srcExcluded s m)) s) = _
  rw [List.filter_cons_of_pos (by rw [hin]; rfl), List.filter_nil, raiseMany_single hex]

/-- A running reaction whose class has no auto, or has hk and a notification still to take, is not due to end. -/
theorem not_endDue (h : bitOf (reactBits s (fld s F.EVT_CAUSE_class)) 3 = true →
    bitOf (reactBits s (fld s F.EVT_CAUSE_class)) 1 = true ∧ s.evt.notes ≠ []) : endDue s = false := by
  unfold endDue
  cases h3 : bitOf (reactBits s (fld s F.EVT_CAUSE_class)) 3 with
  | false => rw [Bool.and_false, Bool.false_and]
  | true =>
    obtain ⟨h1, hnotes⟩ := h h3
    rw [h1, List.isEmpty_eq_false_iff.2 hnotes, Bool.not_true, Bool.or_self, Bool.and_false]

theorem raise_keeps_other_sticky (hs : s.canonical) (hex : srcExists n = true) (hm : m < 256) (hne : m ≠ n) :
    stickyBit (raise n s) m = stickyBit s m := by
  rw [sticky_raise hs.regs hex hm, beq_eq_false_iff_ne.2 hne, Bool.or_false]

/-! ### A source of an equal or lower class -/

theorem mergeSource_fld (hs : s.canonical) (ha : f.addr 0 = F.EVT_CAUSE_merged.addr 0)
    (hf : f.fits ∧ (F.EVT_CAUSE_merged.hi < f.lo ∨ f.hi < F.EVT_CAUSE_merged.lo)) : fld (mergeSource n s) f = fld s f := by
  have hne : f.addr 0 ≠ F.EVT_PEND_pending.addr (n / 32) := by
    rw [ha]
    simp only [F.EVT_CAUSE_merged, F.EVT_PEND_pending, Fld.addr]
    omega
  exact (fldAt_setFldAt_other (setFldAt_wf hs.regs) (by decide) hf.1 ha hf.2).trans (fldAt_setFldAt_ne hne)

theorem mergeSource_merged (hs : s.canonical) :
    fld (mergeSource n s) F.EVT_CAUSE_merged = min 255 (fld s F.EVT_CAUSE_merged + 1) := by
  have hne : F.EVT_CAUSE_merged.addr 0 ≠ F.EVT_PEND_pending.addr (n / 32) := by
    simp only [F.EVT_CAUSE_merged, F.EVT_PEND_pending, Fld.addr]
    omega
  have hkept : fld (setGroupBit F.EVT_PEND_pending n true s) F.EVT_CAUSE_merged = fld s F.EVT_CAUSE_merged := fldAt_setFldAt_ne hne
  have hcounted : fld (mergeSource n s) F.EVT_CAUSE_merged =
      min 255 (fld (setGroupBit F.EVT_PEND_pending n true s) F.EVT_CAUSE_merged + 1) % 256 :=
    fldAt_setFldAt_same (f := F.EVT_CAUSE_merged) (setFldAt_wf hs.regs) (by decide) (by decide)
  rw [hcounted, hkept, Nat.mod_eq_of_lt (Nat.lt_of_le_of_lt (Nat.min_le_left ..) (by decide))]

theorem mergeSource_pendBit (hs : s.canonical) (hn : n < 256) : pendBit (mergeSource n s) m = if m = n then true else pendBit s m := by
  have hkept : pendBit (mergeSource n s) m = pendBit (setGroupBit F.EVT_PEND_pending n true s) m := by
    have hne : F.EVT_PEND_pending.addr (m / 32) ≠ F.EVT_CAUSE_merged.addr 0 := by
      simp only [F.EVT_CAUSE_merged, F.EVT_PEND_pending, Fld.addr]
      omega
    exact congrArg (bitOf · (m % 32)) (fldAt_setFldAt_ne (f := F.EVT_CAUSE_merged) hne)
  rw [hkept]
  exact groupBit_set hs.regs (by decide) rfl rfl (by decide) (by simp only [F.EVT_PEND_pending]; omega)

theorem mergeSource_foot : Foot 0x1000000000000000000000000800000000000 s (mergeSource n s) :=
  foot_mergeSource (Foot.refl _ s) (Nat.or_self _)

theorem SetsC.mergeSource (h : SetsC ps fs s t) (hn : n < 256) (hp : ∀ g < 8, (F.EVT_PEND_pending, g) ∈ fs)
    (hc : (F.EVT_CAUSE_merged, 0) ∈ fs) : SetsC ps fs s (mergeSource n t) :=
  (h.setFldAt (f := F.EVT_PEND_pending) (by decide) (hp _ (by omega))).setFldAt (by decide) hc

/-- `s` with source `n` recorded and merged into the running reaction, and the drydown following. -/
def joined (n : Nat) (s : State) : State := syncDry (mergeSource n (marked [n] s))

/-- An eligible source of no higher class than the reaction that runs merges into it, which goes on unless it was due to end. -/
theorem raise_merges (hs : s.canonical) (hn : n < 256) (hel : eligible s n = true) (hr : reacting s = true)
    (hc : srcClass s n ≤ fld s F.EVT_CAUSE_class)
    (hauto : bitOf (reactBits s (fld s F.EVT_CAUSE_class)) 3 = true →
      bitOf (reactBits s (fld s F.EVT_CAUSE_class)) 1 = true ∧ s.evt.notes ≠ []) : raise n s = joined n s := by
  have hjoin : joinReaction n (marked [n] s) = mergeSource n (marked [n] s) := by
    refine if_pos ?_
    rw [marked_srcClass (List.forall_mem_singleton.2 hn), marked_cls]
    exact hc
  have hcls : fld (joined n s) F.EVT_CAUSE_class = fld s F.EVT_CAUSE_class :=
    (syncDry_fld (by decide)).trans ((mergeSource_fld (f := F.EVT_CAUSE_class) (marked_canonical hs) rfl (by decide)).trans marked_cls)
  have hbits : reactBits (joined n s) (fld s F.EVT_CAUSE_class) = reactBits s (fld s F.EVT_CAUSE_class) :=
    (reactBits_foot (foot_syncDry (mergeSource_foot.mono (N := 0x1000000000000000000010000800000000000) (by decide)) (by decide))
      (by decide +kernel)).trans marked_reactBits
  have hevt : (joined n s).evt = s.evt := syncDry_evt
  rw [raise_running hn hel hr, hjoin]
  refine autoEnd_of_not_due (s := joined n s) (not_endDue ?_)
  rw [hcls, hbits, hevt]
  exact hauto

/-- Settles O11: the raise merges the source, and neither the drydown nor the end of the reaction interferes. -/
theorem equalOrLowerClassMerges : Obligations.EqualOrLowerClassMerges := by
  intro n s hs hex hin hel hr hc hauto
  have hn : n < 256 := srcExists_lt hex
  have hraise : raise n s = joined n s := raise_merges hs hn hel hr hc hauto
  have hmarked : (marked [n] s).canonical := marked_canonical hs
  have hpend : ∀ m < 256, pendBit (raise n s) m = if m = n then true else pendBit s m := fun m hm => by
    rw [hraise, joined, pendBit_foot (foot_syncDry (Foot.refl dryFoot _) (by decide)) (by decide +kernel) hm,
      mergeSource_pendBit hmarked hn, pendBit_foot marked_foot (by decide +kernel) hm]
  have hmerged : fld (raise n s) F.EVT_CAUSE_merged = min 255 (fld s F.EVT_CAUSE_merged + 1) := by
    rw [hraise, joined, fld, syncDry_fld (by decide)]
    exact (mergeSource_merged hmarked).trans (by rw [marked_foot.fld_eq (by decide +kernel)])
  have hevt : (raise n s).evt = s.evt := by rw [hraise]; exact syncDry_evt
  have hsets : SetsC [] (one [F.EVT_CAUSE_merged, F.LD_STAT_dry_causes] ++ each 8 [F.EVT_STAT_sticky, F.EVT_PEND_pending]) s
      (raise n s) := by
    rw [hraise]
    exact (((SetsC.refl hs.regs).marked_one hn (by decide)).mergeSource hn (by decide) (by decide)).syncDry (by decide)
  exact ⟨_, exec_sourceRaise hex hin, sticky_of_raise hs hex, (hpend n hn).trans (if_pos rfl),
    fun m hm hne => ⟨raise_keeps_other_sticky hs hex hm hne, (hpend m hm).trans (if_neg hne)⟩, hmerged, hevt, hsets.toSets⟩

/-! ### A source of a higher class -/

/-- `s` with EVT_CAUSE naming the escalation to class `c` by source `n`, and the bits that act kept in force. -/
def escalated (n c : Nat) (s : State) : State :=
  setFld F.EVT_CAUSE_escalated_by n (setFlag F.EVT_CAUSE_escalated true (setFld F.EVT_CAUSE_class c
    (setEvt (fun e => { e with prior := actingBits s }) s)))

theorem escalateReaction_eq : escalateReaction n c s = notifyHk n c true (escalated n c s) := rfl

theorem notifyHk_fld {e : Bool} : fld (notifyHk a b e s) f = fld s f := by
  unfold fld fldAt regWord
  rw [notifyHk_regs]

theorem notifyHk_evt {e : Bool} : (notifyHk a b e s).evt = { s.evt with
    notes := if bitOf (actingBits s) 1 then s.evt.notes ++ [{ source := a, cls := b, escalation := e }] else s.evt.notes } := by
  unfold notifyHk
  split <;> rfl

/-- From `s` to `t` the running reaction has been escalated to class `c` by source `n` (R370). -/
structure Escalated (n c : Nat) (s t : State) : Prop where
  running : reacting t = true
  cls : fld t F.EVT_CAUSE_class = c
  mark : fld t F.EVT_CAUSE_escalated = 1
  source : fld t F.EVT_CAUSE_escalated_by = n
  evt : t.evt = { s.evt with
    prior := actingBits s
    notes := if bitOf (Nat.lor (actingBits s) (reactBits s c)) 1 then
      s.evt.notes ++ [{ source := n, cls := c, escalation := true }] else s.evt.notes }
  bits : reactBits t c = reactBits s c

/-- The bits that acted go on acting, and those of the new class are added. -/
theorem Escalated.acting (h : Escalated n c s t) : actingBits t = Nat.lor (actingBits s) (reactBits s c) := by
  conv_lhs => unfold actingBits
  rw [h.running, if_pos rfl, h.cls, h.bits, h.evt]

/-- A class with hk has its notification still to take. -/
theorem Escalated.not_endDue (h : Escalated n c s t) (hauto : bitOf (reactBits s c) 3 = true → bitOf (reactBits s c) 1 = true) :
    endDue t = false := by
  refine Machine.not_endDue ?_
  rw [h.cls, h.bits, h.evt]
  intro h3
  have hhk : bitOf (Nat.lor (actingBits s) (reactBits s c)) 1 = true := by
    rw [bitOf_testBit, show Nat.lor (actingBits s) (reactBits s c) = actingBits s ||| reactBits s c from rfl, Nat.testBit_or,
      ← bitOf_testBit _ 1, ← bitOf_testBit _ 1, hauto h3, Bool.or_true]
  exact ⟨hauto h3, by rw [hhk]; simp⟩

theorem Escalated.along (h : Escalated n c s t) (hf : Foot dryFoot t u) : Escalated n c s u where
  running := (hf.flag_eq (by decide +kernel)).trans h.running
  cls := (hf.fld_eq (by decide +kernel)).trans h.cls
  mark := (hf.fld_eq (by decide +kernel)).trans h.mark
  source := (hf.fld_eq (by decide +kernel)).trans h.source
  evt := by
    have hevt : u.evt = t.evt := hf.parts .evt rfl
    rw [hevt, h.evt]
  bits := (reactBits_foot hf (by decide +kernel)).trans h.bits

/-- That the source's sticky bit was set first makes no difference. -/
theorem Escalated.of_marked (h : Escalated n c (marked l s) t) : Escalated n c s t := by
  have hevt : (marked l s).evt = s.evt := groupBits_evt
  have hacting : actingBits (marked l s) = actingBits s := by
    unfold actingBits
    rw [marked_reacting, marked_cls, marked_reactBits, hevt]
  obtain ⟨hrun, hcls, hmark, hsource, he, hbits⟩ := h
  rw [hevt, hacting, marked_reactBits] at he
  exact ⟨hrun, hcls, hmark, hsource, he, hbits.trans marked_reactBits⟩

theorem fld_setFld_same {v : Nat} (hs : s.canonical) (hf : f.fits) (hc : 0 < f.count) (hv : v < 2 ^ (f.hi + 1 - f.lo)) :
    fld (setFld f v s) f = v :=
  (fldAt_setFldAt_same hs.regs hf hc).trans (Nat.mod_eq_of_lt hv)

theorem fld_setFld_other {g : Fld} {v : Nat} (hs : s.canonical)
    (h : f.fits ∧ g.fits ∧ g.addr 0 = f.addr 0 ∧ (f.hi < g.lo ∨ g.hi < f.lo)) : fld (setFld f v s) g = fld s g := by
  obtain ⟨hf, hg, haddr, hapart⟩ := h
  exact fldAt_setFldAt_other hs.regs hf hg haddr hapart

/-- The fields that an escalation writes, and the one that says that a reaction runs. -/
theorem escalated_fields (hs : s.canonical) (hc : c < 4) (hn : n < 256) :
    fld (escalated n c s) F.EVT_CAUSE_class = c ∧ fld (escalated n c s) F.EVT_CAUSE_escalated = 1 ∧
      fld (escalated n c s) F.EVT_CAUSE_escalated_by = n ∧
      fld (escalated n c s) F.EVT_CAUSE_running = fld s F.EVT_CAUSE_running := by
  have h0 : (setEvt (fun e => { e with prior := actingBits s }) s).canonical := setEvt_canonical hs
  have h1 : (setFld F.EVT_CAUSE_class c (setEvt (fun e => { e with prior := actingBits s }) s)).canonical := setFldAt_canonical h0
  have h2 : (setFld F.EVT_CAUSE_escalated 1 (setFld F.EVT_CAUSE_class c
    (setEvt (fun e => { e with prior := actingBits s }) s))).canonical := setFldAt_canonical h1
  refine ⟨?_, ?_, ?_, ?_⟩
  · exact (fld_setFld_other h2 (by decide)).trans
      ((fld_setFld_other h1 (by decide)).trans (fld_setFld_same h0 (by decide) (by decide) hc))
  · exact (fld_setFld_other h2 (by decide)).trans (fld_setFld_same h1 (by decide) (by decide) (by decide))
  · exact fld_setFld_same h2 (by decide) (by decide) hn
  · exact (fld_setFld_other h2 (by decide)).trans ((fld_setFld_other h1 (by decide)).trans (fld_setFld_other h0 (by decide)))

theorem escalateReaction_foot : Foot 0x800000000020 s (escalateReaction n c s) := foot_escalateReaction (Foot.refl _ s) (Nat.or_self _)

theorem escalateReaction_escalated (hs : s.canonical) (hr : reacting s = true) (hc : c < 4) (hn : n < 256) :
    Escalated n c s (escalateReaction n c s) := by
  obtain ⟨hcls, hmark, hsource, hrunning⟩ := escalated_fields hs hc hn
  have hrun : fld (escalateReaction n c s) F.EVT_CAUSE_running = fld s F.EVT_CAUSE_running := notifyHk_fld.trans hrunning
  have hbits : reactBits (escalateReaction n c s) c = reactBits s c := reactBits_foot escalateReaction_foot (by decide +kernel)
  have hacting : actingBits (escalated n c s) = Nat.lor (actingBits s) (reactBits s c) := by
    have hrun' : reacting (escalated n c s) = true := (congrArg (· == 1) hrunning).trans hr
    have hbits' : reactBits (escalated n c s) c = reactBits s c := by
      rw [← hbits, escalateReaction_eq]
      simp only [reactBits, notifyHk_fld]
    rw [actingBits, hrun', if_pos rfl, hcls, hbits']
    rfl
  refine ⟨(congrArg (· == 1) hrun).trans hr, notifyHk_fld.trans hcls, notifyHk_fld.trans hmark, notifyHk_fld.trans hsource,
    ?_, hbits⟩
  rw [escalateReaction_eq, notifyHk_evt, hacting]
  rfl

theorem SetsC.escalateReaction (h : SetsC ps fs s t) (hp : Part.evt ∈ ps) (hc : (F.EVT_CAUSE_class, 0) ∈ fs)
    (he : (F.EVT_CAUSE_escalated, 0) ∈ fs) (hb : (F.EVT_CAUSE_escalated_by, 0) ∈ fs) : SetsC ps fs s (escalateReaction n c t) :=
  ((((h.setEvt hp).setFldAt (by decide) hc).setFldAt (f := F.EVT_CAUSE_escalated) (by decide) he).setFldAt
    (f := F.EVT_CAUSE_escalated_by) (by decide) hb).notifyHk hp

/-- `s` with source `n` recorded and the reaction escalated by it, and the drydown following. -/
def raisedAbove (n : Nat) (s : State) : State := syncDry (escalateReaction n (srcClass s n) (marked [n] s))

theorem raisedAbove_escalated (hs : s.canonical) (hn : n < 256) (hr : reacting s = true) :
    Escalated n (srcClass s n) s (raisedAbove n s) :=
  (escalateReaction_escalated (marked_canonical hs) (marked_reacting.trans hr) srcClass_lt hn).of_marked.along
    (foot_syncDry (Foot.refl _ _) (by decide))

/-- An eligible source of a higher class escalates the reaction that runs, which goes on unless the new class ends it at once. -/
theorem raise_escalates (hs : s.canonical) (hn : n < 256) (hel : eligible s n = true) (hr : reacting s = true)
    (hc : fld s F.EVT_CAUSE_class < srcClass s n)
    (hauto : bitOf (reactBits s (srcClass s n)) 3 = true → bitOf (reactBits s (srcClass s n)) 1 = true) :
    raise n s = raisedAbove n s := by
  have hjoin : joinReaction n (marked [n] s) = escalateReaction n (srcClass s n) (marked [n] s) := by
    rw [joinReaction, marked_srcClass (List.forall_mem_singleton.2 hn), marked_cls, if_neg (by omega)]
  rw [raise_running hn hel hr, hjoin]
  exact autoEnd_of_not_due ((raisedAbove_escalated hs hn hr).not_endDue hauto)

/-- Settles O12: the raise escalates the reaction, and neither the drydown nor the end of the reaction interferes. -/
theorem higherClassEscalates : Obligations.HigherClassEscalates := by
  intro n s hs hex hin hel hr hc hauto
  have hn : n < 256 := srcExists_lt hex
  have hraise : raise n s = raisedAbove n s := raise_escalates hs hn hel hr hc hauto
  have hesc : Escalated n (srcClass s n) s (raise n s) := hraise ▸ raisedAbove_escalated hs hn hr
  have hsets : SetsC [.evt] (one [F.EVT_CAUSE_class, F.EVT_CAUSE_escalated, F.EVT_CAUSE_escalated_by, F.LD_STAT_dry_causes] ++
      each 8 [F.EVT_STAT_sticky]) s (raise n s) := by
    rw [hraise]
    exact (((SetsC.refl hs.regs).marked_one hn (by decide)).escalateReaction (by decide) (by decide) (by decide) (by decide)).syncDry
      (by decide)
  have hacting := hesc.acting
  obtain ⟨hrun, hcls, hmark, hsource, hevt, -⟩ := hesc
  exact ⟨_, exec_sourceRaise hex hin, sticky_of_raise hs hex, fun m hm => raise_keeps_other_sticky hs hex hm, hrun, hcls, hmark,
    hsource, by rw [hevt], hacting, by rw [hevt], by rw [hevt], by rw [hevt], hsets.toSets⟩

end Sys2Proof.Machine
end

section
/-! PROOF. The writes of EVT_STAT and EVT_TEST (R365 to R367, R372, R376). -/

namespace Sys2Proof.Machine

variable {s t : State} {f : Fld} {l : List Nat} {m : Master} {group i k n w : Nat} {mask v : Word}

/-! ### Words of 32 bits -/

theorem withBits_word {x : Nat} (hx : x < 2 ^ 32) : withBits x 31 0 v.toNat = v.toNat := by
  have hv := v.isLt
  unfold withBits
  omega

/-- A field of 32 bits put back after a write of its register undoes the write. -/
theorem setFldAt_restore (hs : s.canonical) (hlo : f.lo = 0) (hhi : f.hi = 31) (hi : i < f.count) :
    setFldAt f i (fldAt s f i) (setRegWord (f.addr i) v s) = s := by
  have hback : setFldAt f i (fldAt s f i) (setRegWord (f.addr i) v s) =
      setRegWord (f.addr i) (regWord s (f.addr i)) (setRegWord (f.addr i) v s) := by
    rw [setFldAt, setInst, if_pos hi, fldAt, bitsOf_wholeWord hlo hhi, hlo, hhi, withBits_word (BitVec.isLt _), BitVec.ofNat_toNat,
      BitVec.setWidth_eq]
    rfl
  have hover : setRegWord (f.addr i) (regWord s (f.addr i)) (setRegWord (f.addr i) v s) =
      setRegWord (f.addr i) (regWord s (f.addr i)) s := by
    unfold setRegWord
    rw [smPut_smPut hs.regs]
  rw [hback, hover, setRegWord_self hs.regs]

/-! ### The write of EVT_STAT (R366) -/

theorem found_sticky (hg : group < 8) : findReg (F.EVT_STAT_sticky.addr group) = some (F.EVT_STAT_sticky.desc, group) := by
  interval_cases group <;> rfl

/-- Every bit of EVT_STAT is W1C: no write of it is an ignored one (R441). -/
theorem ignoredWrite_sticky {view : Word} : ignoredWrite s F.EVT_STAT_sticky.desc group view 0xFFFFFFFF v = false :=
  ignored_none (by rw [show arrayReserved F.EVT_STAT_sticky.desc group = 0 from rfl]; decide)
    (bitsWhere_sub (q := fun x => x != .w1c) (by intro x; cases x <;> simp) (by decide))

theorem effect_sticky (hs : s.canonical) (hg : group < 8) :
    writeEffect F.EVT_STAT_sticky.desc group 0xFFFFFFFF mask s (setRegWord (F.EVT_STAT_sticky.addr group) v s) =
      clearSticky group mask.toNat s := by
  have hmask : mask &&& 0xFFFFFFFF = mask := BitVec.and_allOnes
  show clearSticky group (mask &&& 0xFFFFFFFF).toNat (setFldAt F.EVT_STAT_sticky group (fldAt s F.EVT_STAT_sticky group)
    (setRegWord (F.EVT_STAT_sticky.addr group) v s)) = _
  rw [hmask, setFldAt_restore hs rfl rfl hg]

theorem hasInst_sticky (hg : group < 8) : hasInst F.EVT_STAT_sticky group = true := by
  rw [hasInst, found_sticky hg]
  rfl

/-- A write of EVT_STAT that waits for no access before it is served at once: its domain is always on. -/
theorem masterWrite_sticky (hg : group < 8) (hb : accessBehind s m (F.EVT_STAT_sticky.addr group) = false) :
    masterWrite m (F.EVT_STAT_sticky.addr group) 0xFFFFFFFF mask s =
      writeReg m F.EVT_STAT_sticky.desc group 0xFFFFFFFF mask s := by
  have hpd : pdCtrlWord (F.EVT_STAT_sticky.addr group) = false := by interval_cases group <;> rfl
  have haligned : F.EVT_STAT_sticky.addr group % 4 = 0 := by simp only [F.EVT_STAT_sticky, Fld.addr]; omega
  have hlow : F.EVT_STAT_sticky.addr group < 0x10000000 := by simp only [F.EVT_STAT_sticky, Fld.addr]; omega
  have hdomain : regDomain (F.EVT_STAT_sticky.addr group) = 0 := by interval_cases group <;> rfl
  rw [← run_write haligned hlow (found_sticky hg) (by rw [hdomain]; rfl) hb hpd, alignedWrite, haligned, hpd]
  rfl

theorem exec_evtStatClear (hs : s.canonical) (hg : group < 8) (hb : accessBehind s m (F.EVT_STAT_sticky.addr group) = false) :
    exec (.evtStatClear m group mask) s = .next (clearSticky group mask.toNat s) := by
  have hrole : roleAbsent s F.EVT_STAT_sticky.desc group = false :=
    roleAbsent_of_bounds (by cases s.board.role <;> exact ⟨Nat.zero_le _, hg⟩) (.inr (by decide)) (by decide)
  show Host.Outcome.next (writeInst m F.EVT_STAT_sticky group 0xFFFFFFFF mask s) = _
  rw [writeInst, if_pos (hasInst_sticky hg), masterWrite_sticky hg hb, writeReg, hrole, if_neg Bool.false_ne_true]
  dsimp only
  rw [ignoredWrite_sticky, if_neg Bool.false_ne_true]
  exact congrArg Host.Outcome.next (effect_sticky hs hg)

/-! ### Sticky and pending bits cleared (R372) -/

/-- `s` with the bits of `mask` cleared in word `group` of the group words `f`. -/
def keptBits (f : Fld) (group mask : Nat) (s : State) : State :=
  setFldAt f group (fldAt s f group - Nat.land (fldAt s f group) mask) s

theorem keptBits_word (hs : s.canonical) (hf : f.fits) (hg : group < f.count) :
    fldAt (keptBits f group k s) f group = fldAt s f group - Nat.land (fldAt s f group) k :=
  (fldAt_setFldAt_same hs.regs hf hg).trans (Nat.mod_eq_of_lt (Nat.lt_of_le_of_lt (Nat.sub_le ..) fldAt_lt))

/-- The bits of a group word after those of a mask have been cleared in word `group`. -/
theorem keptBits_bit (hs : s.canonical) (hf : f.fits) (hd : 0 < f.stride) (hg : group < f.count) :
    bitOf (fldAt (keptBits f group k s) f (n / 32)) (n % 32) =
      if n / 32 = group then bitOf (fldAt s f (n / 32)) (n % 32) && !bitOf k (n % 32) else bitOf (fldAt s f (n / 32)) (n % 32) := by
  split
  case isTrue h => rw [h, keptBits_word hs hf hg, bitOf_testBit, testBit_keep, bitOf_testBit, bitOf_testBit]
  case isFalse h =>
    have hne : f.addr (n / 32) ≠ f.addr group := fun e => h (Nat.eq_of_mul_eq_mul_left hd (Nat.add_left_cancel e))
    exact congrArg (bitOf · (n % 32)) (fldAt_setFldAt_ne hne)

/-- `s` with the sticky bits of `mask` in group `group` cleared, and their pending bits. -/
def cleared (group mask : Nat) (s : State) : State := keptBits F.EVT_PEND_pending group mask (keptBits F.EVT_STAT_sticky group mask s)

/-- The level sources among the cleared ones whose condition still holds (R365). -/
def heldLevels (mask : Nat) (s : State) : List Nat := [32, 33, 34, 35].filter (fun n => bitOf mask (n % 32) && levelHolds s n)

theorem clearSticky_eq : clearSticky group k s =
    if group == 1 then raiseMany (heldLevels k (cleared group k s)) (cleared group k s) else cleared group k s := rfl

theorem cleared_canonical (hs : s.canonical) : (cleared group k s).canonical := setFldAt_canonical (setFldAt_canonical hs)

theorem cleared_foot : Foot (stickyFoot ||| pendingFoot) s (cleared group k s) :=
  foot_setFldAt (foot_setFldAt (Foot.refl _ s) fun i hi => .inr ⟨118, by decide, i, hi, rfl⟩)
    fun i hi => .inr ⟨112, by decide, i, hi, rfl⟩

theorem cleared_sets (hs : s.canonical) :
    SetsC [] (ofInst group [F.EVT_STAT_sticky, F.EVT_PEND_pending]) s (cleared group k s) :=
  ((SetsC.refl hs.regs).setFldAt (by decide) (mem_ofInst (by decide))).setFldAt (by decide) (mem_ofInst (by decide))

theorem stickyAddr_ne_pendAddr (hi : i < 8) : F.EVT_STAT_sticky.addr i ≠ F.EVT_PEND_pending.addr n := by
  simp only [F.EVT_STAT_sticky, F.EVT_PEND_pending, Fld.addr]
  omega

theorem cleared_stickyBit (hs : s.canonical) (hg : group < 8) (hn : n < 256) : stickyBit (cleared group k s) n =
    if n / 32 = group then stickyBit s n && !bitOf k (n % 32) else stickyBit s n := by
  have hpend : stickyBit (cleared group k s) n = stickyBit (keptBits F.EVT_STAT_sticky group k s) n :=
    congrArg (bitOf · (n % 32)) (fldAt_setFldAt_ne (stickyAddr_ne_pendAddr (by omega)))
  exact hpend.trans (keptBits_bit hs (by decide) (by decide) hg)

theorem cleared_pendBit (hs : s.canonical) (hg : group < 8) : pendBit (cleared group k s) n =
    if n / 32 = group then pendBit s n && !bitOf k (n % 32) else pendBit s n := by
  have hsticky : ∀ i, fldAt (keptBits F.EVT_STAT_sticky group k s) F.EVT_PEND_pending i = fldAt s F.EVT_PEND_pending i :=
    fun i => fldAt_setFldAt_ne (stickyAddr_ne_pendAddr hg).symm
  have hs' : (keptBits F.EVT_STAT_sticky group k s).canonical := setFldAt_canonical hs
  have hbit := keptBits_bit (f := F.EVT_PEND_pending) (k := k) (n := n) hs' (by decide) (by decide) hg
  rw [hsticky] at hbit
  exact hbit

theorem cleared_levelHolds : levelHolds (cleared group k s) n = levelHolds s n := by
  unfold levelHolds
  rw [cleared_foot.flag_eq (by decide +kernel), cleared_foot.flag_eq (by decide +kernel), cleared_foot.flag_eq (by decide +kernel),
    cleared_foot.flag_eq (by decide +kernel)]

/-- The level sources that a clear of group `group` raises again. -/
def raisedAgain (group mask : Nat) (s : State) : List Nat :=
  [32, 33, 34, 35].filter (fun n => group == 1 && bitOf mask (n % 32) && levelHolds s n)

theorem raiseMany_nil : raiseMany [] s = s := by
  unfold raiseMany
  simp [forEach]

/-- A clear raises the level sources that still hold again, in group 1 where they are. -/
theorem clearSticky_raises : clearSticky group k s = raiseMany (raisedAgain group k s) (cleared group k s) := by
  have hheld : heldLevels k (cleared group k s) = heldLevels k s := by simp only [heldLevels, cleared_levelHolds]
  rw [clearSticky_eq, hheld]
  unfold raisedAgain
  cases group == 1 with
  | true => simp only [Bool.true_and]; rfl
  | false => simp [raiseMany_nil]

/-- The sources raised again exist, and are of the group cleared. -/
theorem mem_raisedAgain (h : n ∈ raisedAgain group k s) : srcExists n = true ∧ n / 32 = group := by
  obtain ⟨hlevel, hheld⟩ := List.mem_filter.1 h
  have hall : ∀ j ∈ [32, 33, 34, 35], srcExists j = true ∧ j / 32 = 1 := by decide
  obtain ⟨hex, hgroup⟩ := hall n hlevel
  have hone : group = 1 := by
    simp only [Bool.and_eq_true, beq_iff_eq] at hheld
    exact hheld.1.1
  exact ⟨hex, hgroup.trans hone.symm⟩

theorem clearSticky_stickyBit (hs : s.canonical) (hg : group < 8) (hn : n < 256) : stickyBit (clearSticky group k s) n =
    if n / 32 = group then (stickyBit s n && !bitOf k (n % 32)) || (raisedAgain group k s).contains n else stickyBit s n := by
  rw [clearSticky_raises, raiseMany_sticky (cleared_canonical hs).regs hn, cleared_stickyBit hs hg hn]
  by_cases hmem : n ∈ raisedAgain group k s
  · obtain ⟨hex, hgroup⟩ := mem_raisedAgain hmem
    rw [if_pos hgroup, if_pos hgroup, hex, Bool.and_true]
  · have hnone : (raisedAgain group k s).contains n = false := by simpa using hmem
    rw [hnone, Bool.false_and, Bool.or_false, Bool.or_false]

/-- Settles O13: the write of EVT_STAT is the clear of its bits, followed by a raise of the level sources that still hold. -/
theorem stickyBitsClear : Obligations.StickyBitsClear := by
  intro m group mask s hs hg hb
  refine ⟨_, exec_evtStatClear hs hg hb, fun n hn => clearSticky_stickyBit hs hg hn, fun hnone => ?_,
    (foot_clearSticky (Foot.refl _ s) (Nat.or_self _)).changes (by decide +kernel)⟩
  have hclear : clearSticky group mask.toNat s = cleared group mask.toNat s := by
    rw [clearSticky_raises, show raisedAgain group mask.toNat s = [] from hnone, raiseMany_nil]
  rw [hclear]
  exact ⟨fun n _ => cleared_pendBit hs hg, (cleared_sets hs).toSets⟩

/-! ### EVT_TEST (R376) -/

/-- The bits of EVT_TEST that EVT_TEST_GO writes: go, and the source. -/
def testWord (n : Nat) : Word := wordOf (2 ^ 31 + n % 2 ^ 8)

theorem effect_test : writeEffect F.EVT_TEST_go.desc 0 0x800000FF v s t =
    if bitOf (v &&& 0x800000FF).toNat 31 && srcExists (fld t F.EVT_TEST_source) then raise (fld t F.EVT_TEST_source) t else t := rfl

theorem testWord_toNat (hn : n < 256) : (testWord n).toNat = 2 ^ 31 + n := by
  rw [testWord, wordOf, BitVec.toNat_ofNat]
  omega

theorem testWord_go (hn : n < 256) : bitOf (testWord n &&& 0x800000FF).toNat 31 = true := by
  have hbit : (testWord n).getLsbD 31 = true := by
    rw [← BitVec.testBit_toNat, testWord_toNat hn, ← bitOf_testBit, bitOf, beq_iff_eq]
    omega
  rw [bitOf_testBit, BitVec.testBit_toNat, BitVec.getLsbD_and, hbit]
  rfl

theorem testWord_source (hn : n < 256) : bitsOf (testWord n).toNat 7 0 = n := by
  rw [testWord_toNat hn, bitsOf]
  omega

theorem exec_evtTestGo (hs : s.canonical) (hn : n < 256) (hb : accessBehind s m (F.EVT_TEST_go.addr 0) = false) :
    exec (.evtTestGo m n) s =
      .next (if srcExists n then raise n (setFld F.EVT_TEST_source n s) else setFld F.EVT_TEST_source n s) := by
  have hrole : roleAbsent s F.EVT_TEST_go.desc 0 = false :=
    roleAbsent_of_bounds (by cases s.board.role <;> decide) (.inr (by decide)) (by decide)
  have hsource : fld (setFld F.EVT_TEST_source n s) F.EVT_TEST_source = n := fld_setFld_same hs (by decide) (by decide) hn
  have hset : setRegWord (F.EVT_TEST_go.addr 0) ((regWord s (F.EVT_TEST_go.addr 0) &&& ~~~ rcMask.fieldBits F.EVT_TEST_source) |||
      (testWord n &&& rcMask.fieldBits F.EVT_TEST_source)) s = setFld F.EVT_TEST_source n s := by
    refine (setReg_field (f := F.EVT_TEST_source) (i := 0) (by decide) (by decide)).trans ?_
    rw [show bitsOf (testWord n).toNat F.EVT_TEST_source.hi F.EVT_TEST_source.lo = n from testWord_source hn]
    rfl
  have hpresent : absentBits s F.EVT_TEST_go.desc 0 = 0 := rfl
  have hwhole : arrayReserved F.EVT_TEST_go.desc 0 = 0 := rfl
  show Host.Outcome.next (writeInst m F.EVT_TEST_go 0 0x800000FF (testWord n) s) = _
  rw [writeInst_plain (d := F.EVT_TEST_go.desc) (set := rcMask.fieldBits F.EVT_TEST_source) rfl (by decide) rfl (by decide) rfl
      hrole hb (by decide) (by decide) (by rw [hpresent, hwhole]; decide) (by decide) rfl,
    hset, effect_test, testWord_go hn, hsource, Bool.true_and]

/-- Settles O14: the write of EVT_TEST is a raise of the source that it leaves in the register. -/
theorem testRaisesSource : Obligations.TestRaisesSource := by
  intro m n s hs hn
  have hset : (setFld F.EVT_TEST_source n s).canonical := setFldAt_canonical hs
  have hsource : fld (setFld F.EVT_TEST_source n s) F.EVT_TEST_source = n := fld_setFld_same hs (by decide) (by decide) hn
  refine ⟨fun hout => ⟨_, ?_, rfl⟩, fun hb => ⟨fun hex => ?_, fun hnone => ?_⟩⟩
  · show Host.Outcome.next (raiseMany ([n].filter (fun m => !srcExcluded s m)) s) = _
    rw [List.filter_cons_of_neg (by rw [hout]; decide), List.filter_nil, raiseMany_nil]
  · refine ⟨_, (exec_evtTestGo hs hn hb).trans (congrArg Host.Outcome.next (if_pos hex)), sticky_of_raise hset hex, ?_,
      fun hin => exec_sourceRaise hex hin⟩
    rw [(foot_raise (Foot.refl _ _) (Nat.or_self _)).fld_eq (by decide +kernel), hsource]
  · exact ⟨_, exec_evtTestGo hs hn hb, if_neg (by rw [hnone]; decide)⟩

end Sys2Proof.Machine
end

section
/-! PROOF. Writes where no register answers (R393, R441). -/

namespace Sys2Proof.Machine

variable {s : State} {m : Master} {a i : Nat} {mask v : Word} {d : RegDesc}

/-! ### The PD_CTRL words -/

/-- Every PD_CTRL word is an instance of one register table, with an instance for each domain in both roles (R411). -/
theorem findReg_pdCtrlWord (h4 : a % 4 = 0) (hp : pdCtrlWord a = true) : ∃ d i, findReg a = some (d, i) ∧
    d.base = F.PD_CTRL_enable.addr 1 ∧ i < 32 ∧ d.bounds .tile = (0, 32) ∧ d.bounds .sender = (0, 32) := by
  have hall : ∀ k < 32, (findReg (F.PD_CTRL_enable.addr 1 + 4 * k)).any (fun x => x.1.base == F.PD_CTRL_enable.addr 1 &&
      x.2 == k && x.1.bounds .tile == (0, 32) && x.1.bounds .sender == (0, 32)) = true := by decide +kernel
  rw [pdCtrlWord, Bool.and_eq_true, decide_eq_true_eq, decide_eq_true_eq] at hp
  obtain ⟨hlo, hhi⟩ : 0x20104 ≤ a ∧ a ≤ 0x20180 := hp
  have hk : (a - 0x20104) / 4 < 32 := by omega
  have ha : F.PD_CTRL_enable.addr 1 + 4 * ((a - 0x20104) / 4) = a := by
    show 0x20104 + 4 * ((a - 0x20104) / 4) = a
    omega
  have hreg := hall _ hk
  rw [ha] at hreg
  obtain ⟨⟨d, i⟩, hfound, hd⟩ := (Option.any_eq_true _ _).1 hreg
  simp only [Bool.and_eq_true, beq_iff_eq] at hd
  obtain ⟨⟨⟨hbase, rfl⟩, htile⟩, hsender⟩ := hd
  exact ⟨d, _, hfound, hbase, hk, htile, hsender⟩

theorem pdCtrlWord_of_unassigned (h4 : a % 4 = 0) (hd : findReg a = none) : pdCtrlWord a = false := by
  by_contra hp
  obtain ⟨d, i, hfound, -⟩ := findReg_pdCtrlWord h4 (by simpa using hp)
  rw [hd] at hfound
  cases hfound

/-- No role excludes a PD_CTRL register. -/
theorem pdCtrlWord_of_roleAbsent (h4 : a % 4 = 0) (hd : findReg a = some (d, i)) (hr : roleAbsent s d i = true) :
    pdCtrlWord a = false := by
  by_contra hp
  obtain ⟨d', i', hfound, hbase, hi, htile, hsender⟩ := findReg_pdCtrlWord h4 (by simpa using hp)
  rw [hd] at hfound
  cases hfound
  have hpresent : roleAbsent s d i = false := by
    refine roleAbsent_of_bounds ?_ (.inr (by rw [hbase]; decide)) (by rw [hbase]; decide)
    cases s.board.role with
    | tile => rw [htile]; exact ⟨Nat.zero_le _, hi⟩
    | sender => rw [hsender]; exact ⟨Nat.zero_le _, hi⟩
  rw [hpresent] at hr
  cases hr

/-! ### What a write does there -/

theorem serve_zero {n : Nat} (hon : domainOn s n = false) (hu : domainUsable s n = false) : serve s n = .zero := by
  simp [serve, hon, hu]

/-- A write to a register of a domain that is switched off or marked dead does not wait, and has no effect (R393). -/
theorem masterWrite_off (hm : a < 0x10000000) (hb : accessBehind s m a = false) (hon : domainOn s (regDomain a) = false)
    (hu : domainUsable s (regDomain a) = false) : masterWrite m a mask v s = s := by
  obtain ⟨hplace, -, hdram⟩ := place_low hm
  have hnow : masterWrite m a mask v s = busWrite m a mask v s := by
    simp [masterWrite, access, behind, accessServe, performAccess, hb, hplace, hdram, serve_zero hon hu]
  rw [hnow, busWrite, hplace, hon]
  rfl

theorem writeReg_roleAbsent (hr : roleAbsent s d i = true) : writeReg m d i mask v s = s := if_pos hr

/-- A write to an unassigned offset, outside the retention window and the transfer tables, at most counts as an ignored write
(R441). -/
theorem writeUncovered_unassigned (hret : ¬ (0x28000 ≤ a ∧ a < 0x30000)) (htf : (tfPlace a).isSome = false) :
    writeUncovered a mask v s = if v &&& mask = 0 then s else countIgnored a s := by
  have hnone : tfPlace a = none := by simpa using htf
  have hwin : (decide (0x28000 ≤ a) && decide (a < 0x30000)) = false := by simpa using hret
  by_cases hz : v &&& mask = 0 <;> simp [writeUncovered, hwin, hnone, hz]

theorem masterWrite_unassigned (hm : a < 0x10000000) (hb : accessBehind s m a = false) (hon : domainOn s (regDomain a) = true)
    (hd : findReg a = none) (hspan : (spanOf a).isSome = true) : masterWrite m a mask v s = writeUncovered a mask v s := by
  obtain ⟨hplace, hstore, hdram⟩ := place_low hm
  rw [masterWrite, access_low hm hon rfl hb]
  simp [performAccess, busWrite, hplace, hon, hstore, hdram, hd, hspan]

/-! ### The command -/

/-- Settles O17: none of the addresses is a PD_CTRL word, so the command is the write alone. To a domain that does not serve and
to a register that the role excludes it does nothing, and to an unassigned offset it is at most an ignored write. -/
theorem writeWithoutRegister : Obligations.WriteWithoutRegister := by
  intro m a mask v s hs h4 hm hb
  refine ⟨fun hon hu => ?_, fun d i hd hon hr => ?_, fun hd hspan hon hret htf => ?_⟩
  · exact ⟨_, exec_registerWrite_aligned h4 (pdCtrlWord_of_off h4 hon), masterWrite_off hm hb hon hu⟩
  · have hwrite := run_write (mask := mask) (v := v) h4 hm hd hon hb (pdCtrlWord_of_roleAbsent h4 hd hr)
    exact ⟨_, congrArg Host.Outcome.next hwrite, writeReg_roleAbsent hr⟩
  · refine ⟨_, exec_registerWrite_aligned h4 (pdCtrlWord_of_unassigned h4 hd), ?_⟩
    rw [masterWrite_unassigned hm hb hon hd hspan, writeUncovered_unassigned hret htf]
    refine ⟨fun hz => if_pos hz, fun hz => ?_⟩
    rw [if_neg hz]
    have ha : a < 0x100000000 := by omega
    obtain ⟨haddr, hcount, hsets⟩ := countIgnored_spec hs.regs ha fun x hx => hx
    exact ⟨haddr, hcount, hsets.toSets⟩

end Sys2Proof.Machine
end

section
/-! PROOF. A masked write of a register whose write has no effect of its own (R440, R441). -/

namespace Sys2Proof.Machine

variable {s : State} {m : Master} {a i : Nat} {mask v view old : Word} {d : RegDesc} {p q : Access → Bool}

/-! ### The families with RW, RO and RC fields only -/

theorem acc_of_plain {f : FieldDesc} (hd : d.plain = true) (hf : f ∈ d.fields) : f.acc = .rw ∨ f.acc = .ro ∨ f.acc = .rc := by
  rw [RegDesc.plain, Bool.and_eq_true, Bool.and_eq_true, List.all_eq_true] at hd
  obtain ⟨⟨hcodes, -⟩, -⟩ := hd
  simpa [or_assoc] using hcodes f hf

theorem base_of_plain (hd : d.plain = true) : d.base ∉ effectBases := by
  rw [RegDesc.plain, Bool.and_eq_true, Bool.and_eq_true] at hd
  obtain ⟨⟨-, hbase⟩, -⟩ := hd
  simpa using hbase

theorem ownBits_of_plain (hd : d.plain = true) : ownBits d = 0 :=
  (plain_effect (i := 0) (mask := 0) (v := 0) (s := State.reset) (u := State.reset) hd).2

/-- No such family holds a PD_CTRL word, whose write has an effect (R394). -/
theorem pdCtrlWord_of_plain (h4 : a % 4 = 0) (hfound : findReg a = some (d, i)) (hd : d.plain = true) : pdCtrlWord a = false := by
  by_contra hp
  obtain ⟨d', i', hfound', hbase, -⟩ := findReg_pdCtrlWord h4 (by simpa using hp)
  rw [hfound] at hfound'
  cases hfound'
  exact base_of_plain hd (hbase ▸ List.mem_append_right _ (List.mem_singleton.2 rfl))

/-- The bits of two sets of access codes are the same where the two agree on the codes of the family's fields. -/
theorem bitsWhere_congr (h : ∀ f ∈ d.fields, p f.acc = q f.acc) : bitsWhere d p = bitsWhere d q :=
  List.foldl_ext _ _ _ fun _ f hf => by rw [h f hf]

theorem bitsWhere_congr_plain (hd : d.plain = true) (hrw : p .rw = q .rw) (hro : p .ro = q .ro) (hrc : p .rc = q .rc) :
    bitsWhere d p = bitsWhere d q := by
  refine bitsWhere_congr fun f hf => ?_
  obtain hc | hc | hc := acc_of_plain hd hf <;> rw [hc] <;> assumption

theorem bitsWhere_none_plain (hd : d.plain = true) (hrw : p .rw = false) (hro : p .ro = false) (hrc : p .rc = false) :
    bitsWhere d p = 0 :=
  (bitsWhere_congr_plain (q := fun _ => false) hd hrw hro hrc).trans (List.foldl_fixed d.fields)

/-! ### What the write leaves, and when it is ignored -/

theorem and_not_zero {w : Word} : w &&& ~~~ BitVec.ofNat 32 0 = w := BitVec.and_allOnes

/-- A write sets the RW bits in its mask and leaves the other bits (R440). -/
theorem writtenWord_of_plain (hd : d.plain = true) (habs : absentBits s d i = 0) (harr : arrayReserved d i = 0) :
    writtenWord s d i old mask v = (old &&& ~~~ (mask &&& d.bits .rw)) ||| (v &&& (mask &&& d.bits .rw)) := by
  have hset : bitsWhere d (Access.writes s) = d.bits .rw := bitsWhere_congr_plain hd rfl rfl rfl
  have hw1c : bitsWhere d (fun x => x == .w1c) = 0 := bitsWhere_none_plain hd rfl rfl rfl
  have hw1s : bitsWhere d (fun x => x == .w1s) = 0 := bitsWhere_none_plain hd rfl rfl rfl
  refine writtenWord_set ?_ (by rw [hset]) (by rw [hw1c]; exact BitVec.and_zero) (by rw [hw1s]; exact BitVec.and_zero)
  rw [habs, harr, and_not_zero, and_not_zero]

/-- A write is ignored when it puts a 1 into a reserved bit or another value into an RO bit (R441). -/
theorem ignoredWrite_of_plain (hd : d.plain = true) (habs : absentBits s d i = 0) (harr : arrayReserved d i = 0) :
    ignoredWrite s d i view mask v = false ↔
      v &&& mask &&& ~~~ d.allBits = 0 ∧ (v ^^^ view) &&& mask &&& d.bits .ro = 0 := by
  have hfixed : bitsWhere d (fun x => x == .ro || (x == .rwl && !x.writes s) || (x == .rwSender && !x.writes s)) = d.bits .ro :=
    bitsWhere_congr_plain hd rfl rfl rfl
  rw [ignoredWrite, habs, harr, hfixed, and_not_zero, and_not_zero]
  simp [RegDesc.allBits]

/-! ### The write -/

/-- The record of an ignored write at `a`, where there is one. -/
def recorded (ignored : Bool) (a : Nat) (s : State) : State := if ignored then countIgnored a s else s

theorem regWord_recorded {b : Bool} {k : Nat} (haddr : k ≠ F.GLB_IGN_ADDR_address.base) (hcount : k ≠ F.GLB_IGN_COUNT_count.base) :
    regWord (recorded b a s) k = regWord s k := by
  cases b with
  | false => rfl
  | true => exact (regWord_setFldAt_ne hcount).trans (regWord_setFldAt_ne haddr)

theorem fld_setRegWord_ne {f : Fld} {w : Word} (h : a ≠ f.base) : fld (setRegWord a w s) f = fld s f := by
  rw [fld, fldAt, regWord_setRegWord_ne (show f.addr 0 ≠ a from h.symm)]
  rfl

theorem absentBits_recorded {b : Bool} : absentBits (recorded b a s) d i = absentBits s d i := by
  cases b <;> rfl

/-- A write of a register that the role has: its record, its word and then its effect. -/
theorem writeReg_present (hr : roleAbsent s d i = false) :
    writeReg m d i mask v s =
      let a := d.base + d.stride * i
      let t := recorded (ignoredWrite s d i (viewReg m s d i) mask v) a s
      writeEffect d i mask v s (setRegWord a
        ((writtenWord t d i (regWord t a) mask v &&& ~~~ ownBits d) ||| (regWord t a &&& ownBits d)) t) :=
  if_neg (by rw [hr]; decide)

/-- The write is the record of an ignored write, where it is one, and then the register's new word. -/
theorem writeReg_of_plain (hd : d.plain = true) (hbase : d.base + d.stride * i = a) (hr : roleAbsent s d i = false)
    (habs : absentBits s d i = 0) (harr : arrayReserved d i = 0) (haddr : a ≠ F.GLB_IGN_ADDR_address.base)
    (hcount : a ≠ F.GLB_IGN_COUNT_count.base) :
    writeReg m d i mask v s =
      setRegWord a ((regWord s a &&& ~~~ (mask &&& d.bits .rw)) ||| (v &&& (mask &&& d.bits .rw)))
        (recorded (ignoredWrite s d i (viewReg m s d i) mask v) a s) := by
  rw [writeReg_present hr, hbase]
  dsimp only
  rw [(plain_effect hd).1, ownBits_of_plain hd, writtenWord_of_plain hd (absentBits_recorded.trans habs) harr,
    regWord_recorded haddr hcount]
  exact congrArg (setRegWord a · _) ((congrArg _ BitVec.and_zero).trans (BitVec.or_zero.trans and_not_zero))

/-- Settles O16: the command is the write of the register, which records an ignored write and then sets the register's word. -/
theorem registerWriteByAccessCode : Obligations.RegisterWriteByAccessCode := by
  intro m a i d mask v s hs h4 hlow hfound hd hr hon hb habs harr haddr hcount
  have hwrite := (run_write (mask := mask) (v := v) h4 hlow hfound hon hb (pdCtrlWord_of_plain h4 hfound hd)).trans
    (writeReg_of_plain hd (findReg_base hfound) hr habs harr haddr hcount)
  have hignored := ignoredWrite_of_plain (view := viewReg m s d i) (mask := mask) (v := v) hd habs harr
  have hlt : a < 0x100000000 := by omega
  obtain ⟨hign, hcnt, hsets⟩ := countIgnored_spec (fs := wordAt a :: one [F.GLB_IGN_ADDR_address, F.GLB_IGN_COUNT_count])
    hs.regs hlt fun x hx => List.mem_cons_of_mem _ hx
  refine ⟨_, congrArg Host.Outcome.next hwrite, ?_, fun hclean => ?_, fun hdirty => ?_⟩
  · refine regWord_setRegWord_same ?_
    cases ignoredWrite s d i (viewReg m s d i) mask v with
    | false => exact hs.regs
    | true => exact hsets.wf
  · rw [hignored.2 hclean]
    exact ((SetsC.refl hs.regs).word (List.mem_singleton.2 rfl)).toSets
  · rw [Bool.eq_true_of_not_eq_false (mt hignored.1 hdirty)]
    exact ⟨(fld_setRegWord_ne haddr).trans hign, (fld_setRegWord_ne hcount).trans hcnt, (hsets.word (List.mem_cons_self)).toSets⟩

end Sys2Proof.Machine
end


section
/-! PROOF. Steps: every command completes, every step keeps the canonical form and the queue's rest, and an idle step is one cycle
of the time unit (R291, R292, R294, R312). -/

namespace Sys2Proof.Machine

variable {c : Instr} {s t : State}

/-! ### The canonical form and the queue -/

/-- From `s` to `t` the commands that wait stay as they are, and so does the canonical form. -/
structure KeepsForm (s t : State) : Prop where
  pending : t.pending = s.pending
  canonical : s.canonical → t.canonical

theorem KeepsForm.refl (s : State) : KeepsForm s s := ⟨rfl, id⟩

theorem KeepsForm.trans {a b d : State} (h : KeepsForm a b) (k : KeepsForm b d) : KeepsForm a d :=
  ⟨k.pending.trans h.pending, fun x => k.canonical (h.canonical x)⟩

theorem Keeps.form (h : Keeps s t) : KeepsForm s t := ⟨h.pending, h.canonical⟩

/-- After reset each sparse memory lists its reset cells in order, and there are sixteen lanes and eight ports. -/
theorem reset_canonical : State.reset.canonical := ⟨by decide, by decide, by decide, by decide, by decide, rfl, rfl⟩

/-- Of what a power-on reset leaves only the flash is a sparse memory that need not be empty. -/
theorem unpowered_form : KeepsForm s (unpowered s) := by
  refine ⟨rfl, fun hs => ?_⟩
  obtain ⟨-, -, -, -, flash, -, -⟩ := hs
  obtain ⟨regs, store, dram, retention, -, lanes, ports⟩ := reset_canonical
  exact ⟨regs, store, dram, retention, flash, lanes, ports⟩

theorem strapSample_form {a : Bool} {b : Nat} (h : exec (.strapSample a b) s = .next t) : KeepsForm s t := by
  obtain rfl | ⟨n, x, rfl⟩ := strapSample_canonical h
  · exact .refl t
  · obtain ⟨pending, canonical⟩ := (foot_elapse (a1 := n) (Foot.refl _ s) (Nat.or_self _)).keeps.form
    exact ⟨pending, canonical⟩

theorem exec_form (h : exec c s = .next t) : KeepsForm s t := by
  by_cases hp : ∃ b, c = .powerOnReset b
  · obtain ⟨b, rfl⟩ := hp
    exact unpowered_form.trans (powerOnReset_keeps h).form
  by_cases hs : ∃ a b, c = .strapSample a b
  · obtain ⟨a, b, rfl⟩ := hs
    exact strapSample_form h
  exact (exec_keeps h (fun b e => hp ⟨b, e⟩) (fun a b e => hs ⟨a, b, e⟩)).form

theorem canonical_withoutFront {rest : List Instr} (h : s.canonical) : ({ s with pending := rest } : State).canonical := h

/-- Settles O4: an idle cycle keeps the form and the empty queue, and a command keeps them in the state with the queue's rest. -/
theorem everyStepKeepsTheForm : Obligations.EveryStepKeepsTheForm := by
  intro s t hs h
  obtain ⟨hq, rfl⟩ | ⟨c, rest, hq, hx⟩ := step_cases h
  · obtain ⟨pending, canonical⟩ := idleCycle_keeps (s := s).form
    exact ⟨canonical hs, by rw [pending, hq]; rfl⟩
  · obtain ⟨pending, canonical⟩ := exec_form hx
    exact ⟨canonical (canonical_withoutFront hs), by rw [pending, hq]; rfl⟩

/-! ### Every command completes -/

/-- The meaning of each command is a next state: none faults and none is refused. -/
theorem exec_completes (c : Instr) (s : State) : ∃ t, exec c s = .next t := by
  cases c <;> exact ⟨_, rfl⟩

/-- Settles O6: every command answers a next state, and whichever it is, the form and what only grows are kept. -/
theorem everyCommandCompletes : Obligations.EveryCommandCompletes := by
  intro c s
  obtain ⟨t, h⟩ := exec_completes c s
  obtain ⟨pending, canonical⟩ := exec_form h
  obtain ⟨lock, svn, record⟩ := exec_onlyGrows h
  exact ⟨t, h, pending, canonical, lock, svn, record⟩

/-! ### The front of the queue, and reset -/

theorem step_of_front {rest : List Instr} (h : s.pending = c :: rest) : step s = exec c { s with pending := rest } := by
  rw [step, h]

theorem step_of_idle (h : s.pending = []) : step s = .next (idleCycle s) := by
  rw [step, h]

/-- Settles O1: it is the case of `step` for a queue with a front. -/
theorem stepRunsFront : Obligations.StepRunsFront := fun _ _ _ h => step_of_front h

/-- Settles O3: the form is a check of the reset cells, and queue and record are empty. -/
theorem resetIsSound : Obligations.ResetIsSound := ⟨reset_canonical, rfl, rfl⟩

/-! ### An idle step -/

/-- Between E0 and E1 of a sleep the counter holds (R312). -/
theorem idleCycle_asleep (h : s.time.sleep ≠ none) :
    idleCycle s = { s with time := { s.time with mono := s.time.mono + 4 } } :=
  if_pos (Option.isSome_iff_ne_none.2 h)

theorem isSome_of_awake (h : s.time.sleep = none) : s.time.sleep.isSome = false := by rw [h]; rfl

/-- One cycle without an adjustment adds the acting increment (R291, R292). -/
theorem idleCycle_plain (hawake : s.time.sleep = none) (hbusy : flag s F.TIME_STAT_adj_busy = false) :
    idleCycle s = { s with time := { s.time with
      mono := s.time.mono + 4, adjCount := 0, counter := (s.time.counter + plainStep s) % counterMod } } := by
  unfold idleCycle runCycles
  extract_lets -merge -useContext +onlyGivenNames time u
  rw [if_neg (show ¬ u.time.sleep.isSome = true by rw [isSome_of_awake (s := u) hawake]; decide)]
  extract_lets -merge -useContext +onlyGivenNames left a counter v vtime
  have hidle : ¬ flag u F.TIME_STAT_adj_busy = true := by rw [show flag u _ = _ from hbusy]; decide
  have hleft : left = 0 := if_neg hidle
  have hv : v = u := if_neg hidle
  have hvtime : vtime = u.time := congrArg State.time hv
  have hcounter : counter = (u.time.counter + plainStep u) % counterMod := by simp [counter, a, hleft]
  rw [hcounter, hvtime, hv, hleft, Nat.zero_sub]
  rfl

/-- One cycle of a running adjustment adds the increment with the sampled delta, and one cycle fewer remains (R294). -/
theorem idleCycle_adjusting_time (hawake : s.time.sleep = none) (hbusy : flag s F.TIME_STAT_adj_busy = true)
    (hcount : 0 < s.time.adjCount) : (idleCycle s).time = { s.time with
      mono := s.time.mono + 4, adjCount := s.time.adjCount - 1, counter := (s.time.counter + adjustedStep s) % counterMod } := by
  have hleft : adjustLeft s = s.time.adjCount := if_pos hbusy
  rw [idleCycle, runCycles_time (isSome_of_awake hawake), hleft, Nat.min_eq_left hcount]
  simp

theorem idleCycle_adjusting_regs (hawake : s.time.sleep = none) (hbusy : flag s F.TIME_STAT_adj_busy = true)
    (hcount : 0 < s.time.adjCount) : (idleCycle s).regs =
      (setFlag F.TIME_STAT_adj_busy (decide (1 < s.time.adjCount))
        (setFld F.TIME_ADJ_CNT_count (fld s F.TIME_ADJ_CNT_count - 1) s)).regs := by
  have hleft : adjustLeft s = s.time.adjCount := if_pos hbusy
  have hmore : decide (s.time.adjCount - 1 > 0) = decide (1 < s.time.adjCount) := decide_eq_decide.2 (by omega)
  rw [idleCycle, runCycles_regs (isSome_of_awake hawake), if_pos hbusy, hleft, Nat.min_eq_left hcount, hmore]

theorem idleCycle_adjusting_count (hs : s.canonical) (hawake : s.time.sleep = none) (hbusy : flag s F.TIME_STAT_adj_busy = true)
    (hcount : 0 < s.time.adjCount) :
    flag (idleCycle s) F.TIME_STAT_adj_busy = decide (1 < s.time.adjCount) ∧
      fld (idleCycle s) F.TIME_ADJ_CNT_count = fld s F.TIME_ADJ_CNT_count - 1 := by
  have hregs := idleCycle_adjusting_regs hawake hbusy hcount
  have hlt : fld s F.TIME_ADJ_CNT_count < 2 ^ 31 := fldAt_lt
  constructor
  · rw [flag, flagAt, fldAt_congr hregs]
    exact flag_setFlag_same (setFldAt_canonical hs) (by decide) (by decide)
  · rw [fld, fldAt_congr hregs]
    exact (fldAt_setFldAt_ne (by decide)).trans ((fldAt_setFldAt_same hs.regs (by decide) (by decide)).trans
      (Nat.mod_eq_of_lt ((Nat.sub_le ..).trans_lt hlt)))

/-- Settles O2: an idle step is one cycle, which holds the counter in a sleep, adds the plain step where no adjustment runs and the
adjusted step where one runs. -/
theorem idleStepIsOneCycle : Obligations.IdleStepIsOneCycle := by
  intro s hq incr counted
  have hcounted : ∀ step, counted step = (s.time.counter + step * 16) % counterMod := fun step => by rw [counterMod_eq]
  rw [step_of_idle hq]
  refine ⟨fun hsleep => ?_, fun hawake hbusy => ?_, fun hs hawake hbusy hcount => ⟨_, rfl, ?_, ?_⟩⟩
  · rw [idleCycle_asleep hsleep]
  · rw [idleCycle_plain hawake hbusy, hcounted]
    rfl
  · rw [idleCycle_adjusting_time hawake hbusy hcount, hcounted]
    rfl
  · obtain ⟨busy, count⟩ := idleCycle_adjusting_count hs hawake hbusy hcount
    exact ⟨busy, count, ((SetsC.refl hs.regs).runCycles (by decide) (by decide) (by decide)).toSets⟩

end Sys2Proof.Machine
end

section
/-! PROOF. The frames of the commands: what each changes lies in its footprint, and the footprint in what its clause lists. -/

namespace Sys2Proof.Machine

variable {c : Instr} {s t : State} {M : Nat} {ps : List Part} {rs : List Fld} {channel : Nat}

/-! ### From a footprint to a frame -/

/-- A command that reaches `t` within the parts and registers that the mask `M` names runs to a state that differs in no more
than what its clause lists, where the clause lists what `M` names. -/
theorem Foot.runs (hfoot : Foot M s t) (hrun : exec c s = .next t) (hwithin : maskWithin M ps rs = true) :
    Runs c s (Changes ps rs s) :=
  ⟨t, hrun, hfoot.changes hwithin⟩

/-- The same from the footprint law of the command, which holds within every mask that contains the law's own. -/
theorem runs_of_foot (hlaw : Foot M s s → M ||| M = M → ∀ t, exec c s = .next t → Foot M s t)
    (hwithin : maskWithin M ps rs = true := by decide) : Runs c s (Changes ps rs s) := by
  obtain ⟨t, hrun⟩ := exec_completes c s
  exact (hlaw (Foot.refl M s) (Nat.or_self M) t hrun).runs hrun hwithin

/-! ### Commands whose clause has a premise -/

/-- With no access waiting, a command slot completes none (R157, R158). -/
theorem slotOf_of_no_waits (h : s.pwr.waits = []) : slotOf channel s = commandSlot channel s := by
  have hpwr : (commandSlot channel s).pwr = s.pwr := (foot_commandSlot (Foot.refl _ s) (Nat.or_self _)).parts .pwr (by decide)
  unfold slotOf
  exact if_pos (by rw [hpwr, h]; rfl)

theorem exec_dramCommandSlot_of_no_waits (h : s.pwr.waits = []) :
    exec (.dramCommandSlot channel) s = .next (commandSlot channel s) :=
  congrArg Host.Outcome.next (slotOf_of_no_waits h)

/-- In phase 1 of an attempt the readiness is the attempt's, and no domain is lost for enable = 0 (R394, R400). -/
theorem exec_quiesceDone_of_attempt (h : pwrPhase s = 1) : exec .quiesceDone s = .next (quiesceDone s) :=
  congrArg Host.Outcome.next (if_pos (by rw [h]; rfl))

/-- With no stage applied, no apply ends (R107). -/
theorem endApplies_of_none_applying (h : ∀ x ∈ s.cmd.stages, x.applying = false) : endApplies s = s := by
  have hdone : ∀ x ∈ s.cmd.stages, (x.applying && !s.pwr.waits.any fun w => w.stage == some x.id) = false :=
    fun x hx => by rw [h x hx]; rfl
  have hnone : s.cmd.stages.filter (fun x => x.applying && !s.pwr.waits.any fun w => w.stage == some x.id) = [] :=
    List.filter_eq_nil_iff.2 fun x hx => by rw [hdone x hx]; decide
  have hall : s.cmd.stages.filter (fun x => !(x.applying && !s.pwr.waits.any fun w => w.stage == some x.id)) = s.cmd.stages :=
    List.filter_eq_self.2 fun x hx => by rw [hdone x hx]; rfl
  unfold endApplies
  dsimp only
  rw [hnone, hall]
  rfl

/-- With no access waiting and no stage applied, none goes on (R393). -/
theorem completeWaits_of_no_waits (hwaits : s.pwr.waits = []) (hstages : ∀ x ∈ s.cmd.stages, x.applying = false) :
    completeWaits s = s := by
  have hset : setPwr (fun p => { p with waits := [] }) s = s := by rw [← hwaits]; rfl
  unfold completeWaits
  rw [hwaits, hset]
  exact endApplies_of_none_applying hstages

theorem restartTimer_waits : (restartTimer s).pwr.waits = s.pwr.waits := by
  unfold restartTimer
  dsimp only
  split <;> rfl

theorem restartsDone_waits : (restartsDone s).pwr.waits = s.pwr.waits := by
  unfold restartsDone
  dsimp only
  split
  · rfl
  · rw [restartTimer_waits, raise_pwr]
    rfl
  · rw [raise_pwr]
    rfl
  · rfl

theorem nextRestart_waits : (nextRestart s).pwr.waits = s.pwr.waits := by
  unfold nextRestart
  dsimp only
  split
  · exact restartsDone_waits
  · exact startHead_pwr.1

theorem dropWaits_of_no_waits {d : Nat} (h : s.pwr.waits = []) : (dropWaits d s).pwr.waits = [] := by
  unfold dropWaits
  rw [h]
  show s.pwr.waits.filter _ = []
  rw [h]
  rfl

/-- The end of a restart that came too late drops accesses and lets none wait anew (R406). -/
theorem restartLate_waits (h : s.pwr.waits = []) : (restartLate s).pwr.waits = [] := by
  unfold restartLate
  split
  · exact h
  next d _ _ =>
    have hpass : (passDelay 4 d s).pwr = s.pwr := (foot_passDelay (Foot.refl _ s) (Nat.or_self _)).parts .pwr (by decide)
    have hnone : (passDelay 4 d s).pwr.waits = [] := by rw [hpass, h]
    dsimp only
    split
    · rw [nextRestart_waits, raise_pwr]
      exact dropWaits_of_no_waits hnone
    · exact hnone

/-- With no access waiting and no stage applied, the command is the end of the restart that came too late (R406). -/
theorem exec_domainReadyTimeout_of_no_waits (hwaits : s.pwr.waits = []) (hstages : ∀ x ∈ s.cmd.stages, x.applying = false) :
    exec .domainReadyTimeout s = .next (restartLate s) := by
  have hcmd : (restartLate s).cmd = s.cmd := (foot_restartLate (Foot.refl _ s) (Nat.or_self _)).parts .cmd (by decide)
  exact congrArg Host.Outcome.next (completeWaits_of_no_waits (restartLate_waits hwaits) (by rw [hcmd]; exact hstages))

/-! ### A sampling of the straps -/

theorem Changes.setBoard {x : Board} (h : Changes ps rs s t) (hp : Part.board ∈ ps) : Changes ps rs s { t with board := x } := by
  obtain ⟨pending, parts, regs⟩ := h
  refine ⟨pending, fun p hn => ?_, regs⟩
  cases p with
  | board => exact absurd hp hn
  | _ => exact parts _ hn

/-- Time passes, and the board takes the role and the boot selection (R13, R418). -/
theorem strapSample_frame {roleSel : Bool} {bootSel : Nat} :
    Runs (.strapSample roleSel bootSel) s (Changes [.board, .time] [F.TIME_STAT_locked, F.TIME_ADJ_CNT_go] s) := by
  obtain ⟨t, h⟩ := exec_completes (.strapSample roleSel bootSel) s
  refine ⟨t, h, ?_⟩
  obtain rfl | ⟨n, x, rfl⟩ := strapSample_canonical h
  · exact (Foot.refl 0 t).changes (by decide)
  · exact ((foot_elapse (Foot.refl _ s) (Nat.or_self _)).changes (by decide)).setBoard (by decide)

/-! ### The frames -/

/-- Settles O26: each footprint (R26 to R31) lies in its clause. -/
theorem enumerationFrame : Obligations.EnumerationFrame := by
  intro s
  exact ⟨runs_of_foot foot_execEnumTieReceive,
    runs_of_foot foot_execEnumCwTile,
    runs_of_foot foot_execEnumCcwTile,
    runs_of_foot foot_execEnumLenTile,
    runs_of_foot foot_execEnumCountSender,
    runs_of_foot foot_execEnumLenSender,
    fun _ => runs_of_foot foot_execEnumCountTimeout,
    fun _ => runs_of_foot foot_execEnumDoneTimeout⟩

/-- Settles O27: each footprint (R45 to R49) lies in its clause. -/
theorem laneTrainingFrame : Obligations.LaneTrainingFrame := by
  intro s
  exact ⟨fun _ => runs_of_foot foot_execSignalDetect,
    fun _ => runs_of_foot foot_execCdrLock,
    fun _ _ => runs_of_foot foot_execTrainingFrameReceive,
    fun _ => runs_of_foot foot_execEqualiseReady,
    fun _ => runs_of_foot foot_execTrainingTimeout,
    fun _ => runs_of_foot foot_execTrainingRetry,
    fun _ _ => runs_of_foot foot_execMarkerBlockReceive,
    fun _ _ => runs_of_foot foot_execDeskewComplete,
    fun _ => runs_of_foot foot_execDeskewDriftFail,
    fun _ => runs_of_foot foot_execNegotiateComplete,
    runs_of_foot foot_execWidthRecheck,
    fun _ => runs_of_foot foot_execNegotiateMarkerTimeout,
    fun _ => runs_of_foot foot_execLaneSignalLoss⟩

/-- Settles O28: each footprint (R50 to R58) lies in its clause. -/
theorem laneServiceFrame : Obligations.LaneServiceFrame := by
  intro s
  exact ⟨fun _ => runs_of_foot foot_execResyncStart,
    fun _ => runs_of_foot foot_execEgressPhaseMove,
    fun _ => runs_of_foot foot_execResyncTimeout,
    fun _ => runs_of_foot foot_execEidleTimeout,
    fun _ => runs_of_foot foot_execWakeBurstDetect,
    fun _ => runs_of_foot foot_execWakeBurstEnd,
    fun _ => runs_of_foot foot_execWakeComplete,
    fun _ => runs_of_foot foot_execWakeTimeout,
    fun _ _ => runs_of_foot foot_execDataBlockDecode,
    runs_of_foot foot_execCorrIntervalEnd⟩

/-- Settles O29: each footprint (R60 to R87, R389) lies in its clause. -/
theorem packetFrame : Obligations.PacketFrame := by
  intro s
  exact ⟨fun _ => runs_of_foot foot_execSenderSlotFill,
    fun _ _ => runs_of_foot foot_execTileSlotInsert,
    fun _ => runs_of_foot foot_execVoidFlitReceive,
    fun _ => runs_of_foot foot_execPacketEnd,
    fun _ => runs_of_foot foot_execLineDeadline,
    fun _ => runs_of_foot foot_execHeartPacketDue,
    runs_of_foot foot_execCalSliceTimer,
    fun _ => runs_of_foot foot_execCalSliceEnd⟩

/-- Settles O30: each footprint (R111 to R127) lies in its clause; only a frame received and a frame closed reach a memory. -/
theorem ingestFrame : Obligations.IngestFrame := by
  intro s
  exact ⟨fun _ => runs_of_foot foot_execEthLinkUp,
    fun _ => runs_of_foot foot_execEthLinkDown,
    fun _ _ => runs_of_foot foot_execEthFrameReceive,
    fun _ => runs_of_foot foot_execReassemblyTimeout,
    runs_of_foot foot_execIgmpReportTimer,
    fun _ _ => runs_of_foot foot_execFlowPathTimeout,
    fun _ => runs_of_foot foot_execFlowFrameClose,
    fun _ => runs_of_foot foot_execFlowFrameStart,
    runs_of_foot foot_execIngestShedTick,
    runs_of_foot foot_execIngestRestoreTick⟩

/-- Settles O31: each footprint (R149 to R173) lies in its clause; with no access waiting a command slot has that of the controller
alone. -/
theorem dramFrame : Obligations.DramFrame := by
  intro s
  exact ⟨fun _ => runs_of_foot foot_execDramTrainDone,
    fun _ => runs_of_foot foot_execDramMr4Poll,
    runs_of_foot foot_execDramZqCal,
    fun _ => runs_of_foot foot_execDramOscTrack,
    fun _ _ _ _ => runs_of_foot foot_execDramRequest,
    fun _ h => (foot_commandSlot (Foot.refl _ s) (Nat.or_self _)).runs (exec_dramCommandSlot_of_no_waits h) (by decide),
    fun _ => runs_of_foot foot_execDramUnderrun,
    fun _ _ => runs_of_foot foot_execDramRatSweepEnd,
    runs_of_foot foot_execDramRatWindow,
    runs_of_foot foot_execDramSrEntry,
    runs_of_foot foot_execDramSrExit⟩

/-- Settles O32: each footprint (R204 to R272) lies in its clause; only the end of a fault sweep reaches a memory. -/
theorem lampFrame : Obligations.LampFrame := by
  intro s
  exact ⟨runs_of_foot foot_execTfRefillDone,
    runs_of_foot foot_execTcompStale,
    runs_of_foot foot_execLlBringupStep,
    fun _ => runs_of_foot foot_execDiagSend,
    fun _ _ => runs_of_foot foot_execLlRetReply,
    fun _ => runs_of_foot foot_execLlRetTimeout,
    runs_of_foot foot_execLlStatusPoll,
    runs_of_foot foot_execRowAdvAction,
    fun _ _ => runs_of_foot foot_execGrayEmit,
    runs_of_foot foot_execGainEmit,
    fun _ => runs_of_foot foot_execBlotterAction,
    runs_of_foot foot_execHeadroomCycleEnd,
    runs_of_foot foot_execFaultSweepStart,
    runs_of_foot foot_execFaultSweepEnd⟩

/-- Settles O33: each footprint (R278 to R289) lies in its clause. -/
theorem loopFrame : Obligations.LoopFrame := by
  intro s
  exact ⟨fun _ => runs_of_foot foot_execCePeriodicTrigger,
    fun _ => runs_of_foot foot_execPwmPeriodStart,
    runs_of_foot foot_execPwmStaleTimeout,
    fun _ _ _ => runs_of_foot foot_execAdcConversion⟩

/-- Settles O34: each footprint (R298 to R314) lies in its clause. -/
theorem timeFrame : Obligations.TimeFrame := by
  intro s
  exact ⟨runs_of_foot foot_execTimeAdjustEnd,
    runs_of_foot foot_execTimeSampleTimeout,
    runs_of_foot foot_execTimeSyncSend,
    runs_of_foot foot_execTimeSyncForward,
    runs_of_foot foot_execTimeSyncReceive,
    runs_of_foot foot_execTimeSyncFarEnd,
    fun _ => runs_of_foot foot_execDelayReqSend,
    runs_of_foot foot_execDelayReqReceive,
    runs_of_foot foot_execDelayRespReceive,
    fun _ => runs_of_foot foot_execEvtOutPulse,
    fun _ => runs_of_foot foot_execEvtOutPulseEnd,
    fun _ _ => runs_of_foot foot_execEvtInEdge,
    runs_of_foot foot_execAonSleepCapture,
    fun _ _ => runs_of_foot foot_execAonSourceSwitch,
    fun _ => runs_of_foot foot_execTimeWakeRestore⟩

/-- Settles O35: each footprint (R320 to R337) lies in its clause. -/
theorem wallTimingFrame : Obligations.WallTimingFrame := by
  intro s
  exact ⟨runs_of_foot foot_execEpochAnnounceSend,
    runs_of_foot foot_execEpochAnnounceReceive,
    runs_of_foot foot_execWtPendBroadcast,
    runs_of_foot foot_execNoMasterTimeout,
    fun _ _ => runs_of_foot foot_execWtmOffsetPoll,
    runs_of_foot foot_execHoldoverExpire⟩

/-- Settles O36: each footprint (R341 to R363) lies in its clause. -/
theorem redundancyFrame : Obligations.RedundancyFrame := by
  intro s
  exact ⟨runs_of_foot foot_execRedListenEnd,
    runs_of_foot foot_execHeartbeatSend,
    runs_of_foot foot_execHeartbeatReceive,
    runs_of_foot foot_execClaimResend,
    runs_of_foot foot_execClaimReceive,
    runs_of_foot foot_execTileRedundancyRecord,
    fun _ => runs_of_foot foot_execTileRecordExpire,
    fun _ => runs_of_foot foot_execPathSilent,
    runs_of_foot foot_execLatchEntryTimeout,
    runs_of_foot foot_execRelayEntryEmit,
    runs_of_foot foot_execSnapshotCapture,
    runs_of_foot foot_execSnapshotPeriod,
    runs_of_foot foot_execSnapshotSend,
    runs_of_foot foot_execSwapTimer,
    runs_of_foot foot_execSwapArmRetry⟩

/-- Settles O37: each footprint (R393 to R412) lies in its clause; a quiesced attempt and a late restart have the smaller one of their
premises. -/
theorem powerFrame : Obligations.PowerFrame := by
  intro s
  exact ⟨runs_of_foot foot_execResetNRise,
    fun _ _ => strapSample_frame,
    fun _ => runs_of_foot foot_execSourceRaise,
    runs_of_foot foot_execReactionAutoEnd,
    runs_of_foot foot_execReactionRestart,
    fun hwaits hstages => (foot_restartLate (Foot.refl _ s) (Nat.or_self _)).runs
      (exec_domainReadyTimeout_of_no_waits hwaits hstages) (by decide),
    fun m _ => runs_of_foot (foot_execDomainDemand (a1 := m)),
    runs_of_foot foot_execAutoStateIdle,
    runs_of_foot foot_execEntryTimerExpire,
    runs_of_foot foot_execSleepAttempt,
    fun h => (foot_quiesceDone (Foot.refl _ s) (Nat.or_self _)).runs (exec_quiesceDone_of_attempt h) (by decide),
    runs_of_foot foot_execQuiesceTimeout,
    runs_of_foot foot_execWakeNAssert,
    runs_of_foot foot_execAonAlarmExpire,
    runs_of_foot foot_execHspiCsWake⟩

/-- Settles O38: each footprint (R413 to R434) lies in its clause. -/
theorem updateFrame : Obligations.UpdateFrame := by
  intro s
  exact ⟨runs_of_foot foot_execSettingsRetry,
    runs_of_foot foot_execRecordRewrite,
    fun _ => runs_of_foot foot_execUpdBegin,
    runs_of_foot foot_execUpdEraseDone,
    fun _ => runs_of_foot foot_execUpdBlock,
    runs_of_foot foot_execFirmwareDataEmit,
    runs_of_foot foot_execFirmwareDataReceive,
    runs_of_foot foot_execFlashProgramDone,
    runs_of_foot foot_execHoldupWaitEnd,
    fun _ => runs_of_foot foot_execUpdSeal,
    fun _ => runs_of_foot foot_execUpdSchedule,
    fun _ => runs_of_foot foot_execUpdConfirm,
    runs_of_foot foot_execSvnRaise,
    runs_of_foot foot_execConfirmDeadline,
    fun _ => runs_of_foot foot_execUpdAbort,
    fun _ => runs_of_foot foot_execUpdRecover,
    runs_of_foot foot_execOtpLockDone⟩

/-- Settles O39: each footprint (R88 to R110) lies in its clause; an unknown instruction has none. -/
theorem portCommandFrame : Obligations.PortCommandFrame := by
  intro s
  exact ⟨fun _ => runs_of_foot foot_execHspiCmdWrite,
    fun _ => runs_of_foot foot_execRplRead,
    runs_of_foot foot_execHspiStatus,
    fun _ => (Foot.refl 0 s).runs rfl (by decide),
    runs_of_foot foot_execRingCommand,
    runs_of_foot foot_execReplyReceive,
    fun _ => runs_of_foot foot_execFanoutTimeout,
    runs_of_foot foot_execTableDataEmit,
    fun _ => runs_of_foot foot_execFenceClear,
    runs_of_foot foot_execReserveBroadcast⟩

/-- Settles O40: each footprint (R96 to R110) lies in its clause. -/
theorem opcodeFrame : Obligations.OpcodeFrame := by
  intro s
  exact ⟨fun _ => runs_of_foot foot_execNop,
    fun _ => runs_of_foot foot_execIdent,
    fun _ => runs_of_foot foot_execReset,
    fun _ => runs_of_foot foot_execPing,
    fun _ => runs_of_foot foot_execStage,
    fun _ => runs_of_foot foot_execCommitAt,
    fun _ => runs_of_foot foot_execDiscard,
    fun _ => runs_of_foot foot_execStageQuery,
    fun _ => runs_of_foot foot_execFlaconBind,
    fun _ => runs_of_foot foot_execFlaconRelease,
    fun _ => runs_of_foot foot_execFenceQuery,
    fun _ => runs_of_foot foot_execTableQuery,
    fun _ => runs_of_foot foot_execEpochReserve,
    fun _ => runs_of_foot foot_execTimeQuery,
    fun _ => runs_of_foot foot_execDiagRead,
    fun _ => runs_of_foot foot_execDiagClear,
    fun _ => runs_of_foot foot_execRedStatus,
    fun _ => runs_of_foot foot_execRedSwap,
    fun _ => runs_of_foot foot_execRedSnapshot,
    fun _ => runs_of_foot foot_execEvtClear⟩

end Sys2Proof.Machine
end
